-- ==== Sys2Proof/Word.lean ====
section
/-! DEFINITION. Word.lean: the word types of the module and their plainest arithmetic (00 R12, R50, R99). -/

namespace Sys2Proof

/-- One byte; multi-byte values are little-endian (R12). -/
abbrev Byte := BitVec 8

/-- A 64-bit word: a register of BAR0, a scalar register, a header word. -/
abbrev W64 := BitVec 64

/-- A vector register or tile row, 1,024 bits in either residue mode (R49). -/
abbrev VReg := BitVec 1024

/-- A braid number, 0-63 (R22). -/
abbrev Bid := BitVec 6

/-- A control-port function: 0 the PF, 1-31 the VFs (R352). -/
abbrev Fn := BitVec 5

/-- A tenancy identifier (R330). -/
abbrev Tid := BitVec 8

/-- A stream ring of a braid, 0-31 (R199). -/
abbrev Rid := BitVec 5

/-- A sparse table: keys strictly rising, no entry equal to what an unlisted key reads as (Machine/Bits.lean). -/
abbrev Sparse (α : Type) := List (Nat × α)

/-- A set of numbers, strictly rising. -/
abbrev NatSet := List Nat

/-- A buffer read from host memory; `none` when the read completed with an error (R370 detail 0x07). -/
abbrev HostBuf := Option (List Byte)

end Sys2Proof
end

