-- ==== Sys2Proof/Syntax.lean ====
section
/-! DEFINITION. Syntax.lean: the commands of the block, one constructor per row of spec/opcode_table.json, with the
operands an outside agent or an inside event brings. The clauses of a sentence carry no operand but the braid: their
fields are in the sentence store (R96, R111-R120). -/

namespace Sys2Proof

/-- A bulk port (R352). -/
inductive Port where
  | a | b
  deriving DecidableEq, Repr

/-- A PCIe port of the module (R352). -/
inductive PciePort where
  | control | bulkA | bulkB
  deriving DecidableEq, Repr

/-- A request the ports do not support (R353): the port, and an AtomicOp or an I/O request. -/
structure PcieFn where
  port   : PciePort
  atomic : Bool
  deriving DecidableEq, Repr

/-- A hawser, 0 or 1 (R4). -/
inductive Hawser where
  | h0 | h1
  deriving DecidableEq, Repr

/-- A memory tier (R246). -/
inductive Tier where
  | ring | bulk
  deriving DecidableEq, Repr

/-- A memory set: a tier, a hawser and a set number (R249). -/
structure SetId where
  tier   : Tier
  hawser : Hawser
  set    : BitVec 4
  deriving DecidableEq, Repr

/-- A function of a PCIe port (R352): one of the control port's, or a bulk port's only one. -/
inductive PortFn where
  | ctrl (f : Fn)
  | bulk (p : Port)
  deriving DecidableEq, Repr

/-- What link training gave (R352): the rate, 0 to 5 for 2.5, 5, 8, 16, 32 and 64 GT/s, the lanes, and flit mode. -/
structure PcieLink where
  rate  : BitVec 3
  lanes : BitVec 5
  flit  : Bool
  deriving DecidableEq, Repr

/-- What a port's link comes up with (R352, R357): its port and link, and, of the control port, what the host that enumerates it sets:
NumVFs, VFs 1 to `vfs`, and ARI Capable Hierarchy (log 36). -/
structure PcieUp where
  port : PciePort
  link : PcieLink
  vfs  : Fn
  ari  : Bool
  deriving DecidableEq, Repr

/-- What Lane Margining at Receiver reports of itself (R355). -/
inductive MarginReport where
  | capabilities
  | timingSteps
  | timingRange
  | voltageSteps
  | voltageRange
  deriving DecidableEq, Repr

/-- A request of Lane Margining at Receiver (R355): a report, or a point by its axis, direction and step from the trained point. -/
structure MarginPoint where
  port    : PciePort
  lane    : BitVec 4
  voltage : Bool
  upRight : Bool
  step    : BitVec 7
  report  : Option MarginReport
  deriving DecidableEq, Repr

/-- Which recipients confirmed their image on the second attempt at the latest (R397). -/
structure BootConfirm where
  powerOk   : Bool
  schedOk   : Bool
  braidHeld : W64
  deriving DecidableEq, Repr

/-- New failing rows and columns that the first run of a test finds in a scratchpad bank of a core (R485). -/
structure BankFault where
  core : BitVec 6
  bank : BitVec 4
  rows : Byte
  cols : Byte
  deriving DecidableEq, Repr

/-- What the BIST of a braid found (R483-R486): the new failing rows and columns of its banks and rows of its sentence store, then, from the
last run of the test, the physical cores that pass, the rest of the braid, the signature; `confirms`: the control core, sent its image,
confirms it. -/
structure BraidResult where
  braid    : Bid
  banks    : List BankFault
  store    : Byte
  cores    : W64
  restOk   : Bool
  sig      : W64
  confirms : Bool
  deriving DecidableEq, Repr

/-- What the BIST of a hawser, cleat or record-die unit found (R483, R485): whether its spares suffice for what the first run finds, whether
they were needed, the spares in use, the signature of the last run; from a hawser's fabric, its strand links that spare lanes cannot repair
(R356). -/
structure UnitResult where
  spared   : Bool
  repaired : Bool
  rows     : Byte
  cols     : Byte
  sig      : W64
  links    : Byte
  deriving DecidableEq, Repr

/-- A braid whose PLL has lock again, and whether its control core, sent its kept image, confirms it (R397, R466). -/
structure Relock where
  braid    : Bid
  confirms : Bool
  deriving DecidableEq, Repr

/-- The algorithms an SPDM requester offers (R384), and the request's bytes. -/
structure SpdmOffer where
  rsaPss4096  : Bool
  sha512      : Bool
  measSha512  : Bool
  req         : List Byte
  deriving DecidableEq, Repr

/-- What the power core reads at the end of a window (R542, R543): the sensors of the 64 braid positions, the hottest other die sensor, the
averaged input values. -/
structure PowerWindow where
  temps  : Vector Byte 64
  other  : Byte
  mv     : BitVec 16
  ca     : BitVec 16
  meas   : BitVec 11
  deriving DecidableEq, Repr

/-- What the link's training gives and what the partner's security core sends (R518): its MOD_ID, certificate chain, life-cycle state,
operator-key digest, nonce and ephemeral P-384 key, and its signature over them. -/
structure PairOffer where
  trained    : Bool
  x16        : Bool
  modId      : BitVec 3
  chain      : List Byte
  lc         : Byte
  operator   : BitVec 512
  nonce      : BitVec 256
  keyX       : BitVec 384
  keyY       : BitVec 384
  sig        : List Byte
  deriving DecidableEq, Repr

/-- What the partner reports of its copy of a tenancy (R532, R533). -/
structure PeerTen where
  primary : Bool
  epoch   : BitVec 32
  deriving DecidableEq, Repr

/-- The changes of tables that a commit record may carry (R523). -/
inductive TableChange where
  | prime  (recs : List (List Byte))
  | chain  (rec : List Byte)
  | key    (keyset : BitVec 16) (purpose : BitVec 4) (rotation : BitVec 24) (tva : BitVec 48)
  | tenSet (prio : BitVec 3) (weight : Byte) (reveal : Bool) (braids : W64) (ringQ bulkQ : BitVec 24)
  | winKey (ref : BitVec 4) (key : BitVec 256)
  | migKey (ref : BitVec 2) (key : BitVec 256)
  | eraseKey (migration : Bool) (ref : BitVec 4)
  | pin    (digest : BitVec 512) (curve : BitVec 3)
  | channel (kc kd : BitVec 256)
  | noChannel
  | page   (page : BitVec 27) (mapped backed sealed pref home homeft pinned : Bool) (bulkTier : Bool)
  deriving DecidableEq, Repr

/-- What a command or token ends with, as its completion carries it: STATUS, DETAIL, POSITION and VALUE (R366). -/
structure Completion where
  status   : Byte
  detail   : Byte
  position : BitVec 32
  value    : W64
  deriving DecidableEq, Repr

/-- A commit record of a mirrored tenancy (R523, R524): its header and its body. `fn` is the owning function, `origin` the function whose ring
brought the command, the PF's for a command of the PF (log 113). -/
structure CommitRecord where
  mseq     : W64
  epoch    : BitVec 32
  tenancy  : Tid
  kind     : BitVec 4
  ring     : BitVec 2
  fn       : Fn
  origin   : Fn
  seq      : BitVec 32
  set      : BitVec 16
  last     : Bool
  seqgen   : Byte
  granules : List (BitVec 36 × List Byte)
  changes  : List TableChange
  comp     : Completion
  deriving DecidableEq, Repr

/-- What a primary sends a standby in a resync (R523, R532): its epoch, its mode, its owning function and where the numbering of its
four rings stands (ring, SEQ, SEQGEN), the digest of the resume credential, its tables, keys and pin, and its backed pages by
granule, as read during the copy; `mseq` is the MSEQ of the last record before the copy, `late` the records queued during it. -/
structure PeerCopy where
  epoch    : BitVec 32
  mseq     : W64
  sync     : Bool
  fn       : Fn
  rings    : List (BitVec 2 × BitVec 32 × Byte)
  cred     : BitVec 512
  changes  : List TableChange
  granules : List (BitVec 36 × List Byte)
  late     : List CommitRecord
  deriving DecidableEq, Repr

/-- The commands of the module: one constructor per row of spec/opcode_table.json (95), those with operands first: compiled code
admits operands only in the first 244 constructors of a type. -/
inductive Instr where
  /-- POWER_ON (R480): Application of the 54 V input brings the module up in order: PLLs lock, straps are sampled, the record die and management port
  start, and a cut-short life-cycle fuse word is completed. -/
  | powerOn (straps : BitVec 4)
  /-- PKG_RESET (R472): Writing RDY.CTL.PKG_RESET requests a package reset, which is taken only when every tenancy is FREE and is otherwise refused. -/
  | pkgReset (f : Fn)
  /-- SEC_RESET (R472): Writing RDY.CTL.SEC_RESET requests a security-domain reset, which is taken only when every tenancy is FREE. -/
  | secReset (f : Fn)
  /-- FUNCTION_LEVEL_RESET (R476): An FLR of a control-port function resets its HQ state, clears its SEQ, increments SEQGEN and loses the function. -/
  | functionLevelReset (f : Fn)
  /-- BULK_PORT_RESET (R354): A reset, link loss or FLR of a bulk port resets that port and closes every window open on it alone. -/
  | bulkPortReset (p : Port)
  /-- D3HOT_ENTRY (R353): A function entering D3hot stops fetching from its command rings and resets nothing else. -/
  | d3hotEntry (f : PortFn)
  /-- UNSUPPORTED_REQUEST (R353): An AtomicOp or I/O request to any BAR completes with Unsupported Request. -/
  | unsupportedRequest (p : PcieFn)
  /-- LANE_MARGINING (R355): A Lane Margining at Receiver request measures one margin point with an independent sampler while the link stays in L0. -/
  | laneMargining (m : MarginPoint)
  /-- BRAID_PLL_LOSS (R466): A braid PLL loses lock: the braid stops and is held in reset, its token fails with INTERNAL, and it is relocked and
  reinitialised. -/
  | braidPllLoss (b : Bid)
  /-- DEVICE_FATAL_CONDITION (R505): A device-fatal condition takes the module to the safe state: FAULT#, stop issue, drop bulk traffic, zero keys,
  log, notify the partner, then a package reset. -/
  | deviceFatalCondition (cause : BitVec 8) (unit : BitVec 16)
  /-- TENANCY_FATAL_ERROR (R502): An uncorrectable error in a tenancy's tables or key slot force-closes the tenancy with the error's status. -/
  | tenancyFatalError (n : Tid) (table : BitVec 8) (ecc : Bool)
  /-- STRAND_LINK_FAIL (R501): A strand link that still fails after recovery fails every running token of its four braids with LINK_FAIL and makes
  them absent. -/
  | strandLinkFail (st : BitVec 4)
  /-- FW_BEGIN (R385): The management controller starts delivery of an image set of the stated length. -/
  | fwBegin (len : BitVec 32)
  /-- FW_DATA (R385): A chunk of the image set is received at the next contiguous offset. -/
  | fwData (off : BitVec 32) (data : List Byte)
  /-- FW_VERIFY_DONE (R395): Verification of the image set ends: on success the SVN minimum is raised and images are distributed and confirmed,
  otherwise state 4 is reported with a failure code. -/
  | fwVerifyDone (r : BootConfirm)
  /-- BIST_WAVE_DONE (R484): A wave of up to eight braid self-tests ends; each braid passes, folds or is absent, is loaded and wiped, and the next
  wave is admitted against the cap. -/
  | bistWaveDone (rs : List BraidResult)
  /-- ENTDAA (R382): The management port takes a dynamic I3C address. -/
  | entdaa (addr : BitVec 7)
  /-- SET_ENDPOINT_ID (R383): MCTP control command that sets the endpoint ID and the target of management events. -/
  | setEndpointId (eid : BitVec 8) (sender : BitVec 8)
  /-- GET_MCTP_VERSION_SUPPORT (R383): MCTP control command that returns the supported MCTP versions. -/
  | getMctpVersionSupport (ty : BitVec 8)
  /-- GET_VENDOR_DEFINED_MESSAGE_SUPPORT (R383): MCTP control command that returns vendor-defined message support. -/
  | getVendorDefinedMessageSupport (sel : BitVec 8)
  /-- NEGOTIATE_ALGORITHMS (R384): SPDM request negotiating RSASSA-PSS 4096 and SHA-512. -/
  | negotiateAlgorithms (offer : SpdmOffer)
  /-- GET_CERTIFICATE (R384): SPDM request returning the device-identity certificate chain. -/
  | getCertificate (slot : BitVec 4) (off : BitVec 16) (len : BitVec 16)
  /-- CHALLENGE (R384): SPDM request answered with an identity-key signature, or with an error in SCRAPPED. -/
  | challenge (slot : BitVec 4) (nonce : BitVec 256)
  /-- GET_MEASUREMENTS (R399): SPDM request returning measurement indices 1-7, signed when asked. -/
  | getMeasurements (idx : BitVec 8) (signed : Bool) (nonce : BitVec 256)
  /-- RESPOND_IF_READY (R384): SPDM request retrieving a deferred response. -/
  | respondIfReady (token : BitVec 8)
  /-- SQ_TAIL_WRITE (R363): A doorbell write sets a command ring's TAIL, or sets ERR and stops the ring when out of range. -/
  | sqTailWrite (f : Fn) (q : BitVec 2) (v : W64)
  /-- SQ_CFG_WRITE (R368): Setting EN of a command ring from 0 to 1 sets HEAD and TAIL to 0 and clears ERR. -/
  | sqCfgWrite (f : Fn) (q : BitVec 2) (v : W64)
  /-- CQ_CFG_WRITE (R368): Setting EN of the completion ring enables writing of waiting completions. -/
  | cqCfgWrite (f : Fn) (v : W64)
  /-- CQ_HEAD_WRITE (R367): A write of the completion-ring head frees space so that waiting completions can be written. -/
  | cqHeadWrite (f : Fn) (v : W64)
  /-- COMMAND_FETCH (R363): The control port reads 1 to 16 commands from an enabled ring in round-robin order, skipping held functions. -/
  | commandFetch (f : Fn) (q : BitVec 2) (cmds : List (BitVec 512))
  /-- HEARTBEAT (R345): Any write to SCH.FN_HB restarts the function's heartbeat interval count. -/
  | heartbeat (f : Fn)
  /-- HEARTBEAT_EXPIRY (R346): The interval passes with no heartbeat: the function is lost, its tenancies are orphaned and completions are held. -/
  | heartbeatExpiry (f : Fn)
  /-- GRACE_EXPIRY (R349): A grace window ends without reattach: the tenancy is force-closed, its completions are discarded and TENANCY_WIPED is logged. -/
  | graceExpiry (n : Tid)
  /-- KERNEL (R322): A kernel command is checked and creates one token per operand set, sharing the command's dependencies. -/
  | kernel (e : Nat)
  /-- BARRIER (R365): A command that creates no token and completes when its dependencies are satisfied. -/
  | barrier (e : Nat)
  /-- TEN_CREATE (R331): The PF creates a tenancy with quotas, policy, XTS key, resume credential and context area. -/
  | tenCreate (e : Nat)
  /-- TEN_CLOSE (R335): A tenancy becomes CLOSING; its waiting tokens fail, running ones drain or are stopped, and its splices and windows close. -/
  | tenClose (e : Nat)
  /-- TENANCY_CLOSE_COMPLETE (R285): Once no token remains and every frame is scrubbed, the tenancy's tables are released, it becomes FREE and the
  close completes. -/
  | tenancyCloseComplete (n : Tid)
  /-- REATTACH (R347): A function presents the resume credential for an orphaned tenancy, takes ownership and receives held completions and a new credential. -/
  | reattach (e : Nat)
  /-- KEY_REGISTER (R333): Adds an entry mapping a key-set, purpose and rotation to a key header TVA in the tenancy's key table. -/
  | keyRegister (e : Nat)
  /-- TEN_SET (R371): The PF changes a tenancy's quotas, priority, weight, braid mask and REVEAL_OK. -/
  | tenSet (e : Nat)
  /-- PRIME_LOAD (R60): Loads prime records atomically after checking each in order. -/
  | primeLoad (e : Nat) (buf : HostBuf)
  /-- CHAIN_DEFINE (R62): Defines a prime chain after checking its descriptor. -/
  | chainDefine (e : Nat) (buf : HostBuf)
  /-- MAP (R254): Atomically makes a range of pages mapped with case, preference, home and pin. -/
  | map (e : Nat)
  /-- ALLOC (R372): Backs mapped pages in the named tier in TVA order, stopping at the first failure. -/
  | alloc (e : Nat)
  /-- FREE (R372): Returns every backed page of a range to the mapped state. -/
  | free (e : Nat)
  /-- UNMAP (R372): Atomically frees and unmaps a range of pages. -/
  | unmap (e : Nat)
  /-- PIN (R266): Sets or clears ring-tier pinning of pages in TVA order. -/
  | pin (e : Nat)
  /-- WIN_OPEN (R373): Opens a bulk window slot over a tenancy range, deriving K_w for a sealed window. -/
  | winOpen (e : Nat)
  /-- WIN_CLOSE (R376): Closes an open window on every named port and increments its generation. -/
  | winClose (e : Nat)
  /-- WIN_DRAIN (R378): Starts the drain of a closed window slot. -/
  | winDrain (e : Nat)
  /-- WIN_DRAIN_DONE (R378): Every write accepted before close has passed a fence; the slot becomes FREE and the drain completes. -/
  | winDrainDone (i : BitVec 10)
  /-- SPLICE_OPEN (R288): Creates a splice and draws its digest key. -/
  | spliceOpen (e : Nat)
  /-- SPLICE_CLOSE (R313): Fails every uncommitted rank, zeroes the digest key and frees the identifier. -/
  | spliceClose (e : Nat)
  /-- SPLICE_COMPARE (R308): Host software requests the digest comparison of an ended splice. -/
  | spliceCompare (e : Nat)
  /-- CTX_EXPORT (R344): Writes a saved token's image as authenticated records and removes the token with PREEMPTED. -/
  | ctxExport (e : Nat)
  /-- CTX_IMPORT (R344): Authenticates image records and creates a SAVED token in a free context slot. -/
  | ctxImport (e : Nat)
  /-- ATTEST (R402): SEC service returning a signed attestation report. -/
  | attest (e : Nat) (buf : HostBuf)
  /-- CHAIN_GET (R401): SEC service returning the DER certificate chain. -/
  | chainGet (e : Nat)
  /-- CHAN_OPEN (R407): Opens a tenancy channel by authenticated ECDH and sets or checks the client pin. -/
  | chanOpen (e : Nat) (buf : HostBuf)
  /-- CHAN_MSG (R409): Authenticates one client record on the channel and answers it with an ACK record. -/
  | chanMsg (e : Nat) (buf : HostBuf)
  /-- CHAN_CLOSE (R404): Closes the tenancy channel. -/
  | chanClose (e : Nat)
  /-- WINDOW_KEY (R410): Client record that installs window key KEYREF. -/
  | windowKey (e : Nat) (buf : HostBuf)
  /-- MIGRATION_KEY (R410): Client record that installs a migration key. -/
  | migrationKey (e : Nat) (buf : HostBuf)
  /-- ERASE (R410): Client record that zeroes a window or migration key. -/
  | erase (e : Nat) (buf : HostBuf)
  /-- LC_ADVANCE (R391): Checks a transition certificate, programs the target fuse word and raises a package reset. -/
  | lcAdvance (e : Nat) (buf : HostBuf)
  /-- BBX_CLEAR (R511): Empties the first-fault area under an operator signature and logs FFA_CLEARED. -/
  | bbxClear (e : Nat) (buf : HostBuf)
  /-- DEBUG_UNLOCK (R419): In RETURNED, opens debug features after wiping scratchpads, sentence stores and PKE memory. -/
  | debugUnlock (e : Nat) (buf : HostBuf)
  /-- BIST_REQ (R489): Starts in-field BIST of one idle braid, saving its between-token scratchpad. -/
  | bistReq (e : Nat)
  /-- INFIELD_BIST_DONE (R489): The in-field test ends; the braid is reinitialised, restored or discarded, reported, and the BIST_REQ completes. -/
  | infieldBistDone (r : BraidResult)
  /-- PKE_ALLOC (R425): Allocates a PKE slot of the given width to the tenancy. -/
  | pkeAlloc (e : Nat)
  /-- PKE_FREE (R426): Zeroes and releases a PKE slot, ending any binding. -/
  | pkeFree (e : Nat)
  /-- PKE_WRITE (R430): Writes a slot from the host buffer as open data. -/
  | pkeWrite (e : Nat) (buf : HostBuf)
  /-- PKE_READ (R428): Reads an open slot to the host buffer. -/
  | pkeRead (e : Nat)
  /-- PKE_IMPORT (R436): Loads a slot from device memory, or a key record into a bound pair. -/
  | pkeImport (e : Nat)
  /-- PKE_EXPORT (R428): Writes a slot to device memory, sealed slots only to sealed pages. -/
  | pkeExport (e : Nat)
  /-- RAND (R440): Draws a sealed value uniform in [1, M-1] from the DRBG. -/
  | rand (e : Nat)
  /-- MADD (R430): Modular addition. -/
  | madd (e : Nat)
  /-- MSUB (R430): Modular subtraction. -/
  | msub (e : Nat)
  /-- MMUL (R430): Modular multiplication by Montgomery's method. -/
  | mmul (e : Nat)
  /-- MINV (R432): Modular inversion, returning NO_INVERSE when none exists. -/
  | minv (e : Nat)
  /-- MEXP (R430): Modular exponentiation over the full exponent width. -/
  | mexp (e : Nat)
  /-- MSIGN (R438): RSA signature with a bound pair, released open only after verification. -/
  | msign (e : Nat)
  /-- PADD (R430): Elliptic-curve point addition. -/
  | padd (e : Nat)
  /-- PDBL (R430): Elliptic-curve point doubling. -/
  | pdbl (e : Nat)
  /-- PMUL (R430): Scalar multiplication of a point or G by a ladder. -/
  | pmul (e : Nat)
  /-- PCHECK (R433): Checks that a point lies on the curve. -/
  | pcheck (e : Nat)
  /-- ECSIGN (R439): ECDSA signature with a bound pair, released open only after verification. -/
  | ecsign (e : Nat)
  /-- CURVE_LOAD (R442): The PF loads a curve entry after checking its parameters. -/
  | curveLoad (e : Nat) (buf : HostBuf)
  /-- CURVE_FREE (R443): The PF releases an unused curve entry. -/
  | curveFree (e : Nat)
  /-- ENTROPY_SOURCE_FAIL (R415): Three consecutive failing health-test windows fail the source; the DRBG refuses unstarted requests and KIND 3 streams fail. -/
  | entropySourceFail (ws : List (BitVec 1024))
  /-- CONTEXT_SAVE_DONE (R337): The context image has been written; the token becomes SAVED and the requesting token is dispatched to the braid. -/
  | contextSaveDone (b : Bid)
  /-- SCRATCHPAD_WIPE_DONE (R176): The context-switch wipe of all banks ends and the incoming kernel may issue. -/
  | scratchpadWipeDone (b : Bid)
  /-- KERNEL_START (R104): The control core reads and checks the image, auxiliary area and stream table, loads limb and header registers, builds the
  present list and arms rings. -/
  | kernelStart (b : Bid)
  /-- TOKEN_TIMEOUT_EXPIRY (R328): A running token's timeout count expires and a stop notice is sent to its braid. -/
  | tokenTimeoutExpiry (e : Nat)
  /-- STOP_NOTICE_ARRIVAL (R328): A stop notice reaches the braid and stops the kernel, unless the commit point has been reached or issue has ended. -/
  | stopNoticeArrival (b : Bid)
  /-- TOKEN_RETIRE (R34): Issue has ended, results have landed and writes have passed the fence; the token commits and its outputs become visible. -/
  | tokenRetire (b : Bid)
  /-- TOKEN_FAIL (R504): A token failing after dispatch is aborted half-way: regions are poisoned, writes are fenced and destination headers are poisoned. -/
  | tokenFail (b : Bid)
  /-- COMPLETION_WRITE (R366): A completion is written to the function's ring once its token has committed, any mirror ack has arrived and there is room. -/
  | completionWrite (f : Fn)
  /-- COMPLETION_DELAY_EXPIRY (R367): DELAY elapses after the first uncounted completion and raises the completion-ring interrupt. -/
  | completionDelayExpiry (f : Fn)
  /-- RESULT_LANDING (R124): An issued operation's result lands in its register or becomes visible after its fixed latency, with collisions resolved
  by clause order. -/
  | resultLanding (b : Bid)
  /-- HITCH (R129): Marks a hitch point and holds issue until every result has landed, stores are visible and no WEAVE is in flight. -/
  | hitch (b : Bid)
  /-- HITCH_DRAIN_END (R129): The hitch-point drain ends; a pending preemption, context save or fold pass is taken, or issue continues. -/
  | hitchDrainEnd (b : Bid)
  /-- BANKMAP (R167): Sets the bank-ownership map from the next braid cycle. -/
  | bankmap (b : Bid)
  /-- SWAIT (R214): Waits for slots of a stream ring to be full, or free for a drain ring, with an optional timeout. -/
  | swait (b : Bid)
  /-- SWAIT_END (R214): The awaited slots become ready; the SWAIT sentence issues with the timeout flag clear. -/
  | swaitEnd (b : Bid) (waited : BitVec 32)
  /-- SWAIT_TIMEOUT (R214): TIMEOUT braid cycles pass without the condition; the sentence issues with the timeout flag set. -/
  | swaitTimeout (b : Bid)
  /-- SREL (R217): Releases the run of ready slots from HEAD and advances HEAD. -/
  | srel (b : Bid)
  /-- SPLICE (R114): Enables splice export, clearing T3 and giving it to the splice, or returns T3 to the program. -/
  | splice (b : Bid)
  /-- WEAVE (R177): Starts an exchange across the weave in the all-to-all, rotate or broadcast pattern. -/
  | weave (b : Bid)
  /-- WEAVE_LANDING (R177): A WEAVE's destination bytes are written on every core in its landing cycle. -/
  | weaveLanding (b : Bid)
  /-- SEAL (R174): Seals seal-map regions, or queues their clearing to open. -/
  | seal (b : Bid)
  /-- SEAL_CLEARING_DONE (R175): A region's 1,024-cycle clearing completes, its poison clears and it becomes open unless resealed. -/
  | sealClearingDone (b : Bid) (bank : BitVec 4)
  /-- IDLE (R111): Delays the next sentence by CYCLES braid cycles. -/
  | idle (b : Bid)
  /-- SCALAR_ADD (R115): Scalar add on every core. -/
  | scalarAdd (b : Bid)
  /-- SCALAR_SUB (R115): Scalar subtract. -/
  | scalarSub (b : Bid)
  /-- AND (R115): Scalar bitwise and. -/
  | scalarAnd (b : Bid)
  /-- OR (R115): Scalar bitwise or. -/
  | scalarOr (b : Bid)
  /-- XOR (R115): Scalar bitwise xor. -/
  | scalarXor (b : Bid)
  /-- SHL (R115): Scalar shift left. -/
  | scalarShl (b : Bid)
  /-- SHR (R115): Scalar logical shift right. -/
  | scalarShr (b : Bid)
  /-- SAR (R115): Scalar arithmetic shift right. -/
  | scalarSar (b : Bid)
  /-- SCALAR_MUL (R115): Scalar multiply, low 64 bits. -/
  | scalarMul (b : Bid)
  /-- SCALAR_MIN (R115): Scalar unsigned minimum. -/
  | scalarMin (b : Bid)
  /-- SCALAR_MAX (R115): Scalar unsigned maximum. -/
  | scalarMax (b : Bid)
  /-- MOVI (R115): Loads a sign-extended immediate. -/
  | movi (b : Bid)
  /-- ORSH (R115): Shifts left by 24 and ors in an immediate. -/
  | orsh (b : Bid)
  /-- SCALAR_CMP (R115): Compares scalars into a predicate register. -/
  | scalarCmp (b : Bid)
  /-- CID (R115): Reads the logical core ID. -/
  | cid (b : Bid)
  /-- HGET (R115): Reads a header register. -/
  | hget (b : Bid)
  /-- LGET (R115): Reads a loop iteration index. -/
  | lget (b : Bid)
  /-- SETA (R100): Sets an address register's BASE and clears OFFSET. -/
  | seta (b : Bid)
  /-- SETSTR (R100): Sets an address register's STRIDE. -/
  | setstr (b : Bid)
  /-- SETWRAP (R100): Sets an address register's WRAP. -/
  | setwrap (b : Bid)
  /-- ADDA (R100): Advances an address register. -/
  | adda (b : Bid)
  /-- GETA (R115): Reads an effective address. -/
  | geta (b : Bid)
  /-- LOOP (R121): Starts a hardware loop or skips its body when the count is zero. -/
  | loop (b : Bid)
  /-- SETLC (R116): Sets a loop count register from an immediate or a header field. -/
  | setlc (b : Bid)
  /-- JMP (R122): Unconditional branch that deactivates loops not containing the target. -/
  | jmp (b : Bid)
  /-- BR (R117): Conditional branch on a header field, predicate, loop index or timeout flag. -/
  | br (b : Bid)
  /-- END (R123): Ends issue of the kernel and settles its rings under R225. -/
  | endKernel (b : Bid)
  /-- VECTOR_ADD (R139): Lane-wise modular or ring add. -/
  | vectorAdd (b : Bid)
  /-- VECTOR_SUB (R139): Lane-wise modular or ring subtract. -/
  | vectorSub (b : Bid)
  /-- VECTOR_MUL (R139): Lane-wise multiply, single or dual form. -/
  | vectorMul (b : Bid)
  /-- FMA (R139): Lane-wise fused multiply-add, single or dual form. -/
  | fma (b : Bid)
  /-- VECTOR_CMP (R140): Lane-wise compare into a vector mask or a predicate. -/
  | vectorCmp (b : Bid)
  /-- SEL (R139): Lane-wise select on a nonzero mask. -/
  | sel (b : Bid)
  /-- VECTOR_MIN (R139): Lane-wise unsigned minimum. -/
  | vectorMin (b : Bid)
  /-- VECTOR_MAX (R139): Lane-wise unsigned maximum. -/
  | vectorMax (b : Bid)
  /-- BFCT (R144): Cooley-Tukey butterfly into a register pair. -/
  | bfct (b : Bid)
  /-- BFGS (R144): Gentleman-Sande butterfly into a register pair. -/
  | bfgs (b : Bid)
  /-- RED (R139): Barrett reduction of a double-width value. -/
  | red (b : Bid)
  /-- EPROG (R150): Runs an element program of lane-local steps. -/
  | eprog (b : Bid)
  /-- REVEAL (R88): Copies a register as open and increments the reveal counter. -/
  | reveal (b : Bid)
  /-- MOV (R145): Copies a register, or permutes lanes with optional negation. -/
  | mov (b : Bid)
  /-- SPLAT (R139): Broadcasts a scalar into every lane. -/
  | splat (b : Bid)
  /-- SGEN (R455): Generates open stochastic words, stochastic rounding or dropout masks. -/
  | sgen (b : Bid)
  /-- TMAC (R152): Accumulates an outer product into a tile block. -/
  | tmac (b : Bid)
  /-- TZERO (R153): Clears a tile. -/
  | tzero (b : Bid)
  /-- TRED (R153): Reduces a tile along an axis into a vector. -/
  | tred (b : Bid)
  /-- BCONV (R157): Base conversion checked against the check prime, poisoning the result on mismatch. -/
  | bconv (b : Bid)
  /-- LDV (R120): Loads a vector register from scratchpad. -/
  | ldv (b : Bid)
  /-- LDT (R120): Loads a tile row from scratchpad. -/
  | ldt (b : Bid)
  /-- LDS (R120): Loads a scalar register from scratchpad. -/
  | lds (b : Bid)
  /-- STV (R120): Stores a vector register to scratchpad. -/
  | stv (b : Bid)
  /-- STT (R120): Stores a tile row to scratchpad. -/
  | stt (b : Bid)
  /-- STS (R120): Stores a scalar register to scratchpad. -/
  | sts (b : Bid)
  /-- DEFERRED_DMA_ACCESS (R168): A DMA access deferred or held by bank ownership takes place once the bank is free to it. -/
  | deferredDmaAccess (b : Bid) (r : Rid)
  /-- SLOT_TRANSFER_START (R206): An engine takes the slot at TAIL and starts its transfer after the checks of R197. -/
  | slotTransferStart (b : Bid) (r : Rid)
  /-- SLOT_TRANSFER_DONE (R222): A slot's transfer completes on every target core and the slot changes state. -/
  | slotTransferDone (b : Bid) (r : Rid)
  /-- SLOT_CROSSING (R213): A slot's state change crosses into the braid domain and becomes visible to SWAIT and loads. -/
  | slotCrossing (b : Bid) (r : Rid)
  /-- DESCRIPTOR_BURST_FETCH (R212): The engine fetches the next burst of descriptors when 16 or fewer cached ones remain. -/
  | descriptorBurstFetch (b : Bid) (r : Rid)
  /-- STREAM_RESUME (R223): The page is reported resident and the control core re-arms the ring from the saved position. -/
  | streamResume (b : Bid) (r : Rid)
  /-- AFFINITY_HOLD_EXPIRY (R242): The affinity hold of a retired key ring ends and the ring is disarmed. -/
  | affinityHoldExpiry (b : Bid) (r : Rid)
  /-- MULTICAST_GROUP_START (R239): Every member has armed its key ring and the group starts its first page. -/
  | multicastGroupStart (g : Nat)
  /-- KEY_PAGE_READ_START (R240): Every active member has a free slot; the lanyard engine reads a key page once and checks its header. -/
  | keyPageReadStart (g : Nat)
  /-- KEY_PAGE_DONE (R234): A key page's read, expansion and checksum end; members' slots become full, or the stream fails for all. -/
  | keyPageDone (g : Nat)
  /-- PAGE_BACKING_DONE (R256): A first-touch backing completes; the page is backed from a scrubbed frame and held writers resume. -/
  | pageBackingDone (n : Tid) (page : BitVec 27)
  /-- FRAME_SCRUB_DONE (R260): A frame finishes scrubbing and joins its free list, releasing any backing that waited for it. -/
  | frameScrubDone (frame : Nat)
  /-- PROMOTION_START (R264): A bulk-tier page that reached PROMOTE or is pinned starts migration to the ring tier. -/
  | promotionStart (n : Tid) (page : BitVec 27)
  /-- DEMOTION_SWEEP (R265): Ring-tier FREE falls below LOW_WATER and the clock sweep demotes unreferenced pages. -/
  | demotionSweep (h : Hawser)
  /-- HOME_MIGRATION_START (R270): A page placed far from its home starts migration back to its home hawser. -/
  | homeMigrationStart (n : Tid) (page : BitVec 27)
  /-- MIGRATION_PASS_END (R267): A copy pass ends; dirty granules are copied again, writes are blocked after four passes, or the fence is issued. -/
  | migrationPassEnd (n : Tid) (page : BitVec 27)
  /-- MIGRATION_COMMIT (R269): The migration commits in one fabric cycle, or aborts when destination quota is gone. -/
  | migrationCommit (n : Tid) (page : BitVec 27)
  /-- PAGER_EPOCH_END (R263): A counting epoch ends and every promotion count is halved. -/
  | pagerEpochEnd (h : Hawser)
  /-- WC_AGE_FLUSH (R272): An entry's age reaches the limit and the entry is flushed. -/
  | wcAgeFlush (line : Nat)
  /-- WC_FENCE_DONE (R274): Every entry open at the fence's arrival has been written to the devices. -/
  | wcFenceDone (e : Nat)
  /-- MEM_TEMP_READ (R277): Every 2^20 controller cycles the controller reads device temperatures and sets the refresh rate. -/
  | memTempRead (m : SetId) (temp : BitVec 8)
  /-- TIER_OFFLINE_SET (R278): Writing OFFLINE as 1 takes the tier offline only when no page is backed in it. -/
  | tierOfflineSet (f : Fn) (t : Tier) (h : Hawser)
  /-- TIER_OFFLINE_CLEAR (R279): Clearing OFFLINE retrains margined sets and wipes the tier. -/
  | tierOfflineClear (f : Fn) (t : Tier) (h : Hawser)
  /-- TIER_WIPE_DONE (R284): A tier's wipe ends and it reports ready. -/
  | tierWipeDone (t : Tier) (h : Hawser)
  /-- MARGIN_GO (R279): Setting GO in MEM.MARGIN_CTL starts a margining measurement on one pin, or refuses it. -/
  | marginGo (f : Fn) (v : W64)
  /-- BAR2_WRITE (R375): A BAR2 write is decided at the window decoder; a completed sealed frame is verified and written or discarded. -/
  | bar2Write (p : Port) (off : BitVec 40) (rid : BitVec 16) (data : List Byte)
  /-- BAR2_READ (R375): A BAR2 read returns data, encrypting a sealed record on first read, or completes with Completer Abort. -/
  | bar2Read (p : Port) (off : BitVec 40) (rid : BitVec 16) (len : BitVec 13)
  /-- SEALED_FRAME_TIMEOUT (R380): An inbound frame with no write for 2^24 fabric cycles is discarded with RECORD_AUTH_FAIL. -/
  | sealedFrameTimeout (p : Port) (i : BitVec 10) (r : BitVec 12)
  /-- LATE_WRITE_LOG (R377): Once per 2^24 fabric cycles a slot's accumulated late writes are logged. -/
  | lateWriteLog (i : BitVec 10)
  /-- SPLICE_EXPORT_TAKE (R299): A router takes a rank's queued export when its tile index is within D + 4. -/
  | spliceExportTake (b : Bid)
  /-- SPLICE_TILE_REDUCE (R298): Routers add their contributions and pass the running and full sums around the ring for one tile index. -/
  | spliceTileReduce (i : BitVec 6)
  /-- SPLICE_TILE_DELIVERY (R302): Once every rank has a free receive slot, the full sum of a tile is delivered; the last tile ends the splice. -/
  | spliceTileDelivery (i : BitVec 6)
  /-- SPLICE_DIGEST_COMPARE_DONE (R309): The firmware digest comparison finishes; a mismatch fails the ranks or the compare command. -/
  | spliceDigestCompareDone (i : BitVec 6)
  /-- SPLICE_FAILURE_NOTICE (R311): A rank failure notice reaches the routers; they stop reducing, discard staged contributions and fail the other ranks. -/
  | spliceFailureNotice (i : BitVec 6)
  /-- SPLICE_PATH_FAIL (R312): A splice link or path still fails after retries; every rank it carries fails with LINK_FAIL and the path retrains. -/
  | splicePathFail (st : BitVec 4)
  /-- INTERRUPT_CLAIM (R496): A claim takes the highest-priority deliverable source and pushes it, or returns 0x7FF. -/
  | interruptClaim (t : BitVec 8)
  /-- END_OF_INTERRUPT (R497): An end-of-interrupt write pops the top of the stack when it names it. -/
  | endOfInterrupt (t : BitVec 8) (id : BitVec 11)
  /-- INTERRUPT_WITHDRAW (R498): Writing 1 to PENDING withdraws a source before it is claimed. -/
  | interruptWithdraw (src : BitVec 11)
  /-- MSIX_MESSAGE_SEND (R500): A deliverable host-vector target sends its MSI-X message, claiming first in automatic mode. -/
  | msixMessageSend (t : BitVec 6)
  /-- MSIX_TLP_ACK (R500): The link layer acknowledges an automatic-mode message's TLP and the controller ends the interrupt. -/
  | msixTlpAck (t : BitVec 6)
  /-- POWER_WINDOW_END (R541): At the end of each power window the power core forms its estimate, moves cap and thermal steps and orders braid switches. -/
  | powerWindowEnd (w : PowerWindow)
  /-- BELAY_PAIRING (R518): After training the modules exchange identities, authenticate, check state and operator, and derive link keys. -/
  | belayPairing (m : PairOffer)
  /-- COMMIT_RECORD_APPLY (R526): The standby applies an authenticated record in MSEQ order and acknowledges it after fencing. -/
  | commitRecordApply (r : CommitRecord) (others : W64)
  /-- COMMIT_RECORD_ACK (R527): An acknowledgement reaches the primary, releasing synchronous completions and advancing the watermark. -/
  | commitRecordAck (n : Tid)
  /-- TAKEOVER (R530): A PF write of BEL.TEN.TAKEOVER while the link is down makes the standby primary. -/
  | takeover (f : Fn) (n : Tid)
  /-- CLOSE_NOTICE (R522): A close notice from the partner force-closes the standby or unpairs the primary. -/
  | closeNotice (n : Tid)
  /-- RESYNC_START (R532): An unpaired primary and a standby with the link up begin resync, or the rule for divergence applies. -/
  | resyncStart (n : Tid) (peer : PeerTen)
  /-- RESYNC_DONE (R532): The copy and queued records are applied; the standby takes the epoch and the pair becomes paired. -/
  | resyncDone (n : Tid) (copy : PeerCopy)
  /-- READ_CLEAR (R16): A read of an RC register returns its value and clears it, keeping any same-cycle event. -/
  | readClear (f : PortFn) (off : BitVec 26)
  /-- REGISTER_WRITE (R14): A host write to a register without a row of its own acts by its access code. -/
  | registerWrite (f : Fn) (off : BitVec 26) (v : W64)
  /-- HAWSER_CLEAT_BIST_DONE (R483): The security core's BIST of a hawser or cleat unit ends; the unit is released and reports ready, is made
  unavailable, or leaves the module not serviceable. -/
  | hawserCleatBistDone (u : BitVec 7) (r : UnitResult)
  /-- MEMORY_TRAINING_DONE (R248): Training of a memory set ends; the set enters service or is held out and raises its interrupt source, and the tier
  wipe starts. -/
  | memoryTrainingDone (m : SetId) (ok : Bool)
  /-- STRAND_LINK_RECOVERY (R356): A strand link exhausts its flit retries and is recovered, which makes every splice on a participating strand suspect. -/
  | strandLinkRecovery (st : BitVec 4)
  /-- SPLICE_PATH_RETRAIN_DONE (R312): A failed splice ring link or path finishes retraining and returns to service. -/
  | splicePathRetrainDone (st : BitVec 4)
  /-- BRAID_PLL_RELOCK (R466): A braid's PLL relocks after loss of lock; the braid is reinitialised and sets its RDY.BRAIDS bit again. -/
  | braidPllRelock (r : Relock)
  /-- PERST_RELEASE (R481): CTRL_PERST#, BULKA_PERST# or BULKB_PERST# is deasserted and the port's PHY starts training. -/
  | perstRelease (p : PciePort)
  /-- PCIE_LINK_UP (R387): A PCIe port finishes link training and its link is up, as WIN.PORT.UP reports. -/
  | pcieLinkUp (l : PcieUp)
  /-- D3HOT_EXIT (R353): A function returns from D3hot to D0 and fetching from its command rings resumes. -/
  | d3hotExit (f : PortFn)
  /-- INPUT_LOSS (R536): The input stays below 47.0 V for 10 µs; every unit stops and only the record die continues on its hold-up storage. -/
  | inputLoss
  /-- CONFIG_SPACE_LOAD_DONE (R481): The control port's configuration space finishes loading from fuses; Request Retry Status ends and CTRL reports ready. -/
  | configSpaceLoadDone
  /-- PACKAGE_RESET (R471): The security core raises a reset that reaches every unit except the record die and management port, runs every wipe and
  reruns power-up steps 4-8 with the kept image set. -/
  | packageReset
  /-- CONTROL_PORT_RESET (R476): PERST#, hot reset or link loss of the control port resets its PCIe state, loses every function and flushes the cleat
  side of the crossing. -/
  | controlPortReset
  /-- VF_ENABLE_CLEAR (R354): Clearing VF Enable loses every VF. -/
  | vfEnableClear
  /-- SAFE_STATE_TIMEOUT (R505): Expiry of 2^24 security cycles in the safe state raises the package reset without waiting for the entry and acknowledgement. -/
  | safeStateTimeout
  /-- RECORD_WRITER_WATCHDOG (R478): With no writer progress for 2^20 record cycles, the writer finishes its entry, sends a reset notice and sources
  resend unacknowledged entries. -/
  | recordWriterWatchdog
  /-- BLACK_BOX_STORE (R510): The record writer accepts the next queued entry, assigns its SEQ and stores it, copying fatal entries to the first-fault area. -/
  | blackBoxStore
  /-- FW_END (R385): The end of delivery starts verification of the image set. -/
  | fwEnd
  /-- FW_STATUS (R385): Returns the delivery state, failure code and bytes received. -/
  | fwStatus
  /-- GET_RDY (R385): Returns the RDY summary word over the management port. -/
  | getRdy
  /-- GET_ENDPOINT_ID (R383): MCTP control command that returns the endpoint ID. -/
  | getEndpointId
  /-- GET_ENDPOINT_UUID (R383): MCTP control command that returns the endpoint UUID. -/
  | getEndpointUuid
  /-- GET_MESSAGE_TYPE_SUPPORT (R383): MCTP control command that returns the supported message types. -/
  | getMessageTypeSupport
  /-- GET_VERSION (R384): SPDM request returning the supported SPDM version. -/
  | getVersion
  /-- GET_CAPABILITIES (R384): SPDM request returning the responder capabilities. -/
  | getCapabilities
  /-- GET_DIGESTS (R384): SPDM request returning the digest of certificate slot 0. -/
  | getDigests
  /-- PKE_OPERATION_DONE (R444): A PKE operation finishes its fixed time, writes its result and completion, and the next queued request starts. -/
  | pkeOperationDone
  /-- DISPATCH_DECISION (R325): The hardware scheduler picks a READY token, checks it and places it, with its group or splice ranks, on a braid. -/
  | dispatchDecision
  /-- MARGIN_DONE (R279): The margining measurement ends and sets DONE and ERRORS. -/
  | marginDone
  /-- TARGET_LOCK (R493): Firmware sets IC.LOCK, locking every TARGET until the next scheduler reset. -/
  | targetLock
  /-- POWER_TRIP (R542): Measured input power above 1,100 W for 2^10 power cycles holds issue and lowers every cap step by 4. -/
  | powerTrip
  /-- POWER_TRIP_RELEASE (R542): Measured power below 1,000 W for 2^12 power cycles releases the hold. -/
  | powerTripRelease
  /-- BELAY_PAIRING_RETRY (R518): After a refusal, 2^24 fabric cycles pass and pairing restarts. -/
  | belayPairingRetry
  /-- BELAY_LINK_DOWN (R529): The link leaves the up state; primaries keep records, standbys freeze and source 0x343 is raised. -/
  | belayLinkDown
  /-- BELAY_DOWN_TIMEOUT (R529): DOWN_TIMEOUT expires; each primary becomes unpaired and writes its held completions. -/
  | belayDownTimeout
  /-- BELAY_LINK_RESET (R479): A belay-link reset retrains the link; hawsers keep unacknowledged items and resend them when it is up. -/
  | belayLinkReset
  /-- PARTNER_FATAL_NOTICE (R530): The partner's device-fatal notice makes the standby take over every tenancy whose primary is the partner. -/
  | partnerFatalNotice
  /-- FATAL_NOTICE_ACKNOWLEDGED (R505): The belay partner acknowledges the device-fatal notice, so the package reset can be raised once the entry is written. -/
  | fatalNoticeAcknowledged
  /-- MANAGEMENT_EVENT_READ (R386): The management controller reads a pending EVENT message, which delivers it and frees its place among the 64 held events. -/
  | managementEventRead
  /-- TRNG_STARTUP_TEST_DONE (R412): 1,024 consecutive TRNG samples pass the health tests; the DRBG is instantiated and DRBG reports ready. -/
  | trngStartupTestDone
  deriving DecidableEq, Repr

end Sys2Proof
end

