-- ==== Sys2Proof/Decode.lean ====
section
/-! DEFINITION. Decode.lean: the command a word spells. The table of commands gives no row any bits: a command of the block is an access,
an operation of a port or an event, and none is an encoded word (the clauses of a sentence are data of the sentence store, decoded
in Machine/Operands.lean). -/

namespace Sys2Proof

/-- No row of the table has bits, so no word spells a command. -/
def decodeTableWord (_nbits _w : Nat) : Option Instr := none

end Sys2Proof
end

