-- ==== Sys2Proof/Config.lean ====
section
/-! DEFINITION. Config.lean: what an implementation fixes and the free values. No constant here has a body, so nothing
can be proved of its value. Each free value is applied to the state's `draws` counter, which a step reads and advances
(DESIGN CHOICE, log 7), or to the operands it depends on. -/

namespace Sys2Proof.Config

/-- A fresh value wherever the spec fixes none and the machine goes on (log 7). -/
opaque free : Nat → W64

/-- Raw noise of the TRNG that has passed the health tests, 1,024 samples at a time, where no row brings it (R412, R413, log 100). -/
opaque noise : Nat → BitVec 1024

/-- The windows of noise sampled before the TRNG's start-up test passes, where they are known to this list (R412, log 100). -/
opaque startup : Nat → List (BitVec 1024)

/-- HK, the 256-bit key of the address hash, derived from the fused device secret (R508); the derivation is not stated. -/
opaque hk : BitVec 256 → BitVec 256

/-- The DER bytes of the device-identity chain, which binds the modulus of the identity key to the device serial number and CAP.IDENT
(R401); the encoding is the standard's and the fields Delastur fills are not stated. -/
opaque certChain : W64 → W64 → BitVec 4096 → List Byte

/-- The identity key, modulus and exponent, that a partner's certificate chain binds where it verifies under the root digest; none where it
does not (R401, R518). Path validation is the standard's. -/
opaque chainKey : BitVec 512 → List Byte → Option (BitVec 4096 × BitVec 32)

/-- The public key, modulus and exponent, that the module checks against a stored digest (R390): the spec gives only the digest. -/
opaque publicKey : BitVec 512 → BitVec 4096 × BitVec 32

/-- The two primes of an RSA-4096 key that a search over DRBG output finds (R400); the search is not stated. -/
opaque rsaPrimes : BitVec 512 → BitVec 2048 × BitVec 2048

/-- The key that wraps the identity key, derived from the fused device secret (R400); the derivation is not stated. -/
opaque wrapKey : BitVec 256 → BitVec 256

/-- Security cycles that a transfer of the public-key engine takes, by its length in bytes (R444); the spec states only that nothing else
matters. -/
opaque pkeTransfer : Nat → Nat

/-- The activity estimate in watts, from the fused weights, the step and the issued clauses by latency class of each braid, and the bytes each
hawser has moved (R540); the formula is not stated. -/
opaque estimate : List Nat → List (Nat × List Nat) → Nat × Nat → BitVec 11

/-- Delastur's PCI vendor ID (R383), which the spec does not give. -/
opaque vendorId : BitVec 16

/-- The identity key pair that a module fitted as PROVISIONED or later holds, by its serial number (R400). -/
opaque factoryKey : W64 → BitVec 4096 × BitVec 4096

end Sys2Proof.Config
end

