-- ==== Sys2Proof/Machine/Bits.lean ====
section
/-! DEFINITION. Bits.lean: bit fields, little-endian bytes (R12), sparse tables and CRC-32C. -/

namespace Sys2Proof

/-! ## Sparse tables -/

/-- What the table holds at key `k`; `d` is what an unlisted key reads as. -/
def Sparse.get {α : Type} (d : α) : Sparse α → Nat → α
  | [], _ => d
  | (j, v) :: m, k => if k = j then v else if k < j then d else Sparse.get d m k

/-- Put `v` at key `k`, keeping the keys strictly rising; writing the default removes the entry. -/
def Sparse.set {α : Type} [DecidableEq α] (d : α) : Sparse α → Nat → α → Sparse α
  | [], k, v => if v = d then [] else [(k, v)]
  | (j, u) :: m, k, v =>
    if k = j then (if v = d then m else (k, v) :: m)
    else if k < j then (if v = d then (j, u) :: m else (k, v) :: (j, u) :: m)
    else (j, u) :: Sparse.set d m k v

/-- The canonical form: keys strictly rising, no default listed. -/
def Sparse.wf {α : Type} [DecidableEq α] (d : α) (m : Sparse α) : Bool :=
  m.all (fun e => decide (e.2 ≠ d)) && decide ((m.map Prod.fst).Pairwise (· < ·))

/-- Drop every entry whose key satisfies `p`. -/
def Sparse.dropKeys {α : Type} (m : Sparse α) (p : Nat → Bool) : Sparse α := m.filter (fun e => !p e.1)

/-- The table with `f` of every listed value. -/
def Sparse.mapAll {α : Type} [DecidableEq α] (d : α) (m : Sparse α) (f : Nat → α → α) : Sparse α :=
  m.foldl (fun a e => Sparse.set d a e.1 (f e.1 e.2)) []

/-- Is the number in the set. -/
def NatSet.has (s : NatSet) (k : Nat) : Bool := s.contains k

/-- Add a number to the set. -/
def NatSet.add : NatSet → Nat → NatSet
  | [], k => [k]
  | j :: s, k => if k = j then j :: s else if k < j then k :: j :: s else j :: NatSet.add s k

/-- Take a number out of the set. -/
def NatSet.del (s : NatSet) (k : Nat) : NatSet := s.filter (fun j => j != k)

/-! ## Bit fields -/

/-- Bits [lo + n − 1 : lo] as a number. -/
def fld {w : Nat} (x : BitVec w) (lo n : Nat) : Nat := (x >>> lo).toNat % 2 ^ n

/-- Bit `i`. -/
def bit {w : Nat} (x : BitVec w) (i : Nat) : Bool := x.getLsbD i

/-- A value placed at bit `lo` of a 64-bit word, cut to `n` bits. -/
def put (lo n v : Nat) : W64 := BitVec.ofNat 64 ((v % 2 ^ n) * 2 ^ lo)

/-- One bit placed in a 64-bit word. -/
def putB (lo : Nat) (b : Bool) : W64 := if b then BitVec.ofNat 64 (2 ^ lo) else 0

/-- A signed reading of an `n`-bit field. -/
def sgn (n v : Nat) : Int := if v % 2 ^ n < 2 ^ (n - 1) then (v % 2 ^ n : Nat) else (v % 2 ^ n : Nat) - (2 ^ n : Nat)

/-- Population count of the low 64 bits. -/
def popcount (x : W64) : Nat := ((List.range 64).filter (fun i => bit x i)).length

/-- The bits set in a 64-bit mask, ascending. -/
def maskBits (x : W64) : List Nat := (List.range 64).filter (fun i => bit x i)

/-- A mask with one bit set. -/
def oneBit (i : Nat) : W64 := BitVec.ofNat 64 (2 ^ i)

/-- A counter that stops at its largest `n`-bit value. -/
def satAdd (n a b : Nat) : Nat := Nat.min (a + b) (2 ^ n - 1)

/-! ## Bytes -/

/-- `n` little-endian bytes of a number (R12). -/
def leBytes : Nat → Nat → List Byte
  | 0, _ => []
  | n + 1, v => BitVec.ofNat 8 v :: leBytes n (v / 256)

/-- The number little-endian bytes stand for (R12). -/
def leNat : List Byte → Nat
  | [] => 0
  | b :: bs => b.toNat + 256 * leNat bs

/-- `n` big-endian bytes of a number, for the fields of published standards (R12). -/
def beBytes (n v : Nat) : List Byte := (leBytes n v).reverse

/-- The number big-endian bytes stand for. -/
def beNat (bs : List Byte) : Nat := leNat bs.reverse

/-- Bytes `off` to `off + n − 1` of a list, zero beyond its end. -/
def slice (bs : List Byte) (off n : Nat) : List Byte := (bs.drop off ++ List.replicate n 0).take n

/-- A little-endian number of `n` bytes at byte `off`. -/
def leAt (bs : List Byte) (off n : Nat) : Nat := leNat ((bs.drop off).take n)

/-- The 64-bit word `i` of a 512-bit record. -/
def word512 (x : BitVec 512) (i : Nat) : W64 := BitVec.ofNat 64 (fld x (64 * i) 64)

/-- Cut a list into runs of `n`, with fuel. -/
def chunks {α : Type} (n : Nat) : Nat → List α → List (List α)
  | 0, _ => []
  | _, [] => []
  | f + 1, l => l.take n :: chunks n f (l.drop n)

/-! ## CRC-32C (Castagnoli), as R67, R102, R147, R202 and R229 use it -/

/-- One bit step of the reflected CRC-32C. -/
def crcStep (c : BitVec 32) : BitVec 32 :=
  if c.getLsbD 0 then (c >>> 1) ^^^ 0x82F63B78#32 else c >>> 1

/-- One byte. -/
def crcByte (c : BitVec 32) (b : Byte) : BitVec 32 :=
  crcStep (crcStep (crcStep (crcStep (crcStep (crcStep (crcStep (crcStep (c ^^^ b.setWidth 32))))))))

/-- CRC-32C of a byte list. -/
def crc32c (bs : List Byte) : BitVec 32 := ~~~(bs.foldl crcByte 0xFFFFFFFF#32)

end Sys2Proof
end

