-- ==== Sys2Proof/Machine/Arith.lean ====
section
/-! DEFINITION. Arith.lean: residue arithmetic (R49–R57, R139–R146, R150–R155), the prime checks (R60) and the stochastic
generator (R450–R455). Lanes are numbers below 2^w. -/

namespace Sys2Proof.Arith

/-! ## Lanes (R49) -/

/-- Lane width in bits; `m32` is the kernel's MODE. -/
def laneW (m32 : Bool) : Nat := if m32 then 32 else 64

/-- Lanes per vector register. -/
def laneN (m32 : Bool) : Nat := if m32 then 32 else 16

/-- Lane `i` of a register. -/
def lane (m32 : Bool) (v : VReg) (i : Nat) : Nat := fld v (laneW m32 * i) (laneW m32)

/-- The lanes of a register, ascending. -/
def lanes (m32 : Bool) (v : VReg) : List Nat := (List.range (laneN m32)).map (lane m32 v)

/-- Number of lanes given, little end first. -/
def packLanes (w : Nat) : List Nat → Nat
  | [] => 0
  | x :: xs => x % 2 ^ w + 2 ^ w * packLanes w xs

/-- A register from its lanes. -/
def ofLanes (m32 : Bool) (xs : List Nat) : VReg := BitVec.ofNat 1024 (packLanes (laneW m32) xs)

/-! ## Barrett reduction (R53, R54) -/

/-- k, the bit length of q (R53). -/
def bitlen (q : Nat) : Nat := if q = 0 then 0 else Nat.log2 q + 1

/-- μ = ⌊2^(2k) / q⌋ (R53). -/
def mu (q : Nat) : Nat := 2 ^ (2 * bitlen q) / q

/-- The reduction of R53, step by step, of the low 2k bits of x (R55, R57). -/
def barrett (q x0 : Nat) : Nat :=
  let k := bitlen q
  let x := x0 % 2 ^ (2 * k)
  let t := x / 2 ^ (k - 1)
  let qhat := (t * mu q) / 2 ^ (k + 1)
  let r := x - qhat * q
  let r := if q ≤ r then r - q else r
  if q ≤ r then r - q else r

/-- LOG2Q: 256·log₂ q to the nearest integer, ties up (R59): the largest n with 2^(2n − 1) ≤ q^512. -/
def log2q (q : Nat) : Nat := (Nat.log2 (q ^ 512) + 1) / 2

/-! ## Lane operations in modular form, `some q`, and ring form, `none` (R51, R55, R56, R139) -/

/-- Add (R56). -/
def addL (w : Nat) (q : Option Nat) (a b : Nat) : Nat :=
  match q with
  | none => (a + b) % 2 ^ w
  | some q => (if q ≤ a + b then a + b - q else a + b) % 2 ^ w

/-- Subtract (R56): s = a − b + q, less q when s ≥ q, modulo 2^w. -/
def subL (w : Nat) (q : Option Nat) (a b : Nat) : Nat :=
  match q with
  | none => (a + 2 ^ w - b) % 2 ^ w
  | some q =>
    let s : Int := (a : Int) - (b : Int) + (q : Int)
    ((if (q : Int) ≤ s then s - (q : Int) else s) % (2 ^ w : Int)).toNat

/-- Multiply (R55). -/
def mulL (w : Nat) (q : Option Nat) (a b : Nat) : Nat :=
  match q with
  | none => (a * b) % 2 ^ w
  | some q => barrett q (a * b)

/-- Fused multiply-add (R55). -/
def fmaL (w : Nat) (q : Option Nat) (a b c : Nat) : Nat :=
  match q with
  | none => (a * b + c) % 2 ^ w
  | some q => barrett q (a * b + c)

/-- Reduce VA·2^w + VB (R57, R118). -/
def redL (w q a b : Nat) : Nat := barrett q (a * 2 ^ w + b)

/-- The condition codes of COND (R115), 6 and 7 being invalid; `q` gives centred order to LTS and GES (R140). -/
def condL (w : Nat) (q : Option Nat) (c a b : Nat) : Bool :=
  let sv : Nat → Int := fun x =>
    match q with
    | none => sgn w x
    | some q => if (q - 1) / 2 < x then (x : Int) - (q : Int) else (x : Int)
  match c with
  | 0 => a == b
  | 1 => a != b
  | 2 => decide (a < b)
  | 3 => decide (b ≤ a)
  | 4 => decide (sv a < sv b)
  | 5 => decide (sv b ≤ sv a)
  | _ => false

/-- All ones in a lane. -/
def ones (w : Nat) : Nat := 2 ^ w - 1

/-- Negation of a permuted lane (R145). -/
def negL (w : Nat) (q : Option Nat) (x : Nat) : Nat :=
  match q with
  | none => (2 ^ w - x) % 2 ^ w
  | some q => ((((q : Int) - (x : Int)) % (q : Int) + (q : Int)) % (q : Int)).toNat

/-- The accumulation of a landing into a tile row (R146, R152): the exact sum, narrowed by the modulus of the form. -/
def accL (w : Nat) (q : Option Nat) (old x : Nat) : Nat :=
  match q with
  | none => (old + x) % 2 ^ w
  | some q => barrett q (old + x)

/-! ## Exact modular arithmetic on numbers, for the control core, the security core and the PKE -/

/-- a^e mod m by repeated squaring over `n` bits of e, most significant first. -/
def powModAux (a m e : Nat) : Nat → Nat → Nat
  | 0, acc => acc
  | n + 1, acc =>
    let acc := acc * acc % m
    powModAux a m e n (if (e / 2 ^ n) % 2 = 1 then acc * a % m else acc)

/-- a^e mod m. -/
def powMod (a e m : Nat) : Nat := powModAux (a % m) m e (bitlen e) (1 % m)

/-- Extended Euclid with fuel: (g, x) with a·x ≡ g mod m. -/
def egcdAux : Nat → Int → Int → Int → Int → Int × Int
  | 0, r0, _, s0, _ => (r0, s0)
  | n + 1, r0, r1, s0, s1 =>
    if r1 = 0 then (r0, s0) else egcdAux n r1 (r0 - r0 / r1 * r1) s1 (s0 - r0 / r1 * s1)

/-- The inverse of a modulo m, when gcd(a, m) = 1. -/
def invMod (a m : Nat) : Option Nat :=
  let r := egcdAux (2 * bitlen m + 2 * bitlen a + 4) (a % m : Nat) (m : Nat) 1 0
  if r.1 = 1 then some ((r.2 % (m : Int) + (m : Int)) % (m : Int)).toNat
  else if m = 1 then some 0 else none

/-- The largest s with 2^s ∣ n, with fuel, and the odd part. -/
def twos : Nat → Nat → Nat × Nat
  | 0, n => (0, n)
  | f + 1, n => if n % 2 = 0 ∧ 0 < n then ((twos f (n / 2)).1 + 1, (twos f (n / 2)).2) else (0, n)

/-- Does squaring `x` at most `n` times meet q − 1. -/
def squareHits (q : Nat) : Nat → Nat → Bool
  | 0, _ => false
  | n + 1, x => if x = q - 1 then true else squareHits q n (x * x % q)

/-- Miller–Rabin to one base (R60 detail 0x04). -/
def mrBase (q a : Nat) : Bool :=
  if a % q = 0 then true
  else
    let sd := twos (bitlen q) (q - 1)
    let x := powMod a sd.2 q
    x == 1 || squareHits q sd.1 x

/-- Miller–Rabin to the twelve bases of R60. -/
def mrPrime (q : Nat) : Bool := [2, 3, 5, 7, 11, 13, 17, 19, 23, 29, 31, 37].all (mrBase q)

/-! ## The stochastic generator (R450–R455) -/

/-- Multiplier a. -/
def sgA : Nat := 0x9E6C63D0676A9A993F2B7D41C5E80A65
/-- Stream mixer g. -/
def sgG : Nat := 0xA4C293E51B7F6D0B
/-- Scrambler multiplier m. -/
def sgM : Nat := 0xC8E41D357B9A06F3

/-- The skip-ahead of R452 over the bits of e from bit `64 − n` up: (A, C, mj, dj). -/
def sgSkip (e : Nat) : Nat → Nat → Nat → Nat → Nat → Nat × Nat
  | 0, a, c, _, _ => (a, c)
  | n + 1, a, c, mj, dj =>
    let hit := (e / 2 ^ (64 - (n + 1))) % 2 = 1
    let a' := if hit then a * mj % 2 ^ 128 else a
    let c' := if hit then (c * mj + dj) % 2 ^ 128 else c
    sgSkip e n a' c' (mj * mj % 2 ^ 128) (dj * (mj + 1) % 2 ^ 128)

/-- out(k, s, e) (R450, R451, R452). -/
def sgOut (k s e : Nat) : Nat :=
  let c := (2 * ((s * sgG) % 2 ^ 64) + 1) % 2 ^ 128
  let x0 := (sgA * k + c) % 2 ^ 128
  let ac := sgSkip e 64 1 0 sgA c
  let x := (ac.1 * x0 + ac.2) % 2 ^ 128
  let h := x / 2 ^ 64
  let t := Nat.xor h (h / 2 ^ 29)
  let p := (t * sgM) % 2 ^ 64
  Nat.xor p (p / 2 ^ 32)

/-- One lane of SGEN (R455): FORM 0, 1 or 2. -/
def sgLane (m32 : Bool) (form k s e thr f v : Nat) : Nat :=
  let w := laneW m32
  let r := sgOut k s e
  match form with
  | 0 => if m32 then r / 2 ^ 32 else r
  | 1 =>
    let f := if f < 5 then 5 else if w - 1 < f then w - 1 else f
    ((v + (2 * (r / 2 ^ 60) + 1) * 2 ^ (f - 5)) % 2 ^ w) / 2 ^ f
  | _ => if thr ≤ r / 2 ^ 48 then ones w else 0

end Sys2Proof.Arith
end

