-- ==== Sys2Proof/Machine/Crypto.lean ====
section
/-! DEFINITION. Crypto.lean: the published functions the spec names: SHA-512 and HMAC and HKDF over it (FIPS 180-4, RFC 2104,
RFC 5869), SHAKE128 (FIPS 202), AES-256 (FIPS 197), GCM (SP 800-38D), XTS (IEEE 1619), CTR_DRBG
(SP 800-90A), RSASSA-PSS (PKCS #1 v2.2). Their bytes are in the standards' own order (R12). PRESUMED from those standards, log 17. -/

namespace Sys2Proof.Crypto

/-! ## SHA-512 -/

/-- The first `n` primes, by trial division with fuel. -/
def primesUpTo (n : Nat) : List Nat :=
  (List.range (n + 1)).filter (fun p => decide (2 ≤ p) && (List.range (Nat.sqrt p + 1)).all (fun d => decide (d < 2) || p % d != 0))

/-- Largest r with r^3 ≤ n, bit by bit from bit `b` down. -/
def cbrtBits (n : Nat) : Nat → Nat → Nat
  | 0, r => r
  | b + 1, r => let t := r + 2 ^ b; cbrtBits n b (if t * t * t ≤ n then t else r)

/-- Round constants: 64 fraction bits of the cube roots of the first 80 primes. -/
def shaK : List W64 := ((primesUpTo 409).take 80).map (fun p => BitVec.ofNat 64 (cbrtBits (p * 2 ^ 192) 70 0))

/-- Initial hash value: 64 fraction bits of the square roots of the first 8 primes. -/
def shaH0 : List W64 := ((primesUpTo 19).take 8).map (fun p => BitVec.ofNat 64 (Nat.sqrt (p * 2 ^ 128)))

def sS0 (x : W64) : W64 := x.rotateRight 1 ^^^ x.rotateRight 8 ^^^ (x >>> 7)
def sS1 (x : W64) : W64 := x.rotateRight 19 ^^^ x.rotateRight 61 ^^^ (x >>> 6)
def sB0 (x : W64) : W64 := x.rotateRight 28 ^^^ x.rotateRight 34 ^^^ x.rotateRight 39
def sB1 (x : W64) : W64 := x.rotateRight 14 ^^^ x.rotateRight 18 ^^^ x.rotateRight 41
def sCh (x y z : W64) : W64 := (x &&& y) ^^^ (~~~x &&& z)
def sMaj (x y z : W64) : W64 := (x &&& y) ^^^ (x &&& z) ^^^ (y &&& z)

/-- The message schedule: the sixteen words of a block, then `n` more, newest first. -/
def shaSched : Nat → List W64 → List W64
  | 0, ws => ws
  | n + 1, ws => shaSched n ((sS1 (ws.getD 1 0) + ws.getD 6 0 + sS0 (ws.getD 14 0) + ws.getD 15 0) :: ws)

/-- One round on the working variables a to h. -/
def shaRound (v : List W64) (kw : W64) : List W64 :=
  match v with
  | [a, b, c, d, e, f, g, h] =>
    let t1 := h + sB1 e + sCh e f g + kw
    [t1 + sB0 a + sMaj a b c, a, b, c, d + t1, e, f, g]
  | _ => v

/-- One block of 128 bytes. -/
def shaBlock (ks : List W64) (h : List W64) (blk : List Byte) : List W64 :=
  let ws := (chunks 8 16 blk).map (fun b => BitVec.ofNat 64 (beNat b))
  let sched := (shaSched 64 ws.reverse).reverse
  let v := (List.zipWith (· + ·) ks sched).foldl shaRound h
  List.zipWith (· + ·) h v

/-- SHA-512 of a byte list, 64 bytes. -/
def sha512 (m : List Byte) : List Byte :=
  let pad := (111 + 128 - m.length % 128) % 128
  let msg := m ++ [0x80] ++ List.replicate pad 0 ++ beBytes 16 (8 * m.length)
  let ks := shaK
  ((chunks 128 (msg.length / 128 + 1) msg).foldl (shaBlock ks) shaH0).flatMap (fun w => beBytes 8 w.toNat)

/-- A digest as a 512-bit value, first byte lowest. -/
def digest (m : List Byte) : BitVec 512 := BitVec.ofNat 512 (leNat (sha512 m))

/-- The bytes of a 512-bit digest. -/
def digestBytes (d : BitVec 512) : List Byte := leBytes 64 d.toNat

/-- HMAC-SHA-512. -/
def hmac (key m : List Byte) : List Byte :=
  let k := if 128 < key.length then sha512 key else key
  let k := k ++ List.replicate (128 - k.length) 0
  sha512 (k.map (· ^^^ 0x5C) ++ sha512 (k.map (· ^^^ 0x36) ++ m))

/-- HKDF-SHA-512: extract. -/
def hkdfExtract (salt ikm : List Byte) : List Byte := hmac (if salt.isEmpty then List.replicate 64 0 else salt) ikm

/-- HKDF-SHA-512: `n` blocks of the expansion from block `i`. -/
def hkdfBlocks (prk info : List Byte) : Nat → Nat → List Byte → List Byte
  | 0, _, _ => []
  | n + 1, i, prev =>
    let t := hmac prk (prev ++ info ++ [BitVec.ofNat 8 i])
    t ++ hkdfBlocks prk info n (i + 1) t

/-- HKDF-SHA-512: `len` bytes of output. -/
def hkdfExpand (prk info : List Byte) (len : Nat) : List Byte := (hkdfBlocks prk info ((len + 63) / 64) 1 []).take len

/-! ## SHAKE128 -/

/-- The round constants of Keccak-f[1600], by its LFSR: bit t of the sequence. -/
def rcBits : Nat → Nat → List Bool
  | 0, _ => []
  | n + 1, r =>
    let r2 := r * 2
    (r % 2 == 1) :: rcBits n (if 256 ≤ r2 then Nat.xor (r2 % 256) 0x71 else r2)

/-- Round constant of round `i` from the bit sequence. -/
def keccakRC (bits : List Bool) (i : Nat) : W64 :=
  (List.range 7).foldl (fun (x : W64) j => if bits.getD (7 * i + j) false then x ^^^ BitVec.ofNat 64 (2 ^ (2 ^ j - 1)) else x) 0

/-- The rotation offsets and the permuted places of ρ and π, walked from (1, 0). -/
def rhoPi (a : List W64) : Nat → Nat → Nat → Nat → W64 → List W64 → List W64
  | 0, _, _, _, _, b => b
  | n + 1, t, x, y, cur, b =>
    let y' := (2 * x + 3 * y) % 5
    let i := y + 5 * y'
    let b := b.set i (cur.rotateLeft ((t + 1) * (t + 2) / 2 % 64))
    rhoPi a n (t + 1) y y' (a.getD i 0) b

/-- One round of Keccak-f. -/
def keccakRound (a : List W64) (rc : W64) : List W64 :=
  let c := (List.range 5).map (fun x => (List.range 5).foldl (fun s y => s ^^^ a.getD (x + 5 * y) 0) 0)
  let d := (List.range 5).map (fun x => c.getD ((x + 4) % 5) 0 ^^^ (c.getD ((x + 1) % 5) 0).rotateLeft 1)
  let a := (List.range 25).map (fun i => a.getD i 0 ^^^ d.getD (i % 5) 0)
  let b := rhoPi a 24 0 1 0 (a.getD 1 0) (a.set 0 (a.getD 0 0))
  let b := (List.range 25).map (fun i =>
    let r := i / 5 * 5
    b.getD i 0 ^^^ (~~~(b.getD (r + (i + 1) % 5) 0) &&& b.getD (r + (i + 2) % 5) 0))
  b.set 0 (b.getD 0 0 ^^^ rc)

/-- Keccak-f[1600] on 25 lanes. -/
def keccakF (rcs : List W64) (a : List W64) : List W64 := rcs.foldl keccakRound a

/-- The 24 round constants. -/
def keccakRCs : List W64 := let bits := rcBits 168 1; (List.range 24).map (keccakRC bits)

/-- Absorb 168-byte blocks. -/
def absorb (rcs : List W64) (blocks : List (List Byte)) : List W64 :=
  blocks.foldl (fun a blk =>
    keccakF rcs ((List.range 25).map (fun i => a.getD i 0 ^^^ (if i < 21 then BitVec.ofNat 64 (leAt blk (8 * i) 8) else 0))))
    (List.replicate 25 0)

/-! ## AES-256 -/

/-- Multiplication by x in GF(2^8). -/
def xtime (b : Byte) : Byte := if b.getLsbD 7 then (b <<< 1) ^^^ 0x1B else b <<< 1

/-- Multiplication in GF(2^8) over `n` bits of the second factor. -/
def gmul8 : Nat → Byte → Byte → Byte
  | 0, _, _ => 0
  | n + 1, a, b => (if b.getLsbD 0 then a else 0) ^^^ gmul8 n (xtime a) (b >>> 1)

/-- The S-box in four rows of 64 values, value `i` of a row in its byte `i` (FIPS 197). -/
def sboxRows : List Nat := [
  0x75B227EBE28012079A059618C323C7041531D871F1E5A534CCF73F362693FDB7C072A49CAFA2D4ADF04759FA7DC982CA76ABD7FE2B670130C56F6BF27B777C63,
  0xD2F3FF1021DAB6BCF5389D928F40A351A89F3C507F02F94585334D43FBAAEFD0CF584C4A39BECB6A5BB1FC20ED00D153842FE329B3D63B52A05A6E1B1A2C8309,
  0x08AE7A65EAF4566CA94ED58D6D37C8E779E4959162ACD3C25C2406490A3A32E0DB0B5EDE14B8EE4688902A22DC4F816073195D643D7EA7C41744975FEC130CCD,
  0x16BB54B00F2D99416842E6BF0D89A18CDF2855CEE9871E9B948ED9691198F8E19E1DC186B95735610EF6034866B53E708A8BBD4B1F74DDE8C6B4A61C2E2578BA]

/-- The inverse S-box, laid out likewise. -/
def unsboxRows : List Nat := [
  0x25D18B6D49A25B76B224D92866A12E084EC3FA420B954CEE3D23C2A632947B54CBE9DEC444438E3487FF2F9B8239E37CFBD7F3819EA340BF38A53630D56A0952,
  0x6B8A130103BDAFC1020F3FCA8F1E2CD00645B3B80558E4F70AD3BC8C00ABD890849D8DA75746155EDAB9EDFD5048706C92B6655DCC5CA4D41698688664F6F872,
  0xF45ACD78FEC0DB9A2079D2C64B3E56FC1BBE18AA0E62B76F89C5291D711AF1476EDF751CE837F9E28535ADE72274AC9673E6B4F0CECFF297EADC674F4111913A,
  0x7D0C2155631469E126D677BA7E042B17619953833CBBEBC8B0F52AAE4D3BE0A0EF9CC9939F7AE52D0D4AB519A97F51605FEC8027591012B131C7078833A8DD1F]

/-- Look a byte up in such rows. -/
def look (rows : List Nat) (b : Byte) : Byte := BitVec.ofNat 8 (rows.getD (b.toNat / 64) 0 / 2 ^ (8 * (b.toNat % 64)))
def sub8 (b : Byte) : Byte := look sboxRows b
def unsub8 (b : Byte) : Byte := look unsboxRows b

/-- Key expansion words of AES-256, newest first; `n` more words from word index `i`. -/
def aesExpand : Nat → Nat → Byte → List (List Byte) → List (List Byte)
  | 0, _, _, ws => ws
  | n + 1, i, rc, ws =>
    let prev := ws.getD 0 []
    let back := ws.getD 7 []
    let g := if i % 8 = 0 then
        let r := (prev.drop 1 ++ prev.take 1).map sub8
        (r.getD 0 0 ^^^ rc) :: r.drop 1
      else if i % 8 = 4 then prev.map sub8 else prev
    aesExpand n (i + 1) (if i % 8 = 0 then xtime rc else rc) (List.zipWith (· ^^^ ·) back g :: ws)

/-- The fifteen round keys of a 32-byte key. -/
def aesKeys (key : List Byte) : List (List Byte) :=
  let ws := (aesExpand 52 8 1 (chunks 4 8 key).reverse).reverse
  (chunks 4 15 ws).map (fun k => k.flatten)

/-- MixColumns of one column. -/
def mixCol (c : List Byte) : List Byte :=
  (List.range 4).map (fun i =>
    xtime (c.getD i 0) ^^^ (xtime (c.getD ((i + 1) % 4) 0) ^^^ c.getD ((i + 1) % 4) 0) ^^^ c.getD ((i + 2) % 4) 0
      ^^^ c.getD ((i + 3) % 4) 0)

/-- SubBytes and ShiftRows of a column-major state. -/
def subShift (s : List Byte) : List Byte :=
  (List.range 16).map (fun i => sub8 (s.getD ((i + 4 * (i % 4)) % 16) 0))

/-- AES-256 encryption of a 16-byte block under expanded keys. -/
def aesEnc (ks : List (List Byte)) (blk : List Byte) : List Byte :=
  let s0 := List.zipWith (· ^^^ ·) blk (ks.getD 0 [])
  let s := ((ks.drop 1).take 13).foldl (fun s k =>
    List.zipWith (· ^^^ ·) ((chunks 4 4 (subShift s)).flatMap mixCol) k) s0
  List.zipWith (· ^^^ ·) (subShift s) (ks.getD 14 [])

/-- Inverse MixColumns of one column. -/
def unmixCol (c : List Byte) : List Byte :=
  (List.range 4).map (fun i =>
    gmul8 4 (c.getD i 0) 14 ^^^ gmul8 4 (c.getD ((i + 1) % 4) 0) 11 ^^^ gmul8 4 (c.getD ((i + 2) % 4) 0) 13
      ^^^ gmul8 4 (c.getD ((i + 3) % 4) 0) 9)

/-- Inverse ShiftRows and SubBytes of a column-major state. -/
def unshiftSub (s : List Byte) : List Byte :=
  (List.range 16).map (fun i => unsub8 (s.getD ((i + 12 * (i % 4)) % 16) 0))

/-- AES-256 decryption of a 16-byte block under expanded keys. -/
def aesDec (ks : List (List Byte)) (blk : List Byte) : List Byte :=
  let s0 := List.zipWith (· ^^^ ·) blk (ks.getD 14 [])
  let s := ((ks.drop 1).take 13).reverse.foldl (fun s k =>
    (chunks 4 4 (List.zipWith (· ^^^ ·) (unshiftSub s) k)).flatMap unmixCol) s0
  List.zipWith (· ^^^ ·) (unshiftSub s) (ks.getD 0 [])

/-! ## XTS (IEEE 1619) -/

/-- The tweak of a block from that of the block before: multiplication by α in GF(2^128), little-endian. -/
def xtsNext (v : BitVec 128) : BitVec 128 := if v.getLsbD 127 then (v <<< 1) ^^^ 0x87 else v <<< 1

/-- The tweak of the first block of a data unit, after `j` multiplications. -/
def xtsTweak (v : BitVec 128) : Nat → BitVec 128
  | 0 => v
  | j + 1 => xtsNext (xtsTweak v j)

/-- Blocks of a data unit from block `j` on, encrypted or, with `dec`, decrypted; Key1 is the low half of the key, Key2, which
encrypts the data unit's number, the high half. -/
def xts (dec : Bool) (key : BitVec 512) (unit j : Nat) (bs : List Byte) : List Byte :=
  let ks := aesKeys (leBytes 32 (key.setWidth 256).toNat)
  let v := BitVec.ofNat 128 (leNat (aesEnc (aesKeys (leBytes 32 (key >>> 256).toNat)) (leBytes 16 unit)))
  let crypt := if dec then aesDec ks else aesEnc ks
  ((chunks 16 (bs.length / 16) bs).zipIdx j).flatMap (fun b =>
    let w := leBytes 16 (xtsTweak v b.2).toNat
    List.zipWith (· ^^^ ·) (crypt (List.zipWith (· ^^^ ·) b.1 w)) w)

/-! ## CTR_DRBG with AES-256 and the derivation function (SP 800-90A) -/

/-- Key and V, each as its bytes in order. -/
structure Drbg where
  key : List Byte
  v   : List Byte
  deriving DecidableEq, Repr

/-- `n` counter blocks after V, and V after them. -/
def ctrBlocks (ks : List (List Byte)) : Nat → List Byte → List Byte × List Byte
  | 0, v => ([], v)
  | n + 1, v =>
    let v := beBytes 16 ((beNat v + 1) % 2 ^ 128)
    let r := ctrBlocks ks n v
    (aesEnc ks v ++ r.1, r.2)

/-- CTR_DRBG_Update with 48 bytes. -/
def Drbg.update (d : Drbg) (provided : List Byte) : Drbg :=
  let x := List.zipWith (· ^^^ ·) (ctrBlocks (aesKeys d.key) 3 d.v).1 provided
  { key := x.take 32, v := x.drop 32 }

/-- BCC: the chaining value of 16-byte blocks. -/
def bcc (ks : List (List Byte)) (data : List Byte) : List Byte :=
  (chunks 16 (data.length / 16) data).foldl (fun c b => aesEnc ks (List.zipWith (· ^^^ ·) c b)) (List.replicate 16 0)

/-- `n` blocks of successive encryption. -/
def encChain (ks : List (List Byte)) : Nat → List Byte → List Byte
  | 0, _ => []
  | n + 1, x => let x := aesEnc ks x; x ++ encChain ks n x

/-- Block_Cipher_df of an input to 48 bytes. -/
def drbgDf (input : List Byte) : List Byte :=
  let s := beBytes 4 input.length ++ beBytes 4 48 ++ input ++ [0x80]
  let s := s ++ List.replicate ((16 - s.length % 16) % 16) 0
  let k0 := aesKeys ((List.range 32).map (BitVec.ofNat 8))
  let t := (List.range 3).flatMap (fun i => bcc k0 (beBytes 4 i ++ List.replicate 12 0 ++ s))
  encChain (aesKeys (t.take 32)) 3 (t.drop 32)

/-- Instantiate from entropy input and personalisation string. -/
def Drbg.instantiate (entropy pers : List Byte) : Drbg :=
  ({ key := List.replicate 32 0, v := List.replicate 16 0 } : Drbg).update (drbgDf (entropy ++ pers))

/-- Reseed from entropy input. -/
def Drbg.reseed (d : Drbg) (entropy : List Byte) : Drbg := d.update (drbgDf entropy)

/-- Generate `n` bytes. -/
def Drbg.generate (d : Drbg) (n : Nat) : List Byte × Drbg :=
  let r := ctrBlocks (aesKeys d.key) ((n + 15) / 16) d.v
  (r.1.take n, ({ d with v := r.2 }).update (List.replicate 48 0))

/-! ## GCM -/

/-- Multiplication in GF(2^128) of GCM, bit 127 first, over `n` bits. -/
def gmulG (v z : BitVec 128) (x : BitVec 128) : Nat → BitVec 128
  | 0 => z
  | n + 1 =>
    let z := if x.getLsbD n then z ^^^ v else z
    let v := if v.getLsbD 0 then (v >>> 1) ^^^ (0xE1000000000000000000000000000000#128) else v >>> 1
    gmulG v z x n

/-- GHASH over 16-byte blocks. -/
def ghash (h : BitVec 128) (bs : List (List Byte)) : BitVec 128 :=
  bs.foldl (fun y b => gmulG h 0 (y ^^^ BitVec.ofNat 128 (beNat (b ++ List.replicate (16 - b.length) 0))) 128) 0

/-- The counter-mode key stream: `n` blocks from counter `c`. -/
def gcmStream (ks : List (List Byte)) (iv : List Byte) : Nat → Nat → List Byte
  | 0, _ => []
  | n + 1, c => aesEnc ks (iv ++ beBytes 4 c) ++ gcmStream ks iv n (c + 1)

/-- GCM tag of a ciphertext under a 96-bit IV. -/
def gcmTag (ks : List (List Byte)) (iv aad ct : List Byte) : List Byte :=
  let h := BitVec.ofNat 128 (beNat (aesEnc ks (List.replicate 16 0)))
  let blocks := chunks 16 (aad.length / 16 + 1) aad ++ chunks 16 (ct.length / 16 + 1) ct
    ++ [beBytes 8 (8 * aad.length) ++ beBytes 8 (8 * ct.length)]
  List.zipWith (· ^^^ ·) (beBytes 16 (ghash h blocks).toNat) (aesEnc ks (iv ++ beBytes 4 1))

/-- AES-256-GCM encryption: ciphertext and tag. -/
def gcmSeal (key iv aad pt : List Byte) : List Byte × List Byte :=
  let ks := aesKeys key
  let ct := List.zipWith (· ^^^ ·) pt (gcmStream ks iv ((pt.length + 15) / 16) 2)
  (ct, gcmTag ks iv aad ct)

/-- AES-256-GCM decryption: the plaintext when the tag matches. -/
def gcmOpen (key iv aad ct tag : List Byte) : Option (List Byte) :=
  let ks := aesKeys key
  if gcmTag ks iv aad ct = tag then
    some (List.zipWith (· ^^^ ·) ct (gcmStream ks iv ((ct.length + 15) / 16) 2))
  else none

/-! ## RSASSA-PSS with SHA-512 -/

/-- MGF1 over SHA-512. -/
def mgf1 (seed : List Byte) (len : Nat) : List Byte :=
  ((List.range ((len + 63) / 64)).flatMap (fun i => sha512 (seed ++ beBytes 4 i))).take len

/-- RSASSA-PSS verification with a salt of 64 bytes over a message hash (EMSA-PSS-VERIFY). -/
def pssVerify (n e : Nat) (msgHash sig : List Byte) : Bool :=
  let emBits := Arith.bitlen n - 1
  let emLen := (emBits + 7) / 8
  let s := beNat sig
  if n ≤ s ∨ emLen < 130 then false
  else
    let em := beBytes emLen (Arith.powMod s e n)
    let db := em.take (emLen - 65)
    let h := (em.drop (emLen - 65)).take 64
    let mask := mgf1 h (emLen - 65)
    let top : Byte := BitVec.ofNat 8 (2 ^ (8 - (8 * emLen - emBits)) - 1)
    let dbm := List.zipWith (· ^^^ ·) db mask
    let dbm := (dbm.getD 0 0 &&& top) :: dbm.drop 1
    em.getLastD 0 == 0xBC && (db.getD 0 0 &&& ~~~top) == 0
      && dbm.take (emLen - 65 - 65) == List.replicate (emLen - 65 - 65) 0 && dbm.getD (emLen - 130) 0 == 1
      && sha512 (List.replicate 8 0 ++ msgHash ++ dbm.drop (emLen - 65 - 64)) == h

/-- RSASSA-PSS signature with a given 64-byte salt over a message hash, under private exponent d. -/
def pssSign (n d : Nat) (msgHash salt : List Byte) : List Byte :=
  let emBits := Arith.bitlen n - 1
  let emLen := (emBits + 7) / 8
  let h := sha512 (List.replicate 8 0 ++ msgHash ++ salt)
  let db := List.replicate (emLen - 130) 0 ++ [1] ++ salt
  let dbm := List.zipWith (· ^^^ ·) db (mgf1 h (emLen - 65))
  let top : Byte := BitVec.ofNat 8 (2 ^ (8 - (8 * emLen - emBits)) - 1)
  let em := ((dbm.getD 0 0 &&& top) :: dbm.drop 1) ++ h ++ [0xBC]
  beBytes ((Arith.bitlen n + 7) / 8) (Arith.powMod (beNat em) d n)

end Sys2Proof.Crypto
end

