-- ==== Sys2Proof/Machine/StCompute.lean ====
section
/-! DEFINITION. StCompute.lean: the parts of State that belong to computing: braids, stream rings, lanyards, device memory,
splices, windows, tenancies, the token pool and the host queues. Each field names the rule that gives it. -/

namespace Sys2Proof.Machine

/-! ## Registers of the cores -/

/-- A scalar register and its case (R78, R99). -/
structure SReg where
  val    : W64
  sealed : Bool
  deriving DecidableEq, Repr

/-- A vector register, its case (R78, R99) and its poison mark (R158). -/
structure VCell where
  val    : VReg
  sealed : Bool
  poison : Bool
  deriving DecidableEq, Repr

/-- Case and poison of a tile as a whole (R78, R158). `rows` are the rows that the repeat in progress has written whole, `runSealed` and
`runPoison` the case and poison of everything written since it began: the sixteenth row makes its write a full one (R79). -/
structure TFlag where
  sealed    : Bool
  poison    : Bool
  rows      : BitVec 16 := 0
  runSealed : Bool := false
  runPoison : Bool := false
  deriving DecidableEq, Repr

/-- An address register; every field is open (R100). -/
structure AReg where
  base   : BitVec 22
  offset : BitVec 22
  stride : BitVec 23
  wrap   : BitVec 23
  deriving DecidableEq, Repr

/-- A hardware loop counter L0-L3 (R101, R121): active flag, iteration index, latched count, and the body it runs. -/
structure LoopCtr where
  active : Bool
  index  : BitVec 16
  count  : BitVec 16
  first  : BitVec 12
  last   : BitVec 12
  deriving DecidableEq, Repr

/-- An element program as loaded (R149): the result temporary, the constants, the step words. -/
structure EProg where
  res    : BitVec 3
  consts : List W64
  steps  : List (BitVec 32)
  deriving DecidableEq, Repr

/-! ## Results in flight (R124) -/

/-- Where a result lands. Registers carry their number; a scratchpad store its byte address after R132's mapping. -/
inductive Dest where
  | s (i : Nat)
  | aBase (i : Nat)
  | aOffset (i : Nat)
  | aStride (i : Nat)
  | aWrap (i : Nat)
  | v (i : Nat)
  | row (t r : Nat)
  | tile (t : Nat)
  | p (i : Nat)
  | mem
  deriving DecidableEq, Repr

/-- One core's part of a result. `val` holds the lanes, `hi` the high halves of TMAC products (R152), `mask` the lanes that
are written (R110), `addr` and `len` the bytes a store writes. -/
structure Part where
  core   : Nat
  val    : VReg
  hi     : VReg
  mask   : BitVec 32
  full   : Bool
  sealed : Bool
  poison : Bool
  addr   : Nat
  bytes  : List (Nat × Byte)
  deriving DecidableEq, Repr

/-- How a result meets the old value: it replaces it, or joins it modulo q, or modulo 2^w where q is 0: a vector result by one exact
addition (`acc`, R146), the products of TMAC through the multiply-accumulate path (`mac`, R152). -/
inductive Merge where
  | replace
  | acc (q : Nat)
  | mac (q : Nat)
  deriving DecidableEq, Repr

/-- A result in flight: the braid cycle it lands in, its clause number and issue order (R125), the exporting mark with the
prime of the exporting operation (R293, R301). `run` marks a row of a repeat that walks through a tile, true for its first (R79). -/
structure Landing where
  due    : Nat
  clause : Nat
  order  : Nat
  dest   : Dest
  merge  : Merge
  parts  : List Part
  xport  : Option Nat
  run    : Option Bool := none
  deriving DecidableEq, Repr

/-- A run of bytes the weave writes on one core: byte k of word j goes to `addr + step·j + k` (R178). -/
structure WeaveRun where
  core : Nat
  addr : Nat
  step : Nat
  data : List (List Byte)
  deriving DecidableEq, Repr

/-- The weave in flight (R113, R177), the cycle of its issue and the PC of its sentence. -/
structure WeaveFlight where
  due  : Nat
  issuedAt : Nat
  pc   : BitVec 12
  runs : List WeaveRun
  deriving DecidableEq, Repr

/-! ## The sequencer (R101) -/

/-- What the sequencer does (R136 SEQ_STATE.STATE, R112, R129, R337). -/
inductive SeqPhase where
  | idle
  | wiping
  | loading
  | issuing
  | waiting
  | draining
  | saving
  | ended
  | stopped
  deriving DecidableEq, Repr

/-- Control flow decided by a scalar clause of the sentence in issue, effective at the next sentence (R116, R123). -/
inductive Ctl where
  | none
  | loopIn (l : Nat) (count : BitVec 16) (last : BitVec 12)
  | skip (last : BitVec 12)
  | goto (target : BitVec 12)
  | stop
  deriving DecidableEq, Repr

/-- Sequencer state at the start of a segment, for fold pass 1 (R132). -/
structure SegMark where
  pc    : BitVec 12
  loops : List LoopCtr
  lcs   : List (BitVec 16)
  deriving DecidableEq, Repr

/-- A seal-map clearing queued in a bank (R175): the region, the fold pass half it names, whether it stays sealed. -/
structure Clearing where
  region : Nat
  keep   : Bool
  deriving DecidableEq, Repr

/-! ## Stream rings (R199–R226) -/

/-- The state of a slot (R206). -/
inductive SlotSt where
  | free
  | full
  | inflight
  deriving DecidableEq, Repr

/-- A slot as the braid's domain and as the engine's domain see it; they differ while the change crosses (R208). -/
structure Slot where
  braid  : SlotSt
  engine : SlotSt
  deriving DecidableEq, Repr

/-- Why a transfer does not move at the moment. -/
inductive XferWait where
  | run
  | deferred
  | owner
  | done
  deriving DecidableEq, Repr

/-- A transfer in work (R183–R197, R223): its descriptors and the index of the first, whether it is among its padding or data
writes (R194), the slice and element next to move, whether it waits for a bank, the bytes of regions that
each slice has covered from unpoisoned data (R172), and the banks of the access that waits. -/
structure Xfer where
  slot    : Nat
  descs   : List (BitVec 512)
  first   : Nat
  data    : Bool
  slice   : Nat
  elem    : Nat
  wait    : XferWait
  cover   : Sparse (BitVec 4096)
  banks   : List Nat
  deriving DecidableEq, Repr

/-- A stream ring (R199–R244). `cfg` is the 64-byte configuration of R203; `next` and `pass` the position; `entry` the
present-list entry of a list-mode key ring (R231); `payS`, `payD`, `lim` the bound headers' PAYLOADs and LEVEL + 1;
`tileWait` and `tileBanks` why and in which banks the splice tile due in the slot at TAIL waits (R168, R169). -/
structure Ring where
  armed   : Bool
  rearm   : Bool
  halted  : Bool
  cfg     : BitVec 512
  head    : BitVec 16
  tail    : BitVec 16
  slots   : List Slot
  cache   : List (BitVec 512)
  cacheAt : Nat
  next    : Nat
  pass    : Nat
  entry   : Nat
  payS    : BitVec 48
  payD    : BitVec 48
  lim     : Nat
  xfer    : Option Xfer
  posDesc : BitVec 16
  posPass : BitVec 16
  posElem : BitVec 64
  stall   : W64
  tileWait  : XferWait
  tileBanks : List Nat
  deriving DecidableEq, Repr

/-- A contribution of a rank in the braid's export queue (R293, R294, R301). -/
structure Contrib where
  braid  : Nat
  tile   : Nat
  form   : Bool
  mode   : Bool
  q      : Nat
  sealed : Bool
  words  : Sparse VReg
  deriving DecidableEq, Repr

/-- A pending stop or fault of the running token (R127, R157, R224, R328): the status and who found it. -/
structure StopRec where
  status : Byte
  pc     : BitVec 12
  clause : BitVec 3
  deriving DecidableEq, Repr

/-- What the key rings of a token must agree in to share a multicast group (R238): the key object or skip map by its header's TVA, KEYIDX,
SOURCE, ORDER and PASSES, and CHAIN, KEYSET and LEVEL of LVLSLOT's header. -/
structure KeySig where
  ring   : Nat
  obj    : Nat
  keyidx : Nat
  source : Bool
  order  : Bool
  passes : Nat
  chain  : Nat
  keyset : Nat
  level  : Nat
  deriving DecidableEq, Repr

/-! ## A braid -/

/-- The telemetry counters of a braid's TEL block that no other field gives (R136, R159, R198, R243, R463). `errs` counts the errors that raise
source 4b + 3, as the counters that a host reads saturate (R493). -/
structure BraidTel where
  issued     : W64
  collide    : BitVec 32
  hitch      : BitVec 32
  drain      : BitVec 32
  fault      : StopRec
  bcuConv    : W64
  bcuFails   : BitVec 16
  bcuCore    : BitVec 6
  bcuPc      : BitVec 12
  eccCorr    : BitVec 16
  eccUnc     : Byte
  eccCore    : BitVec 6
  eccBank    : BitVec 4
  eccPort    : Bool
  conflict   : Sparse (BitVec 32)
  dmaWait    : BitVec 32
  movDrop    : BitVec 32
  weaves     : BitVec 32
  beats      : BitVec 32
  stall      : Sparse W64
  unarmed    : BitVec 16
  clamped    : BitVec 16
  timeouts   : BitVec 16
  sfRing     : BitVec 5
  sfStatus   : Byte
  halts      : BitVec 16
  sgen       : W64
  errs       : Nat
  deriving DecidableEq, Repr

/-- The address that a failure concerns, as R508 hashes it: a TVA, or a byte of the scratchpad of a physical core. -/
inductive FaultAddr where
  | tva (a : Nat)
  | sp (core addr : Nat)
  deriving DecidableEq, Repr

/-- A braid: its registers, sequencer, scratchpads, rings and counters; `keySigs` are the key rings of the last token dispatched to it.
Tables of the cores are keyed core first. `pp` are the poisoned predicates (R158), `roots` the chain's root of each limb (R63). `touched`
are the banks that core ports touched in cycle `touchedAt`, `deferred` those whose deferral in it is counted (R168). A SWAIT waits since
`waitAt`: `waitFor` are the causes its cycles fall to, in the order they came to apply, `holds` the cycles the throttle takes (R221),
`dmaUpTo` the cycles of it already counted as DMA waits, `waitDone` the timeout flag of a wait that has ended while issue is held. A drain
is for a HITCH (`hitchReq`), for the end of issue (`atEnd`), for both, or, with neither, at the first sentence (R128). `faultAt` is the address
that the failure of its kernel concerns (R509), `acts` the clauses issued by latency class in this power window (R540). -/
structure Braid where
  -- presence (R131, R361): kept in CAP; here the pairing of a fold-mode braid
  fold     : Bool
  foldHigh : BitVec 32
  -- registers of the cores (R99)
  s        : Sparse SReg
  a        : Sparse AReg
  v        : Sparse VCell
  t        : Sparse VReg
  tf       : Sparse TFlag
  p        : Sparse (BitVec 32)
  pp       : NatSet
  limbs    : List W64
  roots    : List W64
  consts   : Sparse W64
  progs    : List EProg
  acrc     : BitVec 32
  -- scratchpads (R165–R176)
  sp       : Sparse (BitVec 128)
  spPoison : NatSet
  written  : NatSet
  ecc1     : NatSet
  ecc2     : NatSet
  sealMap  : W64
  clear    : Sparse (List Clearing)
  bankMap  : BitVec 16
  -- sequencer (R101, R105)
  phase    : SeqPhase
  m32      : Bool
  reveals  : Bool
  splices  : Bool
  foldSafe : Bool
  sents    : List (BitVec 512)
  storeTen : Option Tid
  kcrc     : BitVec 32
  pc       : BitVec 12
  loops    : List LoopCtr
  lcs      : List (BitVec 16)
  hdrs     : List W64
  tflag    : Bool
  spliceEn : Bool
  present  : List (BitVec 32)
  -- issue (R106–R109, R123)
  cycle    : Nat
  issueAt  : Nat
  freeFrom : Nat
  iter     : Nat
  issued   : List Nat
  touched  : List Nat
  touchedAt : Nat
  deferred : List Nat
  ctl      : Ctl
  order    : Nat
  orderAt  : Nat
  waitAt   : Nat
  waitFor  : List Nat
  waitDone : Option Bool
  holds    : List (Nat × Nat)
  dmaUpTo  : Nat
  drainAt  : Nat
  hitchReq : Bool
  atEnd    : Bool
  pass     : Bool
  mark     : SegMark
  -- results in flight (R124) and the weave (R113)
  flights  : List Landing
  weave    : Option WeaveFlight
  -- stops
  stop     : Option StopRec
  faultAt  : Option FaultAddr
  bcuBad   : Bool
  bcuFlip  : Sparse VReg
  -- rings (R199)
  rings    : Sparse Ring
  -- splice export (R294, R295)
  queue    : List Contrib
  reserved : Nat
  nextTile : Nat
  tiles    : Nat
  -- scheduling (R25, R327, R336)
  ten      : Option Tid
  tok      : Option Nat
  restore  : Bool
  preempt  : Option Nat
  notice   : Option Byte
  saveSlot : Nat
  keySigs  : List KeySig
  -- clocks (R465, R466) and power (R541)
  pllUp    : Bool
  held     : Bool
  linkDown : Bool
  acts     : List Nat
  tel      : BraidTel
  -- hazard watch entries logged in the current 2^16 cycles (R138)
  hwCount  : Nat
  hwEpoch  : Nat
  deriving DecidableEq, Repr

/-! ## Lanyards (R227–R242) -/

/-- A member ring of a multicast group; `left` says that its issue has ended while a page was being written, which completes to it too
(R225, R241). -/
structure Member where
  braid : Nat
  ring  : Nat
  armed : Bool
  left  : Bool := false
  deriving DecidableEq, Repr

/-- The key page in read: its digit, position, and what its reading has found (R232, R234). -/
structure KeyRead where
  digit : Nat
  pos   : Nat
  tva   : BitVec 48
  hdr   : List Byte
  deriving DecidableEq, Repr

/-- A multicast group (R238–R241). -/
structure Group where
  id      : Nat
  hawser  : Nat
  ten     : Tid
  members : List Member
  started : Bool
  keyTva  : BitVec 48
  keyidx  : Nat
  source  : Bool
  order   : Bool
  passes  : Nat
  chain   : Byte
  keyset  : BitVec 16
  level   : Nat
  present : List (BitVec 32)
  keys    : List (BitVec 32)
  entry   : Nat
  pass    : Nat
  page    : Nat
  read    : Option KeyRead
  deriving DecidableEq, Repr

/-- A group is active from the first of its rings that is armed (R201, R239, R245). -/
def Group.active (g : Group) : Bool := g.members.any (·.armed)

/-- The lanyard engine of a hawser (R245). -/
structure Lanyard where
  reads    : W64
  delivers : W64
  expPages : BitVec 32
  rejected : BitVec 32
  keyfail  : BitVec 16
  ckfail   : BitVec 16
  last     : Byte
  deriving DecidableEq, Repr

/-! ## Device memory (R246–R286) -/

/-- The state of a page-table entry (R253). -/
inductive PageSt where
  | unmapped
  | mapped
  | backed
  | migrating
  deriving DecidableEq, Repr

/-- A page-table entry (R253). -/
structure Pte where
  state   : PageSt
  bulk    : Bool
  hawser  : Bool
  home    : Bool
  sealed  : Bool
  pin     : Bool
  pref    : Bool
  poison  : Bool
  ref     : Bool
  set     : BitVec 4
  frame   : BitVec 16
  dset    : BitVec 4
  dframe  : BitVec 16
  dbulk   : Bool
  dhawser : Bool
  homeft  : Bool
  deriving DecidableEq, Repr

/-- What a frame in use is used for (R261). -/
inductive FrameUse where
  | allocated (n : Tid) (page : Nat)
  | reserved (n : Tid) (page : Nat)
  | scrubbing (n : Tid)
  deriving DecidableEq, Repr

/-- A memory tier of a hawser (R248, R286). -/
structure TierSt where
  ready    : Bool
  wiping   : Bool
  offline  : Bool
  sets     : BitVec 12
  trained  : BitVec 12
  margined : BitVec 12
  temps    : Sparse Byte
  rates    : Sparse (BitVec 2)
  temp     : Byte
  far      : BitVec 32
  corr     : BitVec 16
  retries  : BitVec 16
  unc      : BitVec 16
  aged     : BitVec 32
  fullFl   : BitVec 32
  rr       : Nat
  deriving DecidableEq, Repr

/-- A write-combining entry (R271): its 64-byte line (device address divided by 64), mask, bytes, tenancy. The list of a
set's entries is kept oldest first. -/
structure WcEntry where
  line : Nat
  mask : W64
  data : BitVec 512
  ten  : Tid
  deriving DecidableEq, Repr

/-- Why a page migrates (R264, R265, R270). -/
inductive MigKind where
  | promote
  | demote
  | home
  deriving DecidableEq, Repr

/-- A migration in work (R267, R268): `passes` is 1 once pass 1 has ended and counts each later pass that ended with a dirty
granule; `work` holds the granules that the pass in progress copies, for passes after the first. -/
structure Mig where
  ten     : Tid
  page    : Nat
  pager   : Nat
  kind    : MigKind
  passes  : Nat
  work    : NatSet
  dirty   : NatSet
  blocked : Bool
  clean   : Bool
  deriving DecidableEq, Repr

/-- The pager of a hawser (R263–R265, R286). -/
structure Pager where
  promoted : BitVec 32
  demoted  : BitVec 32
  aborted  : BitVec 16
  blocked  : BitVec 16
  promote  : BitVec 16
  lowWater : BitVec 24
  epoch    : BitVec 5
  counts   : Sparse (Nat × Nat)
  cand     : NatSet
  sweep    : Nat
  deriving DecidableEq, Repr

/-- A page being backed (R255–R257): who touched it from which hawser, the tier chosen, and the frame (hawser, set, index) once
one is taken; without one it waits for a scrub. `cmd` is the ALLOC command that waits for it. -/
structure Backing where
  ten    : Tid
  page   : Nat
  hawser : Bool
  bulk   : Bool
  place  : Option (Bool × Nat × Nat)
  cmd    : Option Nat
  deriving DecidableEq, Repr

/-- Device memory and its pagers and controllers. `cells` are the bytes of the devices in canonical form; `poison` the
granules of the poison tables with the lines written whole since (R276); `bad` granules whose next device read is
uncorrectable (R275). -/
structure Mem where
  cells   : List (Nat × Byte)
  use     : Sparse (Option FrameUse)
  tiers   : Sparse TierSt
  pagers  : Sparse Pager
  wc      : List WcEntry
  poison  : Sparse (Option W64)
  bad     : NatSet
  soft    : Sparse (Nat × Nat)
  migs    : List Mig
  backing : List Backing
  wcAge   : BitVec 16
  margin  : W64
  mErrors : BitVec 32
  mDone   : Bool
  mRefuse : Bool
  deriving DecidableEq, Repr

/-! ## Splices (R287–R315) -/

/-- SPL.SPLICE_STATE.STATE (R314). -/
inductive SplSt where
  | free
  | open_
  | running
  | ended
  | failed
  | comparing
  deriving DecidableEq, Repr

/-- A splice (R287–R313): ranks are (rank, token, braid); staged contributions, the sums reduced and not delivered; the
digests SEND and RECV of each participating strand; `trigger` is the compare command that the comparison in progress answers, `asked` those
that wait behind it. -/
structure Splice where
  st        : SplSt
  ten       : Tid
  p         : BitVec 7
  form      : Bool
  m32       : Bool
  sealed    : Bool
  suspect   : Bool
  tiles     : BitVec 16
  status    : Byte
  key       : W64
  ranks     : List (Nat × Nat × Nat)
  strands   : List Nat
  staged    : List Contrib
  sums      : List Contrib
  send      : Sparse W64
  recv      : Sparse W64
  reduced   : BitVec 16
  delivered : BitVec 16
  sent      : BitVec 22
  received  : BitVec 22
  discarded : BitVec 20
  result    : BitVec 2
  link      : BitVec 4
  compares  : BitVec 16
  passed    : Bool
  trigger   : Option Nat
  asked     : List Nat
  notice    : Bool
  deriving DecidableEq, Repr

/-- The router of a strand position (R315). `retryDue` are the retries that the next transfer over its link or paths takes, `softDue` the
corrected errors that its staging meets with it (R308, R356): what the hardware meets is given by the state (log 53). -/
structure Router where
  crossings : BitVec 32
  retries   : BitVec 16
  corrected : BitVec 16
  up        : Bool
  retrain   : Bool
  fails     : BitVec 16
  retryDue  : BitVec 16
  softDue   : BitVec 16
  deriving DecidableEq, Repr

/-! ## Windows (R373–R381) -/

/-- WIN.SLOT.STATE (R387). -/
inductive WinSt where
  | free
  | open_
  | closed
  | draining
  deriving DecidableEq, Repr

/-- A write held until its page is backed or committed (R255), in order of arrival. -/
structure HeldWrite where
  slot : Nat
  ten  : Tid
  tva  : BitVec 48
  data : List Byte
  hawser : Bool
  deriving DecidableEq, Repr

/-- A record buffer of a port (R380, R381): inbound frames collect bytes, outbound frames hold an encryption with
the granules of the plaintext that were poisoned. -/
structure RecBuf where
  slot  : Nat
  frame : Nat
  out   : Bool
  bytes : Sparse (Option Byte)
  image : List Byte
  poison : NatSet
  deriving DecidableEq, Repr

/-- Late writes of a slot not logged yet: the tenancy and the generation they were late for, their count, and the hawser of their port
(R377, R507). -/
structure LateLog where
  ten    : Tid
  gen    : BitVec 16
  count  : BitVec 32
  hawser : Bool
  deriving DecidableEq, Repr

/-- A window slot (R373–R381, R387). -/
structure Win where
  st       : WinSt
  dir      : Bool
  sealed   : Bool
  portA    : Bool
  portB    : Bool
  riden    : Bool
  rid      : BitVec 16
  keyref   : Byte
  ten      : Tid
  gen      : BitVec 16
  last     : Byte
  tva      : BitVec 48
  length   : BitVec 32
  key      : BitVec 256
  openseq  : W64
  enc      : W64
  records  : BitVec 32
  authFail : BitVec 16
  rejected : BitVec 16
  lateGen  : BitVec 32
  lateLog  : List LateLog
  drainTok : Option Nat
  wrote    : NatSet
  ctls     : NatSet
  deriving DecidableEq, Repr

/-- A bulk port (R352, R387). -/
structure PortSt where
  stray    : BitVec 32
  poisoned : BitVec 16
  up       : Bool
  bufs     : List RecBuf
  d3hot    : Bool
  deriving DecidableEq, Repr

/-! ## Tenancies (R330–R351) -/

/-- TEN.STATE.STATE (R351). -/
inductive TenSt where
  | free
  | active
  | orphaned
  | closing
  deriving DecidableEq, Repr

/-- A prime-table entry (R59); k, μ and LOG2Q are computed from q (Arith.lean). -/
structure Prime where
  q     : W64
  psi   : W64
  log2n : Byte
  deriving DecidableEq, Repr

/-- A key-table entry (R333). -/
structure KeyRec where
  keyset   : BitVec 16
  purpose  : BitVec 4
  rotation : BitVec 24
  tva      : BitVec 48
  deriving DecidableEq, Repr

/-- A quota book (R259). -/
structure Quota where
  quota : BitVec 24
  alloc : BitVec 24
  deriving DecidableEq, Repr

/-- A tenancy channel (R407–R410). -/
structure Chan where
  kc       : BitVec 256
  kd       : BitVec 256
  seqC     : W64
  seqD     : W64
  deriving DecidableEq, Repr

/-- How a tenancy is closing (R335, R349, R502): `wiped` is the cause of the TENANCY_WIPED entry that its end logs (0 grace expiry,
1 tenancy-fatal error, R509), none for a close by command. -/
structure Closing where
  force  : Bool
  status : Byte
  tok    : Option Nat
  wiped  : Option W64
  freed  : Bool
  orphan : Bool
  deriving DecidableEq, Repr

/-- The watermark of a command ring (R528): WM, BITS, and the function and SEQGEN whose numbering they describe. -/
structure Wm where
  wm   : BitVec 32
  bits : W64
  fn   : Fn
  gen  : Byte
  deriving DecidableEq, Repr

/-- The mirror state of a tenancy (R519–R534). `sync` is the mode of a standby's primary; `copying` says that a resync is in
progress (R532). `sent` are the records sent and not acknowledged, `unsent` those made while the link is down, `late` those queued during a
resync, `reads` the granules of records that the mirror engine may still have to read (R525), `inbox` the records a standby has authenticated
and not applied (R530), with the commands of other tenancies; `cut`: a standby was frozen by a drop of the link whose timeout has not
expired (R529). `wms` are the watermarks of rings 0–3. -/
structure Mirror where
  standby : Bool
  sync    : Bool
  copying : Bool
  pstate  : BitVec 3
  epoch   : BitVec 32
  mseq    : W64
  applied : W64
  sent    : List CommitRecord
  unsent  : List CommitRecord
  late    : List CommitRecord
  reads   : List Nat
  inbox   : List (CommitRecord × W64)
  cut     : Bool
  wms     : Sparse Wm
  deriving DecidableEq, Repr

/-- A tenancy. -/
structure Ten where
  st       : TenSt
  fn       : Fn
  prio     : BitVec 3
  weight   : Byte
  revealOk : Bool
  mirror   : BitVec 2
  ctxslots : BitVec 7
  fails    : BitVec 4
  braids   : W64
  reveals  : W64
  ctx      : Sparse (Option Nat)
  deficit  : Int
  cred     : BitVec 512
  grace    : Bool
  lostAt   : Nat
  closing  : Option Closing
  primes   : List Prime
  chains   : Sparse (List Byte)
  keys     : List KeyRec
  ptes     : Sparse (Option (Sparse Pte))
  ring     : Quota
  bulk     : Quota
  xts      : Option (BitVec 512)
  late     : BitVec 32
  chan     : Option Chan
  pin      : Option (BitVec 512)
  pinCurve : BitVec 3
  winKeys  : Sparse (Option (BitVec 256))
  migKeys  : Sparse (Option (BitVec 256))
  mir      : Mirror
  deriving DecidableEq, Repr

/-! ## Tokens and host queues (R319–R329, R362–R368) -/

/-- The state of a pool entry; FREE entries are not listed. WAITING and READY are told apart by the dependencies (R319). -/
inductive TokSt where
  | issued
  | running
  | saved
  | retiring
  deriving DecidableEq, Repr

/-- A completion's own fields (R366). -/
abbrev Comp := Completion

/-- An entry of the token pool: an operation token of a KERNEL command, or a command that creates none (R319, R365). `id` is its creation order,
`cmdId` the number of its command, `deps` the commands it waits for (`badDep` the detail they are refused with, 0 for none), `cfn` is the function
whose completion ring takes its completion (R347), `srcs` and `dests` are the headers of its source and destination slots at dispatch, the latter as
computed (R69), `held` says that its completion waits for the belay partner (R527), `wrote` the 4 KiB granules of TVA it wrote (R523), `ctls` the
controllers that accepted its writes (R274), `keyHome` the hawser preference that its key pages gave once counted (R42, criterion 3). -/
structure Token where
  id       : Nat
  cmdId    : Nat
  fn       : Fn
  cfn      : Fn
  ring     : BitVec 2
  seq      : BitVec 32
  seqgen   : Byte
  cmd      : BitVec 512
  ten      : Tid
  kernel   : Bool
  set      : BitVec 16
  deps     : List Nat
  badDep   : Byte
  st       : TokSt
  slots    : List W64
  rank     : BitVec 6
  braid    : Option Nat
  remain   : W64
  ctx      : Option Nat
  srcs     : List (Nat × BitVec 512)
  dests    : List (Nat × BitVec 512)
  flagged  : Bool
  started  : Bool
  comp     : Comp
  held     : Bool
  wrote    : NatSet
  ctls     : NatSet
  keyHome  : Option (Option Bool)
  deriving DecidableEq, Repr

/-- A KERNEL command fetched and not yet turned into tokens (R322); `badDep` is the detail its dependencies are refused with, 0
for none (R323). -/
structure Fetched where
  cmdId  : Nat
  fn     : Fn
  ring   : BitVec 2
  seq    : BitVec 32
  seqgen : Byte
  cmd    : BitVec 512
  deps   : List Nat
  badDep : Byte
  deriving DecidableEq, Repr

/-- A command ring (R363, R364, R368) with the commands fetched that a dependency may name (R324). -/
structure SqRing where
  base     : BitVec 52
  en       : Bool
  err      : Bool
  log2size : BitVec 5
  tail     : BitVec 16
  head     : BitVec 16
  seq      : BitVec 32
  seqgen   : Byte
  hist     : List (Nat × Tid)
  deriving DecidableEq, Repr

/-- A completion ring (R367, R368): `used` counts the unread entries, `since` the completions written since the last interrupt. -/
structure CqRing where
  base     : BitVec 52
  en       : Bool
  log2size : BitVec 5
  coalesce : Byte
  delay    : BitVec 16
  head     : BitVec 16
  tail     : BitVec 16
  phase    : Bool
  used     : Nat
  since    : Nat
  deriving DecidableEq, Repr

/-- A control-port function (R345, R350, R352, R357). -/
structure FnSt where
  hbInt    : BitVec 16
  grace    : BitVec 16
  toklim   : BitVec 14
  defTmo   : BitVec 16
  current  : Bool
  lost     : Bool
  d3hot    : Bool
  cq       : CqRing
  deriving DecidableEq, Repr

/-- The scheduler (R319–R329, R350). `order` lists the entries whose completion may be written, in the order they reached
that condition (R35); `heldQ` those held for orphaned tenancies (R346); `unacked`, oldest first, those written whose TLP the port may
still keep (R476). -/
structure Sched where
  pool      : List Token
  fetched   : List Fetched
  nextId    : Nat
  nextCmd   : Nat
  order     : List Nat
  heldQ     : List Nat
  unacked   : List (Fn × Token)
  saveRef   : Byte
  groupMax  : BitVec 5
  pdelta    : BitVec 3
  hold      : BitVec 16
  fns       : Sparse FnSt
  sqs       : Sparse SqRing
  groups    : List Group
  nextGroup : Nat
  rr        : Nat
  deriving DecidableEq, Repr

end Sys2Proof.Machine
end

