-- ==== Sys2Proof/Machine/Init.lean ====
section
/-! DEFINITION. Init.lean: what each computing part holds after the reset that reaches it: the reset values of the register
tables (R136, R159, R198, R243–R245, R286, R314, R315, R350, R351, R368, R387), and zero and open elsewhere (R105). -/

namespace Sys2Proof.Machine

def SReg.init : SReg := { val := 0, sealed := false }
def VCell.init : VCell := { val := 0, sealed := false, poison := false }
def TFlag.init : TFlag := { sealed := false, poison := false }
def AReg.init : AReg := { base := 0, offset := 0, stride := 0, wrap := 0 }
def LoopCtr.init : LoopCtr := { active := false, index := 0, count := 0, first := 0, last := 0 }
def StopRec.init : StopRec := { status := 0, pc := 0, clause := 0 }
def Slot.init : Slot := { braid := .free, engine := .free }

/-- A disarmed ring (R199, R244). -/
def Ring.init : Ring :=
  { armed := false, rearm := false, halted := false, cfg := 0, head := 0, tail := 0, slots := [],
    cache := [], cacheAt := 0, next := 0, pass := 0, entry := 0, payS := 0, payD := 0, lim := 0, xfer := none,
    posDesc := 0, posPass := 0, posElem := 0, stall := 0, tileWait := .run, tileBanks := [] }

def BraidTel.init : BraidTel :=
  { issued := 0, collide := 0, hitch := 0, drain := 0, fault := StopRec.init, bcuConv := 0, bcuFails := 0, bcuCore := 0,
    bcuPc := 0, eccCorr := 0, eccUnc := 0, eccCore := 0, eccBank := 0, eccPort := false, conflict := [], dmaWait := 0,
    movDrop := 0, weaves := 0, beats := 0, stall := [], unarmed := 0, clamped := 0, timeouts := 0, sfRing := 0,
    sfStatus := 0, halts := 0, sgen := 0, errs := 0 }

def SegMark.init : SegMark :=
  { pc := 0, loops := [LoopCtr.init, LoopCtr.init, LoopCtr.init, LoopCtr.init], lcs := [0, 0, 0, 0] }

/-- A braid after a reset that reaches it. Scratchpads are zero: DESIGN CHOICE before the power-up wipe (log 2). -/
def Braid.init : Braid :=
  { fold := false, foldHigh := 0, s := [], a := [], v := [], t := [], tf := [], p := [], pp := [], limbs := [], roots := [], consts := [],
    progs := [], acrc := 0, sp := [], spPoison := [], written := [], ecc1 := [], ecc2 := [], sealMap := 0, clear := [],
    bankMap := 0, phase := .idle, m32 := false, reveals := false, splices := false, foldSafe := false, sents := [],
    storeTen := none, kcrc := 0, pc := 0,
    loops := [LoopCtr.init, LoopCtr.init, LoopCtr.init, LoopCtr.init], lcs := [0, 0, 0, 0],
    hdrs := [0, 0, 0, 0, 0, 0, 0, 0], tflag := false, spliceEn := false, present := [], cycle := 0, issueAt := 0,
    iter := 0, issued := [], touched := [], touchedAt := 0, deferred := [], ctl := .none, order := 0, orderAt := 0, waitAt := 0, waitFor := [],
    waitDone := none, holds := [], dmaUpTo := 0, freeFrom := 0, drainAt := 0, hitchReq := false, atEnd := false, pass := false, mark := SegMark.init, flights := [], weave := none, stop := none, faultAt := none,
    bcuBad := false, bcuFlip := [], rings := [], queue := [], reserved := 0, nextTile := 0, tiles := 0, ten := none, tok := none,
    restore := false, preempt := none, notice := none, saveSlot := 0, keySigs := [], pllUp := false, held := false,
    linkDown := false, acts := [], tel := BraidTel.init, hwCount := 0, hwEpoch := 0 }

def Lanyard.init : Lanyard :=
  { reads := 0, delivers := 0, expPages := 0, rejected := 0, keyfail := 0, ckfail := 0, last := 0 }

/-- An unmapped page (R253). -/
def Pte.init : Pte :=
  { state := .unmapped, bulk := false, hawser := false, home := false, sealed := false, pin := false, pref := false,
    poison := false, ref := false, set := 0, frame := 0, dset := 0, dframe := 0, dbulk := false, dhawser := false,
    homeft := false }

def TierSt.init : TierSt :=
  { ready := false, wiping := false, offline := false, sets := 0, trained := 0, margined := 0, temps := [], rates := [],
    temp := 0, far := 0, corr := 0, retries := 0, unc := 0, aged := 0, fullFl := 0, rr := 0 }

def Pager.init : Pager :=
  { promoted := 0, demoted := 0, aborted := 0, blocked := 0, promote := 0x0040, lowWater := 0x000800, epoch := 0x18,
    counts := [], cand := [], sweep := 0 }

/-- Device memory with nothing listed. -/
def Mem.init : Mem :=
  { cells := [], use := [], tiers := [], pagers := [], wc := [], poison := [], bad := [], soft := [], migs := [], backing := [],
    wcAge := 0x1000, margin := 0, mErrors := 0, mDone := false, mRefuse := false }

def Splice.init : Splice :=
  { st := .free, ten := 0, p := 0, form := false, m32 := false, sealed := false, suspect := false, tiles := 0,
    status := 0, key := 0, ranks := [], strands := [], staged := [], sums := [], send := [], recv := [], reduced := 0,
    delivered := 0, sent := 0, received := 0, discarded := 0, result := 0, link := 0, compares := 0, passed := false,
    trigger := none, asked := [], notice := false }

def Router.init : Router := { crossings := 0, retries := 0, corrected := 0, up := false, retrain := false, fails := 0, retryDue := 0, softDue := 0 }

def Win.init : Win :=
  { st := .free, dir := false, sealed := false, portA := false, portB := false, riden := false, rid := 0, keyref := 0,
    ten := 0, gen := 0, last := 0, tva := 0, length := 0, key := 0, openseq := 0, enc := 0, records := 0, authFail := 0,
    rejected := 0, lateGen := 0, lateLog := [], drainTok := none, wrote := [], ctls := [] }

def PortSt.init : PortSt := { stray := 0, poisoned := 0, up := false, bufs := [], d3hot := false }

def Quota.init : Quota := { quota := 0, alloc := 0 }

def Mirror.init : Mirror :=
  { standby := false, sync := false, copying := false, pstate := 0, epoch := 0, mseq := 0, applied := 0,
    sent := [], unsent := [], late := [], reads := [], inbox := [], cut := false, wms := [] }

def Wm.init : Wm := { wm := 0, bits := 0, fn := 0, gen := 0 }

/-- A tenancy in state FREE (R351). -/
def Ten.init : Ten :=
  { st := .free, fn := 0, prio := 0, weight := 0, revealOk := false, mirror := 0, ctxslots := 0, fails := 0, braids := 0,
    reveals := 0, ctx := [], deficit := 0, cred := 0, grace := false, lostAt := 0, closing := none, primes := [], chains := [],
    keys := [], ptes := [], ring := Quota.init, bulk := Quota.init, xts := none, late := 0, chan := none, pin := none, pinCurve := 0,
    winKeys := [], migKeys := [], mir := Mirror.init }

def SqRing.init : SqRing :=
  { base := 0, en := false, err := false, log2size := 4, tail := 0, head := 0, seq := 0, seqgen := 0, hist := [] }

def CqRing.init : CqRing :=
  { base := 0, en := false, log2size := 4, coalesce := 1, delay := 0, head := 0, tail := 0, phase := true, used := 0, since := 0 }

/-- A function after reset (R350, R368). -/
def FnSt.init : FnSt :=
  { hbInt := 0x0800, grace := 0x0A00, toklim := 0x0100, defTmo := 0x8000, current := false, lost := false,
    d3hot := false, cq := CqRing.init }

/-- The scheduler after reset (R350). -/
def Sched.init : Sched :=
  { pool := [], fetched := [], nextId := 0, nextCmd := 0, order := [], heldQ := [], unacked := [], saveRef := 0, groupMax := 0x10,
    pdelta := 2, hold := 0x1000, fns := [], sqs := [], groups := [], nextGroup := 0, rr := 0 }

end Sys2Proof.Machine
end

