-- ==== Sys2Proof/Machine/Operands.lean ====
section
/-! DEFINITION. Operands.lean: the clauses of a sentence (R96, R111–R120, R454), their operand forms and their validity
(R97, R98, R141–R144, R156, R180). -/

namespace Sys2Proof.Machine

/-- Clause `n` of a sentence: 0 sync, 1 scalar, 2 vector, 3 matrix, 4 load, 5 store (R96). -/
def clauseOf (s : BitVec 512) (n : Nat) : BitVec 96 :=
  match n with
  | 0 => BitVec.ofNat 96 (fld s 448 64)
  | 1 => BitVec.ofNat 96 (fld s 384 64)
  | 2 => BitVec.ofNat 96 (fld s 288 96)
  | 3 => BitVec.ofNat 96 (fld s 192 96)
  | 4 => BitVec.ofNat 96 (fld s 96 96)
  | _ => BitVec.ofNat 96 (fld s 0 96)

/-- OP of a clause: bits [63:58] of sync, [62:57] of scalar, [95:90] of the others. -/
def clauseOp (n : Nat) (c : BitVec 96) : Nat :=
  if n = 0 then fld c 58 6 else if n = 1 then fld c 57 6 else fld c 90 6

/-- TGT of a scalar clause: true targets every core (R115). -/
def scalarTgt (c : BitVec 96) : Bool := bit c 63

/-- REPEAT of a clause; the sync, scalar and matrix clauses execute once (R107). -/
def clauseRep (n : Nat) (c : BitVec 96) : Nat :=
  if n = 2 then fld c 46 8 else if n = 4 ∨ n = 5 then fld c 59 8 else 0

/-- The vector clause (R118). -/
structure VClause where
  op    : Nat
  ring  : Bool
  vd    : Nat
  va    : Nat
  vb    : Nat
  vc    : Nat
  limb  : Nat
  ladd  : Bool
  lloop : Nat
  pred  : Nat
  pen   : Bool
  pinv  : Bool
  rep   : Nat
  spl   : Nat
  dtile : Bool
  atile : Bool
  ts    : Nat
  dstep : Bool
  astep : Bool
  sub   : Nat

/-- The fields of a vector clause (R118). -/
def vClause (c : BitVec 96) : VClause :=
  { op := fld c 90 6, ring := bit c 89, vd := fld c 84 5, va := fld c 79 5, vb := fld c 74 5, vc := fld c 69 5,
    limb := fld c 62 7, ladd := bit c 61, lloop := fld c 59 2, pred := fld c 56 3, pen := bit c 55, pinv := bit c 54,
    rep := fld c 46 8, spl := fld c 44 2, dtile := bit c 43, atile := bit c 42, ts := fld c 40 2, dstep := bit c 39,
    astep := bit c 38, sub := fld c 30 8 }

/-- The matrix clause (R119). -/
structure MClause where
  op    : Nat
  ring  : Bool
  td    : Nat
  tblk  : Nat
  va    : Nat
  vb    : Nat
  qa    : Nat
  qb    : Nat
  limb  : Nat
  ladd  : Bool
  lloop : Nat
  spl   : Nat
  axis  : Bool
  vd    : Nat
  scnt  : Nat
  acc   : Bool
  cset  : Nat

/-- The fields of a matrix clause (R119). -/
def mClause (c : BitVec 96) : MClause :=
  { op := fld c 90 6, ring := bit c 89, td := fld c 87 2, tblk := fld c 83 4, va := fld c 78 5, vb := fld c 73 5,
    qa := fld c 71 2, qb := fld c 68 3, limb := fld c 61 7, ladd := bit c 60, lloop := fld c 58 2, spl := fld c 56 2,
    axis := bit c 55, vd := fld c 50 5, scnt := fld c 45 5, acc := bit c 44, cset := fld c 34 10 }

/-- A load or store clause (R120). -/
structure LClause where
  op    : Nat
  d     : Nat
  td    : Nat
  areg  : Nat
  offs  : Int
  rep   : Nat
  inc   : Bool
  dstep : Bool
  pred  : Nat
  pen   : Bool
  pinv  : Bool

/-- The fields of a load or store clause (R120). -/
def lClause (c : BitVec 96) : LClause :=
  { op := fld c 90 6, d := fld c 85 5, td := fld c 83 2, areg := fld c 79 4, offs := sgn 12 (fld c 67 12),
    rep := fld c 59 8, inc := bit c 58, dstep := bit c 57, pred := fld c 54 3, pen := bit c 53, pinv := bit c 52 }

/-- A core-target scalar clause (R115). -/
structure SClause where
  op   : Nat
  d    : Nat
  a    : Nat
  b    : Nat
  immf : Bool
  imm  : BitVec 24
  cond : Nat

/-- The fields of a core-target scalar clause (R115). -/
def sClause (c : BitVec 96) : SClause :=
  { op := fld c 57 6, d := fld c 52 5, a := fld c 47 5, b := fld c 42 5, immf := bit c 41,
    imm := BitVec.ofNat 24 (fld c 17 24), cond := fld c 14 3 }

/-- Bytes of an access: 128 for vectors and tile rows, 8 for scalars (R120). -/
def LClause.unit (l : LClause) : Nat := if l.op = 3 then 8 else 128

/-- Is the vector clause in dual form (R142): SUB[0] on MUL, FMA, BFCT or BFGS. -/
def VClause.dual (v : VClause) : Bool := (v.op == 3 || v.op == 4 || v.op == 9 || v.op == 10) && v.sub % 2 == 1

/-- Is it a compare into a predicate (R118). -/
def VClause.predCmp (v : VClause) : Bool := v.op == 5 && (v.sub / 8) % 2 == 1

/-! ## Validity (R97, R98) -/

/-- Sync clause (R111, R180). -/
def syncValid (m32 : Bool) (c : BitVec 96) : Bool :=
  let z := fun (lo n : Nat) => fld c lo n == 0
  match fld c 58 6 with
  | 0 => c == 0
  | 1 => z 0 58
  | 2 => z 16 42
  | 3 => z 48 1 && z 0 32
  | 4 => z 0 49
  | 5 => z 1 57
  | 6 =>
    let beats := fld c 40 10 + 1
    let shift := fld c 32 6
    let w := if m32 then 4 else 8
    let lw := if m32 then 2 else 3
    z 0 32 && fld c 38 2 != 3
      && (fld c 38 2 != 0 || (beats % w == 0 && (shift == 0 || decide (lw ≤ shift)) && decide (shift ≤ 21)))
  | 7 => z 13 45 && decide (fld c 0 6 + fld c 6 6 ≤ 63)
  | 8 => z 12 46 && fld c 0 12 != 0
  | _ => false

/-- Scalar clause (R115, R116, R117); unlisted bits of sequencer operations are reserved (DEDUCED from R111, log 12). -/
def scalarValid (c : BitVec 96) : Bool :=
  let z := fun (lo n : Nat) => fld c lo n == 0
  if fld c 0 64 == 0 then true
  else if scalarTgt c then
    let op := fld c 57 6
    ((decide (1 ≤ op) && decide (op ≤ 0x11)) || (decide (0x18 ≤ op) && decide (op ≤ 0x1C)))
      && z 0 14 && (if op = 0x0E then decide (fld c 14 3 ≤ 5) else fld c 14 3 == 0)
  else
    match fld c 57 6 with
    | 1 => z 0 28
    | 2 => z 0 24
    | 3 => z 40 17 && z 0 28
    | 4 => z 0 12 && fld c 54 3 != 7
    | 5 => z 0 57
    | _ => false

/-- SUB of a vector operation (R118, R141, R142, R144, R145). -/
def subValid (m32 : Bool) (v : VClause) : Bool :=
  match v.op with
  | 3 => v.sub / 2 == 0
  | 4 => v.sub / 2 == 0
  | 5 => v.sub / 16 == 0 && decide (v.sub % 8 ≤ 5)
  | 9 => v.sub / 16 == 0 && decide ((v.sub / 2) % 8 ≤ (if m32 then 5 else 4))
  | 10 => v.sub / 16 == 0 && decide ((v.sub / 2) % 8 ≤ (if m32 then 5 else 4))
  | 12 => true
  | 14 => v.sub % 2 == 0 && v.sub / 8 == 0 && ((v.sub / 4) % 2 == 0 || (v.sub / 2) % 2 == 1)
  | 16 => v.sub / 4 == 0 && v.sub % 4 != 3
  | _ => v.sub == 0

/-- Vector clause (R118, R142, R144, R454). -/
def vectorValid (m32 : Bool) (c : BitVec 96) : Bool :=
  let v := vClause c
  if c == 0 then true
  else
    decide (1 ≤ v.op) && decide (v.op ≤ 16) && fld c 0 30 == 0 && subValid m32 v
      && !((v.op == 9 || v.op == 10 || v.op == 11) && v.ring)
      && !((v.op == 9 || v.op == 10) && (v.vd % 2 == 1 || v.dtile))
      && v.spl != 3 && (v.spl == 0 || (v.dtile && v.ts == 3))
      && (!v.dual
          || (v.va % 2 == 0 && v.vb % 2 == 0 && v.vc % 2 == 0 && !v.dtile && v.spl == 0
              && (if v.op = 9 ∨ v.op = 10 then v.vd % 4 == 0 else v.vd % 2 == 0)))
      && (v.op != 16
          || (v.ring && v.limb == 0 && !v.ladd && v.lloop == 0 && v.spl == 0 && !v.dtile && !v.atile && v.ts == 0))

/-- Matrix clause (R119, R156, R292). -/
def matrixValid (m32 : Bool) (c : BitVec 96) : Bool :=
  let m := mClause c
  if c == 0 then true
  else
    decide (1 ≤ m.op) && decide (m.op ≤ 4) && fld c 0 34 == 0 && m.spl != 3
      && (m.spl == 0 || (m.op == 1 && m.td == 3)) && (m32 || decide (m.qb ≤ 3))
      && (m.op != 4 || decide (m.cset + (m.scnt + 1 + 7) / 8 ≤ 1024))

/-- Load or store clause (R120). -/
def lsValid (c : BitVec 96) : Bool :=
  if c == 0 then true else decide (1 ≤ fld c 90 6) && decide (fld c 90 6 ≤ 3) && fld c 0 52 == 0

/-- A sentence of a kernel in the given mode is valid (R97, R98, R143). -/
def sentenceValid (m32 : Bool) (s : BitVec 512) : Bool :=
  syncValid m32 (clauseOf s 0) && scalarValid (clauseOf s 1) && vectorValid m32 (clauseOf s 2)
    && matrixValid m32 (clauseOf s 3) && lsValid (clauseOf s 4) && lsValid (clauseOf s 5)
    && !((vClause (clauseOf s 2)).dual && clauseOf s 2 != 0 && (mClause (clauseOf s 3)).op == 1)

/-- Is clause `n` a no-op (R97). -/
def isNop (s : BitVec 512) (n : Nat) : Bool := clauseOf s n == 0

/-- Length of a sentence: 1 + the largest REPEAT (R108). -/
def sentenceLen (s : BitVec 512) : Nat :=
  1 + Nat.max (clauseRep 2 (clauseOf s 2)) (Nat.max (clauseRep 4 (clauseOf s 4)) (clauseRep 5 (clauseOf s 5)))

/-! ## Latencies (R124, R456) -/

/-- Latency of a vector operation; an element program of `n` steps takes 4 + n (R150). -/
def vecLatency (op n : Nat) : Nat :=
  match op with
  | 3 => 5
  | 4 => 6
  | 9 => 6
  | 10 => 6
  | 11 => 5
  | 12 => 4 + n
  | 16 => 16
  | _ => 2

/-- The latency class of a clause (R124, R456), in the order of the table, then SGEN; none for a sync operation but WEAVE. -/
def latClass (n : Nat) (c : BitVec 96) : Option Nat :=
  let op := clauseOp n c
  match n with
  | 0 => if op = 6 then some 13 else none
  | 1 => some (if scalarTgt c ∧ 0x18 ≤ op ∧ op ≤ 0x1B then 1 else 0)
  | 2 => some (match op with
      | 1 | 2 | 14 | 15 => 2
      | 3 | 11 => 4
      | 4 => 5
      | 9 | 10 => 6
      | 12 => 7
      | 16 => 14
      | _ => 3)
  | 3 => some (match op with | 1 => 11 | 4 => 12 | _ => 8)
  | 4 => some 9
  | _ => some 10

/-- One more clause of a class among the counts by class. -/
def countClass (acts : List Nat) (k : Option Nat) : List Nat :=
  match k with
  | none => acts
  | some k => (List.range 15).map (fun i => acts.getD i 0 + (if i = k then 1 else 0))

end Sys2Proof.Machine
end

