-- ==== Sys2Proof/Machine/BraidOps.lean ====
section
/-! DEFINITION. BraidOps.lean: the named operations over a braid's registers, scratchpads and results in flight (R99, R100,
R124, R125, R132, R165–R177, R293). -/

namespace Sys2Proof.Machine

open Sys2Proof.Arith

/-! ## Cores and addresses -/

/-- The cores that execute, by the number that keys the braid's tables: 64, or the pairs 0-31 in fold mode (R131). -/
def Braid.cores (b : Braid) : List Nat := List.range (if b.fold then 32 else 64)

/-- Logical core ID, what CID returns (R115, R132). -/
def Braid.logical (b : Braid) (c : Nat) : Nat := if b.fold ∧ b.pass then c + 32 else c

/-- Physical core that serves number `c` (R131). -/
def Braid.physical (b : Braid) (c : Nat) : Nat := if b.fold ∧ bit b.foldHigh c then c + 32 else c

/-- A 22-bit scratchpad address; in fold mode bit 21 is the given pass (R132). -/
def Braid.mapIn (b : Braid) (pass : Bool) (a : Nat) : Nat :=
  if b.fold then a % 2 ^ 21 + (if pass then 2 ^ 21 else 0) else a % 2 ^ 22

/-- The address as the current pass sees it. -/
def Braid.mapAddr (b : Braid) (a : Nat) : Nat := b.mapIn b.pass a

/-- The core and address that logical core `l` uses for address `a` (R165). -/
def Braid.logAddr (b : Braid) (l a : Nat) : Nat × Nat :=
  if b.fold then (l % 32, b.mapIn (decide (32 ≤ l)) a) else (l, a % 2 ^ 22)

/-! ## Registers -/

def Braid.getS (b : Braid) (c i : Nat) : SReg := Sparse.get SReg.init b.s (c * 32 + i % 32)
def Braid.setS (b : Braid) (c i : Nat) (x : SReg) : Braid := { b with s := Sparse.set SReg.init b.s (c * 32 + i % 32) x }
def Braid.getA (b : Braid) (c i : Nat) : AReg := Sparse.get AReg.init b.a (c * 16 + i % 16)
def Braid.setA (b : Braid) (c i : Nat) (x : AReg) : Braid := { b with a := Sparse.set AReg.init b.a (c * 16 + i % 16) x }
def Braid.getV (b : Braid) (c i : Nat) : VCell := Sparse.get VCell.init b.v (c * 32 + i % 32)
def Braid.setV (b : Braid) (c i : Nat) (x : VCell) : Braid := { b with v := Sparse.set VCell.init b.v (c * 32 + i % 32) x }
def Braid.getT (b : Braid) (c t r : Nat) : VReg := Sparse.get 0 b.t ((c * 4 + t % 4) * 16 + r % 16)
def Braid.setT (b : Braid) (c t r : Nat) (x : VReg) : Braid := { b with t := Sparse.set 0 b.t ((c * 4 + t % 4) * 16 + r % 16) x }
def Braid.getTF (b : Braid) (c t : Nat) : TFlag := Sparse.get TFlag.init b.tf (c * 4 + t % 4)
def Braid.setTF (b : Braid) (c t : Nat) (x : TFlag) : Braid := { b with tf := Sparse.set TFlag.init b.tf (c * 4 + t % 4) x }
def Braid.getP (b : Braid) (c i : Nat) : BitVec 32 := Sparse.get 0 b.p (c * 8 + i % 8)
def Braid.setP (b : Braid) (c i : Nat) (x : BitVec 32) : Braid := { b with p := Sparse.set 0 b.p (c * 8 + i % 8) x }
def Braid.poisonedP (b : Braid) (c i : Nat) : Bool := b.pp.has (c * 8 + i % 8)
def Braid.markP (b : Braid) (c i : Nat) (poison : Bool) : Braid :=
  { b with pp := if poison then b.pp.add (c * 8 + i % 8) else b.pp.del (c * 8 + i % 8) }
def Braid.loop (b : Braid) (l : Nat) : LoopCtr := b.loops.getD l LoopCtr.init
def Braid.hdr (b : Braid) (h : Nat) : W64 := b.hdrs.getD h 0

/-- Every register zero and open (R80, R105). -/
def Braid.clearRegs (b : Braid) : Braid := { b with s := [], a := [], v := [], t := [], tf := [], p := [], pp := [] }

/-- Tile T3 zero and open on every core (R114, R293). -/
def Braid.clearT3 (b : Braid) : Braid :=
  { b with t := Sparse.dropKeys b.t (fun k => k / 16 % 4 == 3), tf := Sparse.dropKeys b.tf (fun k => k % 4 == 3) }

/-! ## Address registers (R100) -/

/-- Effective address. -/
def AReg.ea (a : AReg) : Nat := (a.base.toNat + a.offset.toNat) % 2 ^ 22

/-- OFFSET after an advance by `d`: modulo WRAP when nonzero, else modulo 2^22. -/
def AReg.adv (a : AReg) (d : Int) : BitVec 22 :=
  let m : Nat := if a.wrap = 0 then 2 ^ 22 else Nat.min a.wrap.toNat (2 ^ 22)
  BitVec.ofNat 22 (((a.offset.toNat : Int) + d) % (m : Int)).toNat

/-- STRIDE as a signed number. -/
def AReg.step (a : AReg) : Int := sgn 23 a.stride.toNat

/-- Effective address after `n` advances by STRIDE (R178). -/
def AReg.eaAfter (a : AReg) (n : Nat) : Nat :=
  if n = 0 then a.ea else (a.base.toNat + (a.adv ((n : Int) * a.step)).toNat) % 2 ^ 22

/-! ## Scratchpads -/

/-- Key of the 16-byte ECC word of a mapped address (R165). -/
def spKey (c a : Nat) : Nat := c * 2 ^ 18 + a / 16

/-- Key of the 4 KiB poison region of a mapped address. -/
def regionKey (c a : Nat) : Nat := c * 1024 + a / 4096

/-- A byte of a core's scratchpad at a mapped address. -/
def Braid.spByte (b : Braid) (c a : Nat) : Byte := BitVec.ofNat 8 (fld (Sparse.get 0 b.sp (spKey c a)) (8 * (a % 16)) 8)

/-- Put a byte at a mapped address. -/
def Braid.putByte (b : Braid) (c a : Nat) (x : Byte) : Braid :=
  let k := spKey c a
  let w := Sparse.get 0 b.sp k
  let m : BitVec 128 := BitVec.ofNat 128 (255 * 2 ^ (8 * (a % 16)))
  { b with sp := Sparse.set 0 b.sp k ((w &&& ~~~m) ||| BitVec.ofNat 128 (x.toNat * 2 ^ (8 * (a % 16)))) }

/-- Put bytes at mapped addresses. -/
def Braid.putBytes (b : Braid) (c : Nat) (xs : List (Nat × Byte)) : Braid :=
  xs.foldl (fun b x => b.putByte c x.1 x.2) b

/-- The case of the seal-map region of a mapped address (R174); the map is one for every core. -/
def Braid.sealedAt (b : Braid) (a : Nat) : Bool := bit b.sealMap (a / 65536)

/-- Is the region of a mapped address being cleared (R175). -/
def Braid.clearingAt (b : Braid) (a : Nat) : Bool :=
  (Sparse.get [] b.clear (a / 2 ^ 18)).any (fun k => k.region == a / 65536)

/-- Poison bit of the region of a mapped address. -/
def Braid.poisonAt (b : Braid) (c a : Nat) : Bool := b.spPoison.has (regionKey c a)

/-- Set the poison bit of a region (R172). -/
def Braid.setPoison (b : Braid) (c a : Nat) : Braid := { b with spPoison := b.spPoison.add (regionKey c a) }

/-- Poison of the region of a mapped address as the DMA port sees it: a store of a poisoned register counts from its issue (R168, R172). -/
def Braid.poisonAtDma (b : Braid) (c a : Nat) : Bool :=
  b.poisonAt c a || b.flights.any (fun f => f.dest == .mem &&
    f.parts.any (fun p => p.core == c && p.poison && regionKey c p.addr == regionKey c a))

/-- A region written whole from unpoisoned data is not poisoned, by no store under way before it either (R172). -/
def Braid.clearPoison (b : Braid) (c a : Nat) : Braid :=
  { b with
    spPoison := b.spPoison.del (regionKey c a)
    flights := b.flights.map (fun f => if f.dest = .mem then
      { f with parts := f.parts.map (fun p =>
          { p with poison := p.poison && !(p.core == c && regionKey c p.addr == regionKey c a) }) } else f) }

/-- ECC words that places cover whole. -/
def wholeWords (ps : List (Nat × Nat)) : List Nat :=
  let ds := ps.dedup
  ((ds.map (fun p => spKey p.1 p.2)).dedup).filter (fun k => (ds.filter (fun p => spKey p.1 p.2 == k)).length == 16)

/-- Set the written bit of a region (R504). -/
def Braid.setWritten (b : Braid) (c a : Nat) : Braid := { b with written := b.written.add (regionKey c a) }

/-- What a core-port read of `n` ECC words from a mapped, aligned address sees: zero while the region is being cleared. -/
def Braid.readWords (b : Braid) (c a n : Nat) : List (BitVec 128) :=
  if b.clearingAt a then List.replicate n 0
  else (List.range n).map (fun i => Sparse.get 0 b.sp (spKey c a + i))

/-- ECC words of 16 bytes that a run of bytes touches. -/
def wordsOf (c a n : Nat) : List Nat := (List.range ((a % 16 + n + 15) / 16)).map (fun i => spKey c a + i)

/-- Record an uncorrectable error found in an ECC word by a port (R171, R198): the region is poisoned. -/
def Braid.eccHit (b : Braid) (dma : Bool) (key : Nat) : Braid :=
  let c := key / 2 ^ 18
  let a := key % 2 ^ 18 * 16
  let b := b.setPoison c a
  { b with tel := { b.tel with
      eccUnc := BitVec.ofNat 8 (satAdd 8 b.tel.eccUnc.toNat 1), errs := b.tel.errs + 1
      eccCore := BitVec.ofNat 6 (b.physical c), eccBank := BitVec.ofNat 4 (a / 2 ^ 18), eccPort := dma } }

/-- Read the ECC of words, each once (R170, R171): corrections are counted and made in the array; every uncorrectable word is recorded.
The flag says that there was one. -/
def Braid.eccRead (b : Braid) (keys : List Nat) (dma : Bool) : Braid × Bool :=
  let fixed := keys.filter b.ecc1.has
  let bad := keys.filter b.ecc2.has
  let b := { b with
    ecc1 := b.ecc1.filter (fun k => !keys.contains k)
    tel := { b.tel with eccCorr := BitVec.ofNat 16 (satAdd 16 b.tel.eccCorr.toNat fixed.length) } }
  (bad.foldl (Braid.eccHit · dma) b, !bad.isEmpty)

/-- A whole write of a word leaves it with fresh ECC. -/
def Braid.eccFresh (b : Braid) (keys : List Nat) : Braid :=
  { b with ecc1 := b.ecc1.filter (fun k => !keys.contains k), ecc2 := b.ecc2.filter (fun k => !keys.contains k) }

/-- What the writes of some bytes, core and address, do to the ECC of their words (R170): words written in part are read for the merge, and
keep an uncorrectable error; words written whole, by these bytes or, with the words `whole`, by the beat that they are part of, have fresh
ECC. Answers the words that are not written. -/
def Braid.eccWrite (b : Braid) (xs : List (Nat × Nat)) (dma : Bool) (whole : List Nat := []) : Braid × List Nat :=
  let keys := (xs.map (fun x => spKey x.1 x.2)).dedup
  let part := keys.filter (fun k => (xs.filter (fun x => spKey x.1 x.2 == k)).length != 16 && !whole.contains k)
  let r := b.eccRead part dma
  (r.1.eccFresh (keys.filter (fun k => !part.contains k)), part.filter b.ecc2.has)

/-! ## Time -/

/-- The braid cycle that the braid has reached. -/
def Braid.now (b : Braid) : Nat := Nat.max b.cycle b.issueAt

/-- Does some DMA access of the braid wait for a bank by the ownership map or a clearing (R169, R175). -/
def Braid.dmaWaits (b : Braid) : Bool :=
  b.rings.any (fun e => e.2.tileWait == .owner || (match e.2.xfer with | some x => x.wait == .owner | none => false))

/-- Count `n` cycles of TEL.DMA_WAIT. -/
def Braid.countDma (b : Braid) (n : Nat) : Braid :=
  { b with tel := { b.tel with dmaWait := BitVec.ofNat 32 (satAdd 32 b.tel.dmaWait.toNat n) } }

/-- Issue moves to cycle `t`; every cycle in which a DMA access waits is counted once (R169), less `done` counted already. -/
def Braid.advanceTo (b : Braid) (t : Nat) (done : Nat := 0) : Braid :=
  { (if b.dmaWaits then b.countDma (t - b.issueAt - done) else b) with issueAt := t }

/-- Banks whose DMA accesses are deferred. -/
def Braid.deferredBanks (b : Braid) : List Nat :=
  b.rings.flatMap (fun e => (match e.2.xfer with | some x => if x.wait == .deferred then x.banks else [] | none => []) ++
    (if e.2.tileWait == .deferred then e.2.tileBanks else []))

/-- DMA accesses to banks are deferred in cycle `t`: each bank is counted once per cycle (R168). -/
def Braid.countConflict (b : Braid) (t : Nat) (banks : List Nat) : Braid :=
  let old := if b.touchedAt = t then b.deferred else []
  let new := (banks.filter (fun k => !old.contains k)).dedup
  { b with touched := if b.touchedAt = t then b.touched else [], touchedAt := t, deferred := old ++ new
           tel := { b.tel with conflict := new.foldl (fun c k =>
             Sparse.set 0 c k (BitVec.ofNat 32 (satAdd 32 (Sparse.get 0 c k).toNat 1))) b.tel.conflict } }

/-- Core ports touch banks in cycle `t`, which defers the DMA accesses that were deferred to them before (R168). -/
def Braid.touchAt (b : Braid) (t : Nat) (banks : List Nat) : Braid :=
  { b.countConflict t (b.deferredBanks.filter banks.contains) with
    touched := ((if b.touchedAt = t then b.touched else []) ++ banks).dedup }

/-! ## Results in flight -/

/-- Flights in landing order keep issue order in the list; the earliest due cycle. -/
def Braid.nextDue (b : Braid) : Option Nat :=
  b.flights.foldl (fun m f => match m with | none => some f.due | some d => some (Nat.min d f.due)) none

/-- Nothing is due at or before cycle `t` and unlanded. -/
def Braid.landedBy (b : Braid) (t : Nat) : Bool :=
  b.flights.all (fun f => decide (t < f.due)) && (match b.weave with | none => true | some w => decide (t < w.due))

/-- Put a result in flight. -/
def Braid.send (b : Braid) (f : Landing) : Braid := { b with flights := b.flights ++ [f], order := b.order + 1 }

/-- A DMA write of bytes takes them out of the stores not yet visible (R168, DEDUCED from its table, log 13). -/
def Braid.cancelStores (b : Braid) (c lo n : Nat) : Braid :=
  { b with flights := b.flights.map (fun f =>
      if f.dest = .mem then
        { f with parts := f.parts.map (fun p =>
            if p.core = c then { p with bytes := p.bytes.filter (fun x => !(decide (lo ≤ x.1) && decide (x.1 < lo + n))) }
            else p) }
      else f) }

/-- The byte as the DMA port sees it: the youngest store not yet visible, else the array (R168). -/
def Braid.dmaByte (b : Braid) (c a : Nat) : Byte :=
  let hit := b.flights.filterMap (fun f =>
    if f.dest = .mem then
      (f.parts.filter (fun p => p.core == c)).findSome? (fun p => (p.bytes.find? (fun x => x.1 == a)).map Prod.snd)
    else none)
  match hit.getLast? with
  | some x => x
  | none => b.spByte c a

/-- A class of landing claims: registers of R125 with their row. -/
def Dest.keys : Dest → List Nat
  | .s i => [i]
  | .aBase i => [1024 + i * 8]
  | .aOffset i => [1024 + i * 8 + 1]
  | .aStride i => [1024 + i * 8 + 2]
  | .aWrap i => [1024 + i * 8 + 3]
  | .v i => [2048 + i]
  | .row t r => [3072 + t * 16 + r]
  | .tile t => (List.range 16).map (fun r => 3072 + t * 16 + r)
  | .p i => [4096 + i]
  | .mem => []

/-- The register a loss is counted for, once per cycle (R125). -/
def Dest.reg : Dest → Nat
  | .s i => i
  | .aBase i => 1024 + i
  | .aOffset i => 1024 + i
  | .aStride i => 1024 + i
  | .aWrap i => 1024 + i
  | .v i => 2048 + i
  | .row t _ => 3072 + t
  | .tile t => 3072 + t
  | .p i => 4096 + i
  | .mem => 5120

/-- Does `f` beat `g` in one landing cycle: lower clause number, then later issue (R125). -/
def Landing.beats (f g : Landing) : Bool := f.clause < g.clause || (f.clause == g.clause && g.order < f.order)

/-- Sort by precedence, by insertion. -/
def insertLanding (f : Landing) : List Landing → List Landing
  | [] => [f]
  | g :: gs => if f.beats g then f :: g :: gs else g :: insertLanding f gs

/-- All lanes. -/
def allLanes (m32 : Bool) : BitVec 32 := if m32 then 0xFFFFFFFF else 0x0000FFFF

/-- Replace or accumulate the masked lanes of a register (R110, R146, R152). -/
def mergeLanes (m32 : Bool) (m : Merge) (old : VReg) (p : Part) (mask : BitVec 32) : VReg :=
  let w := laneW m32
  ofLanes m32 ((List.range (laneN m32)).map (fun i =>
    if bit mask i then
      match m with
      | .replace => lane m32 p.val i
      | .acc q => (lane m32 old i + lane m32 p.val i) % (if q = 0 then 2 ^ w else q)
      | .mac q => accL w (if q = 0 then none else some q) (lane m32 old i) (lane m32 p.hi i * 2 ^ w + lane m32 p.val i)
    else lane m32 old i))

/-- The case and poison of a tile after part `p` has landed in row `r`: the more of the old and the new, until a repeat has written all
sixteen rows whole; then what was written since it began (R79, R158). -/
def TFlag.row (f : TFlag) (p : Part) (r : Nat) (run : Option Bool) (full : Bool) : TFlag :=
  let first := run == some true
  let rows : BitVec 16 := (if first then 0 else f.rows) ||| (if run.isSome && full then BitVec.ofNat 16 (2 ^ (r % 16)) else 0)
  let s := p.sealed || (!first && f.runSealed)
  let x := p.poison || (!first && f.runPoison)
  if rows = 0xFFFF then { sealed := s, poison := x, rows := 0, runSealed := s, runPoison := x }
  else { sealed := f.sealed || p.sealed, poison := f.poison || p.poison, rows := rows, runSealed := s, runPoison := x }

/-- Write one core's part of a landing with the lanes it keeps; `full` says that no lane was lost or unselected. -/
def Braid.landPart (b : Braid) (f : Landing) (p : Part) (mask : BitVec 32) : Braid :=
  let c := p.core
  let full := p.full && mask == p.mask
  match f.dest with
  | .s i => if bit mask 0 then b.setS c i { val := BitVec.ofNat 64 (fld p.val 0 64), sealed := p.sealed } else b
  | .aBase i => if bit mask 0 then b.setA c i { b.getA c i with base := BitVec.ofNat 22 (fld p.val 0 22) } else b
  | .aOffset i => if bit mask 0 then b.setA c i { b.getA c i with offset := BitVec.ofNat 22 (fld p.val 0 22) } else b
  | .aStride i => if bit mask 0 then b.setA c i { b.getA c i with stride := BitVec.ofNat 23 (fld p.val 0 23) } else b
  | .aWrap i => if bit mask 0 then b.setA c i { b.getA c i with wrap := BitVec.ofNat 23 (fld p.val 0 23) } else b
  | .p i => (b.setP c i ((b.getP c i &&& ~~~mask) ||| (BitVec.ofNat 32 (fld p.val 0 32) &&& mask))).markP c i
      (p.poison || (!full && b.poisonedP c i))
  | .v i =>
    let old := b.getV c i
    let val := if full then (match f.merge with | .replace => p.val | m => mergeLanes b.m32 m old.val p mask)
      else mergeLanes b.m32 f.merge old.val p mask
    b.setV c i { val := val, sealed := if full then p.sealed else old.sealed || p.sealed,
                 poison := if full then p.poison else old.poison || p.poison }
  | .row t r =>
    let old := b.getT c t r
    (b.setT c t r (mergeLanes b.m32 f.merge old p mask)).setTF c t ((b.getTF c t).row p r f.run full)
  | .tile t => b.setTF c t { sealed := false, poison := false }
  | .mem =>
    let b := b.putBytes c p.bytes
    if p.poison then b.setPoison c p.addr else b

/-- Land one result among those of its cycle: `claims` holds the lanes already taken, by register row and core; a result
that loses a lane adds its register to the lost ones. -/
def Braid.landOne (st : Braid × Sparse (BitVec 32) × NatSet) (f : Landing) : Braid × Sparse (BitVec 32) × NatSet :=
  f.parts.foldl (fun (st : Braid × Sparse (BitVec 32) × NatSet) p =>
    match f.dest with
    | .tile t =>
      let r := (List.range 16).foldl (fun (a : Braid × Sparse (BitVec 32) × Bool) r =>
        let key := (3072 + t * 16 + r) * 64 + p.core
        let taken := Sparse.get 0 a.2.1 key
        let eff := p.mask &&& ~~~taken
        (a.1.setT p.core t r (mergeLanes a.1.m32 .replace (a.1.getT p.core t r) p eff),
          Sparse.set 0 a.2.1 key (taken ||| p.mask), a.2.2 || eff != p.mask)) (st.1, st.2.1, false)
      (if r.2.2 then r.1.setTF p.core t { sealed := (r.1.getTF p.core t).sealed || p.sealed, poison := (r.1.getTF p.core t).poison || p.poison }
        else r.1.landPart f p p.mask, r.2.1, if r.2.2 then st.2.2.add f.dest.reg else st.2.2)
    | .mem => (st.1.landPart f p p.mask, st.2.1, st.2.2)
    | d =>
      let key := (d.keys.headD 0) * 64 + p.core
      -- a scalar write to an address register beats an advance of the same register (R125)
      let anyKey := (1024 + (match d with | .aBase i => i | .aOffset i => i | .aStride i => i | .aWrap i => i | _ => 0) * 8 + 4) * 64 + p.core
      let isA := match d with | .aBase _ => true | .aOffset _ => true | .aStride _ => true | .aWrap _ => true | _ => false
      let taken := Sparse.get 0 st.2.1 key ||| (if isA && f.clause != 1 then Sparse.get 0 st.2.1 anyKey else 0)
      let eff := p.mask &&& ~~~taken
      let claims := Sparse.set 0 st.2.1 key (taken ||| p.mask)
      let claims := if isA && f.clause == 1 then Sparse.set 0 claims anyKey (Sparse.get 0 claims anyKey ||| p.mask) else claims
      (if p.mask == 0 || eff != 0 then st.1.landPart f p eff else st.1, claims,
        if eff != p.mask then st.2.2.add d.reg else st.2.2)) st

/-- Snapshot of T3 on every core as a contribution (R293); the words are keyed core·16 + row by logical core. -/
def Braid.snapshot (b : Braid) (id : Nat) (q : Nat) : Contrib :=
  { braid := id, tile := b.nextTile, form := q == 0, mode := b.m32, q := q,
    sealed := b.cores.any (fun c => (b.getTF c 3).sealed),
    words := b.cores.foldl (fun m c => (List.range 16).foldl (fun m r => Sparse.set 0 m (c * 16 + r) (b.getT c 3 r)) m) [] }

/-- Take from the stores landing in cycle `t` the bytes that the weave writes in that cycle: the exchange wins, and one
collision is counted (R177). -/
def Braid.weaveWins (b : Braid) (t : Nat) (ws : List (Nat × Nat)) : Braid :=
  let hits := fun (f : Landing) => f.due == t && f.dest == .mem &&
    f.parts.any (fun p => p.bytes.any (fun x => ws.contains (p.core, x.1)))
  if b.flights.any hits then
    { b with
      flights := b.flights.map (fun f => if hits f then { f with parts := f.parts.map (fun p =>
        let left := p.bytes.filter (fun x => !ws.contains (p.core, x.1))
        { p with bytes := left, poison := p.poison && (p.bytes.isEmpty || !left.isEmpty) }) } else f)
      tel := { b.tel with collide := BitVec.ofNat 32 (satAdd 32 b.tel.collide.toNat 1) } }
  else b

/-- Every byte a weave writes: core, mapped address, byte (R178, R179). -/
def Braid.weaveBytes (b : Braid) (w : WeaveFlight) : List (Nat × Nat × Byte) :=
  w.runs.flatMap (fun r =>
    let ca := b.logAddr r.core
    (r.data.zipIdx).flatMap (fun wd => (wd.1.zipIdx).map (fun y =>
      let t := ca (r.addr + r.step * wd.2 + y.2)
      (t.1, t.2, y.1))))

/-- Land everything due in cycle `t`: results by the precedence of R125, then an export's snapshot at the end of the cycle
(R293). `id` is the braid's number. -/
def Braid.land (b : Braid) (id t : Nat) : Braid :=
  let b : Braid := match b.weave with
    | some w => if w.due = t then b.weaveWins t ((b.weaveBytes w).map (fun x => (x.1, x.2.1))) else b
    | none => b
  let due : List Landing := (b.flights.filter (fun f => f.due == t)).foldl (fun l f => insertLanding f l) []
  let b := { b with flights := b.flights.filter (fun f => f.due != t), cycle := Nat.max b.cycle t }
  let r := due.foldl Braid.landOne (b, [], [])
  let b : Braid := r.1
  let b := { b with tel := { b.tel with collide := BitVec.ofNat 32 (satAdd 32 b.tel.collide.toNat r.2.2.length) } }
  let xs := due.filterMap (fun f => f.xport)
  if xs.isEmpty then b
  else
    let snap := xs.foldl (fun (b : Braid) q => { b with queue := b.queue ++ [b.snapshot id q], nextTile := b.nextTile + 1 }) b
    snap.clearT3

end Sys2Proof.Machine
end

