-- ==== Sys2Proof/Machine/Flags.lean ====
section
/-! DEFINITION. Flags.lean: the status codes (R503), the conditions of branches (R117), and every check at issue (R126, R81,
R82, R89, R113, R114, R134, R148, R181, R295). -/

namespace Sys2Proof.Machine

open Sys2Proof.Arith

/-! ## Status codes (R503) -/

def Status.ok : Byte := 0x00
def Status.okFlagged : Byte := 0x01
def Status.levelExhausted : Byte := 0x10
def Status.headroomExceeded : Byte := 0x11
def Status.keysetMismatch : Byte := 0x12
def Status.chainMismatch : Byte := 0x13
def Status.spliceMismatch : Byte := 0x14
def Status.caseViolation : Byte := 0x15
def Status.poisonedOperand : Byte := 0x16
def Status.descriptorOverlap : Byte := 0x17
def Status.transposeOverlap : Byte := 0x18
def Status.illegalTileOwner : Byte := 0x19
def Status.foldUnsafe : Byte := 0x1A
def Status.pageNotPresent : Byte := 0x20
def Status.pageUnmapped : Byte := 0x21
def Status.quotaExceeded : Byte := 0x22
def Status.windowClosed : Byte := 0x23
def Status.recordAuthFail : Byte := 0x24
def Status.operandRange : Byte := 0x30
def Status.noInverse : Byte := 0x31
def Status.pointNotOnCurve : Byte := 0x32
def Status.curveRejected : Byte := 0x33
def Status.signCheckFail : Byte := 0x34
def Status.primeRejected : Byte := 0x35
def Status.aborted : Byte := 0x40
def Status.timeout : Byte := 0x41
def Status.preempted : Byte := 0x42
def Status.eccUncorrected : Byte := 0x50
def Status.residueCheckFail : Byte := 0x51
def Status.linkFail : Byte := 0x52
def Status.digestMismatch : Byte := 0x53
def Status.tenancyOrphaned : Byte := 0x60
def Status.tenancyWiped : Byte := 0x61
def Status.internal : Byte := 0x7F

/-! ## Limb selectors (R118, R126 check 4, R150) -/

/-- LIMB plus the iteration index when LADD = 1. -/
def Braid.limbSel (b : Braid) (limb : Nat) (ladd : Bool) (lloop : Nat) : Nat :=
  limb + (if ladd then (b.loop lloop).index.toNat else 0)

/-- The modulus of a clause: none in ring form, the selected prime otherwise. -/
def Braid.modulus (b : Braid) (ring : Bool) (sel : Nat) : Option Nat :=
  if ring then none else some (b.limbs.getD sel 0).toNat

/-- The modular steps' limb offsets of an element program. -/
def EProg.offs (e : EProg) : List Nat := (e.steps.filter (fun s => !bit s 5)).map (fun s => fld s 18 4)

/-- The limb selectors a vector clause uses. -/
def Braid.vecSels (b : Braid) (v : VClause) : List Nat :=
  let sel := b.limbSel v.limb v.ladd v.lloop
  (if v.ring then [] else [sel]) ++
    (if v.op = 12 then ((b.progs.getD v.sub { res := 0, consts := [], steps := [] }).offs).map (fun o => sel + o) else [])

/-! ## Conditions of BR (R117) -/

/-- The sentence at PC. -/
def Braid.cur (b : Braid) : BitVec 512 := b.sents.getD b.pc.toNat 0

/-- The WIDTH-bit field of a header register at LSB; bits above bit 63 read as zero (DESIGN CHOICE, log 91). -/
def Braid.hField (b : Braid) (h lsb width : Nat) : Nat := fld (b.hdr h) lsb width

/-- Is the branch taken. -/
def Braid.brTaken (b : Braid) (c : BitVec 96) : Bool :=
  let n := fld c 51 3
  let f := b.hField n (fld c 45 6) (fld c 40 5 + 1)
  let imm := fld c 12 16
  let lanesOf := fun (k : Nat) => b.getP k n &&& allLanes b.m32
  match fld c 54 3 with
  | 0 => f == imm
  | 1 => f != imm
  | 2 => decide (f < imm)
  | 3 => b.cores.any (fun k => lanesOf k != 0)
  | 4 => b.cores.all (fun k => lanesOf k == allLanes b.m32)
  | 5 => (b.loop (n % 4)).index.toNat == imm
  | 6 => b.tflag
  | _ => false

/-! ## Addresses of loads and stores (R120) -/

/-- The mapped address of an access on core `c`. -/
def Braid.lsAddr (b : Braid) (l : LClause) (c : Nat) : Nat :=
  let u := l.unit
  let a := ((((b.getA c l.areg).ea : Int) + l.offs * (u : Int)) % (2 ^ 22 : Int)).toNat
  b.mapAddr (a / u * u)

/-- The lanes an access or operation selects on core `c` (R110). -/
def Braid.laneMask (b : Braid) (pen pinv : Bool) (pred c : Nat) : BitVec 32 :=
  if pen then
    let p := b.getP c pred &&& allLanes b.m32
    if pinv then allLanes b.m32 &&& ~~~p else p
  else allLanes b.m32

/-- The lanes of a load or store; bit 0 of the predicate gates LDS and STS whole (R110). -/
def Braid.lsMask (b : Braid) (l : LClause) (c : Nat) : BitVec 32 :=
  let m := b.laneMask l.pen l.pinv l.pred c
  if l.op = 3 then m &&& 1 else m

/-! ## The weave's plan (R178, R179) -/

/-- One run of a weave: source logical core and address, bytes, destination logical core and address. -/
structure WeaveStep where
  src  : Nat
  sa   : Nat
  n    : Nat
  dst  : Nat
  da   : Nat

/-- The address register `i` as logical core `l` sees it. -/
def Braid.logA (b : Braid) (l i : Nat) : AReg := b.getA (if b.fold then l % 32 else l) i

/-- The runs of a WEAVE clause. -/
def Braid.weavePlan (b : Braid) (c : BitVec 96) : List WeaveStep :=
  let src := fld c 54 4
  let dst := fld c 50 4
  let beats := fld c 40 10 + 1
  let shift := fld c 32 6
  match fld c 38 2 with
  | 0 => (List.range 64).flatMap (fun k => (List.range 64).map (fun d =>
      { src := k, sa := (b.logA k src).eaAfter d, n := beats, dst := d, da := (b.logA d dst).eaAfter k }))
  | 1 => (List.range 64).map (fun k =>
      { src := k, sa := (b.logA k src).ea, n := beats * 64, dst := (k + shift) % 64, da := (b.logA ((k + shift) % 64) dst).ea })
  | _ => (List.range 64).map (fun d =>
      { src := shift, sa := (b.logA shift src).ea, n := beats * 64, dst := d, da := (b.logA d dst).ea })

/-- Spacing of words on the destination side: contiguous, or 2^SHIFT bytes under PATTERN 0 (R178). -/
def weaveStepOf (m32 : Bool) (c : BitVec 96) : Nat :=
  if fld c 38 2 = 0 ∧ fld c 32 6 ≠ 0 then 2 ^ fld c 32 6 else if m32 then 4 else 8

/-- The mapped 16-byte words that a run of bytes meets, each once. -/
def Braid.runPlaces (b : Braid) (l a n : Nat) : List (Nat × Nat) :=
  (List.range ((a % 16 + n + 15) / 16)).map (fun i => b.logAddr l (a / 16 * 16 + 16 * i))

/-- The 16-byte words a weave reads, each once, and the places it writes. -/
def Braid.weaveReads (b : Braid) (c : BitVec 96) : List (Nat × Nat) :=
  ((b.weavePlan c).flatMap (fun s => b.runPlaces s.src s.sa s.n)).dedup
def Braid.weaveWrites (b : Braid) (c : BitVec 96) : List (Nat × Nat) :=
  let w := if b.m32 then 4 else 8
  let st := weaveStepOf b.m32 c
  (b.weavePlan c).flatMap (fun s => (List.range (s.n / w)).flatMap (fun k =>
    [b.logAddr s.dst (s.da + st * k), b.logAddr s.dst (s.da + st * k + w - 1)]))

/-! ## Weave segments of fold mode (R133) -/

/-- The next sentence and the loops after a sentence at `pc` that takes no branch: of the active loops whose END it is, the
innermost goes first; a loop back decides, a loop that leaves lets the next outer one decide (R121, DEDUCED for a shared END,
log 14). -/
def stepLoops (pc : Nat) (loops : List LoopCtr) : Nat × List LoopCtr :=
  let ends := (loops.zipIdx).filter (fun x => x.1.active && x.1.last.toNat == pc)
  -- innermost: the body that starts last
  let order := ends.foldl (fun l x =>
    let ins := l.takeWhile (fun y => decide (x.1.first.toNat < y.1.first.toNat))
    ins ++ [x] ++ l.drop ins.length) ([] : List (LoopCtr × Nat))
  let r := order.foldl (fun (st : Nat × List LoopCtr × Bool) x =>
      if st.2.2 then st
      else if x.1.index.toNat + 1 < x.1.count.toNat then
        (x.1.first.toNat, st.2.1.set x.2 { x.1 with index := x.1.index + 1 }, true)
      else (st.1, st.2.1.set x.2 { x.1 with active := false }, false)) (pc + 1, loops, false)
  (r.1, r.2.1)

/-- Does a sentence keep a segment a weave segment: only WEAVE, IDLE, BANKMAP or HITCH in its sync clause. -/
def weaveOnly (s : BitVec 512) : Bool :=
  (List.range 5).all (fun i => isNop s (i + 1)) &&
    (isNop s 0 || [1, 2, 6, 8].contains (clauseOp 0 (clauseOf s 0)))

/-- A loop that goes back once more and then leaves: its body holds the same sentences whatever the count. -/
def LoopCtr.twice (l : LoopCtr) : LoopCtr := { l with count := if l.index.toNat + 2 < l.count.toNat then l.index + 2 else l.count }

/-- Walk the segment from `pc` to its HITCH or to the end of the store, with fuel. -/
def weaveWalk (sents : List (BitVec 512)) : Nat → Nat → List LoopCtr → Bool
  | 0, _, _ => false
  | f + 1, pc, loops =>
    match sents[pc]? with
    | none => true
    | some s =>
      if !weaveOnly s then false
      else if !isNop s 0 && clauseOp 0 (clauseOf s 0) == 1 then true
      else
        let r := stepLoops pc loops
        weaveWalk sents f r.1 r.2

/-- Fuel of the walk: four loops go back at most once each over a store of 4,096 sentences. -/
def weaveFuel : Nat := 20481

/-- Is the current segment a weave segment. -/
def Braid.weaveSegment (b : Braid) : Bool :=
  b.fold && weaveWalk b.sents weaveFuel b.mark.pc.toNat (b.mark.loops.map LoopCtr.twice)

/-! ## Checks at issue (R126) -/

/-- Does any core hold a sealed scalar, vector or tile. -/
def Braid.anySealedS (b : Braid) (i : Nat) : Bool := b.cores.any (fun c => (b.getS c i).sealed)
def Braid.anySealedV (b : Braid) (i : Nat) : Bool := b.cores.any (fun c => (b.getV c i).sealed)
def Braid.anySealedT (b : Braid) (t : Nat) : Bool := b.cores.any (fun c => (b.getTF c t).sealed)
def Braid.anyPoisonV (b : Braid) (i : Nat) : Bool := b.cores.any (fun c => (b.getV c i).poison)

/-- A program write to T3 that has not landed (R114). -/
def Braid.t3Pending (b : Braid) : Bool :=
  b.flights.any (fun f => match f.dest with | .row 3 _ => true | .tile 3 => true | _ => false)

/-- Ownership of T3 (R126 check 3): a write with SPL = 0 while export is enabled, SPL ≠ 0 while it is disabled. -/
def Braid.t3Bad (b : Braid) (writes : Bool) (spl : Nat) : Bool :=
  if b.spliceEn then writes && spl == 0 else spl != 0

/-- The first failure among conditions in the order of R126's table. -/
def firstFail (l : List (Bool × Byte)) : Option Byte := (l.find? (fun x => x.1)).map Prod.snd

/-- The vector or the matrix clause of a sentence exports: SPL = 2 (R292). -/
def vExports (s : BitVec 512) : Bool := !isNop s 2 && (vClause (clauseOf s 2)).spl == 2
def mExports (s : BitVec 512) : Bool := !isNop s 3 && (mClause (clauseOf s 3)).spl == 2

/-- Exporting clauses of a sentence. -/
def exports (s : BitVec 512) : Nat := (if vExports s then 1 else 0) + (if mExports s then 1 else 0)

/-- Exports issued before the current cycle: those landed, and those in flight or queued by the entries reserved, without the entry of a
repeated vector clause whose last iteration is still to come (R292, R294). -/
def Braid.exported (b : Braid) : Nat :=
  b.nextTile + b.reserved - b.queue.length -
    (if 0 < b.iter ∧ vExports b.cur ∧ b.iter ≤ (vClause (clauseOf b.cur 2)).rep then 1 else 0)

/-- The exporting clause `n` would export tile T (R295); of two that export in one cycle the vector clause comes first (log 92). -/
def Braid.overExport (b : Braid) (n spl : Nat) (last : Bool) : Bool :=
  let before := if n = 3 ∧ vExports b.cur ∧ b.iter = (vClause (clauseOf b.cur 2)).rep then 1 else 0
  spl == 2 && last && decide (b.tiles ≤ b.exported + before)

/-- The checks of one due clause; `it` is the iteration. The order of the table leaves open where R295's SPLICE_MISMATCH and the ABORTED of
an absent element program (R148) stand: here between checks 3 and 4, and last (DESIGN CHOICE, log 92). A store on a core that the
predicate gives no lane stores nothing and meets no check 2 there (DESIGN CHOICE, log 93). -/
def Braid.checkClause (b : Braid) (n : Nat) (c : BitVec 96) (it : Nat) : Option Byte :=
  match n with
  | 0 =>
    match fld c 58 6 with
    | 5 => firstFail [(bit c 0 && (!b.splices || b.t3Pending), Status.illegalTileOwner), (b.fold, Status.foldUnsafe)]
    | 6 =>
      let rd := b.weaveReads c
      let wr := b.weaveWrites c
      firstFail
        [(rd.any (fun x => b.sealedAt x.2) && wr.any (fun x => !b.sealedAt x.2), Status.caseViolation),
         (rd.any (fun x => b.poisonAt x.1 x.2), Status.poisonedOperand),
         (b.fold && !b.weaveSegment, Status.foldUnsafe),
         (b.weave.isSome, Status.aborted)]
    | _ => none
  | 1 =>
    if scalarTgt c then
      let s := sClause c
      let ctl := s.op = 0x0E ∨ (0x18 ≤ s.op ∧ s.op ≤ 0x1B)
      firstFail [(decide ctl && (b.anySealedS s.a || (!s.immf && b.anySealedS s.b)), Status.caseViolation)]
    else
      firstFail [(fld c 57 6 == 4 && (fld c 54 3 == 3 || fld c 54 3 == 4) && b.fold, Status.foldUnsafe)]
  | 2 =>
    let v := vClause c
    let st := if v.astep then (if v.dual then 2 * it else it) else 0
    let sealedA := if v.atile then b.anySealedT v.ts else b.anySealedV (v.va + st)
    firstFail
      [(v.predCmp && (sealedA || b.anySealedV (v.vb + st)), Status.caseViolation),
       (v.op == 16 && (b.anySealedV (v.va + st) || b.anySealedS v.vb || b.anySealedS (v.vb + 1) || b.anySealedS (v.vb + 2)),
         Status.caseViolation),
       (v.op == 13 && !b.reveals, Status.caseViolation),
       (b.t3Bad (v.dtile && v.ts == 3 && !v.predCmp) v.spl, Status.illegalTileOwner),
       (b.overExport 2 v.spl (it == v.rep), Status.spliceMismatch),
       ((b.vecSels v).any (fun s => decide (b.limbs.length ≤ s)), Status.chainMismatch),
       (v.spl != 0 && b.fold, Status.foldUnsafe),
       (v.op == 12 && decide (b.progs.length ≤ v.sub), Status.aborted)]
  | 3 =>
    let m := mClause c
    let sel := b.limbSel m.limb m.ladd m.lloop
    firstFail
      [(b.t3Bad ((m.op == 1 || m.op == 2) && m.td == 3) m.spl, Status.illegalTileOwner),
       (b.overExport 3 m.spl true, Status.spliceMismatch),
       (!m.ring && decide (b.limbs.length ≤ sel), Status.chainMismatch),
       (m.op == 4 && ((List.range (m.scnt + 1)).any (fun i => b.anyPoisonV (m.va + i)) || (m.acc && b.anyPoisonV m.vd)),
         Status.poisonedOperand),
       (m.spl != 0 && b.fold, Status.foldUnsafe)]
  | 4 =>
    let l := lClause c
    firstFail
      [(b.t3Bad (l.op == 2 && l.td == 3) 0, Status.illegalTileOwner),
       (b.cores.any (fun k => b.poisonAt k (b.lsAddr l k) || (l.pen && b.poisonedP k l.pred)), Status.poisonedOperand)]
  | _ =>
    let l := lClause c
    let st := if l.dstep then it else 0
    firstFail
      [(b.cores.any (fun k =>
          let a := b.lsAddr l k
          let sealed := if l.op = 1 then (b.getV k (l.d + st)).sealed
            else if l.op = 2 then (b.getTF k l.td).sealed else (b.getS k (l.d + st)).sealed
          sealed && !b.sealedAt a && b.lsMask l k != 0), Status.caseViolation)]

end Sys2Proof.Machine
end

