-- ==== Sys2Proof/Machine/StPlatform.lean ====
section
/-! DEFINITION. StPlatform.lean: the parts of State that belong to the platform: what leaves the module, the interrupt
controller and the black-box record. -/

namespace Sys2Proof.Machine

/-- What the module sends out (DESIGN CHOICE, log 6): a completion or data written to host memory, an MSI-X message, a packet of the management port,
its In-Band Interrupt and its provisional ID, read data, a completion of a bulk-port read, an unsupported request, a commit record, a notice, a resync
copy or a pairing offer for the belay partner. -/
inductive Out where
  | hostWrite (f : Fn) (addr : W64) (data : List Byte)
  | completion (f : Fn) (addr : W64) (data : List Byte)
  | msix (entry : Nat)
  | packet (som eom : Bool) (seq : Nat) (data : List Byte)
  | ibi (data : Byte)
  | provId (id : BitVec 48)
  | readData (v : W64)
  | barData (data : List Byte) (poisoned : Bool)
  | barAbort
  | unsupported
  | record (head : List Byte) (r : CommitRecord)
  | notice (n : Tid) (kind : Byte)
  | resync (n : Tid) (c : PeerCopy)
  | modId (id : BitVec 3)
  | pairOffer (chain : List Byte) (lc : Byte) (operator : BitVec 512) (nonce : BitVec 256) (key sig : List Byte)
  deriving DecidableEq, Repr

/-- A black-box entry before it is stored (R507). -/
structure BbxEntry where
  cycles : W64
  domain : Byte
  cls    : Byte
  unit   : BitVec 16
  event  : BitVec 16
  status : Byte
  ten    : Option Tid
  args   : List W64
  deriving DecidableEq, Repr

/-- A stored black-box entry: its sequence number and content (R506, R507). -/
structure BbxStored where
  seq   : W64
  entry : BbxEntry
  deriving DecidableEq, Repr

/-- The queue of black-box entries on the cleat die and the BBX block's window (R510, R514). `late` counts drops since the
last DROPPED entry. `owed` holds, by counter, the corrected errors that no CORRECTED entry carries yet, `told` the cycle of a unit's
last CORRECTED entry (R501). -/
structure Bbx where
  queue   : List BbxEntry
  held    : List BbxEntry
  dropped : BitVec 32
  late    : BitVec 32
  block   : BitVec 5
  area    : Bool
  owed    : Sparse Nat
  told    : Sparse (Option W64)
  deriving DecidableEq, Repr

/-- An interrupt source: PENDING, ACTIVE and, for a level source, its input (R492). -/
structure SrcSt where
  pending : Bool
  active  : Bool
  level   : Bool
  raises  : BitVec 32
  deriving DecidableEq, Repr

/-- TARGET, PRIO and EN of a source where they differ from the default map (R493). -/
structure SrcCfg where
  target : Byte
  prio : BitVec 4
  en   : Bool
  deriving DecidableEq, Repr

/-- A target of the interrupt controller (R495–R500): its stack of priority and identity, counters, mode, the outstanding
message, what MSI-X holds for it. -/
structure Tgt where
  stack    : List (BitVec 4 × BitVec 11)
  spurious : BitVec 16
  badEoi   : BitVec 16
  auto     : Bool
  sent     : Bool
  claimed  : Option (BitVec 11)
  msixAddr : W64
  msixData : BitVec 32
  masked   : Bool
  claims   : BitVec 32
  deriving DecidableEq, Repr

/-- The interrupt controller (R492–R500, R513). -/
structure Ic where
  srcs   : Sparse SrcSt
  cfgs   : Sparse (Option SrcCfg)
  tgts   : Sparse Tgt
  lock   : Bool
  deriving DecidableEq, Repr

def Bbx.init : Bbx := { queue := [], held := [], dropped := 0, late := 0, block := 0, area := false, owed := [], told := [] }
def SrcSt.init : SrcSt := { pending := false, active := false, level := false, raises := 0 }
/-- A target after reset; MSI-X entries are masked (PRESUMED from PCIe, log 5). -/
def Tgt.init : Tgt :=
  { stack := [], spurious := 0, badEoi := 0, auto := true, sent := false, claimed := none, msixAddr := 0, msixData := 0,
    masked := true, claims := 0 }
def Ic.init : Ic := { srcs := [], cfgs := [], tgts := [], lock := false }

/-- A management event held for the management controller (R386). -/
structure MgmtEvent where
  event : BitVec 16
  ten   : Byte
  fn    : Byte
  seq   : W64
  deriving DecidableEq, Repr

/-! ## Fuses, pins and the record die -/

/-- The part fitted (R1). -/
inductive PartNo where
  | kz16 | kz12 | kz8
  deriving DecidableEq, Repr

/-- What the fuses hold (R8, R390-R400): the part and stepping, the four life-cycle words PROVISIONED, DEPLOYED, RETURNED and
SCRAPPED, the minimum SVN as a thermometer code, the fused digests, the serial number, the UUID, the
device secret, bits 47:3 of the I3C provisional ID (R382), the golden signatures by unit type (R483), the spare rows and columns that the
manufacturing repair map has taken, by bank or sentence store (R485), the weights of the activity estimate (R540) and of a braid's test in
watts (R542). -/
structure Fuses where
  part   : PartNo
  step   : BitVec 4
  words  : List (BitVec 32)
  svn    : W64
  fwKey  : BitVec 512
  lcKey  : BitVec 512
  root   : BitVec 512
  rom    : BitVec 512
  maps   : BitVec 512
  serial : W64
  uuid   : BitVec 128
  secret : BitVec 256
  pid    : BitVec 45
  golden : List W64
  spares : Sparse (Nat × Nat)
  weights : List Nat
  bistWatts : Nat
  deriving DecidableEq, Repr

/-- The pins (R473, R481, R536, R544, R547): `perst` has a bit set for each port whose PERST# is released. -/
structure Pins where
  powered    : Bool
  fault      : Bool
  thermAlert : Bool
  belaySel   : Bool
  modId      : BitVec 3
  perst      : BitVec 3
  deriving DecidableEq, Repr

/-- The device-identity private key, wrapped with AES-256-GCM, as the identity record holds it (R400). -/
structure IdKey where
  iv  : List Byte
  ct  : List Byte
  tag : List Byte
  deriving DecidableEq, Repr

/-- The record die (R31, R400, R490, R506, R514). `ring` is keyed by position; `loader` is the recovery-loader region, which no rule
reads or writes. -/
structure RecordDie where
  nextSeq    : W64
  ring       : Sparse (Option BbxStored)
  ffa        : List BbxStored
  ffaOver    : BitVec 16
  last       : BitVec 3
  ctrlResets : BitVec 16
  secResets  : BitVec 16
  pllLoss    : BitVec 16
  idKey      : Option IdKey
  opKey      : Option (BitVec 512)
  loader     : Sparse Byte
  deriving DecidableEq, Repr

/-! ## Bring-up -/

/-- RDY (R490). `bits` are the summary bits [16:0]. -/
structure Rdy where
  bits    : BitVec 17
  braids  : W64
  refused : Bool
  deriving DecidableEq, Repr

/-- The delivery of the image set and what it left (R385, R394-R399, R423). `state` is the FW_STATUS state; `digests` the
DIGEST fields of images 0-3; `held` the braids whose control core is held (R397); `rest` which cores confirm their images, while the tests
before they start are not over (R480 step 5). -/
structure Boot where
  state    : BitVec 3
  fail     : Byte
  total    : BitVec 32
  received : BitVec 32
  image    : List Byte
  kept     : Bool
  version  : BitVec 32
  digests  : List (BitVec 512)
  held     : W64
  rest     : Option BootConfirm
  deriving DecidableEq, Repr

/-- What BIST and straps found the module to have (R361). -/
structure Cap where
  braids : W64
  fold   : W64
  bulkA  : Bool
  bulkB  : Bool
  belay  : Bool
  deriving DecidableEq, Repr

/-- BST.UNIT[u] and BST.SIG[u] (R491). -/
structure UnitSt where
  result : BitVec 2
  held   : Bool
  fold   : Bool
  rows   : Byte
  cols   : Byte
  runs   : Byte
  sig    : W64
  deriving DecidableEq, Repr

/-- What goes with scratchpad contents saved over an in-field BIST: the key under which reserved frames hold their bytes, poison, seal
map and tenancy (R421, R489). -/
structure SavedSp where
  key      : BitVec 512
  spPoison : NatSet
  sealMap  : W64
  ten      : Tid
  deriving DecidableEq, Repr

/-- BIST (R483-R491): braids still to test at power-up, those of the wave in test, units still to test, the in-field request, the rows and
columns that soft repairs have taken (R485), the strand links that could not be repaired (R356, R483), the braids whose clock is back while
the security core does not run (R466). -/
structure Bist where
  running : Bool
  done    : Bool
  infield : Option Bid
  waves   : BitVec 4
  units   : Sparse UnitSt
  cores   : Sparse W64
  todo    : List Nat
  wave    : List Nat
  left    : List Nat
  repairs : Sparse (Nat × Nat)
  badLinks : BitVec 16
  relocks : List Relock
  tok     : Option Nat
  saved   : Option SavedSp
  deriving DecidableEq, Repr

/-- The device-fatal safe state (R505): its cause and unit, the black-box entry stored, the partner's acknowledgement. -/
structure Safe where
  cause   : Byte
  unit    : BitVec 16
  entry   : Bool
  acked   : Bool
  deriving DecidableEq, Repr

/-- Package-wide control: the reset asked for and not yet taken (R471), the safe state, serviceability (R487), the cause that
took the module to the last safe state until BIST_DONE (R505), the VFs enabled on the control port (R354, R357), what the ports' link
training gave (R352). -/
structure Sys where
  resetReq : Option (BitVec 3)
  safe     : Option Safe
  unserv   : Bool
  lastFatal : Option Byte
  cfgLoaded : BitVec 3
  ctrlUp   : Bool
  vfs      : Fn
  links    : Sparse (Option PcieLink)
  deriving DecidableEq, Repr

/-! ## Security services -/

/-- An authorised transition that waits for tenancies to close (R391): the target, and the operator-key digest it installs. -/
structure LcWait where
  target : Nat
  opKey  : BitVec 512
  deriving DecidableEq, Repr

/-- What the continuous health tests of the TRNG carry from sample to sample (R412): the last sample and how often it has repeated, the
windows that have failed in a row, whether the last of them failed the adaptive proportion test alone; `due`: a third failing window in a
row was found in a draw, and its report waits for ENTROPY_SOURCE_FAIL (R415, log 100). -/
structure Trng where
  last : Option Bool
  run  : Nat
  bad  : Nat
  apt  : Bool
  due  : Bool
  deriving DecidableEq, Repr

/-- LCS.STATE, NONCE, ENTROPY, WIPE (R423) and the DRBG (R412-R415). `wait` is an authorised transition before step 2 of R391, `pending`
the target of one in progress. -/
structure Lcs where
  trng     : Trng
  wait     : Option LcWait
  pending  : Option Byte
  unlocked : Bool
  nonce    : W64
  ok       : Bool
  failed   : Bool
  rct      : BitVec 16
  apt      : BitVec 16
  reseeds  : BitVec 16
  gens     : Nat
  drbg     : Crypto.Drbg
  cause    : BitVec 2
  keys     : Bool
  sp       : Bool
  ring     : Bool
  bulk     : Bool
  wipes    : BitVec 32
  deriving DecidableEq, Repr

/-- A binding of a PKE slot (R436): the partner slot, which half it is, KIND, and the curve entry. -/
structure Bind where
  peer  : Nat
  priv  : Bool
  rsa   : Bool
  curve : Nat
  deriving DecidableEq, Repr

/-- A PKE slot (R424-R426). -/
structure PkeSlot where
  width  : Nat
  val    : BitVec 8192
  ten    : Tid
  sealed : Bool
  inf    : Bool
  bound  : Option Bind
  deriving DecidableEq, Repr

/-- A curve entry (R441). -/
structure Curve where
  pw : Nat
  nw : Nat
  h  : Nat
  p  : Nat
  a  : Nat
  b  : Nat
  gx : Nat
  gy : Nat
  n  : Nat
  deriving DecidableEq, Repr

/-- A request of the public-key engine: its command, a PKE command or a service of the security core, or none for a signature of the
management port or a pairing, whose offer it then carries; and the host buffer the command brought (R445). -/
structure PkeReq where
  tok  : Option Nat
  buf  : List Byte
  pair : Option PairOffer := none
  deriving DecidableEq, Repr

/-- The public-key engine (R424-R449). Entry 0 of the curves is P-384 and is not listed. `queue` holds at most 64 requests; those that wait to
enter it are in `entering`. -/
structure Pke where
  slots    : Sparse (Option PkeSlot)
  curves   : Sparse (Option Curve)
  queue    : List PkeReq
  entering : List PkeReq
  running  : Option PkeReq
  last     : Byte
  signFail : BitVec 16
  aborts   : BitVec 16
  deriving DecidableEq, Repr

/-! ## Power, management port, debug, belay -/

/-- PWR.BRAID[b] (R550). -/
structure PwrBraid where
  step   : BitVec 5
  limit  : BitVec 5
  therm  : BitVec 5
  cap    : BitVec 5
  temp   : Byte
  deriving DecidableEq, Repr

/-- The power core's registers (R539-R550), the bytes each hawser has moved in this window (R540), whether the window in progress is that in
which a trip was released (R542). -/
structure Pwr where
  cap       : BitVec 11
  mv        : BitVec 16
  ca        : BitVec 16
  meas      : BitVec 11
  est       : BitVec 11
  die       : Byte
  mem       : Byte
  alert     : Bool
  hold      : Bool
  capDown   : BitVec 16
  thermDown : BitVec 16
  trips     : BitVec 16
  braids    : Sparse PwrBraid
  moved     : Nat × Nat
  skip      : Bool
  deriving DecidableEq, Repr

/-- The management port (R382-R386). `deferred` is an SPDM response not yet fetched, with its request's code and its token; `vca`, `msgB` and `msgL` are the
messages that the transcripts of signatures cover (log 58). -/
structure Mgmt where
  addr     : Option (BitVec 7)
  eid      : Option Byte
  target   : Option Byte
  version  : Bool
  caps     : Bool
  algs     : Bool
  deferred : Option (Byte × Byte × List Byte)
  vca      : List Byte
  msgB     : List Byte
  msgL     : List Byte
  deriving DecidableEq, Repr

/-- The hazard-watch registers (R138). -/
structure Dbg where
  en      : Bool
  rate    : Byte
  mask    : W64
  dropped : BitVec 32
  deriving DecidableEq, Repr

/-- The belay link (R515-R534). `keys` are the two link keys, lower MOD_ID first (R518); `down` says the down timeout runs; `notices` are the
close notices not acknowledged (R522), `tx` and `rx` the GCM records of each direction under the keys (R518); `retryDue` is how
many retries the next transfer takes, which the hardware meets (R516, log 53). -/
structure Belay where
  state   : BitVec 3
  width   : BitVec 2
  partner : BitVec 3
  refusal : BitVec 4
  retries : BitVec 16
  downs   : BitVec 16
  records : BitVec 32
  timeout : BitVec 16
  keys    : Option (BitVec 256 × BitVec 256)
  down    : Bool
  notices : List Tid
  tx      : Nat
  rx      : Nat
  retryDue : BitVec 8
  deriving DecidableEq, Repr

/-! ## Values after the resets that reach each part -/

/-- The fuses of the module modelled (DESIGN CHOICE, log 3): a DLS-KZ16 in DEPLOYED with every fused value of its maker 0. -/
def Fuses.init : Fuses :=
  { part := .kz16, step := 1, words := [0xFFFFFFFF, 0xFFFFFFFF, 0, 0], svn := 0, fwKey := 0, lcKey := 0, root := 0, rom := 0,
    maps := 0, serial := 0, uuid := 0, secret := 0, pid := 0,
    golden := [], spares := [], weights := [], bistWatts := 0 }
def Pins.init : Pins :=
  { powered := false, fault := false, thermAlert := false, belaySel := false, modId := 0, perst := 0 }
def RecordDie.init : RecordDie :=
  { nextSeq := 0, ring := [], ffa := [], ffaOver := 0, last := 0, ctrlResets := 0, secResets := 0, pllLoss := 0,
    idKey := none, opKey := none, loader := [] }
def Rdy.init : Rdy := { bits := 0, braids := 0, refused := false }
def Boot.init : Boot :=
  { state := 0, fail := 0, total := 0, received := 0, image := [], kept := false, version := 0, digests := [], held := 0, rest := none }
def Cap.init : Cap := { braids := 0, fold := 0, bulkA := false, bulkB := false, belay := false }
def UnitSt.init : UnitSt := { result := 0, held := false, fold := false, rows := 0, cols := 0, runs := 0, sig := 0 }
def Bist.init : Bist :=
  { running := false, done := false, infield := none, waves := 0, units := [], cores := [], todo := [], wave := [], left := [], repairs := [],
    badLinks := 0, relocks := [],
    tok := none, saved := none }
def Sys.init : Sys :=
  { resetReq := none, safe := none, unserv := false, lastFatal := none, cfgLoaded := 0, ctrlUp := false, vfs := 0, links := [] }
def Trng.init : Trng := { last := none, run := 0, bad := 0, apt := false, due := false }
def Lcs.init : Lcs :=
  { trng := Trng.init, wait := none, pending := none, unlocked := false, nonce := 0, ok := false, failed := false, rct := 0, apt := 0, reseeds := 0, gens := 0, drbg := { key := [], v := [] },
    cause := 0, keys := false, sp := false, ring := false, bulk := false, wipes := 0 }
def Pke.init : Pke := { slots := [], curves := [], queue := [], entering := [], running := none, last := 0, signFail := 0, aborts := 0 }
def PwrBraid.init : PwrBraid := { step := 0, limit := 0x1C, therm := 0x1C, cap := 0x1C, temp := 0 }
def Pwr.init : Pwr :=
  { cap := 0x3E8, mv := 0, ca := 0, meas := 0, est := 0, die := 0, mem := 0, alert := false, hold := false, capDown := 0,
    thermDown := 0, trips := 0, braids := [], moved := (0, 0), skip := false }
def Mgmt.init : Mgmt :=
  { addr := none, eid := none, target := none, version := false, caps := false, algs := false, deferred := none,
    vca := [], msgB := [], msgL := [] }
def Dbg.init : Dbg := { en := false, rate := 0x10, mask := 0, dropped := 0 }
def Belay.init : Belay :=
  { state := 0, width := 0, partner := 0, refusal := 0, retries := 0, downs := 0, records := 0, timeout := 0x0040,
    keys := none, down := false, notices := [], tx := 0, rx := 0, retryDue := 0 }

end Sys2Proof.Machine
end

