-- ==== Sys2Proof/Machine/State.lean ====
section
/-! DEFINITION. State.lean: the state of the block, what ends a run, and the state right after reset. -/

namespace Sys2Proof.Machine

/-- Why a step faults. -/
inductive Fault where
  /-- Raised by no command of this model: every command of the table has an effect, and an event whose condition does not hold
  leaves the state as it is (log 8). Safe. -/
  | none_
  deriving DecidableEq, Repr

/-- Why a step is refused. -/
inductive Refusal where
  /-- Raised by exec for a command that has no meaning yet. Safe: the model stops. -/
  | notModelled (mnemonic : String)
  deriving DecidableEq, Repr

/-- The state of the block. The queue `pending` holds the commands that wait, first in, first out; `out` what the block has sent out
of the module since reset, oldest first (log 6); `draws` counts the free values drawn (log 7). -/
structure State where
  pending : List Instr
  out     : List Out
  draws   : Nat
  fuses   : Fuses
  pins    : Pins
  die     : RecordDie
  rdy     : Rdy
  boot    : Boot
  cap     : Cap
  bist    : Bist
  sys     : Sys
  lcs     : Lcs
  pke     : Pke
  pwr     : Pwr
  mgmt    : Mgmt
  dbg     : Dbg
  bel     : Belay
  braids  : Sparse Braid
  lans    : Sparse Lanyard
  mem     : Mem
  held    : List HeldWrite
  splices : Sparse Splice
  routers : Sparse Router
  wins    : Sparse Win
  ports   : Sparse PortSt
  openseq : W64
  tens    : Sparse Ten
  sch     : Sched
  bbx     : Bbx
  ic      : Ic
  events  : List MgmtEvent
  evDrop  : BitVec 32
  deriving DecidableEq, Repr

/-- The state right after reset, with no command waiting: the 54 V input not yet applied, every register at the reset value of
its table, the fuses and the record die at the values log 3 names. -/
def State.reset : State :=
  { pending := [], out := [], draws := 0, fuses := Fuses.init, pins := Pins.init, die := RecordDie.init, rdy := Rdy.init,
    boot := Boot.init, cap := Cap.init, bist := Bist.init, sys := Sys.init, lcs := Lcs.init, pke := Pke.init, pwr := Pwr.init,
    mgmt := Mgmt.init, dbg := Dbg.init, bel := Belay.init, braids := [], lans := [], mem := Mem.init, held := [],
    splices := [], routers := [], wins := [], ports := [], openseq := 0, tens := [], sch := Sched.init, bbx := Bbx.init,
    ic := Ic.init, events := [], evDrop := 0 }

end Sys2Proof.Machine
end

