-- ==== Sys2Proof/Machine/Ops.lean ====
section
/-! DEFINITION. Ops.lean: the named operations over the whole state: tables, free values and the DRBG, interrupts, the
black-box queue, management events. -/

namespace Sys2Proof.Machine

/-- The next state of a command that has an effect. -/
abbrev Result := Host.Outcome State Fault Refusal

/-! ## Tables -/

def State.braid (s : State) (i : Nat) : Braid := Sparse.get Braid.init s.braids i
def State.setBraid (s : State) (i : Nat) (b : Braid) : State := { s with braids := Sparse.set Braid.init s.braids i b }
def State.modBraid (s : State) (i : Nat) (f : Braid → Braid) : State := s.setBraid i (f (s.braid i))
def State.ten (s : State) (n : Tid) : Ten := Sparse.get Ten.init s.tens n.toNat
def State.setTen (s : State) (n : Tid) (t : Ten) : State := { s with tens := Sparse.set Ten.init s.tens n.toNat t }
def State.modTen (s : State) (n : Tid) (f : Ten → Ten) : State := s.setTen n (f (s.ten n))
def State.fn (s : State) (f : Fn) : FnSt := Sparse.get FnSt.init s.sch.fns f.toNat
def State.setFn (s : State) (f : Fn) (x : FnSt) : State :=
  { s with sch := { s.sch with fns := Sparse.set FnSt.init s.sch.fns f.toNat x } }
def State.modFn (s : State) (f : Fn) (g : FnSt → FnSt) : State := s.setFn f (g (s.fn f))
def State.sq (s : State) (f : Fn) (q : BitVec 2) : SqRing := Sparse.get SqRing.init s.sch.sqs (f.toNat * 4 + q.toNat)
def State.setSq (s : State) (f : Fn) (q : BitVec 2) (x : SqRing) : State :=
  { s with sch := { s.sch with sqs := Sparse.set SqRing.init s.sch.sqs (f.toNat * 4 + q.toNat) x } }
/-- A tier by tier (0 ring, 1 bulk) and hawser, in the order of R286. -/
def tierKey (bulk hawser : Bool) : Nat := (if bulk then 2 else 0) + (if hawser then 1 else 0)
def State.tier (s : State) (bulk hawser : Bool) : TierSt := Sparse.get TierSt.init s.mem.tiers (tierKey bulk hawser)
def State.setTier (s : State) (bulk hawser : Bool) (t : TierSt) : State :=
  { s with mem := { s.mem with tiers := Sparse.set TierSt.init s.mem.tiers (tierKey bulk hawser) t } }
def State.modTier (s : State) (bulk hawser : Bool) (f : TierSt → TierSt) : State :=
  s.setTier bulk hawser (f (s.tier bulk hawser))
def hNum (h : Bool) : Nat := if h then 1 else 0
def State.pager (s : State) (h : Bool) : Pager := Sparse.get Pager.init s.mem.pagers (hNum h)
def State.setPager (s : State) (h : Bool) (p : Pager) : State :=
  { s with mem := { s.mem with pagers := Sparse.set Pager.init s.mem.pagers (hNum h) p } }
def State.modPager (s : State) (h : Bool) (f : Pager → Pager) : State := s.setPager h (f (s.pager h))
def State.lan (s : State) (h : Bool) : Lanyard := Sparse.get Lanyard.init s.lans (hNum h)
def State.setLan (s : State) (h : Bool) (x : Lanyard) : State := { s with lans := Sparse.set Lanyard.init s.lans (hNum h) x }
def State.modLan (s : State) (h : Bool) (f : Lanyard → Lanyard) : State := s.setLan h (f (s.lan h))
def State.splice (s : State) (i : Nat) : Splice := Sparse.get Splice.init s.splices i
def State.setSplice (s : State) (i : Nat) (x : Splice) : State := { s with splices := Sparse.set Splice.init s.splices i x }
def State.modSplice (s : State) (i : Nat) (f : Splice → Splice) : State := s.setSplice i (f (s.splice i))
def State.router (s : State) (st : Nat) : Router := Sparse.get Router.init s.routers st
def State.setRouter (s : State) (st : Nat) (x : Router) : State := { s with routers := Sparse.set Router.init s.routers st x }
def State.win (s : State) (i : Nat) : Win := Sparse.get Win.init s.wins i
def State.setWin (s : State) (i : Nat) (w : Win) : State := { s with wins := Sparse.set Win.init s.wins i w }
def State.modWin (s : State) (i : Nat) (f : Win → Win) : State := s.setWin i (f (s.win i))
def portNum : Port → Nat | .a => 0 | .b => 1
def State.port (s : State) (p : Port) : PortSt := Sparse.get PortSt.init s.ports (portNum p)
def State.setPort (s : State) (p : Port) (x : PortSt) : State := { s with ports := Sparse.set PortSt.init s.ports (portNum p) x }
def State.modPort (s : State) (p : Port) (f : PortSt → PortSt) : State := s.setPort p (f (s.port p))
def State.pwrBraid (s : State) (b : Nat) : PwrBraid := Sparse.get PwrBraid.init s.pwr.braids b
def State.setPwrBraid (s : State) (b : Nat) (x : PwrBraid) : State :=
  { s with pwr := { s.pwr with braids := Sparse.set PwrBraid.init s.pwr.braids b x } }
def State.unit (s : State) (u : Nat) : UnitSt := Sparse.get UnitSt.init s.bist.units u
def State.setUnit (s : State) (u : Nat) (x : UnitSt) : State :=
  { s with bist := { s.bist with units := Sparse.set UnitSt.init s.bist.units u x } }
def State.emit (s : State) (o : Out) : State := { s with out := s.out ++ [o] }

/-- A tenancy number as the identifier. -/
def tid (n : Nat) : Tid := BitVec.ofNat 8 n

/-- The hawser a braid attaches to (R22): strands 0-7 on hawser 0. -/
def braidHawser (b : Nat) : Bool := decide (32 ≤ b)

/-! ## Readiness (R490) -/

inductive Rdy.B where
  | ctrl | mgmt | sec | pke | drbg | sched | power | splice | ringH0 | ringH1 | bulkH0 | bulkH1 | bulkA | bulkB | belay | fw
  | bistDone
  deriving DecidableEq, Repr

/-- The bit's place in RDY.SUMMARY. -/
def Rdy.B.num : Rdy.B → Nat
  | .ctrl => 0 | .mgmt => 1 | .sec => 2 | .pke => 3 | .drbg => 4 | .sched => 5 | .power => 6 | .splice => 7
  | .ringH0 => 8 | .ringH1 => 9 | .bulkH0 => 10 | .bulkH1 => 11 | .bulkA => 12 | .bulkB => 13 | .belay => 14 | .fw => 15
  | .bistDone => 16

def State.ready (s : State) (b : Rdy.B) : Bool := bit s.rdy.bits b.num
def State.setReady (s : State) (b : Rdy.B) (on : Bool) : State :=
  let m : BitVec 17 := BitVec.ofNat 17 (2 ^ b.num)
  { s with rdy := { s.rdy with bits := if on then s.rdy.bits ||| m else s.rdy.bits &&& ~~~m } }
def State.tierBit (bulk hawser : Bool) : Rdy.B :=
  match bulk, hawser with
  | false, false => .ringH0 | false, true => .ringH1 | true, false => .bulkH0 | true, true => .bulkH1
def State.setBraidReady (s : State) (b : Nat) (on : Bool) : State :=
  { s with rdy := { s.rdy with braids := if on then s.rdy.braids ||| oneBit b else s.rdy.braids &&& ~~~(oneBit b) } }

/-- The module is neither stopped for want of input (R536), nor in the device-fatal safe state (R505), nor unserviceable, when only
the management port, the security core and the record die run (R487). -/
def State.live (s : State) : Bool := s.pins.powered && s.sys.safe.isNone && !s.sys.unserv

/-- The scheduler core and hardware scheduler run (R490). -/
def State.schedUp (s : State) : Bool := s.live && s.ready .sched
/-- The security core runs; it does so on an unserviceable module too. -/
def State.secUp (s : State) : Bool := s.pins.powered && s.sys.safe.isNone && s.ready .sec

/-- Bytes that the fabric of a hawser and its memory controllers have moved, for the activity estimate (R540). -/
def State.countMoved (s : State) (h : Bool) (n : Nat) : State :=
  { s with pwr := { s.pwr with moved := if h then (s.pwr.moved.1, s.pwr.moved.2 + n) else (s.pwr.moved.1 + n, s.pwr.moved.2) } }

/-! ## Free values and the DRBG -/

/-- A free value (log 7). -/
def State.free (s : State) : W64 × State := (Config.free s.draws, { s with draws := s.draws + 1 })

/-- The DRBG answers (R413-R415). -/
def State.drbgOk (s : State) : Bool := s.ready .drbg && !s.lcs.failed

/-- A 256-bit output block of the TRNG: SHA-512 over 1,024 raw bits, its first 32 bytes (R412, log 100). -/
def condition (w : BitVec 1024) : List Byte := (Crypto.sha512 (leBytes 128 w.toNat)).take 32

/-- The samples of a window, oldest first. -/
def samples (w : BitVec 1024) : List Bool := (List.range 1024).map (bit w ·)

/-- The repetition count test over samples: the last one, its run so far, and whether a run of 41 has come (R412). -/
def repCount (x : Option Bool × Nat × Bool) (bs : List Bool) : Option Bool × Nat × Bool :=
  bs.foldl (fun x b =>
    let k := if x.1 == some b then x.2.1 + 1 else 1
    (some b, k, x.2.2 || decide (41 ≤ k))) x

/-- The adaptive proportion test fails: the first sample's value occurs 800 times in the window. -/
def aptFails (w : BitVec 1024) : Bool := decide (800 ≤ ((samples w).filter (· == bit w 0)).length)

/-- A window passes the health tests, or is counted in LCS.ENTROPY by test; the repetition count goes on from window to window (R412). -/
def Lcs.window (l : Lcs) (w : BitVec 1024) : Bool × Lcs :=
  let r := repCount (l.trng.last, l.trng.run, false) (samples w)
  let a := aptFails w
  (!(r.2.2 || a),
   { l with rct := BitVec.ofNat 16 (satAdd 16 l.rct.toNat (if r.2.2 then 1 else 0))
            apt := BitVec.ofNat 16 (satAdd 16 l.apt.toNat (if a then 1 else 0))
            trng := { l.trng with last := r.1, run := r.2.1, bad := if r.2.2 || a then l.trng.bad + 1 else 0
                                  apt := if r.2.2 || a then !r.2.2 else l.trng.apt } })

/-- Windows in order; the source has failed with the third failing one in a row. -/
def Lcs.windows (l : Lcs) : List (BitVec 1024) → Lcs
  | [] => l
  | w :: ws => if 3 ≤ l.trng.bad then l else (l.window w).2.windows ws

/-- Blocks of the next `need` windows of noise that pass, where no row brings the noise; those that fail are discarded and counted, and none
is taken once the source has failed (R412, log 100). -/
def State.noise : Nat → Nat → State → List Byte × State
  | 0, _, s => ([], s)
  | _, 0, s => ([], s)
  | f + 1, need + 1, s =>
    if 3 ≤ s.lcs.trng.bad then ([], s)
    else
      let w := Config.noise s.draws
      let r := s.lcs.window w
      let s : State := { s with draws := s.draws + 1, lcs := r.2 }
      if r.1 then
        let x := State.noise f need s
        (condition w ++ x.1, x.2)
      else State.noise f (need + 1) s

/-- 384 bits of TRNG output from two windows that pass (R413, log 100): among six, two pass or three fail in a row. -/
def State.entropy (s : State) : List Byte × State :=
  let x := State.noise 6 2 s
  (x.1.take 48, x.2)

/-- A draw has found the third failing window in a row: the source has failed, and ENTROPY_SOURCE_FAIL is to report it (R412, R415). -/
def State.sourceDead (s : State) : State :=
  { s with lcs := { s.lcs with failed := true, ok := false, trng := { s.lcs.trng with due := true } } }.setReady .drbg false

/-- A reseed of the DRBG from 384 bits of TRNG output, counted (R413, R423). A source that fails in it leaves the DRBG's state as it is. -/
def State.reseed (s : State) : State :=
  let e := s.entropy
  if 3 ≤ e.2.lcs.trng.bad then e.2.sourceDead
  else { e.2 with lcs := { e.2.lcs with reseeds := e.2.lcs.reseeds + 1, gens := 0, drbg := e.2.lcs.drbg.reseed e.1 } }

/-- One generate request of `n` bytes; a reseed after 2^16 requests precedes it (R413). -/
def State.generate (s : State) (n : Nat) : List Byte × State :=
  let s := if 2 ^ 16 ≤ s.lcs.gens then s.reseed else s
  let r := s.lcs.drbg.generate n
  (r.1, { s with lcs := { s.lcs with gens := s.lcs.gens + 1, drbg := r.2 } })

/-- One request of 64 bytes; shorter draws take its low bits. -/
def State.drbg (s : State) : BitVec 512 × State :=
  let r := s.generate 64
  (BitVec.ofNat 512 (leNat r.1), r.2)

/-- `n` blocks of 64 bytes in one request, as a number of 512·n bits. -/
def State.drbgN (s : State) (n : Nat) : Nat × State :=
  let r := s.generate (64 * n)
  (leNat r.1, r.2)

/-- A fresh nonce (R406). -/
def State.newNonce (s : State) : State :=
  let d := s.drbg
  { d.2 with lcs := { d.2.lcs with nonce := BitVec.ofNat 64 (fld d.1 0 64) } }

/-! ## Interrupts (R492-R494) -/

/-- The default map: target, priority, level source; none for a reserved source (R493). -/
def srcDefault (i : Nat) : Option (Nat × Nat × Bool) :=
  if i < 0x100 then some (128 + i / 4, [8, 10, 12, 9].getD (i % 4) 0, false)
  else if i < 0x120 then some (if i = 0x100 then 0 else 32 + (i - 0x100), 4, false)
  else if i < 0x140 then some (if i = 0x120 then 1 else 32 + (i - 0x120), 6, false)
  else if i < 0x160 then some (if i = 0x140 then 66 else 2, 7, false)
  else if i < 0x200 then none
  else if i < 0x300 then some (3, 7, false)
  else if i < 0x330 then some (66, 11, false)
  else if i < 0x340 then some (66, 11, false)
  else if i = 0x340 then some (4, 5, false)
  else if i = 0x341 then some (5, 5, false)
  else if i = 0x342 then some (6, 5, false)
  else if i = 0x343 then some (66, 13, false)
  else if i = 0x350 then some (65, 14, true)
  else if i = 0x360 then some (64, 15, false)
  else if i = 0x361 then some (64, 6, false)
  else if i = 0x362 then some (64, 6, false)
  else if i = 0x370 then some (66, 3, true)
  else if i = 0x3F0 then some (64, 15, true)
  else none

def isLevel (i : Nat) : Bool := match srcDefault i with | some d => d.2.2 | none => false

def State.src (s : State) (i : Nat) : SrcSt := Sparse.get SrcSt.init s.ic.srcs i
def State.setSrc (s : State) (i : Nat) (x : SrcSt) : State := { s with ic := { s.ic with srcs := Sparse.set SrcSt.init s.ic.srcs i x } }
def State.tgt (s : State) (t : Nat) : Tgt := Sparse.get Tgt.init s.ic.tgts t
def State.setTgt (s : State) (t : Nat) (x : Tgt) : State := { s with ic := { s.ic with tgts := Sparse.set Tgt.init s.ic.tgts t x } }

/-- Configuration in force: TARGET, PRIO, EN. A reserved source reads TARGET 0xFF (R513). -/
def State.srcCfg (s : State) (i : Nat) : SrcCfg :=
  match srcDefault i with
  | none => { target := 0xFF, prio := 0, en := false }
  | some d => (Sparse.get none s.ic.cfgs i).getD { target := BitVec.ofNat 8 d.1, prio := BitVec.ofNat 4 d.2.1, en := true }

/-- PENDING: for a level source its input whenever it is not ACTIVE (R492). -/
def State.srcPending (s : State) (i : Nat) : Bool :=
  let x := s.src i
  if isLevel i then x.level && !x.active else x.pending

/-- Raise an event source (R492). -/
def State.raise (s : State) (i : Nat) : State :=
  if (srcDefault i).isNone || isLevel i then s
  else s.setSrc i { s.src i with pending := true, raises := (s.src i).raises + 1 }

/-- Drive the input of a level source; a rising input counts in RAISES. -/
def State.setLevel (s : State) (i : Nat) (on : Bool) : State :=
  let x := s.src i
  s.setSrc i { x with level := on, raises := if on && !x.level then x.raises + 1 else x.raises }

/-! ## The ports' capabilities (R352, R357) -/

def pcieNum : PciePort → Nat | .control => 0 | .bulkA => 1 | .bulkB => 2
def pciePort : Port → PciePort | .a => .bulkA | .b => .bulkB

/-- What the configuration space of a port reports of itself. -/
structure PortCaps where
  widths     : List Nat
  maxRate    : Nat
  maxPayload : Nat
  serial     : W64
  totalVfs   : Nat
  initialVfs : Nat
  firstVf    : Nat
  vfStride   : Nat
  pageSize   : Nat
  deriving DecidableEq, Repr

/-- The capabilities of a port; the bulk ports have one function and no SR-IOV. `maxRate` counts the six rates from 2.5 GT/s as 0. -/
def State.portCaps (s : State) (p : PciePort) : PortCaps :=
  match p with
  | .control => { widths := [1, 2, 4], maxRate := 5, maxPayload := 256, serial := s.fuses.serial, totalVfs := 31, initialVfs := 31,
                  firstVf := 1, vfStride := 1, pageSize := 4096 }
  | _ => { widths := [4, 8, 16], maxRate := 5, maxPayload := 512, serial := s.fuses.serial, totalVfs := 0, initialVfs := 0,
           firstVf := 0, vfStride := 0, pageSize := 0 }

/-- The routing of VF `k` of the control port under First VF Offset and VF Stride: function `k` (R357). -/
def State.vfFn (s : State) (k : Nat) : Nat := (s.portCaps .control).firstVf + (k - 1) * (s.portCaps .control).vfStride

/-- An error that a port's AER may report as uncorrectable raises the port's source; whether AER does, which its masks and severities in
configuration space decide, is a free value (R352, R493, log 105). -/
def State.aer (s : State) (p : PciePort) : State :=
  let v := s.free
  if bit v.1 0 then v.2.raise (0x340 + pcieNum p) else v.2

/-! ## The black-box queue (R507-R510) -/

/-- The record die runs and its writer accepts entries (R483, R514). -/
def State.bbxAvail (s : State) : Bool := s.pins.powered && (s.unit 88).result != 3

/-- Source 0x370 is high while the queue is above three-quarters of its 512 places (R493). -/
def State.bbxLevel (s : State) : State := s.setLevel 0x370 (decide (384 < s.bbx.queue.length))

/-- Put an entry in the queue: 512 places, 32 more for fatal classes. A fatal entry that finds none waits at its source, as it is never
dropped; any other is dropped and counted (R510, log 112). -/
def State.bbxPush (s : State) (e : BbxEntry) : State :=
  if !s.bbxAvail then s
  else if s.bbx.queue.length < (if 3 ≤ e.cls.toNat then 544 else 512) then
    { s with bbx := { s.bbx with queue := s.bbx.queue ++ [e] } }.bbxLevel
  else if 3 ≤ e.cls.toNat then { s with bbx := { s.bbx with held := s.bbx.held ++ [e] } }
  else { s with bbx := { s.bbx with dropped := s.bbx.dropped + 1, late := s.bbx.late + 1 } }

/-- Domain numbers of R507. -/
def Dom.braid : Nat := 0
def Dom.fabric : Nat := 1
def Dom.splice : Nat := 2
def Dom.ringCtl : Nat := 3
def Dom.bulkCtl : Nat := 4
def Dom.security : Nat := 5
def Dom.sched : Nat := 6
def Dom.power : Nat := 7

/-- The count of a domain's cycles: the braid's for domain 0, a free value otherwise (log 10). -/
def State.clock (s : State) (domain unit : Nat) : W64 × State :=
  if domain = 0 then (BitVec.ofNat 64 (s.braid unit).cycle, s) else s.free

/-- Send an entry, with CYCLES the count of its domain (R507, R510). -/
def State.log (s : State) (domain cls unit event : Nat) (status : Byte) (ten : Option Tid) (args : List W64) : State :=
  let c := s.clock domain unit
  c.2.bbxPush
    { cycles := c.1, domain := BitVec.ofNat 8 domain, cls := BitVec.ofNat 8 cls, unit := BitVec.ofNat 16 unit,
      event := BitVec.ofNat 16 event, status := status, ten := ten, args := args }

/-- `k` corrected errors of a unit, or retries that succeeded: a CORRECTED entry carries the increase of the counter since the last one,
at most one entry of a unit in 2^24 cycles of its domain (R501, R509, log 102). -/
def State.corrected (s : State) (domain unit counter k : Nat) : State :=
  if k = 0 then s
  else
    let c := s.clock domain unit
    let owed := Sparse.get 0 c.2.bbx.owed counter + k
    let u := 2 ^ 16 * domain + unit
    let due := match Sparse.get none c.2.bbx.told u with | none => true | some t => decide (2 ^ 24 ≤ (c.1 - t).toNat)
    let put := fun (s : State) (n : Nat) (told : Sparse (Option W64)) =>
      ({ s with bbx := { s.bbx with owed := Sparse.set 0 s.bbx.owed counter n, told := told } } : State)
    if !due then put c.2 owed c.2.bbx.told
    else (put c.2 0 (Sparse.set none c.2.bbx.told u (some c.1))).bbxPush
      { cycles := c.1, domain := BitVec.ofNat 8 domain, cls := 1, unit := BitVec.ofNat 16 unit, event := 0x0021, status := 0, ten := none
        args := [BitVec.ofNat 64 counter, BitVec.ofNat 64 owed] }

/-- Counter identities of CORRECTED entries: 0-63 the scratchpad ECC of braid b, then a tier's ECC and retries, a router's retries and ECC, the
belay link's retries (DESIGN CHOICE, log 102). -/
def tierCounter (bulk hawser retries : Bool) : Nat := 0x100 + 2 * tierKey bulk hawser + (if retries then 1 else 0)
def routerCounter (st : Nat) (retries : Bool) : Nat := 0x200 + 2 * st + (if retries then 1 else 0)
def belayCounter : Nat := 0x300

/-- Die index of the cleat die, the unit of entries of domains 5 to 8 (R21, R507). -/
def cleatDie : Nat := 18

/-- HADDR(n, a): the first 8 bytes of SHA-512(HK ‖ byte(n) ‖ le64(a)) (R508). -/
def State.haddr (s : State) (n : Tid) (a : Nat) : W64 :=
  BitVec.ofNat 64 (leNat ((Crypto.sha512
    (leBytes 32 (Config.hk s.fuses.secret).toNat ++ [n] ++ leBytes 8 a)).take 8))

/-- The address hashed for a scratchpad place (R508). -/
def spPlace (b c a : Nat) : Nat := 2 ^ 63 + 2 ^ 28 * b + 2 ^ 22 * c + a

/-! ## Management events (R386) -/

/-- An In-Band Interrupt with its one mandatory data byte, once the port has its dynamic address (R382, log 58). -/
def State.ibi (s : State) : State := if s.mgmt.addr.isSome then s.emit (.ibi 0xAE) else s

/-- A pending EVENT message is signalled where there is an endpoint to send it to (R386). -/
def State.signalEvent (s : State) : State :=
  if !s.events.isEmpty && s.ready .sched && s.mgmt.target.isSome then s.ibi else s

/-- Hold an event for the management controller: up to 64, the rest dropped and counted. The first that waits is signalled as it comes, and
each later one when it becomes the first (State.eventRead). -/
def State.holdEvent (s : State) (e : MgmtEvent) : State :=
  if s.events.length < 64 then
    let t : State := { s with events := s.events ++ [e] }
    if s.events.isEmpty then t.signalEvent else t
  else { s with evDrop := s.evDrop + 1 }

/-- The event of the entry last put in the black-box queue. SEQ is the entry's, 0 when the record die is unavailable: the number it will be
given when every entry before it in the queue has been stored. -/
def State.mgmtEvent (s : State) (event : Nat) (ten fn : Byte) : State :=
  s.holdEvent { event := BitVec.ofNat 16 event, ten := ten, fn := fn
                seq := if s.bbxAvail then s.die.nextSeq + BitVec.ofNat 64 s.bbx.queue.length - 1 else 0 }

/-- The PF is lost (R345). -/
def State.pfLost (s : State) : Bool := (s.fn 0).lost

/-- A tenancy event: logged, raised on source 0x200 + n, and sent to the management port while the PF is lost (R346, R349). -/
def State.tenEvent (s : State) (n : Tid) (cls event : Nat) (status : Byte) (arg : Nat) : State :=
  let s := (s.log Dom.sched cls cleatDie event status (some n) [BitVec.ofNat 64 arg]).raise (0x200 + n.toNat)
  if s.pfLost then s.mgmtEvent status.toNat n ((s.ten n).fn.setWidth 8) else s

/-! ## Life cycle (R388, R392) -/

/-- A fuse word counts when at least 24 of its bits are programmed (R392). -/
def wordSet (w : BitVec 32) : Bool := decide (24 ≤ popcount (w.setWidth 64))

/-- LCS.STATE.STATE: the highest state whose word is set; 0 BLANK to 4 SCRAPPED. -/
def State.lc (s : State) : Nat :=
  ((s.fuses.words.zipIdx).filter (fun x => wordSet x.1)).foldl (fun m x => Nat.max m (x.2 + 1)) 0

/-- The minimum SVN: the number of programmed bits of the thermometer code (R396). -/
def State.svnMin (s : State) : Nat := popcount s.fuses.svn

/-- Access to debug features: in BLANK, and in RETURNED once DEBUG_UNLOCK is in force (R138, R388, R419). The test access port and the
scan chains follow it. -/
def State.dbgOpen (s : State) : Bool := s.lc == 0 || (s.lc == 3 && s.lcs.unlocked)

/-- CAP.IDENT (R8). -/
def strandMap : PartNo → Nat
  | .kz16 => 0xFFFF | .kz12 => 0x3F3F | .kz8 => 0x0F0F
def partCode : PartNo → Nat
  | .kz16 => 0x16 | .kz12 => 0x12 | .kz8 => 0x08
def State.ident (s : State) : W64 :=
  put 0 8 (partCode s.fuses.part) ||| put 8 4 s.fuses.step.toNat ||| put 16 16 (strandMap s.fuses.part)

/-- Is a strand position fitted. -/
def State.fitted (s : State) (st : Nat) : Bool := (strandMap s.fuses.part).testBit st

/-- Sets of a tier fitted on each hawser (R246). -/
def fittedSets (p : PartNo) (bulk : Bool) : Nat :=
  match p, bulk with
  | .kz16, false => 12 | .kz16, true => 10 | .kz12, false => 12 | .kz12, true => 5 | .kz8, false => 6 | .kz8, true => 0

end Sys2Proof.Machine
end

