-- ==== Sys2Proof/Machine/MemOps.lean ====
section
/-! DEFINITION. MemOps.lean: frames and quotas, the pager's resolution of accesses, write combining, sealed lines, poison,
migration commits (R246–R283). -/

namespace Sys2Proof.Machine

/-! ## Frames (R249, R250, R257, R261) -/

def setFrames (bulk : Bool) : Nat := if bulk then 65536 else 32768

/-- One number for a frame: tier, hawser, set, index. -/
def frameId (bulk hawser : Bool) (set frame : Nat) : Nat := (tierKey bulk hawser * 16 + set) * 65536 + frame
def idBulk (id : Nat) : Bool := decide (2 ≤ id / 2 ^ 20)
def idHawser (id : Nat) : Bool := id / 2 ^ 20 % 2 == 1

/-- The first device byte of a frame (log 20). -/
def frameBase (id : Nat) : Nat := id * 2 ^ 21

/-- Sets in service. -/
def State.setsOf (s : State) (bulk hawser : Bool) : List Nat := (List.range 12).filter (fun i => bit (s.tier bulk hawser).sets i)

/-- Reserved frames of a hawser's ring tier: 2,048 of the lowest set in service, and as many again for the other hawser when it
has none (R250). -/
def State.reservedCount (s : State) (hawser : Bool) : Nat :=
  if (s.setsOf false hawser).isEmpty then 0 else if (s.setsOf false (!hawser)).isEmpty then 4096 else 2048

def State.reservedAt (s : State) (bulk hawser : Bool) (set frame : Nat) : Bool :=
  !bulk && (s.setsOf false hawser).head? == some set && decide (frame < s.reservedCount hawser)

/-- Usable frames of a tier on a hawser. -/
def State.usable (s : State) (bulk hawser : Bool) : Nat :=
  (s.setsOf bulk hawser).length * setFrames bulk - (if bulk then 0 else s.reservedCount hawser)

/-- Frames in use of a tier on a hawser that satisfy `p`. -/
def State.inUse (s : State) (bulk hawser : Bool) (p : FrameUse → Bool) : Nat :=
  (s.mem.use.filter (fun e => e.1 / 2 ^ 20 == tierKey bulk hawser && (match e.2 with | some u => p u | none => false))).length

def FrameUse.scrub : FrameUse → Bool | .scrubbing _ => true | _ => false
def FrameUse.isReserved : FrameUse → Bool | .reserved _ _ => true | _ => false

def State.scrubbing (s : State) (bulk hawser : Bool) : Nat := s.inUse bulk hawser FrameUse.scrub
def State.freeFrames (s : State) (bulk hawser : Bool) : Nat := s.usable bulk hawser - s.inUse bulk hawser (fun _ => true)

def State.frameUse (s : State) (id : Nat) : Option FrameUse := Sparse.get none s.mem.use id
def State.setUse (s : State) (id : Nat) (u : Option FrameUse) : State :=
  { s with mem := { s.mem with use := Sparse.set none s.mem.use id u } }

/-- Is the frame on its free list. -/
def State.frameFree (s : State) (bulk hawser : Bool) (set frame : Nat) : Bool :=
  (s.setsOf bulk hawser).contains set && !s.reservedAt bulk hawser set frame &&
    (s.frameUse (frameId bulk hawser set frame)).isNone

/-- Has the set a free frame. -/
def State.setHasFree (s : State) (bulk hawser : Bool) (set : Nat) : Bool :=
  (s.setsOf bulk hawser).contains set &&
    decide ((s.mem.use.filter (fun e => e.1 / 65536 == tierKey bulk hawser * 16 + set)).length +
      (if s.reservedAt bulk hawser set 0 then s.reservedCount hawser else 0) < setFrames bulk)

/-- The set a backing takes: the first from the round-robin pointer that has a free frame (R257). -/
def State.pickSet (s : State) (bulk hawser : Bool) : Option Nat :=
  ((List.range 12).map (fun i => ((s.tier bulk hawser).rr + i) % 12)).find? (s.setHasFree bulk hawser)

/-- Take a frame of a tier on a hawser for a use: the set by R257, the frame of the set by a free value (log 21). -/
def State.takeFrame (s : State) (bulk hawser : Bool) (u : FrameUse) : Option ((Nat × Nat) × State) :=
  match s.pickSet bulk hawser with
  | none => none
  | some set =>
    let v := s.free
    let n := setFrames bulk
    match (List.range n).find? (fun i => s.frameFree bulk hawser set ((v.1.toNat + i) % n)) with
    | none => none
    | some i =>
      let f := (v.1.toNat + i) % n
      some ((set, f),
        (v.2.modTier bulk hawser (fun t => { t with rr := (set + 1) % 12 })).setUse (frameId bulk hawser set f) (some u))

/-- The channel of a set in which a device byte lies: 256-byte chunk k of frame F in channel (k + F) mod 4 (R249). -/
def channelOf (dev : Nat) : Nat := (dev % 2 ^ 21 / 256 + dev / 2 ^ 21 % 65536) % 4

/-! ## Quotas (R258, R259) -/

def Quota.avail (q : Quota) : Nat := q.quota.toNat - q.alloc.toNat
def Ten.book (t : Ten) (bulk : Bool) : Quota := if bulk then t.bulk else t.ring
def Ten.setBook (t : Ten) (bulk : Bool) (q : Quota) : Ten := if bulk then { t with bulk := q } else { t with ring := q }
def State.charge (s : State) (n : Tid) (bulk : Bool) : State :=
  s.modTen n (fun t => t.setBook bulk { t.book bulk with alloc := (t.book bulk).alloc + 1 })
def State.discharge (s : State) (n : Tid) (bulk : Bool) : State :=
  s.modTen n (fun t => t.setBook bulk { t.book bulk with alloc := (t.book bulk).alloc - 1 })

/-- Is the tier fitted on the part (R5, R246). -/
def State.tierFitted (s : State) (bulk : Bool) : Bool := decide (0 < fittedSets s.fuses.part bulk)
def State.tierOffline (s : State) (bulk : Bool) : Bool := (s.tier bulk false).offline || (s.tier bulk true).offline

/-- The tier may take pages: neither hawser's share is offline (R278) or still to be wiped (R284). -/
def State.tierOpen (s : State) (bulk : Bool) : Bool :=
  !s.tierOffline bulk && (s.tier bulk false).ready && (s.tier bulk true).ready

/-- A frame of the tier is free or in SCRUBBING on either hawser (R257). -/
def State.tierHasFrame (s : State) (bulk : Bool) : Bool :=
  [false, true].any (fun h => decide (0 < s.freeFrames bulk h) || decide (0 < s.scrubbing bulk h))

/-- First-touch backing may use the tier (R258). -/
def State.tierTakes (s : State) (n : Tid) (bulk : Bool) : Bool :=
  decide (0 < ((s.ten n).book bulk).avail) && s.tierFitted bulk && s.tierOpen bulk && s.tierHasFrame bulk

/-! ## Pages (R252-R256) -/

def pageOf (tva : Nat) : Nat := tva % 2 ^ 48 / 2 ^ 21

/-- The second-level table of a page, indexed by TVA[47:34] (R252); none until a page in its range is first mapped. -/
def Ten.table (t : Ten) (page : Nat) : Option (Sparse Pte) := Sparse.get none t.ptes (page / 8192)

/-- The entry of a page, indexed in its second-level table by TVA[33:21] (R252). -/
def Ten.pte (t : Ten) (page : Nat) : Pte := Sparse.get Pte.init ((t.table page).getD []) (page % 8192)

/-- Write an entry; the table is created when it is not there. -/
def Ten.setPte (t : Ten) (page : Nat) (p : Pte) : Ten :=
  { t with ptes := Sparse.set none t.ptes (page / 8192) (some (Sparse.set Pte.init ((t.table page).getD []) (page % 8192) p)) }

/-- The entries of a tenancy that are not those of unmapped pages, in TVA order. -/
def Ten.pages (t : Ten) : List (Nat × Pte) :=
  t.ptes.flatMap (fun e => (e.2.getD []).map (fun x => (e.1 * 8192 + x.1, x.2)))

def State.pte (s : State) (n : Tid) (page : Nat) : Pte := (s.ten n).pte page
def State.setPte (s : State) (n : Tid) (page : Nat) (p : Pte) : State := s.modTen n (fun t => t.setPte page p)
def Pte.id (p : Pte) : Nat := frameId p.bulk p.hawser p.set.toNat p.frame.toNat
def Pte.destId (p : Pte) : Nat := frameId p.dbulk p.dhawser p.dset.toNat p.dframe.toNat
def Pte.backed (p : Pte) : Bool := p.state == .backed || p.state == .migrating

/-- The pages a range of bytes meets. A range that runs past 2^48 meets page numbers that no map reaches, which are open and unmapped. -/
def pagesOf (tva len : Nat) : List Nat :=
  if len = 0 then [] else (List.range ((tva % 2 ^ 48 + len - 1) / 2 ^ 21 + 1 - pageOf tva)).map (fun i => pageOf tva + i)

def State.anyUnmapped (s : State) (n : Tid) (tva len : Nat) : Bool := (pagesOf tva len).any (fun p => (s.pte n p).state == .unmapped)
def State.anySealedPage (s : State) (n : Tid) (tva len : Nat) : Bool := (pagesOf tva len).any (fun p => (s.pte n p).sealed)
def State.allSealedPage (s : State) (n : Tid) (tva len : Nat) : Bool := (pagesOf tva len).all (fun p => (s.pte n p).sealed)

/-- Device address of a TVA in a backed page. -/
def State.devAddr (s : State) (n : Tid) (tva : Nat) : Nat := frameBase (s.pte n (pageOf tva)).id + tva % 2 ^ 21

/-! ## Write combining (R271-R274) -/

/-- Byte of an entry. -/
def WcEntry.byte (e : WcEntry) (i : Nat) : Byte := BitVec.ofNat 8 (fld e.data (8 * i) 8)

/-- The byte that the open entries of a line hold for a device address, the newest entry's (R273). -/
def Mem.over (m : Mem) (a : Nat) : Option Byte :=
  ((m.wc.filter (fun e => e.line == a / 64 && bit e.mask (a % 64))).getLast?).map (fun e => e.byte (a % 64))

/-- A byte of the devices, the open entries over it. -/
def Mem.byte (m : Mem) (a : Nat) : Byte := (m.over a).getD (Sparse.get 0 m.cells a)

/-- A line is written whole: a granule of the poison table is cleared once every one of its lines has been (R276). -/
def Mem.wholeLine (m : Mem) (line : Nat) : Mem :=
  match Sparse.get none m.poison (line / 64) with
  | none => m
  | some k =>
    let k := k ||| oneBit (line % 64)
    { m with poison := Sparse.set none m.poison (line / 64) (if k = BitVec.allOnes 64 then none else some k) }

/-- Put an entry's bytes into its line of the devices. -/
def Mem.put (m : Mem) (e : WcEntry) : Mem :=
  { m with cells := (List.range 64).foldl (fun c i =>
    if bit e.mask i then Sparse.set 0 c (e.line * 64 + i) (e.byte i) else c) m.cells }

/-- Write an entry to the devices as it is (R272). -/
def Mem.flush (m : Mem) (e : WcEntry) : Mem :=
  let m := m.put e
  if e.mask = BitVec.allOnes 64 then m.wholeLine e.line else m

/-- The controller of a line: tier, hawser and set. -/
def lineSet (line : Nat) : Nat := line / 2 ^ 15 / 65536

/-- One line's part of a write: the mask and the bytes in place. -/
def lineMask (off n : Nat) : W64 := BitVec.ofNat 64 ((2 ^ n - 1) * 2 ^ off)

/-- Merge bytes into the line's open entry or open one (R271). -/
def Mem.wcPut (m : Mem) (line off : Nat) (data : List Byte) (n : Tid) : Mem :=
  let mask := lineMask off data.length
  let keep : BitVec 512 := BitVec.ofNat 512 ((2 ^ (8 * data.length) - 1) * 2 ^ (8 * off))
  let bytes : BitVec 512 := BitVec.ofNat 512 (leNat data * 2 ^ (8 * off))
  let m := if data.length = 64 then m.wholeLine line else m
  if m.wc.any (fun e => e.line == line && e.ten == n) then
    { m with wc := m.wc.map (fun e =>
        if e.line = line ∧ e.ten = n then { e with mask := e.mask ||| mask, data := (e.data &&& ~~~keep) ||| bytes } else e) }
  else { m with wc := m.wc ++ [{ line := line, mask := mask, data := bytes, ten := n }] }

/-! ## Poison (R275, R276) -/

def granuleDev (dev : Nat) : Nat := dev / 4096

/-- Entries of a hawser's poison table. -/
def State.poisonCount (s : State) (hawser : Bool) : Nat :=
  (s.mem.poison.filter (fun e => idHawser (e.1 * 4096 / 2 ^ 21) == hawser)).length

/-- Is the granule of a TVA poisoned. -/
def State.poisonedTva (s : State) (n : Tid) (tva : Nat) : Bool :=
  let p := s.pte n (pageOf tva)
  p.backed && (p.poison || (Sparse.get none s.mem.poison (granuleDev (s.devAddr n tva))).isSome)

/-- The set of a frame (R249). -/
def idSet (id : Nat) : Nat := id / 65536 % 16

/-- A granule of the devices is poisoned: recorded in its hawser's table, or, where that is full, in the entry of the page that holds it;
counted, logged and raised (R275, R493, R509). -/
def State.poisonGran (s : State) (n : Option Tid) (g : Nat) (page : Option Nat) (addr : W64) : State :=
  let id := g / 512
  let s := { s with mem := { s.mem with bad := s.mem.bad.del g } }
  let s := if s.poisonCount (idHawser id) < 4096 then
      { s with mem := { s.mem with poison := Sparse.set none s.mem.poison g (some 0) } }
    else match n, page with
      | some n, some k => s.setPte n k { s.pte n k with poison := true }
      | _, _ => s
  let s := s.modTier (idBulk id) (idHawser id) (fun t => { t with unc := BitVec.ofNat 16 (satAdd 16 t.unc.toNat 1) })
  let where_ := 24 * (if idBulk id then 1 else 0) + 12 * hNum (idHawser id) + idSet id
  (s.log (if idBulk id then Dom.bulkCtl else Dom.ringCtl) 2 (hNum (idHawser id)) 0x20 Status.eccUncorrected n
    [BitVec.ofNat 64 where_, addr]).raise (0x300 + where_)

/-- A transfer of a granule of the devices meets what the links and the devices hold for it: retries of the link, at most eight, are counted,
as are corrections of a read; a ninth failure, and an error that a read cannot correct, poisons the granule (R275, log 7). -/
def State.transferGran (s : State) (n : Option Tid) (g : Nat) (page : Option Nat) (addr : W64) (write : Bool) : State :=
  let x := Sparse.get (0, 0) s.mem.soft g
  let bad := !write && s.mem.bad.has g
  if x.2 = 0 ∧ (write ∨ x.1 = 0) ∧ !bad then s
  else
    let bulk := idBulk (g / 512)
    let h := idHawser (g / 512)
    let s : State := { s with mem := { s.mem with soft := Sparse.set (0, 0) s.mem.soft g (if write then x.1 else 0, 0) } }
    let s := s.modTier bulk h (fun t =>
      { t with corr := if write then t.corr else BitVec.ofNat 16 (satAdd 16 t.corr.toNat x.1)
               retries := if 8 < x.2 then t.retries else BitVec.ofNat 16 (satAdd 16 t.retries.toNat x.2) })
    let dom := if bulk then Dom.bulkCtl else Dom.ringCtl
    let s := s.corrected dom (hNum h) (tierCounter bulk h false) (if write then 0 else x.1)
    let s := s.corrected dom (hNum h) (tierCounter bulk h true) (if 8 < x.2 then 0 else x.2)
    if 8 < x.2 ∨ bad then s.poisonGran n g page addr else s

/-- A transfer of the granule of a TVA in a backed page. -/
def State.transfer (s : State) (n : Tid) (tva : Nat) (write : Bool) : State :=
  s.transferGran (some n) (granuleDev (s.devAddr n tva)) (some (pageOf tva)) (s.haddr n (tva / 4096 * 4096)) write

/-- A device read of a granule. -/
def State.poisonRead (s : State) (n : Tid) (tva : Nat) : State := s.transfer n tva false

/-! ## Sealed lines (R280–R283) -/

/-- Does a line of the devices hold zero in every byte. -/
def Mem.blank (m : Mem) (line : Nat) : Bool := m.cells.all (fun e => e.1 / 64 != line)

/-- Bytes of a sealed page through the inline encryption unit: XTS over the 4 KiB data units of TVA, the tweak TVA[47:12] (R282); the
bytes are whole 16-byte blocks of one data unit. -/
def Ten.crypt (t : Ten) (dec : Bool) (tva : Nat) (bs : List Byte) : List Byte :=
  Crypto.xts dec (t.xts.getD 0) (tva % 2 ^ 48 / 4096) (tva % 4096 / 16) bs

/-- A byte that the devices hold for a TVA of a backed page, as the unit returns it: an open page's as stored, a sealed page's
decrypted, a line not written since its frame was scrubbed zero (R256, R260, R281, log 18). -/
def State.storedByte (s : State) (n : Tid) (tva : Nat) : Byte :=
  let dev := s.devAddr n tva
  if !(s.pte n (pageOf tva)).sealed || s.mem.blank (dev / 64) then Sparse.get 0 s.mem.cells dev
  else ((s.ten n).crypt true (tva / 16 * 16)
    ((List.range 16).map (fun i => Sparse.get 0 s.mem.cells (dev / 16 * 16 + i)))).getD (tva % 16) 0

/-- A sealed page's line as it is to be stored, from an entry: its bytes over those of the line, encrypted (R281). -/
def State.sealEntry (s : State) (n : Tid) (tva : Nat) (e : WcEntry) : WcEntry :=
  let plain := (List.range 64).map (fun i => if bit e.mask i then e.byte i else s.storedByte n (tva + i))
  { e with mask := BitVec.allOnes 64, data := BitVec.ofNat 512 (leNat ((s.ten n).crypt false tva plain)) }

/-- A flushing entry is written to the devices: one whose mask is not full after a read of its line (R272, R276); an entry of a sealed
page is encrypted, and discarded once the tenancy's key slot is zeroed (R281, R283). -/
def State.flushEntry (s : State) (e : WcEntry) : State :=
  match s.frameUse (e.line / 2 ^ 15) with
  | some (.allocated n page) =>
    let tva := page * 2 ^ 21 + e.line % 2 ^ 15 * 64
    let whole := decide (e.mask = BitVec.allOnes 64)
    let s := (if whole then s else s.transfer n tva false).transfer n tva true
    if !(s.pte n page).sealed then { s with mem := s.mem.flush e }
    else if (s.ten n).xts.isNone then s
    else
      let m := s.mem.put (s.sealEntry n tva e)
      { s with mem := if whole then m.wholeLine e.line else m }
  | _ => { s with mem := s.mem.flush e }

/-- Flush every entry that satisfies `p`, oldest first. -/
def State.flushWhere (s : State) (p : WcEntry → Bool) : State :=
  (s.mem.wc.filter p).foldl State.flushEntry { s with mem := { s.mem with wc := s.mem.wc.filter (fun e => !p e) } }

/-- Room for a write to a line with no open entry: with all 256 of its controller open the oldest is flushed (R272). -/
def State.wcRoom (s : State) (line : Nat) (n : Tid) : State :=
  let mine := fun (e : WcEntry) => lineSet e.line == lineSet line
  if s.mem.wc.any (fun e => e.line == line && e.ten == n) || decide ((s.mem.wc.filter mine).length < 256) then s
  else match s.mem.wc.find? mine with
    | none => s
    | some old =>
      let id := line / 2 ^ 15
      (State.flushEntry { s with mem := { s.mem with wc := s.mem.wc.erase old } } old).modTier (idBulk id) (idHawser id) (fun t =>
        { t with fullFl := t.fullFl + 1 })

/-- A write of bytes at a device address, line by line. -/
def State.wcWrite (s : State) (n : Tid) : Nat → Nat → List Byte → State
  | 0, _, _ => s
  | f + 1, dev, data =>
    if data.isEmpty then s
    else
      let k := Nat.min data.length (64 - dev % 64)
      let s := s.wcRoom (dev / 64) n
      State.wcWrite { s with mem := s.mem.wcPut (dev / 64) (dev % 64) (data.take k) n } n f (dev + k) (data.drop k)

/-- The controllers, beside those given, in which granules of a tenancy lie (R274). -/
def State.ctlsOf (s : State) (n : Tid) (gs : List Nat) (c : NatSet) : NatSet :=
  gs.foldl (fun c g => if (s.pte n (pageOf (g * 4096))).backed then c.add (lineSet (s.devAddr n (g * 4096) / 64)) else c) c

/-! ## Reads (R255, R263) -/

/-- Count a granule read of a bulk-tier page: the entry of the page rises, or it replaces the lowest, the lower entry number first, one
never used holding 0 (R263). A page that reaches PROMOTE becomes a candidate (R264). -/
def Pager.count (p : Pager) (key : Nat) : Pager :=
  let e : Nat × Nat := match p.counts.find? (fun e => e.2.1 == key + 1) with
    | some e => (e.1, e.2.2 + 1)
    | none =>
      match (List.range 4096).find? (fun i => (Sparse.get (0, 0) p.counts i).2 == 0) with
      | some i => (i, 1)
      | none => ((p.counts.foldl (fun m e => if e.2.2 < m.2 then (e.1, e.2.2) else m) (0, (Sparse.get (0, 0) p.counts 0).2)).1, 1)
  { p with counts := Sparse.set (0, 0) p.counts e.1 (key + 1, e.2)
           cand := if p.promote.toNat ≤ e.2 then p.cand.add key else p.cand }

def pageKey (n : Tid) (page : Nat) : Nat := n.toNat * 2 ^ 27 + page

/-- A byte of a TVA as a read sees it: zero in a page not backed, else the stored byte under the entries of its line, newest last
(R255, R273, R281). -/
def State.peekByte (s : State) (n : Tid) (tva : Nat) : Byte :=
  if !(s.pte n (pageOf tva)).backed then 0
  else match s.mem.over (s.devAddr n tva) with
    | some v => v
    | none => s.storedByte n tva

/-- Bytes of a TVA range as they stand. -/
def State.peek (s : State) (n : Tid) (tva len : Nat) : List Byte := (List.range len).map (fun i => s.peekByte n (tva + i))

/-- The granules a range of bytes meets, by their first byte. -/
def granulesOf (tva len : Nat) : List Nat :=
  if len = 0 then [] else (List.range ((tva + len - 1) / 4096 + 1 - tva / 4096)).map (fun i => (tva / 4096 + i) * 4096)

/-- What a read of one granule does besides returning bytes: REF, the counting table, device errors. -/
def State.touchGranule (s : State) (n : Tid) (g : Nat) : State :=
  let p := s.pte n (pageOf g)
  if !p.backed then s
  else
    let s := if p.ref then s else s.setPte n (pageOf g) { p with ref := true }
    let s := if p.bulk then s.modPager p.hawser (fun q => q.count (pageKey n (pageOf g))) else s
    s.poisonRead n g

/-- A read of bytes through the pager: the bytes, and whether any granule came back poisoned (R255, R276). Unmapped pages are the
caller's check. -/
def State.readMem (s : State) (n : Tid) (tva len : Nat) : State × List Byte × Bool :=
  let gs := granulesOf tva len
  let s := gs.foldl (fun s g => s.touchGranule n g) s
  (s.countMoved (s.pte n (pageOf tva)).hawser len, s.peek n tva len, gs.any (fun g => s.poisonedTva n g))

/-- The first byte of a run from which a read fails with status `st` (R508): in a page that is not mapped, in a sealed page, in a poisoned
granule. -/
def State.firstBad (s : State) (n : Tid) (tva len : Nat) (st : Byte) : Option FaultAddr :=
  let at' := fun (a : Nat) => FaultAddr.tva (Nat.max tva a)
  if st = 0x21 then ((pagesOf tva len).find? (fun p => (s.pte n p).state == .unmapped)).map (fun p => at' (p * 2 ^ 21))
  else if st = 0x15 then ((pagesOf tva len).find? (fun p => (s.pte n p).sealed)).map (fun p => at' (p * 2 ^ 21))
  else if st = 0x16 then ((granulesOf tva len).find? (s.poisonedTva n)).map at'
  else none

/-! ## Backing (R255-R258) -/

/-- How the pager answers an access. -/
inductive Acc where
  | ok
  | wait
  | fail (status : Byte)
  deriving DecidableEq, Repr

/-- Take a frame for a page in a tier: from its home hawser's free list, else from the other's, counted as far (R40). -/
def State.placePage (s : State) (n : Tid) (page : Nat) (bulk home : Bool) : Option ((Bool × Nat × Nat) × State) :=
  match s.takeFrame bulk home (.allocated n page) with
  | some r => some ((home, r.1.1, r.1.2), r.2)
  | none =>
    match s.takeFrame bulk (!home) (.allocated n page) with
    | some r => some ((!home, r.1.1, r.1.2), r.2.modTier bulk (!home) (fun t => { t with far := t.far + 1 }))
    | none => none

/-- Start backing a page in a tier whose quota has room: charge the quota and take a frame, or wait for a scrub (R257). -/
def State.startBacking (s : State) (n : Tid) (page : Nat) (hw bulk : Bool) (home : Bool) (cmd : Option Nat) : State :=
  let s := s.charge n bulk
  let r : Option (Bool × Nat × Nat) × State := match s.placePage n page bulk home with
    | some r => (some r.1, r.2)
    | none => (none, s)
  { r.2 with mem := { r.2.mem with backing := r.2.mem.backing ++
      [{ ten := n, page := page, hawser := hw, bulk := bulk, place := r.1, cmd := cmd }] } }

/-- The home a page takes when backed by first touch (R39). -/
def Pte.homeFor (p : Pte) (hw : Bool) : Bool := if p.homeft then hw else p.home

/-- A write touches a mapped page from hawser `hw`: it waits for the backing, or fails for quota (R255, R258). -/
def State.touchWrite (s : State) (n : Tid) (page : Nat) (hw : Bool) : State × Acc :=
  if s.mem.backing.any (fun b => b.ten == n && b.page == page) then (s, .wait)
  else
    let p := s.pte n page
    let first := if p.pin then false else p.pref
    if s.tierTakes n first then (s.startBacking n page hw first (p.homeFor hw) none, .wait)
    else if s.tierTakes n (!first) then (s.startBacking n page hw (!first) (p.homeFor hw) none, .wait)
    else (s, .fail Status.quotaExceeded)

/-- The home a page takes from its backing: the ALLOC command's, first touch's with HOMEFT, else as it was mapped (R39). -/
def Backing.homeFor (b : Backing) (p : Pte) : Bool := if b.cmd.isSome then b.hawser else p.homeFor b.hawser

/-- A backing with a frame ends: the page is backed, HOME set, HOMEFT cleared (R39, R256). -/
def State.finishBacking (s : State) (b : Backing) : State :=
  match b.place with
  | none => s
  | some pl =>
    let s := { s with mem := { s.mem with backing := s.mem.backing.filter (fun x => !(x.ten == b.ten && x.page == b.page)) } }
    let p := s.pte b.ten b.page
    s.setPte b.ten b.page
      { p with state := .backed, bulk := b.bulk, hawser := pl.1, set := BitVec.ofNat 4 pl.2.1, frame := BitVec.ofNat 16 pl.2.2,
               home := b.homeFor p, homeft := false, poison := false, ref := false }

/-- Back a page at once, for the module's own firmware, which waits for it (log 22). -/
def State.backNow (s : State) (n : Tid) (page : Nat) (hw : Bool) : State :=
  if (s.pte n page).state != .mapped then s
  else
    let s := (s.touchWrite n page hw).1
    match s.mem.backing.find? (fun b => b.ten == n && b.page == page) with
    | some b => s.finishBacking b
    | none => s

/-! ## Writes -/

/-- Bytes written to a backed page: through write combining, REF set; in a migrating page whose copy has read the granule the
granule becomes dirty (R267); whether the pass in progress has read it is a free value (log 23). -/
def State.writeBacked (s : State) (n : Tid) (tva : Nat) (data : List Byte) : State :=
  let page := pageOf tva
  let p := s.pte n page
  let s := s.countMoved p.hawser data.length
  let s := if p.ref then s else s.setPte n page { p with ref := true }
  let s : State := if p.state == .migrating then
      let v := s.free
      { v.2 with mem := { v.2.mem with migs := v.2.mem.migs.map (fun m =>
          if m.ten = n ∧ m.page = page then
            { m with dirty := (granulesOf tva data.length).foldl (fun d g =>
                let k := g % 2 ^ 21 / 4096
                let unread := decide (m.passes = 0) || m.work.has k
                if !unread || bit v.1 (k % 64) then d.add k else d) m.dirty }
          else m) } }
    else s
  s.wcWrite n (data.length + 1) (s.devAddr n tva) data

/-- Are writes to the page blocked by its migration (R268). -/
def State.migBlocked (s : State) (n : Tid) (page : Nat) : Bool := s.mem.migs.any (fun m => m.ten == n && m.page == page && m.blocked)

/-- A write to the page waits: its backing is in work, or its migration blocks writes (R255, R268). -/
def State.pageWaits (s : State) (n : Tid) (page : Nat) : Bool :=
  s.mem.backing.any (fun b => b.ten == n && b.page == page) || s.migBlocked n page

/-- A writer reaches granules that the mirror engine may still have to read for a record (R525): it waits where the engine has not read them yet,
which is a free value, and the engine reads them (log 114). -/
def State.mirrorReads (s : State) (n : Tid) (gs : List Nat) : State × Bool :=
  if !(gs.any (s.ten n).mir.reads.contains) then (s, false)
  else
    let v := s.free
    (v.2.modTen n (fun t => { t with mir := { t.mir with reads := t.mir.reads.filter (fun g => !gs.contains g) } }), bit v.1 0)

/-- A write of bytes inside one page by an agent on hawser `hw` (R255). -/
def State.writePage (s : State) (n : Tid) (hw : Bool) (tva : Nat) (data : List Byte) : State × Acc :=
  let page := pageOf tva
  match (s.pte n page).state with
  | .unmapped => (s, .fail Status.pageUnmapped)
  | .mapped => s.touchWrite n page hw
  | .backed => (s.writeBacked n tva data, .ok)
  | .migrating => if s.migBlocked n page then (s, .wait) else (s.writeBacked n tva data, .ok)

/-- A run of bytes cut at page boundaries. -/
def cutPages : Nat → Nat → List Byte → List (Nat × List Byte)
  | 0, _, _ => []
  | f + 1, tva, data =>
    if data.isEmpty then []
    else
      let k := Nat.min data.length (2 ^ 21 - tva % 2 ^ 21)
      (tva, data.take k) :: cutPages f (tva + k) (data.drop k)

/-! ## Frees and scrubs (R260) -/

/-- Granules of a frame for which the links hold retries. -/
def State.retryGrans (s : State) (p : Nat → Bool) : List Nat := (s.mem.soft.filter (fun e => p (e.1 / 512) && e.2.2 != 0)).map Prod.fst

/-- The bytes of a frame read as zero. -/
def State.zeroFrame (s : State) (id : Nat) : State :=
  { s with mem := { s.mem with
      cells := Sparse.dropKeys s.mem.cells (fun a => a / 2 ^ 21 == id)
      wc := s.mem.wc.filter (fun e => e.line / 2 ^ 15 != id)
      poison := Sparse.dropKeys s.mem.poison (fun g => g / 512 == id)
      bad := s.mem.bad.filter (fun g => g / 512 != id)
      soft := Sparse.dropKeys s.mem.soft (fun g => g / 512 == id) } }

/-- A scrub writes every granule of a frame, each a transfer: a write whose retries are exhausted leaves its granule poisoned (R260, R275); no
TVA names it, and its argument in the log is a free value (log 109). -/
def State.scrubFrame (s : State) (n : Tid) (id : Nat) : State :=
  let z := s.zeroFrame id
  let s := (s.retryGrans (· == id)).foldl (fun s g => let v := s.free; v.2.transferGran (some n) g none v.1 true)
    { z with mem := { z.mem with soft := s.mem.soft } }
  { s with mem := { s.mem with soft := Sparse.dropKeys s.mem.soft (fun g => g / 512 == id) } }

/-- A frame leaves tenancy `n` for SCRUBBING. -/
def State.toScrub (s : State) (n : Tid) (id : Nat) : State := s.setUse id (some (.scrubbing n))

/-- Cancel a migration of a page: the destination frame is scrubbed. -/
def State.dropMig (s : State) (n : Tid) (page : Nat) : State :=
  let p := s.pte n page
  if p.state != .migrating then s
  else ({ s with mem := { s.mem with migs := s.mem.migs.filter (fun m => !(m.ten == n && m.page == page)) } }.toScrub n p.destId).setPte
    n page { p with state := .backed }

/-- Cancel a backing in work: its frame is scrubbed, its quota returned. -/
def State.dropBacking (s : State) (n : Tid) (page : Nat) : State :=
  match s.mem.backing.find? (fun b => b.ten == n && b.page == page) with
  | none => s
  | some b =>
    let s := { s with mem := { s.mem with backing := s.mem.backing.filter (fun x => !(x.ten == n && x.page == page)) } }
    let s := match b.place with
      | some pl => s.toScrub n (frameId b.bulk pl.1 pl.2.1 pl.2.2)
      | none => s
    s.discharge n b.bulk

/-- Free a page: ALLOCATED falls, the frame enters SCRUBBING, the page is mapped and unbacked (R254, R260). -/
def State.freePage (s : State) (n : Tid) (page : Nat) : State :=
  let s := (s.dropMig n page).dropBacking n page
  let p := s.pte n page
  if p.state != .backed then s
  else
    let s := { s with mem := { s.mem with wc := s.mem.wc.filter (fun e => e.line / 2 ^ 15 != p.id) } }
    ((s.toScrub n p.id).discharge n p.bulk).setPte n page
      { p with state := .mapped, poison := false, ref := false, set := 0, frame := 0, bulk := false, hawser := false }

/-- Unmap a page. -/
def State.unmapPage (s : State) (n : Tid) (page : Nat) : State := (s.freePage n page).setPte n page Pte.init

/-! ## The end of a migration (R267–R269) -/

def State.mig (s : State) (n : Tid) (page : Nat) : Option Mig := s.mem.migs.find? (fun m => m.ten == n && m.page == page)
def State.modMig (s : State) (n : Tid) (page : Nat) (f : Mig → Mig) : State :=
  { s with mem := { s.mem with migs := s.mem.migs.map (fun m => if m.ten = n ∧ m.page = page then f m else m) } }

/-- Pass 1 reads every granule of the source: what its links and devices hold is met (R275). -/
def State.readPage (s : State) (n : Tid) (page : Nat) : State :=
  ((s.mem.bad ++ s.mem.soft.map Prod.fst).filter (fun g => g / 512 == (s.pte n page).id)).foldl (fun s g =>
    s.poisonRead n (page * 2 ^ 21 + g % 512 * 4096)) s

/-- Copy the bytes, as stored, and the poison of a frame to another; a full table poisons the page; the writes meet what the links hold for the
destination (R267, R275, R276). -/
def State.copyFrame (s : State) (n : Tid) (page src dst : Nat) : State :=
  let old : List (Nat × Byte) := s.mem.cells.filter (fun e => e.1 / 2 ^ 21 == src)
  let cells := old.foldl (fun (c : List (Nat × Byte)) (e : Nat × Byte) => Sparse.set 0 c (frameBase dst + e.1 % 2 ^ 21) e.2) s.mem.cells
  let s : State := { s with mem := { s.mem with cells := cells } }
  let s := (s.mem.poison.filter (fun e => e.1 / 512 == src)).foldl (fun s e =>
    if s.poisonCount (idHawser dst) < 4096 then
      { s with mem := { s.mem with poison := Sparse.set none s.mem.poison (dst * 512 + e.1 % 512) e.2 } }
    else s.setPte n page { s.pte n page with poison := true }) s
  (s.retryGrans (· == dst)).foldl (fun s g =>
    s.transferGran (some n) g (some page) (s.haddr n (page * 2 ^ 21 + g % 512 * 4096)) true) s

/-- The commit: books, the entry, the frames, the counters (R269). -/
def State.commitMig (s : State) (n : Tid) (page : Nat) (m : Mig) : State :=
  let p := s.pte n page
  let src := p.id
  let dst := p.destId
  let s := s.copyFrame n page src dst
  let s := if p.dbulk != p.bulk then (s.charge n p.dbulk).discharge n p.bulk else s
  let s := s.setPte n page { s.pte n page with state := .backed, bulk := p.dbulk, hawser := p.dhawser, set := p.dset, frame := p.dframe }
  let s := (s.setUse dst (some (.allocated n page))).toScrub n src
  let s := { s with mem := { s.mem with migs := s.mem.migs.filter (fun m => !(m.ten == n && m.page == page)) } }
  s.modPager (m.pager != 0) (fun q => match m.kind with
    | .promote => { q with promoted := q.promoted + 1, cand := q.cand.del (pageKey n page) }
    | .demote => { q with demoted := q.demoted + 1 }
    | .home => q)

/-- A migration aborts: its destination frame is scrubbed, the page stays where it is (R269). -/
def State.abortMig (s : State) (n : Tid) (page : Nat) (m : Mig) : State :=
  (s.dropMig n page).modPager (m.pager != 0) (fun q => { q with aborted := BitVec.ofNat 16 (satAdd 16 q.aborted.toNat 1) })

/-- The end of a migration whose copy is clean: an inter-tier commit without quota, or a commit into a tier that takes no page, aborts
(R269). -/
def State.endMig (s : State) (n : Tid) (page : Nat) (m : Mig) : State :=
  let p := s.pte n page
  if (p.dbulk == p.bulk || decide (1 ≤ ((s.ten n).book p.dbulk).avail)) && s.tierOpen p.dbulk then s.commitMig n page m
  else s.abortMig n page m

/-! ## Writes of the module's own firmware -/

/-- A page whose migration blocks writes: the last pass runs and the migration ends, for the module's own firmware, which waits for it
(R268, log 22). -/
def State.endBlocked (s : State) (n : Tid) (page : Nat) : State :=
  match s.mig n page with
  | none => s
  | some m =>
    if !m.blocked then s
    else
      let id := (s.pte n page).id
      (s.flushWhere (fun e => e.line / 2 ^ 15 == id)).endMig n page m

/-- A write by the module's own firmware: pages are backed as needed, for hawser `hw` where the writer is a braid's, else for the home
that the page names; a page that cannot take it is left (log 22). -/
def State.writeOwn (s : State) (n : Tid) (hw : Option Bool) (tva : Nat) (data : List Byte) : State :=
  (cutPages (data.length / 2 ^ 21 + 2) tva data).foldl (fun s c =>
    let page := pageOf c.1
    let s := (s.backNow n page (hw.getD (s.pte n page).home)).endBlocked n page
    if (s.pte n page).backed then s.writeBacked n c.1 c.2 else s) s

end Sys2Proof.Machine
end

