-- ==== Sys2Proof/Machine/Headers.lean ====
section
/-! DEFINITION. Headers.lean: chains, object headers and kernel descriptors (R61–R73, R102, R551–R553). -/

namespace Sys2Proof.Machine

/-! ## Records -/

/-- Bits `lo` to `lo + n − 1` of word `w` of a record. -/
def wf (d : BitVec 512) (w lo n : Nat) : Nat := fld d (64 * w + lo) n

/-- A 64-byte record as a number. -/
def rec64 (bs : List Byte) : BitVec 512 := BitVec.ofNat 512 (leNat bs)

/-! ## Chains (R61, R65) -/

/-- A defined chain, from its 128-byte descriptor. -/
structure ChainD where
  mode     : Bool
  scheme   : Nat
  log2n    : Nat
  qlimbs   : Nat
  plimbs   : Nat
  dnum     : Nat
  pt       : Nat
  limbs    : List Nat
  w        : List Nat
  hmin     : Nat
  rlevel   : Nat
  advisory : Bool
  rhead    : Nat
  rscale   : Nat

/-- The fields of a chain descriptor. -/
def chainOf (bs : List Byte) : ChainD :=
  let y := fun i => (bs.getD i 0).toNat
  let q := y 3 % 128
  let p := y 4 % 128
  { mode := y 1 % 2 == 1, scheme := y 1 / 2 % 8, log2n := y 2 % 32, qlimbs := q, plimbs := p, dnum := y 5 % 128, pt := y 6,
    limbs := ((bs.drop 8).take (q + p)).map (·.toNat), w := (List.range 8).map (fun j => leAt bs (104 + 2 * j) 2), hmin := leAt bs 120 2,
    rlevel := y 122, advisory := y 123 % 2 == 1, rhead := leAt bs 124 2, rscale := leAt bs 126 2 }

/-- Chain 0xFF: 64-bit mode, no scheme, no limbs (R65). -/
def ringChain : ChainD :=
  { mode := false, scheme := 0, log2n := 0, qlimbs := 0, plimbs := 0, dnum := 0, pt := 0xFF, limbs := [], w := List.replicate 8 0,
    hmin := 0, rlevel := 0, advisory := false, rhead := 0, rscale := 0 }

/-- The chain an identifier names in a tenancy (R58). -/
def Ten.chain (t : Ten) (c : Nat) : Option ChainD :=
  if c = 0xFF then some ringChain
  else
    let d := Sparse.get [] t.chains c
    if d.isEmpty then none else some (chainOf d)

/-- The prime at chain position j (R59, R61). -/
def Ten.primeAt (t : Ten) (c : ChainD) (j : Nat) : Nat :=
  match c.limbs[j]? with
  | some i => (match t.primes[i]? with | some p => p.q.toNat | none => 0)
  | none => 0

/-- The root of the prime at chain position j for the chain: ψ' = PSI^(2^(the entry's LOG2N − the chain's)) mod q, which is PSI itself where
the two agree (R63). -/
def Ten.rootAt (t : Ten) (c : ChainD) (j : Nat) : Nat :=
  match t.primes[c.limbs.getD j 0xFF]? with
  | some p => Arith.powMod p.psi.toNat (2 ^ (p.log2n.toNat - c.log2n)) p.q.toNat
  | none => 0

/-- Lane width in bytes. -/
def ChainD.w8 (c : ChainD) : Nat := if c.mode then 4 else 8

/-! ## Headers (R67) -/

def hType (h : BitVec 512) : Nat := wf h 0 8 8
def hTen (h : BitVec 512) : Nat := wf h 0 16 8
def hChain (h : BitVec 512) : Nat := wf h 0 24 8
def hKeyset (h : BitVec 512) : Nat := wf h 0 32 16
def hLog2n (h : BitVec 512) : Nat := wf h 0 48 5
def hPoison (h : BitVec 512) : Bool := bit h 56
def hUnbounded (h : BitVec 512) : Bool := bit h 57
def hSealed (h : BitVec 512) : Bool := bit h 58
def hSeeded (h : BitVec 512) : Bool := bit h 59
def hLevel (h : BitVec 512) : Nat := wf h 1 0 8
def hPolys (h : BitVec 512) : Nat := wf h 1 8 4
def hScale (h : BitVec 512) : Nat := wf h 1 16 16
def hHeadroom (h : BitVec 512) : Nat := wf h 1 32 16
def hOrder (h : BitVec 512) : Nat := wf h 2 0 2
def hBitplane (h : BitVec 512) : Bool := bit h 130
def hDigitBits (h : BitVec 512) : Nat := wf h 2 3 5
def hPitch (h : BitVec 512) : Nat := wf h 2 32 32
def hPayload (h : BitVec 512) : Nat := wf h 3 0 48
def hPurpose (h : BitVec 512) : Nat := wf h 4 0 4
def hRotation (h : BitVec 512) : Nat := wf h 4 8 24
def hDnum (h : BitVec 512) : Nat := wf h 4 32 7
def hParty (h : BitVec 512) : Nat := wf h 4 40 4
def hParties (h : BitVec 512) : Nat := wf h 4 44 4
def hSkipKind (h : BitVec 512) : Nat := wf h 4 48 4
def hCount (h : BitVec 512) : Nat := wf h 5 0 32
def hDigitCount (h : BitVec 512) : Nat := wf h 5 40 8

/-- The CRC over bytes 0 to 59 of a record whose last four bytes hold it. -/
def recCrc (h : BitVec 512) : Nat := (crc32c (leBytes 60 (h.toNat % 2 ^ 480))).toNat

/-- VERSION 1, reserved fields zero, HCRC right. -/
def hClean (h : BitVec 512) : Bool :=
  wf h 0 0 4 == 1 && wf h 0 4 4 == 0 && wf h 0 53 3 == 0 && wf h 0 61 3 == 0 && wf h 1 12 4 == 0 && wf h 1 48 8 == 0 &&
    wf h 2 8 24 == 0 && wf h 3 48 16 == 0 && wf h 4 4 4 == 0 && wf h 4 39 1 == 0 && wf h 4 52 12 == 0 && wf h 5 48 16 == 0 &&
    wf h 6 0 64 == 0 && wf h 7 0 32 == 0 && wf h 7 32 32 == recCrc h

/-- Bytes of one limb (R551). -/
def limbBytes (h : BitVec 512) (w : Nat) : Nat :=
  if hBitplane h then 2 ^ hLog2n h * hDigitBits h / 8 else 2 ^ hLog2n h * w

/-- The values R68 admits for the fields that R552 also checks; `w` is the lane width of the header's chain. LIMB_PITCH is not held where the
chain is not defined, for a limb has no length then (DESIGN CHOICE, log 98): a source's chain fails check 4 of R74. -/
def hFields (h : BitVec 512) (w : Option Nat) : Bool :=
  let t := hType h
  (if t = 1 then hPolys h == 2 || hPolys h == 3 else if t = 2 ∨ t = 5 ∨ t = 6 then hPolys h == 1 else if t = 4 then hPolys h == 2
    else hPolys h == 0) &&
  decide (hOrder h ≤ 1) && hPayload h % 4096 == 0 && decide (hDigitBits h ≤ 16) && (!hBitplane h || decide (1 ≤ hDigitBits h)) &&
  (hOrder h == 0 || (!hBitplane h && hDigitBits h == 0)) &&
  (t != 4 || (hOrder h == 0 && !hBitplane h && hDigitBits h == 0 && hPitch h == 0)) && decide (hPurpose h ≤ 5) &&
  (t != 7 || decide (hSkipKind h ≤ 2)) &&
  (!(t == 3 || t == 5) || ((hParties h == 2 || hParties h == 3) && decide (hParty h < hParties h))) &&
  (hOrder h != 0 || hPitch h == 0 || (match w with | some w => decide (limbBytes h w ≤ hPitch h * 4096) | none => true))

/-- The case that R66 fixes for a type; none where the header states it. -/
def fixedCase (t : Nat) : Option Bool := if t = 3 ∨ t = 5 then some true else if t = 4 ∨ t = 7 then some false else none

/-- A header is valid (R68). LEVEL is held against the chain when it is defined; an undefined chain fails check 4 of R74. -/
def Ten.headerValid (t : Ten) (h : BitVec 512) : Bool :=
  let ty := hType h
  let c := t.chain (hChain h)
  hClean h && decide (1 ≤ ty) && decide (ty ≤ 7) && (match fixedCase ty with | some k => hSealed h == k | none => true) &&
    hFields h (c.map (·.w8)) &&
    (if ty = 3 ∨ ty = 7 then hLevel h == 0 else match c with | some c => decide (hLevel h < c.qlimbs) | none => true)

/-- Bytes of an object's payload from PAYLOAD on to the end of its last limb, the gaps that a LIMB_PITCH leaves among them (R551, R227;
DESIGN CHOICE, log 98). -/
def payloadLen (h : BitVec 512) (c : ChainD) : Nat :=
  let n := 2 ^ hLog2n h
  let l := hLevel h + 1
  let u := if hType h = 6 then hDigitCount h else hPolys h
  match hType h with
  | 3 => hCount h * (if hChain h = 0xFF then 8 else c.w8)
  | 4 => (4096 + n * c.w8 * (if hSeeded h then 1 else 2)) * (hDnum h * (c.qlimbs + c.plimbs))
  | 7 => (hCount h + 7) / 8
  | _ =>
    if u = 0 then 0
    else if hOrder h = 1 then u * n * l * c.w8
    else
      let b := limbBytes h c.w8
      let p := if hPitch h = 0 then b else hPitch h * 4096
      (u * l - 1) * p + b

/-- A field of a header replaced. -/
def hSet (h : BitVec 512) (w lo n v : Nat) : BitVec 512 :=
  (h &&& ~~~(BitVec.ofNat 512 ((2 ^ n - 1) * 2 ^ (64 * w + lo)))) ||| BitVec.ofNat 512 ((v % 2 ^ n) * 2 ^ (64 * w + lo))

/-- The header with its HCRC. -/
def hSeal (h : BitVec 512) : BitVec 512 :=
  let h := hSet h 7 32 32 0
  hSet h 7 32 32 (recCrc h)

/-! ## Kernel descriptors (R102, R103) -/

/-- A slot byte. -/
structure SlotD where
  used   : Bool
  dest   : Bool
  ty     : Nat
  case   : Nat
  scalem : Bool

def kSlot (d : BitVec 512) (n : Nat) : SlotD :=
  let v := wf d 2 (8 * n) 8
  { used := v % 2 == 1, dest := v / 2 % 2 == 1, ty := v / 4 % 8, case := v / 32 % 4, scalem := v / 128 == 1 }

def kMode (d : BitVec 512) : Bool := bit d 8
def kFoldSafe (d : BitVec 512) : Bool := bit d 9
def kReveals (d : BitVec 512) : Bool := bit d 10
def kSplices (d : BitVec 512) : Bool := bit d 11
def kRefresh (d : BitVec 512) : Bool := bit d 12
def kRule (d : BitVec 512) : Nat := wf d 0 13 2
def kRingsh (d : BitVec 512) : Bool := bit d 15
def kDl (d : BitVec 512) : Nat := wf d 0 16 4
def kSentences (d : BitVec 512) : Nat := wf d 0 20 13
def kC (d : BitVec 512) (j : Nat) : Nat := wf d 1 (8 * j) 8
def kKeys (d : BitVec 512) : Nat := wf d 3 0 16
def kKeylist (d : BitVec 512) : Nat := wf d 3 16 32
def kAux (d : BitVec 512) : Nat := wf d 4 0 32
def kAuxLen (d : BitVec 512) : Nat := wf d 4 32 32
def kEntry (d : BitVec 512) : Nat := wf d 5 0 12
def kCrc (d : BitVec 512) : Nat := wf d 7 32 32

/-- Source slots and destination slots, in slot order. -/
def kSources (d : BitVec 512) : List Nat := (List.range 8).filter (fun n => (kSlot d n).used && !(kSlot d n).dest)
def kDests (d : BitVec 512) : List Nat := (List.range 8).filter (fun n => (kSlot d n).used && (kSlot d n).dest)

/-- Indices of the bits set among the first COUNT (R92). -/
def presentOf (bs : List Byte) (count : Nat) : List (BitVec 32) :=
  ((List.range count).filter (fun i => (bs.getD (i / 8) 0).getLsbD (i % 8))).map (BitVec.ofNat 32)

end Sys2Proof.Machine
end

