-- ==== Sys2Proof/Machine/Keys.lean ====
section
/-! DEFINITION. Keys.lean: what a KERNEL command names, stream tables, and the key pages of a token (R42, R201–R204, R227, R230, R231, R238,
R371, R554). -/

namespace Sys2Proof.Machine

/-! ## Fields of a command (R369, R371) -/

/-- Body bytes `lo` to `lo + n − 1` of a command (R369). -/
def Token.body (t : Token) (lo n : Nat) : Nat := fld t.cmd (256 + 8 * lo) (8 * n)
/-- Bit `i` of the body. -/
def Token.bodyBit (t : Token) (byte i : Nat) : Bool := bit t.cmd (256 + 8 * byte + i)

def Token.kImage (t : Token) : Nat := t.body 0 8
def Token.kTable (t : Token) : Nat := t.body 8 8
def Token.kSets (t : Token) : Nat := t.body 16 8
def Token.kKeyset (t : Token) : Nat := t.body 24 2
def Token.kTimeout (t : Token) : Nat := t.body 26 2
def Token.kSplice (t : Token) : Nat := t.body 29 1 % 64
def Token.kSpliceEn (t : Token) : Bool := t.bodyBit 29 7

/-- The TVA of a slot's header; 0 where the operand set names none. -/
def Token.slotTva (t : Token) (n : Nat) : Nat :=
  let a := (t.slots.getD n 0).toNat
  if a < 2 ^ 48 then a else 0

/-! ## Reading what a KERNEL command names (R554) -/

/-- A read of a kernel image, stream table, descriptor program or operand-set table. -/
def State.readItem (s : State) (n : Tid) (tva len : Nat) : State × Except Byte (List Byte) :=
  if s.anyUnmapped n tva len then (s, .error Status.pageUnmapped)
  else if s.anySealedPage n tva len then (s, .error Status.caseViolation)
  else
    let r := s.readMem n tva len
    (r.1, if r.2.2 then .error Status.poisonedOperand else .ok r.2.1)

/-- A header; none when its slot names none, its page is not mapped or it comes back poisoned: it is then not valid (log 39). -/
def State.readHeader (s : State) (n : Tid) (tva : Nat) : State × Option (BitVec 512) :=
  if tva = 0 ∨ s.anyUnmapped n tva 64 then (s, none)
  else
    let r := s.readMem n tva 64
    (r.1, if r.2.2 then none else some (rec64 r.2.1))

/-- Bytes of a range as they stand, for what is weighed before the checks: sealed pages give none of theirs (R93, R554). -/
def State.peekOpen (s : State) (n : Tid) (tva len : Nat) : List Byte :=
  if s.anySealedPage n tva len then List.replicate len 0 else s.peek n tva len

/-- Key-list entries (R103). -/
def keyWords (bs : List Byte) : List (BitVec 32) := (chunks 4 (bs.length / 4 + 1) bs).map (fun b => BitVec.ofNat 32 (leNat b))

/-! ## Ring configurations (R203) -/

def cRing (c : BitVec 512) : Nat := wf c 0 4 5
def cKind (c : BitVec 512) : Nat := wf c 0 9 3
def cPersist (c : BitVec 512) : Bool := bit c 12
def cSlots (c : BitVec 512) : Nat := wf c 0 13 4
def cSrc (c : BitVec 512) : Nat := wf c 0 17 4
def cDst (c : BitVec 512) : Nat := wf c 0 21 4
def cLdimen (c : BitVec 512) : Bool := bit c 27
def cOrder (c : BitVec 512) : Bool := bit c 28
def cBase (c : BitVec 512) : Nat := wf c 0 32 22
def cBytes (c : BitVec 512) : Nat := wf c 1 0 22
def cPasses (c : BitVec 512) : Nat := wf c 1 32 16
def cProg (c : BitVec 512) : Nat := wf c 2 0 48
def cProgLen (c : BitVec 512) : Nat := wf c 2 48 16
def cKeyidx (c : BitVec 512) : Nat := wf c 3 0 12
def cKeyslot (c : BitVec 512) : Nat := wf c 3 12 3
def cLvlslot (c : BitVec 512) : Nat := wf c 3 15 3
def cSource (c : BitVec 512) : Bool := bit c 210

/-- Has a descriptor program. -/
def cHasProg (c : BitVec 512) : Bool := [0, 1, 5].contains (cKind c)

/-- VERSION, reserved fields, and zeros, or 0xF, in the fields that the kind does not have (R203). -/
def cfgClean (c : BitVec 512) : Bool :=
  let k := cKind c
  wf c 0 0 4 == 1 && wf c 0 29 3 == 0 && wf c 0 54 10 == 0 && wf c 1 22 10 == 0 && wf c 1 48 16 == 0 && wf c 3 19 45 == 0 &&
    (List.range 4).all (fun i => wf c (4 + i) 0 64 == 0) && decide (k ≤ 5) && decide (2 ≤ cSlots c) &&
    (k == 0 || k == 5 || cSrc c == 0xF) && (k == 1 || k == 5 || cDst c == 0xF) &&
    (k == 0 || k == 1 || wf c 0 25 3 == 0) && (k == 2 || !cOrder c) && (k != 5 || (cBase c == 0 && cBytes c == 0)) &&
    (if cHasProg c then cProg c % 64 == 0 && cProgLen c != 0 else cProg c == 0 && (if k = 3 then cProgLen c != 0 else cProgLen c == 0)) &&
    (if k = 2 then !cSource c || cKeyslot c == 0 else wf c 3 0 19 == 0)

/-- VERSION, reserved fields and TCRC of a table of header `h` and configurations `cs`. -/
def tableClean (h : BitVec 512) (cs : List (BitVec 512)) : Bool :=
  wf h 0 0 4 == 1 && decide (wf h 0 4 6 ≤ 32) && wf h 0 10 54 == 0 && (List.range 6).all (fun i => wf h (1 + i) 0 64 == 0) &&
    wf h 7 0 32 == 0 && wf h 7 32 32 == (crc32c (leBytes 60 (h.toNat % 2 ^ 480) ++ cs.flatMap (fun c => leBytes 64 c.toNat))).toNat

/-- No ring number is configured twice. -/
def cfgsDistinct (cs : List (BitVec 512)) : Bool := decide ((cs.map cRing).Nodup)

/-- Check 2 of R204. -/
def tableOk (h : BitVec 512) (cs : List (BitVec 512)) : Bool := tableClean h cs && cs.all cfgClean && cfgsDistinct cs

/-- Configurations of a table, in ascending ring order. -/
def cfgSort (cs : List (BitVec 512)) : List (BitVec 512) := (List.range 32).flatMap (fun r => cs.filter (fun c => cRing c == r))

/-! ## Reading a table -/

/-- A table: its configurations, or the status that the read or checks 1 and 2 of R204 fail with. -/
def State.readTable (s : State) (n : Tid) (tva : Nat) : State × Except Byte (List (BitVec 512)) :=
  let r := s.readItem n tva 64
  match r.2 with
  | .error st => (r.1, .error st)
  | .ok hb =>
    let h := rec64 hb
    let cnt := Nat.min 32 (wf h 0 4 6)
    let q := if cnt = 0 then (r.1, .ok []) else r.1.readItem n (tva + 64) (64 * cnt)
    match q.2 with
    | .error st => (q.1, .error st)
    | .ok cb =>
      let cs := (chunks 64 cnt cb).map rec64
      let bursts := (cs.filter cHasProg).map (fun c => (cProg c, 64 * Nat.min 16 (cProgLen c)))
      let s := q.1
      (s, if bursts.any (fun b => s.anyUnmapped n b.1 b.2) then .error Status.pageUnmapped
        else if bursts.any (fun b => s.anySealedPage n b.1 b.2) then .error Status.caseViolation
        else if !tableOk h cs then .error Status.aborted
        else .ok (cfgSort cs))

/-- A table as it stands, where it can be read and is well formed; none otherwise. -/
def State.peekTable (s : State) (n : Tid) (tva : Nat) : Option (List (BitVec 512)) :=
  match (s.readTable n tva).2 with
  | .ok cs => some cs
  | .error _ => none

/-! ## The key rings of a token (R42, R238) -/

def slotHdr (hs : List (Nat × BitVec 512)) (n : Nat) : BitVec 512 :=
  match hs.find? (fun h => h.1 == n) with
  | some h => h.2
  | none => 0

/-- The skip map that drives the present list of an image: slot LIST of an auxiliary area with LISTEN = 1. -/
def State.listSlot (s : State) (n : Tid) (image : Nat) (d : BitVec 512) : Nat :=
  if kAuxLen d = 0 then 0 else leAt (s.peekOpen n (image + kAux d + 16) 1) 0 1 % 8

/-- Key rings of a token as R238 compares them. -/
def sigOf (hs : List (Nat × BitVec 512)) (tva : Nat → Nat) (list : Nat) (c : BitVec 512) : KeySig :=
  let ct := slotHdr hs (cLvlslot c)
  { ring := cRing c, obj := tva (if cSource c then list else cKeyslot c), keyidx := cKeyidx c, source := cSource c, order := cOrder c
    passes := cPasses c, chain := hChain ct, keyset := hKeyset ct, level := hLevel ct }

/-- The key rings of a token whose sources have the headers `hs`; none for one whose table is not readable or well formed. -/
def State.sigs (s : State) (t : Token) (d : BitVec 512) (hs : List (Nat × BitVec 512)) : List KeySig :=
  match s.peekTable t.ten t.kTable with
  | some cs => (cs.filter (fun c => cKind c == 2)).map (sigOf hs t.slotTva (s.listSlot t.ten t.kImage d))
  | none => []

/-- Agreement of two key rings, whatever their numbers. -/
def KeySig.same (a b : KeySig) : Bool := { a with ring := 0 } == { b with ring := 0 }

/-- Active groups of a hawser. -/
def State.activeGroups (s : State) (h : Bool) : Nat := (s.sch.groups.filter (fun g => g.hawser == hNum h && g.active)).length

/-- A token in a decision that forms groups: its braid, its key rings and its key list. -/
structure KeyTok where
  braid : Nat
  sigs  : List KeySig
  keys  : List (BitVec 32)

/-- A group in the making: the key ring it is formed on, its key list, and its members' braids and rings. -/
structure Gathered where
  sig   : KeySig
  keys  : List (BitVec 32)
  rings : List (Nat × Nat)

/-- A key ring of braid `i` joins the first group it agrees with that has room and no ring of the braid, else it begins one (R238). -/
def gatherRing (max : Nat) (i : Nat) (keys : List (BitVec 32)) (g : KeySig) : List Gathered → List Gathered
  | [] => [{ sig := g, keys := keys, rings := [(i, g.ring)] }]
  | x :: xs =>
    if x.sig.same g && decide (x.rings.length < max) && !x.rings.any (fun r => r.1 == i) then { x with rings := x.rings ++ [(i, g.ring)] } :: xs
    else x :: gatherRing max i keys g xs

/-- The groups of the key rings of tokens placed together, each ring by itself (R238). -/
def gather (max : Nat) (ts : List KeyTok) : List Gathered :=
  ts.foldl (fun gs t => t.sigs.foldl (fun gs g => gatherRing max t.braid t.keys g gs) gs) []

/-- A token with key rings `sigs` meets R238 with one of the first `lead` tokens: one of its rings agrees with a group of theirs that has
room. -/
def joinsSome (max lead : Nat) (ts : List KeyTok) (sigs : List KeySig) : Bool :=
  let leads := (ts.take lead).map (·.braid)
  (gather max ts).any (fun x => x.rings.head?.any (fun r => leads.contains r.1) && decide (x.rings.length < max) && sigs.any x.sig.same)

/-! ## The key pages (R227, R230, R231) -/

/-- Chain positions of a pass at level ℓ (R230). -/
def passPositions (c : ChainD) (level : Nat) : List Nat :=
  List.range (level + 1) ++ (List.range c.plimbs).map (fun i => c.qlimbs + i)

/-- Digits of a pass: ⌈(ℓ + 1)/PLIMBS⌉. -/
def passDigits (c : ChainD) (level : Nat) : Nat := if c.plimbs = 0 then 0 else (level + c.plimbs) / c.plimbs

/-- The TVA of key page (d, j) (R227). -/
def keyPageTva (oh : BitVec 512) (c : ChainD) (d j : Nat) : Nat :=
  hPayload oh + (4096 + 2 ^ c.log2n * c.w8 * (if hSeeded oh then 1 else 2)) * (d * (c.qlimbs + c.plimbs) + j)

/-- The header TVAs of the keys that a ring streams: KEYSLOT's, or those registered for the present entries (R231); a skip map's bits come from
open pages alone (R93). -/
def State.sigKeys (s : State) (n : Tid) (g : KeySig) (keys : List (BitVec 32)) : List Nat :=
  if !g.source then [g.obj]
  else
    let m := rec64 (s.peek n g.obj 64)
    let present := presentOf (s.peekOpen n (hPayload m) ((hCount m + 7) / 8)) (hCount m)
    present.filterMap (fun i =>
      match keys[g.keyidx + i.toNat]? with
      | some k => ((s.ten n).keys.find? (fun r => r.keyset.toNat == g.keyset && r.purpose.toNat == fld k 0 4 &&
          r.rotation.toNat == fld k 4 24)).map (·.tva.toNat)
      | none => none)

/-- The 2 MiB pages that hold the key pages of one key at a level (R227, R230): headers and halves. -/
def keyPages (oh : BitVec 512) (c : ChainD) (level : Nat) : List Nat :=
  let size := 2 ^ c.log2n * c.w8 * (if hSeeded oh then 1 else 2)
  ((List.range (passDigits c level)).flatMap (fun d => (passPositions c level).flatMap (fun j =>
    let a := keyPageTva oh c d j
    pagesOf a 128 ++ pagesOf (a + 4096) size))).dedup

/-- The 2 MiB pages of every key page that the key rings read. -/
def State.sigPages (s : State) (n : Tid) (gs : List KeySig) (keys : List (BitVec 32)) : List Nat :=
  (gs.flatMap (fun g =>
    match (s.ten n).chain g.chain with
    | some c => (s.sigKeys n g keys).flatMap (fun a => keyPages (rec64 (s.peek n a 64)) c g.level)
    | none => [])).dedup

/-- The hawser that is home to more of the weights; none when the two are equal. A page mapped with HOMEFT and not backed has no home. -/
def State.homeOf (s : State) (n : Tid) (ps : List (Nat × Nat)) : Option Bool :=
  let sum := fun (h : Bool) => ((ps.filter (fun p =>
    let e := s.pte n p.1
    !e.homeft && e.state != .unmapped && e.home == h)).map Prod.snd).sum
  if sum false = sum true then none else some (decide (sum false < sum true))

/-- Bytes of a range on each of its pages. -/
def pageShare (a len : Nat) : List (Nat × Nat) :=
  (pagesOf a len).map (fun p => (p, Nat.min (a + len) ((p + 1) * 2 ^ 21) - Nat.max a (p * 2 ^ 21)))

/-! ## The count when a token becomes READY (R42) -/

/-- The descriptor as it stands, for what is weighed before the checks. -/
def State.peekDesc (s : State) (t : Token) : BitVec 512 := rec64 (s.peekOpen t.ten t.kImage 64)

/-- The headers of its sources: those of a saved context, or as they stand. -/
def State.peekSrcs (s : State) (t : Token) (d : BitVec 512) : List (Nat × BitVec 512) :=
  if t.ctx.isSome then t.srcs else (kSources d).map (fun n => (n, rec64 (s.peek t.ten (t.slotTva n) 64)))

/-- The key rings of a token as they stand. -/
def State.tokSigs (s : State) (t : Token) : List KeySig :=
  let d := s.peekDesc t
  s.sigs t d (s.peekSrcs t d)

/-- Criterion 3 of R42: the hawser that is home to more of the pages holding the token's key pages. -/
def State.countKeys (s : State) (t : Token) : Option Bool :=
  let d := s.peekDesc t
  let keys := if kKeys d ≤ 4095 then keyWords (s.peekOpen t.ten (t.kImage + kKeylist d) (4 * kKeys d)) else []
  s.homeOf t.ten ((s.sigPages t.ten (s.tokSigs t) keys).map (fun p => (p, 1)))

end Sys2Proof.Machine
end

