-- ==== Sys2Proof/Machine/Link.lean ====
section
/-! DEFINITION. Link.lean: what crosses the belay link: roles, records and their headers, counts, and the link's departure from the up state
(R516–R518, R524, R529, R534). -/

namespace Sys2Proof.Machine

/-! ## Roles (R519) -/

def State.setBel (s : State) (b : Belay) : State := { s with bel := b }
def State.modMir (s : State) (n : Tid) (f : Mirror → Mirror) : State := s.modTen n (fun t => { t with mir := f t.mir })
def Ten.primary (t : Ten) : Bool := t.st != .free && t.mirror != 0 && !t.mir.standby
def Ten.standby (t : Ten) : Bool := t.st != .free && t.mir.standby

/-- Is the tenancy a primary that keeps commit records: syncing or paired (R520). -/
def Ten.mirrored (t : Ten) : Bool := !t.mir.standby && t.mirror != 0 && (t.mir.pstate == 1 || t.mir.pstate == 2)

/-- Synchronous mode (R519). -/
def Ten.sync (t : Ten) : Bool := !t.mir.standby && t.mirror == 2

/-- Tenancies that satisfy `p`, in the order of their IDs. -/
def State.tensOf (s : State) (p : Ten → Bool) : List Tid := (s.tens.filter (fun e => p e.2)).map (fun e => tid e.1)

/-! ## Records (R523, R524) -/

/-- Bytes that a change takes in a record's body: a record of R53 or R370 as it stands, else the fields the change names (log 113). -/
def changeSize : TableChange → Nat
  | .prime rs => 32 * rs.length
  | .chain r => r.length
  | .key .. => 16
  | .tenSet .. => 24
  | .winKey .. => 33
  | .migKey .. => 33
  | .eraseKey .. => 2
  | .pin .. => 65
  | .channel .. => 64
  | .noChannel => 1
  | .page .. => 8

/-- BYTES of a record: its granules, its changes, and the completion that every record but a key's and a restart's carries. -/
def recBody (r : CommitRecord) : Nat :=
  4096 * r.granules.length + (r.changes.map changeSize).sum + (if r.kind = 6 ∨ r.kind = 7 then 0 else 32)

/-- The 64-byte header (R524). -/
def recHead (r : CommitRecord) : List Byte :=
  leBytes 8 r.mseq.toNat ++ leBytes 4 r.epoch.toNat ++ [r.tenancy, r.kind.setWidth 8, r.ring.setWidth 8, r.fn.setWidth 8] ++
    leBytes 4 r.seq.toNat ++ leBytes 2 r.set.toNat ++ leBytes 2 (if r.last then 1 else 0) ++ leBytes 8 (recBody r) ++ [r.seqgen] ++
    List.replicate 31 0

/-- GCM records of at most 64 KiB of payload that a transfer of `n` bytes takes (R518). -/
def gcmRecords (n : Nat) : Nat := Nat.max 1 ((n + 65535) / 65536)

/-! ## The link (R516, R518, R529, R534) -/

/-- The link leaves the up state: standbys freeze, the down timeout starts (R529); the entry's event code is a free value (log 60). -/
def State.leaveUp (s : State) (next : BitVec 3) : State :=
  let s := s.setBel { s.bel with state := next, width := 0, keys := none, down := true
                                 downs := BitVec.ofNat 16 (satAdd 16 s.bel.downs.toNat 1) }
  let s := (s.tensOf (fun t => t.standby && (t.mir.pstate == 1 || t.mir.pstate == 2))).foldl (fun s n =>
    s.modMir n (fun m => { m with pstate := 3, cut := true })) s
  let v := s.free
  (v.2.log Dom.fabric 2 1 (v.1.toNat % 2 ^ 16) Status.linkFail none []).raise 0x343

/-- A transfer over the link: a retry that succeeded, at most eight, is counted (R516, R534). -/
def State.belCarry (s : State) : State :=
  if s.bel.retryDue = 0 ∨ 8 < s.bel.retryDue.toNat then s
  else (s.setBel { s.bel with retries := BitVec.ofNat 16 (satAdd 16 s.bel.retries.toNat 1), retryDue := 0 }).corrected Dom.fabric 1 belayCounter 1

/-- Send an item of `k` GCM records while the link is up; the flag says that it went. Where the count of this direction would reach 2^32 the
link retrains first, to pair again with fresh keys, and the item is kept (R479, R518). -/
def State.sendItem (s : State) (k : Nat) (o : Out) : State × Bool :=
  if s.bel.state != 3 then (s, false)
  else if 2 ^ 32 ≤ s.bel.tx + k then (s.leaveUp 1, false)
  else (((s.setBel { s.bel with tx := s.bel.tx + k }).emit o).belCarry, true)

/-- An item of `k` GCM records has come over the link; before the count of that direction reaches 2^32 the link retrains (R518). -/
def State.heard (s : State) (k : Nat) : State :=
  let s := (s.setBel { s.bel with rx := s.bel.rx + k }).belCarry
  if s.bel.state = 3 ∧ 2 ^ 32 ≤ s.bel.rx + 1 then s.leaveUp 1 else s

/-- A commit record crosses the link. -/
def State.sendOver (s : State) (r : CommitRecord) : State × Bool :=
  let x := s.sendItem (gcmRecords (64 + recBody r)) (.record (recHead r) r)
  (if x.2 then x.1.setBel { x.1.bel with records := x.1.bel.records + 1 } else x.1, x.2)

/-- Send the records of a primary that were made while the link was down, in their order; each is then one to be acknowledged. -/
def State.sendUnsent (s : State) (n : Tid) : State :=
  (s.ten n).mir.unsent.foldl (fun s r =>
    let x := s.sendOver r
    if x.2 then x.1.modMir n (fun m => { m with unsent := m.unsent.drop 1, sent := m.sent ++ [r] }) else x.1) s

/-- The close notice of a tenancy is kept until the partner has acknowledged it, and sent while the link is up (R479, R522). -/
def State.sendClose (s : State) (n : Tid) : State :=
  (State.sendItem (s.setBel { s.bel with notices := s.bel.notices.filter (· != n) ++ [n] }) 1 (.notice n 1)).1

end Sys2Proof.Machine
end

