-- ==== Sys2Proof/Machine/Cmd.lean ====
section
/-! DEFINITION. Cmd.lean: token entries, dependencies, the checks every command passes, completions and commit records
(R319–R324, R365–R371, R521–R528). -/

namespace Sys2Proof.Machine

/-! ## Token entries -/

def State.tok (s : State) (id : Nat) : Option Token := s.sch.pool.find? (fun t => t.id == id)
def State.setPool (s : State) (p : List Token) : State := { s with sch := { s.sch with pool := p } }
def State.modTok (s : State) (id : Nat) (f : Token → Token) : State :=
  s.setPool (s.sch.pool.map (fun t => if t.id = id then f t else t))
/-- The entry returns to FREE. -/
def State.dropTok (s : State) (id : Nat) : State :=
  { s with sch := { s.sch with pool := s.sch.pool.filter (fun t => t.id != id), order := s.sch.order.filter (· != id),
                               heldQ := s.sch.heldQ.filter (· != id) } }

/-- Writes of a token to granules were accepted: the granules and the controllers are the token's (R274, R523). -/
def State.tokWrote (s : State) (e : Nat) (n : Tid) (gs : List Nat) : State :=
  s.modTok e (fun k => { k with wrote := gs.foldl (fun w g => w.add g) k.wrote, ctls := s.ctlsOf n gs k.ctls })

def Comp.ofStatus (st : Byte) (detail : Nat) : Comp := { status := st, detail := BitVec.ofNat 8 detail, position := 0, value := 0 }
def Comp.aborted (detail : Nat) : Comp := Comp.ofStatus Status.aborted detail
def Comp.okv (position value : Nat) : Comp :=
  { status := 0, detail := 0, position := BitVec.ofNat 32 position, value := BitVec.ofNat 64 value }

def cmdOpcode (c : BitVec 512) : Nat := fld c 64 8
def cmdTen (c : BitVec 512) : Tid := BitVec.ofNat 8 (fld c 80 8)
def cmdHlen (c : BitVec 512) : Nat := fld c 160 32
def cmdHbuf (c : BitVec 512) : W64 := BitVec.ofNat 64 (fld c 192 64)

/-! ## Dependencies (R324) -/

/-- A command that a dependent still waits for: not yet turned into tokens, a kernel token not committed, failed or refused, or a
command without tokens whose completion is not written. No dependent waits for an acknowledgement of the belay partner (R527). -/
def State.cmdOpen (s : State) (c : Nat) : Bool :=
  s.sch.fetched.any (fun f => f.cmdId == c) ||
    s.sch.pool.any (fun t => t.cmdId == c && ((!t.kernel && !t.held) || t.st != .retiring))

def State.depsMet (s : State) (deps : List Nat) : Bool := deps.all (fun c => !s.cmdOpen c)

/-- READY: ISSUED with its dependencies satisfied (R319). -/
def State.isReady (s : State) (t : Token) : Bool := t.st == .issued && s.depsMet t.deps

/-- The key pages of kernel tokens that have become READY are counted, once for each (R42, criterion 3). -/
def State.noteReady (s : State) : State :=
  s.setPool (s.sch.pool.map (fun t =>
    if t.kernel && s.isReady t && t.keyHome.isNone then { t with keyHome := some (s.countKeys t) } else t))

/-- An entry's completion is written: it is FREE, which may satisfy a dependency (R324). -/
def State.freeEntry (s : State) (id : Nat) : State := (s.dropTok id).noteReady

/-! ## Commit records (R519-R528) -/

/-- Send a record, or keep it while the link is down or during a resync (R523, R529, R532). Until it is acknowledged the mirror engine may still
have to read its granules (R525). -/
def State.sendRecord (s : State) (n : Tid) (r : CommitRecord) : State :=
  let t := s.ten n
  if !t.mirrored then s
  else
    let r : CommitRecord := { r with mseq := t.mir.mseq + 1, epoch := t.mir.epoch, tenancy := n }
    let m := { t.mir with mseq := t.mir.mseq + 1, reads := t.mir.reads ++ (r.granules.map (fun (g : BitVec 36 × List Byte) => g.1.toNat) : List Nat) }
    if t.mir.pstate = 1 then s.setTen n { t with mir := { m with late := m.late ++ [r] } }
    else (s.setTen n { t with mir := { m with unsent := m.unsent ++ [r] } }).sendUnsent n

/-- Kind of the record that carries an entry's completion (R523). -/
def recordKind (t : Token) : Nat :=
  if t.kernel then 1
  else
    let o := cmdOpcode t.cmd
    if o = 0x18 ∨ o = 0x19 ∨ o = 0x13 ∨ o = 0x14 then 2
    else if 0x20 ≤ o ∧ o ≤ 0x24 then 3
    else if o = 0x2A then 4 else 5

/-- The record of an entry's completion: granules are carried for a token and for a drained window alone (R523). -/
def State.tokRecord (s : State) (t : Token) (granules : List (BitVec 36 × List Byte)) (changes : List TableChange) : CommitRecord :=
  let k := recordKind t
  { mseq := 0, epoch := 0, tenancy := t.ten, kind := BitVec.ofNat 4 k, ring := t.ring, fn := (s.ten t.ten).fn, origin := t.fn, seq := t.seq,
    set := t.set, last := !(s.sch.pool.any (fun u => u.cmdId == t.cmdId && u.id != t.id && u.st != .retiring)),
    seqgen := t.seqgen, granules := if k = 1 ∨ k = 4 then granules else [], changes := changes, comp := t.comp }

/-- The granules an entry wrote, as they stand (R525). -/
def State.granules (s : State) (n : Tid) (gs : NatSet) : List (BitVec 36 × List Byte) :=
  gs.map (fun g => (BitVec.ofNat 36 g, s.peek n (g * 4096) 4096))

/-! ### Watermarks (R528) -/

/-- Drop the run of set bits at the bottom: WM is again the lowest command not applied. -/
def Wm.settle (w : Wm) : Wm :=
  let k := ((List.range 64).find? (fun i => !bit w.bits i)).getD 64
  { w with wm := w.wm + BitVec.ofNat 32 k, bits := w.bits >>> k }

/-- A command's last record is applied: its bit is set, and those of the commands of other tenancies. -/
def Wm.mark (w : Wm) (seq : BitVec 32) (others : W64) : Wm :=
  let k := (seq - w.wm).toNat
  { w with bits := w.bits ||| others ||| (if k < 64 then oneBit k else 0) }.settle

/-- The commands from `seq` on that a ring's fetch history gives to other tenancies. -/
def SqRing.others (r : SqRing) (n : Tid) (seq : BitVec 32) : W64 :=
  (List.range 64).foldl (fun m i =>
    let k := (r.seq - (seq + BitVec.ofNat 32 i)).toNat
    match if 1 ≤ k then r.hist[k - 1]? else none with
    | some x => if x.2 = n then m else m ||| oneBit i
    | none => m) 0

/-- The primary's watermark moves on over commands of other tenancies. -/
def Wm.onward (r : SqRing) (n : Tid) : Nat → Wm → Wm
  | 0, w => w
  | f + 1, w =>
    let w' := { w with bits := w.bits ||| r.others n w.wm }.settle
    if w'.wm = w.wm then w' else Wm.onward r n f w'

def Ten.wm (t : Ten) (q : BitVec 2) : Wm := Sparse.get Wm.init t.mir.wms q.toNat
def State.setWm (s : State) (n : Tid) (q : BitVec 2) (w : Wm) : State :=
  s.modTen n (fun t => { t with mir := { t.mir with wms := Sparse.set Wm.init t.mir.wms q.toNat w } })

/-- The watermark of a primary as it stands: moved on over the commands of other tenancies that its ring has fetched since (R528). -/
def State.wmNow (s : State) (n : Tid) (q : BitVec 2) : Wm :=
  let t := s.ten n
  let w := t.wm q
  let r := s.sq w.fn q
  if t.mirrored && r.seqgen == w.gen then Wm.onward r n (r.hist.length + 1) w else w

/-- The primary does not start a command of a paired tenancy that lies 64 or more beyond the watermark, nor one of a numbering that
the watermark does not describe yet (R528). -/
def State.beyondWm (s : State) (n : Tid) (fn : Fn) (ring : BitVec 2) (gen : Byte) (seq : BitVec 32) : Bool :=
  let t := s.ten n
  let w := s.wmNow n ring
  t.mirrored && t.mir.pstate == 2 && fn == t.fn &&
    (w.fn != fn || w.gen != gen || (decide (64 ≤ (seq - w.wm).toNat) && decide ((seq - w.wm).toNat < 2 ^ 31)))

def State.tokBeyond (s : State) (t : Token) : Bool := s.beyondWm t.ten t.fn t.ring t.seqgen t.seq

/-- The lowest SEQ of a numbering whose command is of the tenancy and has not completed; the ring's SEQ when there is none (log 33). -/
def State.lowestOpen (s : State) (n : Tid) (fn : Fn) (q : BitVec 2) (gen : Byte) : BitVec 32 :=
  let ks := (s.sch.pool.filter (fun t => t.ten == n && t.fn == fn && t.ring == q && t.seqgen == gen && t.st != .retiring)).map (·.seq) ++
    (s.sch.fetched.filter (fun t => cmdTen t.cmd == n && t.fn == fn && t.ring == q && t.seqgen == gen)).map (·.seq)
  let cur := (s.sq fn q).seq
  ks.foldl (fun m k => if (cur - m).toNat < (cur - k).toNat then k else m) cur

/-- Restart the numbering of a ring of a paired primary when every command of the old one has every record acknowledged: a KIND 7
record is sent with the ring's SEQ as it stands (R528). -/
def State.wmRestart (s : State) (n : Tid) (q : BitVec 2) : State :=
  let t := s.ten n
  let w := t.wm q
  let gen := (s.sq t.fn q).seqgen
  let old := fun (fn : Fn) (r : BitVec 2) (g : Byte) => fn == w.fn && r == q && g == w.gen
  if !(t.mirrored && t.mir.pstate == 2) || (w.fn == t.fn && w.gen == gen) then s
  else if s.sch.pool.any (fun u => u.ten == n && old u.fn u.ring u.seqgen && u.st != .retiring) ||
      s.sch.fetched.any (fun u => cmdTen u.cmd == n && old u.fn u.ring u.seqgen) ||
      (t.mir.sent ++ t.mir.unsent).any (fun r => old r.origin r.ring r.seqgen) then s
  else
    let seq := (s.sq t.fn q).seq
    (s.setWm n q { wm := seq, bits := 0, fn := t.fn, gen := gen }).sendRecord n
      { mseq := 0, epoch := 0, tenancy := n, kind := 7, ring := q, fn := t.fn, origin := t.fn, seq := seq, set := 0, last := false,
        seqgen := gen, granules := [], changes := [], comp := { status := 0, detail := 0, position := 0, value := 0 } }

def State.wmRestarts (s : State) (n : Tid) : State := ([0, 1, 2, 3] : List (BitVec 2)).foldl (fun s q => s.wmRestart n q) s

/-! ## Completions (R35, R346, R349, R366) -/

def Status.good (st : Byte) : Bool := st == Status.ok || st == Status.okFlagged

/-- The owner's completions are discarded: of a tenancy that closes because its grace window ended (R349), or because of an error while
it is orphaned or its owner is lost (R36, R502, log 34). -/
def State.discards (s : State) (n : Tid) : Bool :=
  let t := s.ten n
  match t.closing with
  | some c => c.wiped.isSome && (c.orphan || t.grace || (s.fn t.fn).lost)
  | none => false

/-- Is the entry one whose completion an orphaned tenancy holds: its tokens (R346) and its PKE commands (R446). -/
def Token.holds (t : Token) : Bool := t.kernel || cmdOpcode t.cmd == 0x41

/-- Is the entry one whose completion a wiped tenancy discards: those it would hold, and the commands its owner had in work (log 34). -/
def Token.ownedBy (t : Token) (ten : Ten) : Bool := t.holds || (t.started && t.fn == ten.fn && cmdOpcode t.cmd != 0x12)

/-- The entry is RETIRING with its completion. A failing status is logged (R501). The completion may be written at once, or is held
for an orphaned tenancy (R346), or for the belay partner (R527), or is discarded (R349). -/
def State.retire (s : State) (id : Nat) (c : Comp) (changes : List TableChange) (pcClause haddr : W64) : State :=
  match s.tok id with
  | none => s
  | some t0 =>
    if t0.st == .retiring then s
    else
      let n := t0.ten
      let ten := s.ten n
      let t := { t0 with st := TokSt.retiring, comp := c, held := ten.mirrored && ten.sync }
      let s := s.modTok id (fun _ => t)
      let s : State := if Status.good c.status then s
        else s.log Dom.sched 2 cleatDie 0x10 c.status (some n)
          [t.fn.setWidth 64, put 0 2 t.ring.toNat ||| put 32 32 t.seq.toNat, t.set.setWidth 64, pcClause, haddr]
      if s.discards n && t.ownedBy ten then s.dropTok id
      else
        let s := s.sendRecord n (s.tokRecord t (s.granules n t.wrote) changes)
        if ten.st == .orphaned && t.holds then
          { s with sch := { s.sch with heldQ := s.sch.heldQ ++ [id] } }
        else if t.held then s
        else { s with sch := { s.sch with order := s.sch.order ++ [id] } }

/-- The entry is RETIRING; tokens that waited for it alone are READY. -/
def State.finishAt (s : State) (id : Nat) (c : Comp) (changes : List TableChange) (pcClause haddr : W64) : State :=
  (s.retire id c changes pcClause haddr).noteReady

def State.finish (s : State) (id : Nat) (c : Comp) : State := s.finishAt id c [] 0 0
def State.finishWith (s : State) (id : Nat) (c : Comp) (changes : List TableChange) : State := s.finishAt id c changes 0 0

/-! ## The command table (R371, R404, R430) -/

/-- Who may issue a command. -/
inductive Issuer where
  | owner
  | pf
  | any
  deriving DecidableEq, Repr

def svcOf (c : BitVec 512) : Nat := fld c 256 16
def pkeOpOf (c : BitVec 512) : Nat := fld c 256 8

def knownServices : List Nat := [0x01, 0x02, 0x10, 0x11, 0x12, 0x20, 0x21, 0x22, 0x30]
def knownPkeOps : List Nat :=
  [0x01, 0x02, 0x03, 0x04, 0x05, 0x06, 0x07, 0x10, 0x11, 0x12, 0x13, 0x14, 0x15, 0x20, 0x21, 0x22, 0x23, 0x24, 0x30, 0x31]
def knownOpcodes : List Nat :=
  [0x01, 0x02, 0x10, 0x11, 0x12, 0x13, 0x14, 0x18, 0x19, 0x20, 0x21, 0x22, 0x23, 0x24, 0x28, 0x29, 0x2A, 0x30, 0x31, 0x32, 0x38,
    0x39, 0x40, 0x41]

/-- Is the opcode, the SEC service or the PKE operation known (R370, R404). -/
def cmdKnown (c : BitVec 512) : Bool :=
  knownOpcodes.contains (cmdOpcode c) && (cmdOpcode c != 0x40 || knownServices.contains (svcOf c)) &&
    (cmdOpcode c != 0x41 || knownPkeOps.contains (pkeOpOf c))

def span (lo n : Nat) : Nat := (2 ^ n - 1) * 2 ^ lo

/-- The body bits a PKE operation uses (R429, R430). -/
def pkeFields (op : Nat) : Nat :=
  let dst := span 8 8
  let a := span 16 8
  let b := span 24 8
  let m := span 32 8
  let e := span 40 8
  let tva := span 64 64
  span 0 8 +
    (match op with
     | 0x01 => dst + span 128 16
     | 0x02 => dst
     | 0x03 => dst + span 49 1
     | 0x04 => a
     | 0x05 => dst + span 48 1 + tva
     | 0x06 => a + tva
     | 0x07 => dst + m
     | 0x10 => dst + a + b + m
     | 0x11 => dst + a + b + m
     | 0x12 => dst + a + b + m
     | 0x13 => dst + a + m
     | 0x14 => dst + a + m + e
     | 0x15 => dst + a + b
     | 0x20 => dst + a + b + m
     | 0x21 => dst + a + m
     | 0x22 => dst + a + b + m
     | 0x23 => a + m
     | 0x24 => dst + a + b
     | 0x31 => m
     | _ => 0)

/-- The body bits that a command uses; every other one is reserved (R371, R404). -/
def cmdFields (c : BitVec 512) : Nat :=
  match cmdOpcode c with
  | 0x01 => span 0 228 + span 232 6 + span 239 1
  | 0x10 => span 0 5 + span 8 3 + span 16 8 + span 24 3 + span 32 8 + span 64 64 + span 128 24 + span 160 24
  | 0x11 => span 0 1
  | 0x12 => span 0 256
  | 0x13 => span 0 20 + span 32 24 + span 64 64
  | 0x14 => span 0 5 + span 8 3 + span 16 8 + span 24 3 + span 32 8 + span 64 64 + span 128 24 + span 160 24
  | 0x20 => span 0 101
  | 0x21 => span 0 98
  | 0x22 => span 0 96
  | 0x23 => span 0 96
  | 0x24 => span 0 97
  | 0x28 => span 0 21 + span 32 24 + span 64 96
  | 0x29 => span 0 16
  | 0x2A => span 0 16
  | 0x30 => span 0 34
  | 0x31 => span 0 8
  | 0x32 => span 0 8
  | 0x38 => span 0 34 + span 48 88
  | 0x39 => span 0 104
  | 0x40 => span 0 16 + (match svcOf c with | 0x01 => span 16 8 | 0x10 => span 16 8 | 0x20 => span 16 1 | 0x30 => span 16 8 | _ => 0)
  | 0x41 => pkeFields (pkeOpOf c)
  | _ => 0

/-- Every reserved field and body bit is zero (R369, R370 detail 0x01). -/
def cmdClean (c : BitVec 512) : Bool :=
  fld c 72 8 == 0 && fld c 88 8 == 0 && fld c 144 16 == 0 &&
    (c >>> 256) &&& ~~~(BitVec.ofNat 512 (cmdFields c)) &&& BitVec.ofNat 512 (2 ^ 256 - 1) == 0

def cmdIssuer (c : BitVec 512) : Issuer :=
  match cmdOpcode c with
  | 0x10 => .pf
  | 0x14 => .pf
  | 0x12 => .any
  | 0x40 =>
    (match svcOf c with
     | 0x01 => if fld c 272 8 = 0xFF then .pf else .owner
     | 0x02 => .any
     | 0x20 => .pf | 0x21 => .pf | 0x22 => .pf | 0x30 => .pf
     | _ => .owner)
  | 0x41 => if pkeOpOf c = 0x30 ∨ pkeOpOf c = 0x31 then .pf else .owner
  | _ => .owner

/-- The host-buffer length a command requires; none where its own checks decide it (R371, R404, R430). -/
def cmdLen (c : BitVec 512) : Option Nat :=
  match cmdOpcode c with
  | 0x10 => some 32
  | 0x12 => some 32
  | 0x18 => none
  | 0x19 => some 128
  | 0x40 =>
    (match svcOf c with
     | 0x01 => some 1152 | 0x02 => some 16384 | 0x10 => none | 0x11 => none | 0x12 => some 0 | 0x20 => some 1088
     | 0x21 => some 576 | 0x22 => some 1088 | _ => some 0)
  | 0x41 => (match pkeOpOf c with | 0x03 => none | 0x04 => none | 0x30 => none | _ => some 0)
  | _ => some 0

/-- The tenancy a command acts on: the header's, or the report tenancy of ATTEST (R404). -/
def cmdActsOn (c : BitVec 512) : Tid := if cmdOpcode c = 0x40 ∧ svcOf c = 0x01 then BitVec.ofNat 8 (fld c 272 8) else cmdTen c

/-- Commands a standby admits (R521). -/
def standbyAdmits (c : BitVec 512) : Bool :=
  cmdOpcode c == 0x11 || cmdOpcode c == 0x14 || (cmdOpcode c == 0x40 && (svcOf c == 0x01 || svcOf c == 0x02))

/-- The life-cycle states in which a SEC service is permitted (R405); a transition in progress lets LC_ADVANCE reach its own checks
(R393). -/
def State.svcAllowed (s : State) (c : BitVec 512) : Bool :=
  let l := s.lc
  cmdOpcode c != 0x40 ||
    (match svcOf c with
     | 0x01 => decide (1 ≤ l) && decide (l ≤ 3) | 0x02 => decide (1 ≤ l) && decide (l ≤ 3)
     | 0x10 => l == 2 | 0x11 => l == 2 | 0x12 => l == 2
     | 0x20 => decide (l ≤ 3) || s.lcs.pending.isSome
     | 0x21 => l == 2 || l == 3
     | 0x22 => l == 3
     | 0x30 => decide (1 ≤ l) && decide (l ≤ 3)
     | _ => true)

/-- The checks of R323 and R370 common to every command, in ascending order of detail code (log 24): none, or the detail. TEN_SET
acts on a tenancy too, and TEN_CREATE, REATTACH and the services of the PF are checked by their own rules. An orphaned tenancy admits no new
command (R330); a PKE command whose entry `e` was made before the loss still runs (R446). -/
def State.cmdCheck (s : State) (f : Fn) (c : BitVec 512) (badDep : Byte) (e : Nat) : Option Nat :=
  let n := cmdActsOn c
  let t := s.ten n
  let acts := cmdIssuer c == .owner || cmdOpcode c == 0x14
  if !cmdClean c then some 0x01
  else if !cmdKnown c then some 0x02
  else if (cmdIssuer c == .pf && f != 0) || !s.svcAllowed c then some 0x03
  else if acts && !((t.st == .active || (t.st == .orphaned && cmdOpcode c == 0x41 && decide (e < t.lostAt))) && (f == 0 || f == t.fn)) then some 0x04
  else if badDep != 0 then some badDep.toNat
  else if (match cmdLen c with | some l => cmdHlen c != l | none => false) then some 0x06
  else if t.mir.standby && (acts || cmdOpcode c == 0x12) && !standbyAdmits c then some 0x0A
  else none

/-- A fetched KERNEL command before command `c` that has no unsatisfied dependency and has not become tokens (R365). -/
def State.kernelBefore (s : State) (c : Nat) : Bool :=
  s.sch.fetched.any (fun x => decide (x.cmdId < c) && s.depsMet x.deps && !s.beyondWm (cmdTen x.cmd) x.fn x.ring x.seqgen x.seq)

/-- A command of the pool before command `c` that has no unsatisfied dependency and has not started (R365). -/
def State.commandBefore (s : State) (c : Nat) : Bool :=
  s.sch.pool.any (fun u => decide (u.cmdId < c) && !u.kernel && u.st == .issued && !u.started && s.depsMet u.deps && !s.tokBeyond u)

/-- An ATTEST command. -/
def isAttest (c : BitVec 512) : Bool := cmdOpcode c == 0x40 && svcOf c == 0x01

/-- A module that is not serviceable still answers ATTEST (R487): its security core runs and the control port's link is up (log 103). -/
def State.attestUp (s : State) : Bool := s.sys.unserv && s.secUp && s.sys.ctrlUp

/-- May the command of a pool entry start: the scheduler core runs, its dependencies are satisfied, no earlier command is still to
start that could (R365), the mirror does not hold it (R528). -/
def State.canStart (s : State) (t : Token) : Bool :=
  (s.schedUp || (s.attestUp && isAttest t.cmd)) && !t.kernel && t.st == .issued && !t.started && s.depsMet t.deps && !s.tokBeyond t &&
    !s.commandBefore t.cmdId && !s.kernelBefore t.cmdId

/-- The authenticated commands LC_ADVANCE, BBX_CLEAR and DEBUG_UNLOCK (R406). -/
def cmdAuth (c : BitVec 512) : Bool := cmdOpcode c == 0x40 && [0x20, 0x21, 0x22].contains (svcOf c)

/-- An authenticated command ends: a fresh nonce is drawn, where the DRBG answers (R406, R415). -/
def State.afterAuth (s : State) (c : BitVec 512) : State := if cmdAuth c && s.drbgOk then s.newNonce else s

/-- Start the command of entry `e` when it is one that `sel` selects: refuse it whole, or run it. -/
def State.startCmd (s : State) (e : Nat) (sel : BitVec 512 → Bool) (run : State → Token → State) : State :=
  match s.tok e with
  | none => s
  | some t =>
    if s.canStart t && sel t.cmd then
      match s.cmdCheck t.fn t.cmd t.badDep t.id with
      | some d => (s.afterAuth t.cmd).finish e (Comp.aborted d)
      | none => run (s.modTok e (fun t => { t with started := true })) { t with started := true }
    else s

def selOp (o : Nat) (c : BitVec 512) : Bool := cmdOpcode c == o
def selSvc (v : Nat) (c : BitVec 512) : Bool := cmdOpcode c == 0x40 && svcOf c == v
def selPke (o : Nat) (c : BitVec 512) : Bool := cmdOpcode c == 0x41 && pkeOpOf c == o

/-- Write a command's host buffer (R366). -/
def State.hostOut (s : State) (t : Token) (data : List Byte) : State := s.emit (.hostWrite t.fn (cmdHbuf t.cmd) data)

/-- Run a command that reads its host buffer: a read error refuses it (R370 detail 0x07). -/
def State.withBuf (s : State) (t : Token) (buf : HostBuf) (k : List Byte → State) : State :=
  match buf with
  | none => s.finish t.id (Comp.aborted 0x07)
  | some bs => k (slice bs 0 (cmdHlen t.cmd))

/-! ## The context area (R341) -/

def ctxBase : Nat := 0xF00000000000
def ctxSlot (k : Nat) : Nat := ctxBase + 0x40000000 * k

/-- Does a range name any part of the context area. -/
def inCtx (tva len : Nat) : Bool := decide (ctxBase < tva + len) && decide (tva < ctxSlot 64)

/-! ## Braids: what a change of a braid raises -/

/-- Put a braid back after a step of it: a stop at issue raises source 4b, a check-prime mismatch or an uncorrectable scratchpad
error source 4b + 3 (R493); corrected scratchpad errors are reported (R501). -/
def State.putBraid (s : State) (i : Nat) (b : Braid) : State :=
  let old := s.braid i
  let s := s.setBraid i b
  let s := s.corrected Dom.braid i i (b.tel.eccCorr.toNat - old.tel.eccCorr.toNat)
  let s := if b.phase == .stopped && old.phase != .stopped then s.raise (4 * i) else s
  if b.tel.errs != old.tel.errs then s.raise (4 * i + 3) else s

end Sys2Proof.Machine
end

