-- ==== Sys2Proof/Machine/Issue.lean ====
section
/-! DEFINITION. Issue.lean: how a braid issues: the clauses due in a braid cycle, the checks before the first of them, the end
of a cycle and of a sentence, loops and branches, hitch points and fold passes (R106–R114, R121–R134). -/

namespace Sys2Proof.Machine

/-- Is a sync clause left out in this fold pass: SWAIT issues in pass 0 only, SREL in pass 1 only (R132). -/
def Braid.foldSkips (b : Braid) (c : BitVec 96) : Bool :=
  b.fold && ((clauseOp 0 c == 3 && b.pass) || (clauseOp 0 c == 4 && !b.pass))

/-- The clauses of the sentence that execute in iteration `it` (R107). -/
def Braid.dueAt (b : Braid) (it : Nat) : List Nat :=
  (List.range 6).filter (fun n =>
    !isNop b.cur n && decide (it ≤ clauseRep n (clauseOf b.cur n)) && !(n == 0 && b.foldSkips (clauseOf b.cur 0)))

/-- The clauses due in the current cycle and not yet issued, in clause-number order. -/
def Braid.todo (b : Braid) : List Nat := (b.dueAt b.iter).filter (fun n => !b.issued.contains n)

/-- May a clause issue now: the sequencer is issuing, nothing holds the braid, everything due by this cycle has landed. A stop that a
clause of the cycle has found leaves the other clauses due in it to issue (R106, R171). A throttle hold stops the later iterations of a sentence
too (log 111). -/
def Braid.canIssue (b : Braid) : Bool :=
  b.phase == .issuing && b.tok.isSome && b.pllUp && !b.held && !b.linkDown && (b.stop.isNone || !b.issued.isEmpty) && b.landedBy b.issueAt

/-- A kernel stop (R127): nothing further issues; SEQ_FAULT records status, PC and clause. -/
def Braid.stopNow (b : Braid) (status : Byte) (clause : Nat) : Braid :=
  let r : StopRec := { status := status, pc := b.pc, clause := BitVec.ofNat 3 clause }
  { b with phase := .stopped, stop := some r, tel := { b.tel with fault := r } }

/-- A kernel that runs stops for what a clause of an earlier sentence has met. -/
def Braid.stopFor (b : Braid) (status : Byte) (pc : BitVec 12) (clause : Nat) : Braid :=
  let r : StopRec := { status := status, pc := pc, clause := BitVec.ofNat 3 clause }
  if b.phase == .issuing || b.phase == .waiting || b.phase == .draining || b.phase == .ended then
    { b with phase := .stopped, stop := some r, tel := { b.tel with fault := r } }
  else b

/-- A fault found by an issued clause stops the kernel from the next cycle (R171), whether or not a notice does. -/
def Braid.stopLater (b : Braid) (status : Byte) (clause : Nat) (at' : Option FaultAddr) : Braid :=
  if b.stop.any (fun r => r.clause != 6) then b
  else { b with stop := some { status := status, pc := b.pc, clause := BitVec.ofNat 3 clause }, faultAt := at' }

/-- The first of some ECC words that has an uncorrectable error (R171, R508). -/
def Braid.badWord (b : Braid) (keys : List Nat) : Option FaultAddr :=
  (keys.find? b.ecc2.has).map (fun k => .sp (k / 2 ^ 18) (k % 2 ^ 18 * 16))

/-- Where a clause that a check stops meets the scratchpads: the first of its places, in the order of cores, to which the status applies
(R126, R508). -/
def Braid.faultPlace (b : Braid) (n : Nat) (st : Byte) : Option FaultAddr :=
  let c := clauseOf b.cur n
  let ls := fun (p : Nat → Nat → Bool) =>
    (b.cores.find? (fun k => p k (b.lsAddr (lClause c) k))).map (fun k => FaultAddr.sp k (b.lsAddr (lClause c) k))
  if n = 0 ∧ clauseOp 0 c = 6 then
    if st = Status.caseViolation then ((b.weaveWrites c).find? (fun x => !b.sealedAt x.2)).map (fun x => .sp x.1 x.2)
    else if st = Status.poisonedOperand then ((b.weaveReads c).find? (fun x => b.poisonAt x.1 x.2)).map (fun x => .sp x.1 x.2)
    else none
  else if n = 4 ∧ st = Status.poisonedOperand then ls b.poisonAt
  else if n = 5 ∧ st = Status.caseViolation then ls (fun k a => !b.sealedAt a && b.lsMask (lClause c) k != 0)
  else none

/-! ## Effects of the sync clause from the next cycle (R111, R114, R167, R174, R175) -/

/-- The physical region that region `r` of a SEAL names (R174). -/
def Braid.sealRegion (b : Braid) (r : Nat) : Nat := if b.fold then r % 32 + (if b.pass then 32 else 0) else r

/-- SEAL on one region. -/
def Braid.sealOne (b : Braid) (sealed : Bool) (r : Nat) : Braid :=
  let bank := r / 4
  let q := Sparse.get [] b.clear bank
  if sealed then
    { b with sealMap := b.sealMap ||| oneBit r
             clear := Sparse.set [] b.clear bank (q.map (fun k => if k.region = r then { k with keep := true } else k)) }
  else if !bit b.sealMap r || q.any (fun k => k.region == r) then b
  else { b with clear := Sparse.set [] b.clear bank (q ++ [{ region := r, keep := false }]) }

/-- SEAL on the regions FIRST to FIRST + COUNT − 1, ascending. -/
def Braid.doSeal (b : Braid) (c : BitVec 96) : Braid :=
  (List.range (fld c 6 6 + 1)).foldl (fun b i => b.sealOne (bit c 12) (b.sealRegion (fld c 0 6 + i))) b

/-- The bank map a BANKMAP sets; in fold mode bit b sets banks Bb and Bb+8 (R132, R167). -/
def Braid.mapOf (b : Braid) (m : BitVec 16) : BitVec 16 :=
  if b.fold then BitVec.ofNat 16 (fld m 0 8 * 257) else m

/-- What the sync clause of the sentence changes from the cycle after its issue. -/
def Braid.syncLate (b : Braid) : Braid :=
  let c := clauseOf b.cur 0
  match clauseOp 0 c with
  | 2 => { b with bankMap := b.mapOf (BitVec.ofNat 16 (fld c 0 16)) }
  | 5 => if bit c 0 then { b.clearT3 with spliceEn := true } else { b with spliceEn := false }
  | 7 => b.doSeal c
  | _ => b

/-! ## The end of a sentence (R108, R121–R123) -/

/-- Fold pass 1 of the segment is still to come (R132, R133). -/
def Braid.passDue (b : Braid) : Bool := b.fold && !b.pass && !b.weaveSegment

/-- Issue is over (R123): nothing is left to issue, in no fold pass; what the braid still does is drain, be saved or wait to commit (R329). -/
def Braid.issueOver (b : Braid) : Bool :=
  b.phase == .ended || ((b.phase == .draining || b.phase == .saving) && b.atEnd && !b.passDue)

/-- Hitch points that the drain in progress stands for: a HITCH, the end of issue, or both (R128). -/
def Braid.hitchPoints (b : Braid) : BitVec 32 := (if b.hitchReq then 1 else 0) + (if b.atEnd then 1 else 0)

/-- Issue ends (R123), which is a hitch point (R128): it drains first when a preemption is pending, or for fold pass 1 (R132). -/
def Braid.endIssue (b : Braid) : Braid :=
  if b.passDue || b.preempt.isSome then { b with phase := .draining, hitchReq := false, atEnd := true, drainAt := b.issueAt }
  else { b with phase := .ended, tel := { b.tel with hitch := b.tel.hitch + 1 } }

/-- Deactivate every loop whose body does not contain the target (R122). -/
def branchLoops (target : Nat) (loops : List LoopCtr) : List LoopCtr :=
  loops.map (fun l => if l.active && !(decide (l.first.toNat ≤ target) && decide (target ≤ l.last.toNat)) then
    { l with active := false } else l)

/-- Where issue goes after the sentence: next sentence, loops, extra cycles (R121–R123). -/
def Braid.nextPc (b : Braid) : Nat × List LoopCtr × Nat :=
  let pc := b.pc.toNat
  match b.ctl with
  | .none => let r := stepLoops pc b.loops; (r.1, r.2, 0)
  | .loopIn l count last =>
    (pc + 1, b.loops.set l { active := true, index := 0, count := count, first := b.pc + 1, last := last }, 0)
  | .skip last => (last.toNat + 1, b.loops, 2)
  | .goto target => (target.toNat, branchLoops target.toNat b.loops, 2)
  | .stop => (pc, b.loops, 0)

/-- The sentence has issued whole: move PC, time and loops; a HITCH begins to drain (R129). -/
def Braid.finishSentence (b : Braid) : Braid :=
  let c0 := clauseOf b.cur 0
  let idle := if clauseOp 0 c0 = 8 then fld c0 0 12 else 0
  let hitch := clauseOp 0 c0 == 1
  let t0 := b.issueAt + 1 - sentenceLen b.cur
  let r := b.nextPc
  let ends := b.ctl == .stop || decide (b.sents.length ≤ r.1)
  let b := { b.advanceTo (b.issueAt + 1 + idle + r.2.2) with
    iter := 0, issued := [], ctl := .none, loops := r.2.1, pc := if b.ctl == .stop then b.pc else BitVec.ofNat 12 r.1 }
  if hitch then { b with phase := .draining, hitchReq := true, atEnd := ends, drainAt := t0 + 1 }
  else if ends then b.endIssue
  else b

/-- Sentences without a clause due take their cycle and pass, where issue is not held (R542); at most `fuel` of them at a time, and the next
clause row goes on (log 15). -/
def Braid.settle : Nat → Braid → Braid
  | 0, b => b
  | f + 1, b =>
    if b.phase == .issuing && !b.held && b.iter == 0 && b.issued.isEmpty && (b.dueAt 0).isEmpty && decide (b.pc.toNat < b.sents.length) then
      Braid.settle f ({ b with tel := { b.tel with issued := b.tel.issued + 1 } }).finishSentence
    else b

/-- Fuel of `settle`: the size of the sentence store. -/
def settleFuel : Nat := 4096

/-- Issue goes on after a cycle: the next iteration, or the end of the sentence. No core port touches a bank between this cycle and the next
one in which clauses issue (R168). -/
def Braid.nextCycle (b : Braid) : Braid :=
  let u := b.issueAt + 1
  let b := if b.iter + 1 < sentenceLen b.cur then { b.advanceTo u with iter := b.iter + 1, issued := [] } else b.finishSentence
  { b with freeFrom := u }

/-- Every clause due in the cycle has issued. A stop notice that came in the middle of the cycle stops the kernel now, unless its issue is
over (R106, R328, R329). -/
def Braid.finishCycle (b : Braid) : Braid :=
  let b := if b.iter = 0 ∧ b.issued.contains 0 then b.syncLate else b
  match b.stop with
  | some r =>
    if r.clause = 6 then
      let b := { b with stop := none }.nextCycle
      if b.issueOver then b else b.stopNow r.status 6
    else { b with phase := .stopped, tel := { b.tel with fault := r } }
  | none =>
    let b := b.nextCycle
    if b.iter = 0 then Braid.settle settleFuel b else b

/-! ## Issue of one clause -/

/-- The first check that fails among the clauses due, in clause-number order (R126). -/
def Braid.failing (b : Braid) : Option (Byte × Nat) :=
  b.todo.findSome? (fun n => (b.checkClause n (clauseOf b.cur n) b.iter).map (fun st => (st, n)))

/-- The splice network holds issue of the sentence: no entry of the export queue is left for it (R294). -/
def Braid.exportHeld (b : Braid) : Bool :=
  b.iter == 0 && b.issued.isEmpty && decide (0 < exports b.cur) && decide (2 < b.reserved + exports b.cur)

/-- Clause `n` has issued: count the sentence, mark the clause, end the cycle when it was the last. -/
def Braid.issuedClause (b : Braid) (n : Nat) (first : Bool) : Braid :=
  let b := { b with issued := b.issued ++ [n], cycle := Nat.max b.cycle b.issueAt, acts := countClass b.acts (latClass n (clauseOf b.cur n))
                    reserved := if first then b.reserved + exports b.cur else b.reserved
                    tel := if first then { b.tel with issued := b.tel.issued + 1 } else b.tel }
  if b.todo.isEmpty then b.finishCycle else b

/-- Issue clause `n` when it is the next due one and `ok` accepts it; the first clause of a cycle is preceded by the checks of
every clause due. The flag says whether the clause issued. With nothing due in the cycle, issue passes on. -/
def Braid.issueClause (b : Braid) (n : Nat) (ok : BitVec 96 → Bool) (run : Braid → BitVec 96 → Nat → Braid) : Braid × Bool :=
  let c := clauseOf b.cur n
  if b.canIssue && b.todo.head? == some n && ok c && !b.exportHeld then
    match (if b.issued.isEmpty then b.failing else none) with
    | some f => ({ b.stopNow f.1 f.2 with faultAt := b.faultPlace f.2 f.1 }, false)
    | none =>
      let first := b.iter == 0 && b.issued.isEmpty
      let b := if b.issued.isEmpty then { b with orderAt := b.order } else b
      ((run b c b.iter).issuedClause n first, true)
  else (if b.canIssue then Braid.settle settleFuel b else b, false)

/-- A clause of the given operation. -/
def opIs (n op : Nat) (c : BitVec 96) : Bool := clauseOp n c == op

/-- A core-target scalar clause of the given operation (R115). -/
def coreOp (op : Nat) (c : BitVec 96) : Bool := scalarTgt c && clauseOp 1 c == op

/-- A sequencer-target scalar clause of the given operation (R116). -/
def seqOp (op : Nat) (c : BitVec 96) : Bool := !scalarTgt c && clauseOp 1 c == op

/-- Put a result in flight that lands `lat` cycles after the current one. -/
def Braid.result (b : Braid) (clause lat : Nat) (dest : Dest) (parts : List Part) : Braid :=
  b.send { due := b.issueAt + lat, clause := clause, order := b.order, dest := dest, merge := .replace, parts := parts,
           xport := none }

/-- A core's part of a scalar, address or predicate result. -/
def wordPart (c : Nat) (v : Nat) (sealed : Bool) : Part :=
  { core := c, val := BitVec.ofNat 1024 v, hi := 0, mask := 1, full := true, sealed := sealed, poison := false, addr := 0,
    bytes := [] }

/-! ## Rings -/

/-- Ring `r`. -/
def Braid.ring (b : Braid) (r : Nat) : Ring := Sparse.get Ring.init b.rings r
def Braid.setRing (b : Braid) (r : Nat) (x : Ring) : Braid := { b with rings := Sparse.set Ring.init b.rings r x }

/-- KIND of a ring configuration (R203). -/
def Ring.kind (r : Ring) : Nat := fld r.cfg 9 3
/-- SIZE (R200). -/
def Ring.size (r : Ring) : Nat := fld r.cfg 13 4 + 1
def Ring.persist (r : Ring) : Bool := bit r.cfg 12
/-- The slot a counter denotes (R207). -/
def Ring.slotAt (r : Ring) (ctr i : Nat) : Slot := r.slots.getD ((ctr + i) % r.size) Slot.init

/-- Is a slot as SWAIT awaits it: full, or free for KIND 1 (R214). -/
def Ring.ready (r : Ring) (s : Slot) : Bool := if r.kind = 1 then s.braid == .free else s.braid == .full

/-- The number of consecutive ready slots from HEAD, at most `n` (R217). -/
def Ring.run (r : Ring) (n : Nat) : Nat :=
  ((List.range (Nat.min n r.size)).takeWhile (fun i => r.ready (r.slotAt r.head.toNat i))).length

/-- The wait condition of SWAIT for N slots, clamped to SIZE (R214, R216). -/
def Ring.waitOver (r : Ring) (n : Nat) : Bool := r.run n == Nat.min n r.size

/-! ## Landings as rows -/

/-- TIMEOUT of the SWAIT at PC. -/
def Braid.timeoutOf (b : Braid) : Nat := fld (clauseOf b.cur 0) 32 16

/-- The awaited ring and slot count of the sentence's SWAIT, and its TIMEOUT. -/
def Braid.swaitOf (b : Braid) : Nat × Nat × Nat :=
  let c := clauseOf b.cur 0
  (fld c 53 5, fld c 49 4 + 1, fld c 32 16)

/-- The condition of the SWAIT holds as the braid sees its ring's slots (R214). -/
def Braid.waitMet (b : Braid) : Bool := (b.ring b.swaitOf.1).armed && (b.ring b.swaitOf.1).waitOver b.swaitOf.2.1

/-- May the braid reach cycle `d` with what is due in it. While issue goes on time moves with it; where it is held, for the splice
network, the throttle or a SWAIT, landings go on (R124, R220), in a SWAIT up to its timeout, or, once that has passed, to the end of the
throttle's hold (log 16). -/
def Braid.mayReach (b : Braid) (d : Nat) : Bool :=
  match b.phase with
  | .issuing => decide (d ≤ b.issueAt) || ((b.exportHeld || b.held) && b.issued.isEmpty)
  | .waiting => b.timeoutOf == 0 || decide (d ≤ b.waitAt + b.timeoutOf) ||
      (!b.waitMet && (b.held || b.holds.any (fun h => decide (d ≤ h.2))))
  | _ => true

/-- Count `n` stall cycles under cause `k` (R221). -/
def Braid.countStall (b : Braid) (k n : Nat) : Braid :=
  { b with tel := { b.tel with stall := Sparse.set 0 b.tel.stall k (Sparse.get 0 b.tel.stall k + BitVec.ofNat 64 n) } }

/-- Issue held by the splice network moves to cycle `d`; its cycles count under SPLICE_LATE (R221, R294). -/
def Braid.holdTo (b : Braid) (d : Nat) : Braid :=
  if b.phase == .issuing && !b.held && decide (b.issueAt < d) then (b.countStall 2 (d - b.issueAt)).advanceTo d else b

/-- RESULT_LANDING: everything due in the earliest due cycle lands (R124), when the braid may reach it. -/
def Braid.landNext (b : Braid) (id : Nat) : Braid :=
  match b.nextDue with
  | none => b
  | some d =>
    let weaveFirst := match b.weave with | none => false | some w => decide (w.due < d)
    if weaveFirst || !b.mayReach d then b else (b.land id d).holdTo d

/-- The exchange writes its bytes: none in a region being cleared (R175), and none in a word whose merge read finds an uncorrectable
error, which stops the kernel (R170, R171). -/
def Braid.weaveWrite (b : Braid) (w : WeaveFlight) : Braid :=
  let ws := b.weaveBytes w
  let b := b.weaveWins w.due (ws.map (fun x => (x.1, x.2.1)))
  let ws := ws.filter (fun x => !b.clearingAt x.2.1)
  let e := b.eccWrite (ws.map (fun x => (x.1, x.2.1))) false
  let ws' : List (Nat × Nat × Byte) := ws.filter (fun x => !e.2.contains (spKey x.1 x.2.1))
  let b := ws'.foldl (fun (b : Braid) x => (b.putByte x.1 x.2.1 x.2.2).setWritten x.1 x.2.1) e.1
  let b := ({ b with weave := none, cycle := Nat.max b.cycle w.due } : Braid).touchAt w.due (ws.map (fun x => x.2.1 / 2 ^ 18))
  if e.2.isEmpty then b else { b.stopFor Status.eccUncorrected w.pc 0 with faultAt := b.badWord e.2 }

/-- WEAVE_LANDING: the exchange writes every destination byte (R177); results due earlier land first. -/
def Braid.landWeave (b : Braid) : Braid :=
  match b.weave with
  | none => b
  | some w =>
    if b.flights.any (fun f => decide (f.due < w.due)) || !b.mayReach w.due then b else (b.weaveWrite w).holdTo w.due

/-! ## The end of a drain (R129, R132) -/

/-- The drain at a hitch point may end: every result has landed, every store is visible, no weave is in flight. -/
def Braid.drained (b : Braid) : Bool := b.phase == .draining && b.flights.isEmpty && b.weave.isNone

/-- The cycle in which the drain ends. -/
def Braid.drainEnd (b : Braid) : Nat := Nat.max b.drainAt (Nat.max b.cycle b.issueAt)

/-- The drain at the end of issue, where nothing else made issue drain: what has issued lands before the commit (R34, R136). -/
def Braid.endDrain (b : Braid) : Braid :=
  if b.phase == .ended && !b.atEnd then
    { b with tel := { b.tel with drain := b.tel.drain + BitVec.ofNat 32 (Nat.max b.cycle b.issueAt - b.issueAt) } }
  else b

/-- A new segment starts here (R132). -/
def Braid.startSegment (b : Braid) : Braid :=
  { b with pass := false, mark := { pc := b.pc, loops := b.loops, lcs := b.lcs } }

/-- Pass 1 of the segment starts: PC, loops and counts as they stood at its start; the timeout flag stays (R132). -/
def Braid.startPass1 (b : Braid) : Braid :=
  { b with pass := true, pc := b.mark.pc, loops := b.mark.loops, lcs := b.mark.lcs, phase := .issuing }

/-- Take the drain's end without a preemption: fold pass 1, or the end of issue, or the next segment. TEL.SEQ_HITCH counts the hitch
points passed (R136), in fold mode after both passes of the segment (DESIGN CHOICE, log 94). -/
def Braid.drainOver (b : Braid) : Braid :=
  let t := b.drainEnd
  let again := (b.hitchReq || b.atEnd) && b.passDue
  let x := b.advanceTo t
  let b := { x with
    cycle := t
    tel := { x.tel with drain := b.tel.drain + BitVec.ofNat 32 (t - b.drainAt)
                        hitch := if again then b.tel.hitch else b.tel.hitch + b.hitchPoints } }
  if again then Braid.settle settleFuel { b.startPass1 with hitchReq := false, atEnd := false }
  else if b.atEnd then { b with phase := .ended }
  else Braid.settle settleFuel { b.startSegment with phase := .issuing, hitchReq := false }

end Sys2Proof.Machine
end

