-- ==== Sys2Proof/Machine/Scalar.lean ====
section
/-! DEFINITION. Scalar.lean: what the sync and scalar clauses do on a braid (R100, R111–R117, R175, R177–R182, R214–R218). -/

namespace Sys2Proof.Machine

/-! ## Core-target scalar operations (R115) -/

/-- The immediate, sign-extended to 64 bits. -/
def SClause.simm (s : SClause) : W64 := BitVec.ofInt 64 (sgn 24 s.imm.toNat)

/-- Operand B on a core: the immediate when IMMF = 1. -/
def Braid.opB (b : Braid) (s : SClause) (c : Nat) : SReg :=
  if s.immf then { val := s.simm, sealed := false } else b.getS c s.b

/-- A two-operand ALU operation: SD ← f SA B, one cycle later, with the most sealed case of its sources (R79). -/
def runAlu (f : W64 → W64 → W64) (b : Braid) (c : BitVec 96) (_ : Nat) : Braid :=
  let s := sClause c
  b.result 1 1 (.s s.d) (b.cores.map (fun k =>
    let x := b.getS k s.a
    let y := b.opB s k
    wordPart k (f x.val y.val).toNat (x.sealed || y.sealed)))

def aluShl (x y : W64) : W64 := x <<< (fld y 0 6)
def aluShr (x y : W64) : W64 := x >>> (fld y 0 6)
def aluSar (x y : W64) : W64 := x.sshiftRight (fld y 0 6)
def aluMin (x y : W64) : W64 := if x.toNat ≤ y.toNat then x else y
def aluMax (x y : W64) : W64 := if x.toNat ≤ y.toNat then y else x

/-- MOVI: SD ← IMM, sign-extended; open. -/
def runMovi (b : Braid) (c : BitVec 96) (_ : Nat) : Braid :=
  let s := sClause c
  b.result 1 1 (.s s.d) (b.cores.map (fun k => wordPart k s.simm.toNat false))

/-- ORSH: SD ← (SA << 24) or IMM[23:0]. -/
def runOrsh (b : Braid) (c : BitVec 96) (_ : Nat) : Braid :=
  let s := sClause c
  b.result 1 1 (.s s.d) (b.cores.map (fun k =>
    let x := b.getS k s.a
    wordPart k ((x.val <<< 24) ||| s.imm.setWidth 64).toNat x.sealed))

/-- CMP: every lane bit of PD[2:0] is the result of SA COND B. -/
def runScalarCmp (b : Braid) (c : BitVec 96) (_ : Nat) : Braid :=
  let s := sClause c
  b.result 1 1 (.p (s.d % 8)) (b.cores.map (fun k =>
    let t := Arith.condL 64 none s.cond (b.getS k s.a).val.toNat (b.opB s k).val.toNat
    { wordPart k (if t then (allLanes b.m32).toNat else 0) false with mask := 0xFFFFFFFF }))

/-- CID: the logical core ID (R115, R132). -/
def runCid (b : Braid) (c : BitVec 96) (_ : Nat) : Braid :=
  b.result 1 1 (.s (sClause c).d) (b.cores.map (fun k => wordPart k (b.logical k) false))

/-- HGET: SD ← H(A[2:0]). -/
def runHget (b : Braid) (c : BitVec 96) (_ : Nat) : Braid :=
  let s := sClause c
  b.result 1 1 (.s s.d) (b.cores.map (fun k => wordPart k (b.hdr (s.a % 8)).toNat false))

/-- LGET: SD ← iteration index of L(A[1:0]). -/
def runLget (b : Braid) (c : BitVec 96) (_ : Nat) : Braid :=
  let s := sClause c
  b.result 1 1 (.s s.d) (b.cores.map (fun k => wordPart k (b.loop (s.a % 4)).index.toNat false))

/-- GETA: SD ← effective address of A(A[3:0]). -/
def runGeta (b : Braid) (c : BitVec 96) (_ : Nat) : Braid :=
  let s := sClause c
  b.result 1 1 (.s s.d) (b.cores.map (fun k => wordPart k (b.getA k (s.a % 16)).ea false))

/-- SA + B, the value the address operations take (R115). -/
def Braid.sumAB (b : Braid) (s : SClause) (k : Nat) : W64 := (b.getS k s.a).val + (b.opB s k).val

/-- SETA: BASE ← SA + B modulo 2^22; writing BASE sets OFFSET to 0 (R100). -/
def runSeta (b : Braid) (c : BitVec 96) (_ : Nat) : Braid :=
  let s := sClause c
  let i := s.d % 16
  (b.result 1 1 (.aBase i) (b.cores.map (fun k => wordPart k (fld (b.sumAB s k) 0 22) false))).result 1 1 (.aOffset i)
    (b.cores.map (fun k => wordPart k 0 false))

/-- SETSTR: STRIDE ← SA + B modulo 2^23. -/
def runSetstr (b : Braid) (c : BitVec 96) (_ : Nat) : Braid :=
  let s := sClause c
  b.result 1 1 (.aStride (s.d % 16)) (b.cores.map (fun k => wordPart k (fld (b.sumAB s k) 0 23) false))

/-- SETWRAP: WRAP ← SA + B modulo 2^23, above 2^22 taken as 2^22. -/
def runSetwrap (b : Braid) (c : BitVec 96) (_ : Nat) : Braid :=
  let s := sClause c
  b.result 1 1 (.aWrap (s.d % 16)) (b.cores.map (fun k => wordPart k (Nat.min (fld (b.sumAB s k) 0 23) (2 ^ 22)) false))

/-- ADDA: advance by SA + B, taken as a signed 64-bit number (R100, R115; DESIGN CHOICE, log 91: the rule does not say signed). -/
def runAdda (b : Braid) (c : BitVec 96) (_ : Nat) : Braid :=
  let s := sClause c
  let i := s.d % 16
  b.result 1 1 (.aOffset i) (b.cores.map (fun k =>
    wordPart k ((b.getA k i).adv (sgn 64 (b.sumAB s k).toNat)).toNat false))

/-! ## Sequencer-target operations (R116) -/

/-- LOOP: enter the body, or skip it when the count is zero (R121). -/
def runLoop (b : Braid) (c : BitVec 96) (_ : Nat) : Braid :=
  let count := if bit c 54 then b.lcs.getD (fld c 52 2) 0 else BitVec.ofNat 16 (fld c 40 12)
  let last := BitVec.ofNat 12 (fld c 28 12)
  { b with ctl := if count = 0 then .skip last else .loopIn (fld c 55 2) count last }

/-- SETLC: an immediate, or a header field plus a signed immediate, clamped (R116). -/
def runSetlc (b : Braid) (c : BitVec 96) (_ : Nat) : Braid :=
  let imm := fld c 24 16
  let v : Nat :=
    if bit c 54 then
      let f := b.hField (fld c 51 3) (fld c 45 6) (fld c 40 5 + 1)
      let x : Int := (f : Int) + sgn 16 imm
      if x < 0 then 0 else Nat.min x.toNat 65535
    else imm
  { b with lcs := b.lcs.set (fld c 55 2) (BitVec.ofNat 16 v) }

/-- JMP. -/
def runJmp (b : Braid) (c : BitVec 96) (_ : Nat) : Braid := { b with ctl := .goto (BitVec.ofNat 12 (fld c 28 12)) }

/-- BR (R117). -/
def runBr (b : Braid) (c : BitVec 96) (_ : Nat) : Braid :=
  if b.brTaken c then { b with ctl := .goto (BitVec.ofNat 12 (fld c 28 12)) } else b

/-- END: issue ends (R123). -/
def runEnd (b : Braid) (_ : BitVec 96) (_ : Nat) : Braid := { b with ctl := .stop }

/-! ## Sync operations (R111) -/

/-- HITCH, BANKMAP, SPLICE, SEAL and IDLE act at the end of their cycle or sentence (Issue.lean). -/
def runSync (b : Braid) (_ : BitVec 96) (_ : Nat) : Braid := b

/-- The bytes a weave run reads, as core-port reads see them: zero in a region being cleared (R175). -/
def Braid.weaveByte (b : Braid) (l a : Nat) : Byte :=
  let p := b.logAddr l a
  if b.clearingAt p.2 then 0 else b.spByte p.1 p.2

/-- WEAVE: read every source byte in its cycle; the exchange lands 24 + B cycles later, 24 + 2B in a weave segment of a
fold-mode braid (R177, R182). -/
def runWeave (b : Braid) (c : BitVec 96) (_ : Nat) : Braid :=
  let beats := fld c 40 10 + 1
  let w := if b.m32 then 4 else 8
  let runs := (b.weavePlan c).map (fun s =>
    ({ core := s.dst, addr := s.da, step := weaveStepOf b.m32 c
       data := chunks w s.n ((List.range s.n).map (fun i => b.weaveByte s.src (s.sa + i))) } : WeaveRun))
  let rd := b.weaveReads c
  let r := (b.touchAt b.issueAt (rd.map (fun x => x.2 / 2 ^ 18))).eccRead (rd.map (fun x => spKey x.1 x.2)) false
  let bad := b.badWord (rd.map (fun x => spKey x.1 x.2))
  let b := { r.1 with weave := some { due := b.issueAt + 24 + (if b.fold then 2 * beats else beats), issuedAt := b.issueAt, pc := b.pc, runs := runs }
                      tel := { r.1.tel with weaves := r.1.tel.weaves + 1, beats := r.1.tel.beats + BitVec.ofNat 32 beats } }
  if r.2 then b.stopLater Status.eccUncorrected 0 bad else b

/-! ## Stream waits and releases (R214–R218) -/

def Braid.countUnarmed (b : Braid) : Braid :=
  { b with tel := { b.tel with unarmed := BitVec.ofNat 16 (satAdd 16 b.tel.unarmed.toNat 1) } }
def Braid.countClamped (b : Braid) (n : Nat) : Braid :=
  { b with tel := { b.tel with clamped := BitVec.ofNat 16 (satAdd 16 b.tel.clamped.toNat n) } }
def Braid.countTimeout (b : Braid) : Braid :=
  { b with tel := { b.tel with timeouts := BitVec.ofNat 16 (satAdd 16 b.tel.timeouts.toNat 1) } }

/-- SREL: n slots from HEAD change hands in the braid's view, HEAD advances, the shortfall is counted (R217, R218). -/
def runSrel (b : Braid) (c : BitVec 96) (_ : Nat) : Braid :=
  let i := fld c 53 5
  let n := fld c 49 4 + 1
  let r := b.ring i
  if !r.armed then b.countUnarmed
  else
    let k := r.run n
    let slots := r.slots.zipIdx.map (fun s =>
      if (List.range k).any (fun j => (r.head.toNat + j) % r.size == s.2) then
        { s.1 with braid := if r.kind = 1 then SlotSt.full else SlotSt.free }
      else s.1)
    (b.setRing i { r with slots := slots, head := r.head + BitVec.ofNat 16 k }).countClamped (n - k)

/-- The sentence of a SWAIT that has ended issues: the flag is set or cleared and the sync clause counts as issued (R112). It is set before
the other clauses of the sentence read it (DESIGN CHOICE, log 91). -/
def Braid.swaitIssue (b : Braid) : Braid :=
  match b.waitDone with
  | none => b
  | some timeout =>
    let r := b.issueClause 0 (opIs 0 3) (fun b _ _ => { b with tflag := timeout, waitDone := none })
    if r.2 && timeout then r.1.countTimeout else r.1

/-- SWAIT reaches issue (R214–R218): it ends at once when its condition holds, as if by timeout when the ring is not armed,
and waits otherwise; `cause` is what a stall counts under (R221). A wait that ended while issue was held issues its sentence. -/
def Braid.swaitStart (b : Braid) (cause : Nat) : Braid :=
  let w := b.swaitOf
  let r := b.ring w.1
  if b.waitDone.isSome then b.swaitIssue
  else if !(b.canIssue && b.todo.head? == some 0 && opIs 0 3 (clauseOf b.cur 0) && !b.exportHeld) then
    (if b.canIssue then Braid.settle settleFuel b else b)
  else if !r.armed then { b.countUnarmed with waitDone := some true }.swaitIssue
  else
    let b := if r.size < w.2.1 then b.countClamped 1 else b
    if r.waitOver w.2.1 then { b with waitDone := some false }.swaitIssue
    else { b with phase := .waiting, waitAt := b.issueAt, waitFor := [cause], holds := [], dmaUpTo := 0 }

/-- Cycles from `lo` to `hi` that the throttle takes. -/
def Braid.heldIn (b : Braid) (lo hi : Nat) : Nat := (b.holds.map (fun h => Nat.min hi h.2 - Nat.max lo h.1)).sum

/-- Count `n` cycles under causes in the order they came to apply; a share says how much of what is left a cause that ended has. -/
def Braid.countCauses : Braid → List Nat → List Nat → Nat → Braid
  | b, [], _, _ => b
  | b, [k], _, n => b.countStall k n
  | b, k :: ks, x :: xs, n => (b.countStall k (x % (n + 1))).countCauses ks xs (n - x % (n + 1))
  | b, k :: ks, [], n => (b.countStall k 0).countCauses ks [] n

/-- Count `n` stall cycles for a ring (R221). -/
def Braid.countRing (b : Braid) (ring n : Nat) : Braid :=
  b.setRing ring { b.ring ring with stall := (b.ring ring).stall + BitVec.ofNat 64 n }

/-- The wait ends after `n` cycles, in cycle waitAt + n, when everything due by then has landed. Its cycles are counted, those of the
throttle apart (R221), and the sentence issues once the throttle holds it no longer. -/
def Braid.swaitOver (b : Braid) (n : Nat) (timeout : Bool) (shares : List Nat) : Braid :=
  let w := b.swaitOf
  let u := b.waitAt + n
  if b.pllUp && !b.linkDown && b.landedBy u then
    let issue := b.holds.foldl (fun t h => if h.1 ≤ t ∧ t < h.2 then h.2 else t) u
    let h := b.heldIn b.waitAt u
    let b := (((b.countRing w.1 n).countCauses b.waitFor shares (n - h)).countStall 6 (h + (issue - u))).advanceTo issue b.dmaUpTo
    { b with phase := .issuing, waitDone := some timeout, holds := [] }.swaitIssue
  else b

/-- SWAIT_END after `n` cycles: the condition holds, within TIMEOUT, and no later cycle has been reached (R214, R215). -/
def Braid.swaitEnd (b : Braid) (n : Nat) (shares : List Nat) : Braid :=
  let w := b.swaitOf
  if b.phase == .waiting && (b.ring w.1).waitOver w.2.1 && (w.2.2 == 0 || decide (n ≤ w.2.2)) && decide (b.cycle ≤ b.waitAt + n) then
    b.swaitOver n false shares
  else b

/-- SWAIT_TIMEOUT: TIMEOUT cycles have passed; arrival in that cycle, or before it, wins, and one after it is none, as while the throttle
holds the sentence (R214, R215). A ring disarmed during the wait ends it as an unarmed one would. -/
def Braid.swaitTimeout (b : Braid) (shares : List Nat) : Braid :=
  let w := b.swaitOf
  if b.phase == .waiting && w.2.2 != 0 then b.swaitOver w.2.2 (!(b.waitMet && decide (b.cycle ≤ b.waitAt + w.2.2))) shares else b

/-- SEAL_CLEARING_DONE in a bank: the first region queued is zero on every core, its poison bits are clear, and it opens unless
a SEAL asked to keep it sealed (R84, R172, R175). -/
def Braid.clearDone (b : Braid) (bank : Nat) : Braid :=
  match Sparse.get [] b.clear bank with
  | [] => b
  | k :: rest =>
    let r := k.region
    let inR := fun key => key % 2 ^ 18 / 4096 == r
    { b with
      sp := Sparse.dropKeys b.sp inR
      spPoison := b.spPoison.filter (fun key => !(key % 1024 / 16 == r))
      ecc1 := b.ecc1.filter (fun key => !inR key), ecc2 := b.ecc2.filter (fun key => !inR key)
      flights := b.flights.map (fun f => if f.dest = .mem then
        { f with parts := f.parts.map (fun p =>
          { p with bytes := p.bytes.filter (fun x => x.1 / 65536 != r), poison := p.poison && p.addr / 65536 != r }) } else f)
      sealMap := if k.keep then b.sealMap else b.sealMap &&& ~~~(oneBit r)
      clear := Sparse.set [] b.clear bank rest }

end Sys2Proof.Machine
end

