-- ==== Sys2Proof/Machine/Vector.lean ====
section
/-! DEFINITION. Vector.lean: the vector operations lane by lane (R118, R139–R146, R150, R454, R455). -/

namespace Sys2Proof.Machine

open Sys2Proof.Arith

/-! ## Sources -/

/-- Source A of iteration `it`, the `dual` one being the second of a dual form: a register, or a row of tile TS (R118). -/
def Braid.srcA (b : Braid) (v : VClause) (it : Nat) (second : Bool) (c : Nat) : VCell :=
  let st := (if v.astep then (if v.dual then 2 * it else it) else 0) + (if second then 1 else 0)
  if v.atile then
    { val := b.getT c v.ts (v.va + st), sealed := (b.getTF c v.ts).sealed, poison := (b.getTF c v.ts).poison }
  else b.getV c (v.va + st)

/-- A source register of iteration `it`. -/
def Braid.srcV (b : Braid) (v : VClause) (reg it : Nat) (second : Bool) (c : Nat) : VCell :=
  b.getV c (reg + (if v.astep then (if v.dual then 2 * it else it) else 0) + (if second then 1 else 0))

/-- Combine two registers lane by lane. -/
def zipLanes (m32 : Bool) (f : Nat → Nat → Nat) (x y : VReg) : VReg :=
  ofLanes m32 (List.zipWith f (lanes m32 x) (lanes m32 y))

/-- Combine three registers lane by lane. -/
def zipLanes3 (m32 : Bool) (f : Nat → Nat → Nat → Nat) (x y z : VReg) : VReg :=
  ofLanes m32 (List.zipWith (fun p c => f p.1 p.2 c) (List.zip (lanes m32 x) (lanes m32 y)) (lanes m32 z))

/-! ## Results in flight -/

/-- A part of a vector result on a core: the lanes its predicate selects (R110). A poisoned predicate poisons it (R158). -/
def Braid.vPart (b : Braid) (v : VClause) (c : Nat) (val : VReg) (sealed poison : Bool) : Part :=
  let m := b.laneMask v.pen v.pinv v.pred c
  { core := c, val := val, hi := 0, mask := m, full := m == allLanes b.m32, sealed := sealed,
    poison := poison || (v.pen && b.poisonedP c v.pred), addr := 0, bytes := [] }

/-- Where a vector result goes: row VD[3:0] of tile TS, or a register, `off` further on (R118). -/
def VClause.dest (v : VClause) (off : Nat) : Dest :=
  if v.dtile then .row v.ts ((v.vd + off) % 16) else .v ((v.vd + off) % 32)

/-- Steps of the destination per iteration: 1, 2 for a pair, 4 for a dual butterfly (R118, R142). -/
def VClause.dstStep (v : VClause) : Nat :=
  if v.op = 9 ∨ v.op = 10 then (if v.dual then 4 else 2) else if v.dual then 2 else 1

/-- Put a vector result in flight: with SPL it accumulates into T3 by the modulus of the clause, and with SPL = 2 its last
iteration exports (R146, R292). With DTILE and DSTEP its rows walk through the tile (R79). -/
def Braid.vResult (b : Braid) (v : VClause) (it off steps : Nat) (parts : List Part) : Braid :=
  let off0 := v.dstStep * it + off
  let off := off + (if v.dstep then v.dstStep * it else 0)
  let sel := b.limbSel v.limb v.ladd v.lloop
  let q := if v.ring then 0 else (b.limbs.getD sel 0).toNat
  b.send
    { due := b.issueAt + vecLatency v.op steps, clause := 2, order := b.order, dest := v.dest off,
      merge := if v.spl = 0 then .replace else .acc q, parts := parts,
      xport := if v.spl == 2 && it == v.rep then some q else none
      run := if v.dtile && v.dstep && v.spl == 0 then some (off0 % 16 == 0) else none }

/-- An operation of sources A and B (and C) on every core; in dual form it runs a second time on the next registers. `uses`
says how many sources the result's case and poison follow (R79, R158). -/
def runVec (uses : Nat) (f : VClause → Option Nat → Nat → VReg → VReg → VReg → VReg) (b : Braid) (c : BitVec 96) (it : Nat) :
    Braid :=
  let v := vClause c
  let q := b.modulus v.ring (b.limbSel v.limb v.ladd v.lloop)
  let one := fun (b0 b : Braid) (second : Bool) =>
    b.vResult v it (if second then 1 else 0) 0 (b0.cores.map (fun k =>
      let x := b0.srcA v it second k
      let y := b0.srcV v v.vb it second k
      let z := b0.srcV v v.vc it second k
      b0.vPart v k (f v q k x.val y.val z.val)
        (x.sealed || (decide (2 ≤ uses) && y.sealed) || (decide (3 ≤ uses) && z.sealed))
        (x.poison || (decide (2 ≤ uses) && y.poison) || (decide (3 ≤ uses) && z.poison))))
  let b1 := one b b false
  if v.dual then one b b1 true else b1

def vecAdd (m32 : Bool) (q : Option Nat) (x y : VReg) : VReg := zipLanes m32 (addL (laneW m32) q) x y
def vecSub (m32 : Bool) (q : Option Nat) (x y : VReg) : VReg := zipLanes m32 (subL (laneW m32) q) x y
def vecMul (m32 : Bool) (q : Option Nat) (x y : VReg) : VReg := zipLanes m32 (mulL (laneW m32) q) x y
def vecFma (m32 : Bool) (q : Option Nat) (x y z : VReg) : VReg := zipLanes3 m32 (fmaL (laneW m32) q) x y z
def vecSel (m32 : Bool) (x y z : VReg) : VReg := zipLanes3 m32 (fun a b c => if c = 0 then b else a) x y z
def vecMin (m32 : Bool) (x y : VReg) : VReg := zipLanes m32 Nat.min x y
def vecMax (m32 : Bool) (x y : VReg) : VReg := zipLanes m32 Nat.max x y
def vecRed (m32 : Bool) (q : Nat) (x y : VReg) : VReg := zipLanes m32 (redL (laneW m32) q) x y
def vecCmp (m32 : Bool) (q : Option Nat) (cond : Nat) (x y : VReg) : VReg :=
  zipLanes m32 (fun a b => if condL (laneW m32) q cond a b then ones (laneW m32) else 0) x y

/-- One bit per lane where the condition holds. -/
def cmpBits (m32 : Bool) (q : Option Nat) (cond : Nat) (x y : VReg) : Nat :=
  ((List.zipWith (condL (laneW m32) q cond) (lanes m32 x) (lanes m32 y)).zipIdx).foldl
    (fun n p => if p.1 then n + 2 ^ p.2 else n) 0

/-- MOV, or the permuting MOV with negation (R145). -/
def vecMov (m32 : Bool) (q : Option Nat) (sub : Nat) (x y : VReg) : VReg :=
  if (sub / 2) % 2 = 0 then x
  else ofLanes m32 ((lanes m32 y).map (fun i =>
    let v := lane m32 x (i % laneN m32)
    if (sub / 4) % 2 = 1 ∧ (i / 128) % 2 = 1 then negL (laneW m32) q v else v))

/-- CMP: lanes of VD, or PD[2:0] (R118, R140); a compare into a predicate has no tile and exports nothing (log 120). -/
def runVecCmp (b : Braid) (c : BitVec 96) (it : Nat) : Braid :=
  let v := vClause c
  let q := b.modulus v.ring (b.limbSel v.limb v.ladd v.lloop)
  if v.predCmp then
    b.send
      { due := b.issueAt + 2, clause := 2, order := b.order, dest := .p ((v.vd + (if v.dstep then it else 0)) % 8),
        merge := .replace, xport := none
        parts := b.cores.map (fun k =>
          let n := cmpBits b.m32 q (v.sub % 8) (b.srcA v it false k).val (b.srcV v v.vb it false k).val
          let m := b.laneMask v.pen v.pinv v.pred k
          -- in 64-bit mode bits [31:16] of a predicate read as zero (R99)
          { (b.vPart v k (BitVec.ofNat 1024 n) false ((b.srcA v it false k).poison || (b.srcV v v.vb it false k).poison)) with
            mask := if v.pen then m else 0xFFFFFFFF }) }
  else runVec 2 (fun v q _ x y _ => vecCmp b.m32 q (v.sub % 8) x y) b c it

/-- REVEAL: VA, made open (R88). -/
def runReveal (b : Braid) (c : BitVec 96) (it : Nat) : Braid :=
  let v := vClause c
  b.vResult v it 0 0 (b.cores.map (fun k => let x := b.srcA v it false k; b.vPart v k x.val false x.poison))

/-- MOV: the result's case follows VB only when it permutes (R145). -/
def runMov (b : Braid) (c : BitVec 96) (it : Nat) : Braid :=
  let v := vClause c
  runVec (if (v.sub / 2) % 2 = 1 then 2 else 1) (fun v q _ x y _ => vecMov b.m32 q v.sub x y) b c it

/-- SPLAT: every lane is the low w bits of S(VA), not reduced (R118, R139). -/
def runSplat (b : Braid) (c : BitVec 96) (it : Nat) : Braid :=
  let v := vClause c
  let i := v.va + (if v.astep then it else 0)
  b.vResult v it 0 0 (b.cores.map (fun k =>
    let x := b.getS k i
    b.vPart v k (ofLanes b.m32 (List.replicate (laneN b.m32) (x.val.toNat % 2 ^ laneW b.m32))) x.sealed false))

/-! ## Butterflies (R144) -/

/-- A Cooley–Tukey pair: a + w·b and a − w·b. -/
def bfCt (w q t a x : Nat) : Nat × Nat :=
  let m := mulL w (some q) t x
  (addL w (some q) a m, subL w (some q) a m)

/-- A Gentleman–Sande pair: a + b and (a − b)·w. -/
def bfGs (w q t a x : Nat) : Nat × Nat := (addL w (some q) a x, mulL w (some q) (subL w (some q) a x) t)

/-- The two results of a butterfly issue: `f` is the pair, SPAN 0 pairs lanes of VB with lanes of VC, SPAN 1-5 lanes of one
register at distance 2^(SPAN−1). -/
def butterfly (m32 : Bool) (f : Nat → Nat → Nat → Nat × Nat) (span : Nat) (t a x : VReg) : VReg × VReg :=
  let idx := List.range (laneN m32)
  if span = 0 then
    let ps := idx.map (fun i => f (lane m32 t i) (lane m32 a i) (lane m32 x i))
    (ofLanes m32 (ps.map Prod.fst), ofLanes m32 (ps.map Prod.snd))
  else
    let d := 2 ^ (span - 1)
    let half := fun (r : VReg) (hi : Bool) => ofLanes m32 (idx.map (fun i =>
      let lo := if (i / d) % 2 = 0 then i else i - d
      let p := f (lane m32 t (if hi then lo + d else lo)) (lane m32 r lo) (lane m32 r (lo + d))
      if (i / d) % 2 = 0 then p.1 else p.2))
    (half a false, half x true)

/-- BFCT and BFGS: VD and VD + 1, and VD + 2 and VD + 3 in dual form (R142, R144). -/
def runBfly (f : Nat → Nat → Nat → Nat → Nat → Nat × Nat) (b : Braid) (c : BitVec 96) (it : Nat) : Braid :=
  let v := vClause c
  let q := (b.limbs.getD (b.limbSel v.limb v.ladd v.lloop) 0).toNat
  let one := fun (b0 b : Braid) (second : Bool) =>
    let rs := b0.cores.map (fun k =>
      let x := b0.srcA v it second k
      let y := b0.srcV v v.vb it second k
      let z := b0.srcV v v.vc it second k
      (k, butterfly b0.m32 (f (laneW b0.m32) q) ((v.sub / 2) % 8) x.val y.val z.val,
        x.sealed || y.sealed || z.sealed, x.poison || y.poison || z.poison))
    let off := if second then 2 else 0
    (b.vResult v it off 0 (rs.map (fun r => b0.vPart v r.1 r.2.1.1 r.2.2.1 r.2.2.2))).vResult v it (off + 1) 0
      (rs.map (fun r => b0.vPart v r.1 r.2.1.2 r.2.2.1 r.2.2.2))
  let b1 := one b b false
  if v.dual then one b b1 true else b1

/-! ## Element programs (R149, R150) -/

/-- One step of an element program on one lane's temporaries; `prime` gives the prime of an offset. -/
def eStep (w : Nat) (prime : Nat → Nat) (consts : List W64) (e : List Nat) (s : BitVec 32) : List Nat :=
  let t := fun lo => e.getD (fld s lo 3) 0
  let a := t 9
  let x := t 12
  let y := t 15
  let q := if bit s 5 then none else some (prime (fld s 18 4))
  let r := match fld s 0 5 with
    | 0x01 => addL w q a x
    | 0x02 => subL w q a x
    | 0x03 => mulL w q a x
    | 0x04 => fmaL w q a x y
    | 0x05 => redL w (q.getD 0) a x
    | 0x06 => if condL w q (fld s 22 3) a x then ones w else 0
    | 0x07 => if y = 0 then x else a
    | 0x08 => Nat.min a x
    | 0x09 => Nat.max a x
    | 0x0A => Nat.land a x
    | 0x0B => Nat.lor a x
    | 0x0C => Nat.xor a x
    | 0x0D => if w ≤ x % 64 then 0 else (a * 2 ^ (x % 64)) % 2 ^ w
    | 0x0E => if w ≤ x % 64 then 0 else a / 2 ^ (x % 64)
    | 0x0F => (consts.getD (fld s 25 3) 0).toNat % 2 ^ w
    | _ => a
  e.set (fld s 6 3) r

/-- EPROG: every lane runs the program; ER lands 4 + STEPS cycles later. -/
def runEprog (b : Braid) (c : BitVec 96) (it : Nat) : Braid :=
  let v := vClause c
  let p := b.progs.getD v.sub { res := 0, consts := [], steps := [] }
  let sel := b.limbSel v.limb v.ladd v.lloop
  let prime := fun o => (b.limbs.getD (sel + o) 0).toNat
  let w := laneW b.m32
  b.vResult v it 0 p.steps.length (b.cores.map (fun k =>
    let x := b.srcA v it false k
    let y := b.srcV v v.vb it false k
    let z := b.srcV v v.vc it false k
    let r := ofLanes b.m32 ((List.range (laneN b.m32)).map (fun i =>
      (p.steps.foldl (eStep w prime p.consts) [lane b.m32 x.val i, lane b.m32 y.val i, lane b.m32 z.val i, 0, 0, 0, 0, 0]).getD
        p.res.toNat 0))
    b.vPart v k r (x.sealed || y.sealed || z.sealed) (x.poison || y.poison || z.poison)))

/-! ## The stochastic generator (R454–R457) -/

/-- SGEN: each lane is a pure function of the seed, the stream and the element index. -/
def runSgen (b : Braid) (c : BitVec 96) (it : Nat) : Braid :=
  let v := vClause c
  let form := v.sub % 4
  let b1 := b.vResult v it 0 0 (b.cores.map (fun k =>
    let seed := (b.getS k v.vb).val.toNat + 2 ^ 64 * (b.getS k (v.vb + 1)).val.toNat
    let par := (b.getS k (v.vb + 2)).val
    let x := b.srcV v v.va it false k
    let y := b.srcV v v.vc it false k
    let r := zipLanes b.m32 (fun e val => sgLane b.m32 form seed (fld par 0 32) e (fld par 32 16) (fld par 48 6) val) x.val y.val
    b.vPart v k r (form == 1 && y.sealed) (x.poison || (form == 1 && y.poison))))
  { b1 with tel := { b1.tel with sgen := b1.tel.sgen + 1 } }

end Sys2Proof.Machine
end

