-- ==== Sys2Proof/Machine/Matrix.lean ====
section
/-! DEFINITION. Matrix.lean: the matrix clause: tile MACs, tile clears and reductions, base conversion with its check
(R119, R151–R159). -/

namespace Sys2Proof.Machine

open Sys2Proof.Arith

/-- First row, rows and first lane of block TBLK, and the lane groups of VA and VB (R151). -/
def blockRows (m32 : Bool) (tblk : Nat) : Nat × Nat := if m32 then (8 * (tblk / 8 % 2), 8) else (4 * (tblk / 4 % 4), 4)
def blockLane (m32 : Bool) (tblk : Nat) : Nat := if m32 then 4 * (tblk % 8) else 4 * (tblk % 4)
def groupA (m32 : Bool) (qa : Nat) : Nat := if m32 then 8 * qa else 4 * qa

/-- TMAC: a_i·b_j joins the entry at row i and column j of the block in the landing cycle (R152). -/
def runTmac (b : Braid) (c : BitVec 96) (_ : Nat) : Braid :=
  let m := mClause c
  let w := laneW b.m32
  let sel := b.limbSel m.limb m.ladd m.lloop
  let q := if m.ring then 0 else (b.limbs.getD sel 0).toNat
  let rows := blockRows b.m32 m.tblk
  let l0 := blockLane b.m32 m.tblk
  let mask : BitVec 32 := BitVec.ofNat 32 (15 * 2 ^ l0)
  (List.range rows.2).foldl (fun (bb : Braid) i =>
    bb.send
      { due := b.issueAt + 12, clause := 3, order := bb.order, dest := .row m.td (rows.1 + i), merge := .mac q
        xport := if m.spl == 2 && i + 1 == rows.2 then some q else none
        parts := b.cores.map (fun k =>
          let x := b.getV k m.va
          let y := b.getV k m.vb
          let ps := (List.range (laneN b.m32)).map (fun j =>
            if l0 ≤ j ∧ j < l0 + 4 then lane b.m32 x.val (groupA b.m32 m.qa + i) * lane b.m32 y.val (4 * m.qb + (j - l0)) else 0)
          { core := k, val := ofLanes b.m32 (ps.map (fun p => p % 2 ^ w)), hi := ofLanes b.m32 (ps.map (fun p => p / 2 ^ w)),
            mask := mask, full := false, sealed := x.sealed || y.sealed, poison := x.poison || y.poison, addr := 0,
            bytes := [] }) }) b

/-- TZERO: the whole tile zero and open (R153). -/
def runTzero (b : Braid) (c : BitVec 96) (_ : Nat) : Braid :=
  let m := mClause c
  b.result 3 8 (.tile m.td) (b.cores.map (fun k => { wordPart k 0 false with mask := allLanes b.m32 }))

/-- TRED: column sums, or row sums with lanes 16-31 zero in 32-bit mode (R153). -/
def runTred (b : Braid) (c : BitVec 96) (_ : Nat) : Braid :=
  let m := mClause c
  let w := laneW b.m32
  let q := b.modulus m.ring (b.limbSel m.limb m.ladd m.lloop)
  let md := match q with | none => 2 ^ w | some q => q
  b.result 3 8 (.v m.vd) (b.cores.map (fun k =>
    let tf := b.getTF k m.td
    let rows := (List.range 16).map (fun r => lanes b.m32 (b.getT k m.td r))
    let out := (List.range (laneN b.m32)).map (fun j =>
      if m.axis then (if j < 16 then (rows.getD j []).foldl (· + ·) 0 % md else 0)
      else (rows.map (fun r => r.getD j 0)).foldl (· + ·) 0 % md)
    { wordPart k 0 false with val := ofLanes b.m32 out, mask := allLanes b.m32, sealed := tf.sealed, poison := tf.poison }))

/-- The check prime of R157. -/
def checkPrime : Nat := 2 ^ 61 - 1

/-- BCONV: S mod q or 2^w in each lane, with the independent computation modulo the check prime; a lane that disagrees poisons
VD, and the mismatch is recorded (R155–R157, R159), once for each core, of which the highest is the last (log 121). `bcuFlip` is the fault of the main path, zero unless the hardware errs. -/
def runBconv (b : Braid) (c : BitVec 96) (_ : Nat) : Braid :=
  let m := mClause c
  let w := laneW b.m32
  let low := if b.m32 then 2 ^ 30 else 2 ^ 60
  let md := match b.modulus m.ring (b.limbSel m.limb m.ladd m.lloop) with | none => 2 ^ w | some q => q
  let idx := List.range (m.scnt + 1)
  let k0 := fun (i : Nat) => (Sparse.get 0 b.consts ((m.cset + i / 8) * 8 + i % 8)).toNat % low
  let res := b.cores.map (fun k =>
    let srcs := idx.map (fun i => b.getV k (m.va + i))
    let acc := b.getV k m.vd
    let flip := Sparse.get 0 b.bcuFlip k
    let lanesR := (List.range (laneN b.m32)).map (fun j =>
      let s := ((srcs.zipIdx).map (fun x => (lane b.m32 x.1.val j % low) * k0 x.2)).foldl (· + ·)
        (if m.acc then lane b.m32 acc.val j % low else 0)
      let r := Nat.xor (s % md) (lane b.m32 flip j)
      (r, decide ((s / md * md + r) % checkPrime = s % checkPrime)))
    (k, lanesR.map Prod.fst, lanesR.all Prod.snd,
      srcs.any (fun x => x.sealed) || (m.acc && acc.sealed), srcs.any (fun x => x.poison) || (m.acc && acc.poison)))
  let fails := res.filter (fun r => !r.2.2.1)
  let b1 := b.result 3 (16 + (m.scnt + 1)) (.v m.vd) (res.map (fun r =>
    { wordPart r.1 0 false with
      val := ofLanes b.m32 r.2.1, mask := allLanes b.m32, sealed := r.2.2.2.1, poison := r.2.2.2.2 || !r.2.2.1 }))
  let b1 := { b1 with tel := { b1.tel with bcuConv := b1.tel.bcuConv + 1 } }
  match fails.getLast? with
  | none => b1
  | some f =>
    { b1 with bcuBad := true
              tel := { b1.tel with errs := b1.tel.errs + fails.length, bcuFails := BitVec.ofNat 16 (satAdd 16 b1.tel.bcuFails.toNat fails.length)
                                   bcuCore := BitVec.ofNat 6 (b.physical f.1), bcuPc := b.pc } }

end Sys2Proof.Machine
end

