-- ==== Sys2Proof/Machine/LoadStore.lean ====
section
/-! DEFINITION. LoadStore.lean: the load and store clauses (R109, R110, R120, R124, R158, R166–R171, R175). -/

namespace Sys2Proof.Machine

open Sys2Proof.Arith

/-- The destination or source register of iteration `it` (R120); its users take it modulo 32, a row modulo 16 (DESIGN CHOICE, log 91). -/
def LClause.reg (l : LClause) (it : Nat) : Nat := l.d + (if l.dstep then it else 0)

/-- A row as eight ECC words, little end first. -/
def packWords : List (BitVec 128) → Nat
  | [] => 0
  | x :: xs => x.toNat + 2 ^ 128 * packWords xs

/-- Auto-increment of AREG, one braid cycle later (R109). -/
def Braid.autoInc (b : Braid) (clause : Nat) (l : LClause) : Braid :=
  if l.inc then
    b.result clause 1 (.aOffset l.areg) (b.cores.map (fun k =>
      wordPart k ((b.getA k l.areg).adv (b.getA k l.areg).step).toNat false))
  else b

/-- Banks the access touches, for the deferral of DMA accesses (R168). -/
def Braid.touch (b : Braid) (addrs : List Nat) : Braid := b.touchAt b.issueAt (addrs.map (fun a => a / 2 ^ 18))

/-- A load: every core reads its whole range, the selected lanes land 8 cycles later with the region's case (R110, R79). An
uncorrectable word stops the kernel from the next cycle (R171). -/
def runLoad (b : Braid) (c : BitVec 96) (it : Nat) : Braid :=
  let l := lClause c
  let u := l.unit
  let reads := b.cores.map (fun k => (k, b.lsAddr l k))
  let ecc := b.eccRead (reads.flatMap (fun x => wordsOf x.1 x.2 u)) false
  let dest := if l.op = 1 then Dest.v (l.reg it % 32) else if l.op = 2 then .row l.td (l.reg it % 16) else .s (l.reg it % 32)
  let parts := reads.map (fun x =>
    let a := x.2
    let m := b.lsMask l x.1
    let val : Nat :=
      if u = 8 then (if b.clearingAt a then 0 else fld (Sparse.get 0 b.sp (spKey x.1 a)) (8 * (a % 16)) 64)
      else packWords (b.readWords x.1 a 8)
    { core := x.1, val := BitVec.ofNat 1024 val, hi := 0, mask := m, full := l.op == 1 && m == allLanes b.m32 || l.op == 3 && m == 1,
      sealed := b.sealedAt a, poison := false, addr := a, bytes := [] })
  let b1 := ((ecc.1.touch (reads.map Prod.snd)).result 4 8 dest parts).autoInc 4 l
  if ecc.2 then b1.stopLater Status.eccUncorrected 4 (b.badWord (reads.flatMap (fun x => wordsOf x.1 x.2 u))) else b1

/-- The bytes of the selected lanes of a value. -/
def laneBytes (wb : Nat) (mask : BitVec 32) (n a : Nat) (v : VReg) : List (Nat × Byte) :=
  (List.range n).flatMap (fun i => if bit mask i then
    (List.range wb).map (fun j => (a + wb * i + j, BitVec.ofNat 8 (fld v (8 * (wb * i + j)) 8))) else [])

/-- A store: the selected lanes of every core, visible to loads 8 cycles later; a write narrower than an ECC word reads it
first, and meets an uncorrectable error there (R170). Writes into a region being cleared are discarded (R175). -/
def runStore (b : Braid) (c : BitVec 96) (it : Nat) : Braid :=
  let l := lClause c
  let i := l.reg it
  let acts : List (Nat × Nat × List (Nat × Byte) × Bool) := b.cores.map (fun k =>
    let a := b.lsAddr l k
    let m := b.lsMask l k
    let src : VReg × Bool :=
      if l.op = 1 then ((b.getV k i).val, (b.getV k i).poison)
      else if l.op = 2 then (b.getT k l.td i, (b.getTF k l.td).poison)
      else ((b.getS k i).val.setWidth 1024, false)
    let n := if l.op = 3 then 1 else laneN b.m32
    let wb := if l.op = 3 then 8 else laneW b.m32 / 8
    (k, a, if b.clearingAt a then [] else laneBytes wb m n a src.1, src.2))
  let merged := b.eccWrite (acts.flatMap (fun x => x.2.2.1.map (fun y => (x.1, y.1)))) false
  let b1 := acts.foldl (fun b x => x.2.2.1.foldl (fun b y => b.setWritten x.1 y.1) b) merged.1
  let parts := acts.map (fun x =>
    { wordPart x.1 0 false with
      addr := x.2.1, poison := x.2.2.2 && !x.2.2.1.isEmpty
      bytes := x.2.2.1.filter (fun y => !merged.2.contains (spKey x.1 y.1)) })
  let b2 := ((b1.touch (acts.map (fun x => x.2.1))).result 5 8 .mem parts).autoInc 5 l
  if !merged.2.isEmpty then b2.stopLater Status.eccUncorrected 5 (b.badWord merged.2) else b2

end Sys2Proof.Machine
end

