-- ==== Sys2Proof/Machine/Clauses.lean ====
section
/-! DEFINITION. Clauses.lean: the clauses of a sentence as commands: one issue of one clause or iteration on a braid, with what the
rest of the module sees of it (R90, R106, R111–R120, R137, R241, R493). -/

namespace Sys2Proof.Machine

/-! ## Multicast groups that a member leaves (R241) -/

/-- The braid's rings leave their groups; a group without members is gone. -/
def State.leaveGroups (s : State) (i : Nat) : State :=
  let gs := s.sch.groups.map (fun g => { g with members := g.members.filter (fun m => m.braid != i) })
  { s with sch := { s.sch with groups := gs.filter (fun g => !g.members.isEmpty) } }

/-- The braid's issue has ended: its rings leave their groups, those with a page being written once it has completed (R225, R241). -/
def State.leaveAtEnd (s : State) (i : Nat) : State :=
  let gs := s.sch.groups.map (fun g =>
    if g.read.isSome then { g with members := g.members.map (fun m => if m.braid = i then { m with left := true } else m) }
    else { g with members := g.members.filter (fun m => m.braid != i) })
  { s with sch := { s.sch with groups := gs.filter (fun g => !g.members.isEmpty) } }

/-- Disarm every ring of a braid (R224, R241). -/
def Braid.disarmAll (b : Braid) : Braid := { b with rings := b.rings.map (fun e => (e.1, { Ring.init with stall := e.2.stall })) }

/-- At the end of issue, slots that are full are discarded as free, except on a drain (R225). -/
def Ring.discard (r : Ring) : Ring :=
  if r.kind = 1 then r
  else { r with slots := r.slots.map (fun k =>
    if k.engine == .full || k.braid == .full then { braid := .free, engine := .free } else k) }

/-- Banks that clause `n` touches as it issues: those of a load, a store, or the source of a weave (R168, R177). -/
def Braid.clauseBanks (b : Braid) (n : Nat) (c : BitVec 96) : List Nat :=
  if n = 4 ∨ n = 5 then b.cores.map (fun k => b.lsAddr (lClause c) k / 2 ^ 18)
  else if n = 0 ∧ clauseOp 0 c = 6 then (b.weaveReads c).map (fun x => x.2 / 2 ^ 18)
  else []

/-- Cycles in which no clause issues lie between the last one that did and the next: an IDLE, a branch, a drain, a hold or sentences without
clauses. -/
def Braid.inGap (b : Braid) : Bool := b.iter == 0 && b.issued.isEmpty && decide (b.freeFrom < b.issueAt)

/-- Banks that core ports touch in the cycle at which issue stands: those touched already, and those of the clauses still due in it, unless
issue is held there. In free cycles before it, only a weave that lands touches banks (R168, log 108). -/
def Braid.busyBanks (b : Braid) : List Nat :=
  if b.phase != .issuing then []
  else if b.inGap then (if b.freeFrom + 1 = b.issueAt ∧ b.touchedAt = b.freeFrom then b.touched else [])
  else
    (if b.touchedAt = b.issueAt then b.touched else []) ++
      (if b.held || b.exportHeld || (b.todo.head? == some 0 && opIs 0 3 (clauseOf b.cur 0)) then []
       else b.todo.flatMap (fun n => b.clauseBanks n (clauseOf b.cur n)))

/-- Shares of the cycles of a wait that fell to more than one cause: free values (log 28). -/
def State.shares (s : State) (i : Nat) : State × List Nat :=
  (List.range ((s.braid i).waitFor.length - 1)).foldl (fun r _ => let v := r.1.free; (v.2, r.2 ++ [v.1.toNat])) (s, [])

/-- A stop cuts a SWAIT short: its cycles count, and how many they were is a free value, with TIMEOUT at most that (R221, log 28). -/
def State.cutWait (s : State) (i : Nat) : State :=
  let v := s.free
  let r := v.2.shares i
  r.1.modBraid i (fun b =>
    let n := if b.timeoutOf = 0 then v.1.toNat else v.1.toNat % (b.timeoutOf + 1)
    let h := b.heldIn b.waitAt (b.waitAt + n)
    ((b.countRing b.swaitOf.1 n).countCauses b.waitFor r.2 (n - h)).countStall 6 h)

/-- A DMA wait ends or is cut short in phase `ph`. While issue goes on its cycles have been counted as time moved; elsewhere how many there
were is a free value, in a SWAIT with TIMEOUT at most that (log 28). -/
def State.endDmaWait (s : State) (i : Nat) (ph : SeqPhase) : State :=
  let b := s.braid i
  if ph == .issuing then s
  else
    let v := s.free
    let n := if ph == .waiting && b.timeoutOf != 0 then v.1.toNat % (b.timeoutOf + 1 - b.dmaUpTo) else v.1.toNat
    v.2.modBraid i (fun b => { b.countDma n with dmaUpTo := b.dmaUpTo + n })

/-- A DMA wait that has begun inside a SWAIT, after `old`: how many of the SWAIT's cycles came before it is a free value (log 28). -/
def State.beginDmaWait (s : State) (i : Nat) (old : Braid) : State :=
  let b := s.braid i
  if b.phase == .waiting && b.dmaWaits && !old.dmaWaits then
    let v := s.free
    let n := if b.timeoutOf != 0 then v.1.toNat % (b.timeoutOf + 1 - b.dmaUpTo) else v.1.toNat
    v.2.modBraid i (fun b => { b with dmaUpTo := b.dmaUpTo + n })
  else s

/-- Put a braid back after a step of it. A kernel that has stopped, or whose issue has ended, leaves its groups, and after a stop
its key rings are disarmed (R224, R241); at the end of issue full slots are discarded (R225). -/
def State.afterBraid (s : State) (i : Nat) (b : Braid) : State :=
  let old := s.braid i
  let stops := b.phase == .stopped && old.phase != .stopped
  let ends := b.phase == .ended && old.phase != .ended
  let b := if ends then { b with rings := b.rings.map (fun e => (e.1, e.2.discard)) } else b
  let b := if stops then { b with rings := b.rings.map (fun e => (e.1, if e.2.kind = 2 then { Ring.init with stall := e.2.stall } else e.2)) }
    else b
  let s := s.putBraid i b
  let s := if stops && old.phase == .waiting then s.cutWait i else s
  let s := if stops && old.dmaWaits && !b.dmaWaits then s.endDmaWait i old.phase else s
  if stops then s.leaveGroups i else if ends then s.leaveAtEnd i else s

/-! ## The hazard watch (R137, R138) -/

/-- Classes of R137 as the log writes them: 0 S, 1 A, 2 V, 3 T, 4 P (log 27). -/
structure RegRead where
  cls  : Nat
  idx  : Nat
  hit  : Dest → Bool

def readS (i : Nat) : RegRead := { cls := 0, idx := i % 32, hit := fun d => d == .s (i % 32) }
def readA (i : Nat) : RegRead :=
  { cls := 1, idx := i % 16, hit := fun d => match d with
      | .aBase j => j == i % 16 | .aOffset j => j == i % 16 | .aStride j => j == i % 16 | .aWrap j => j == i % 16 | _ => false }
def readV (i : Nat) : RegRead := { cls := 2, idx := i % 32, hit := fun d => d == .v (i % 32) }
def readT (t r : Nat) : RegRead := { cls := 3, idx := t % 4, hit := fun d => d == .row (t % 4) (r % 16) || d == .tile (t % 4) }
def readP (i : Nat) : RegRead := { cls := 4, idx := i % 8, hit := fun d => d == .p (i % 8) }

/-- Registers that a scalar clause reads. -/
def scalarReads (c : BitVec 96) : List RegRead :=
  if scalarTgt c then
    let s := sClause c
    let y := if s.immf then [] else [readS s.b]
    if s.op ≤ 0x0B ∨ s.op = 0x0E then readS s.a :: y
    else if s.op = 0x0D then [readS s.a]
    else if 0x18 ≤ s.op ∧ s.op ≤ 0x1A then readS s.a :: y
    else if s.op = 0x1B then readS s.a :: y ++ [readA s.d]
    else if s.op = 0x1C then [readA s.a] else []
  else if fld c 57 6 = 4 ∧ (fld c 54 3 = 3 ∨ fld c 54 3 = 4) then [readP (fld c 51 3)] else []

/-- Registers that iteration `it` of a vector clause reads. -/
def vectorReads (c : BitVec 96) (it : Nat) : List RegRead :=
  let v := vClause c
  let st := if v.astep then (if v.dual then 2 * it else it) else 0
  let one := fun (k : Nat) =>
    let a := if v.op = 15 then readS (v.va + st) else if v.atile then readT v.ts (v.va + st + k) else readV (v.va + st + k)
    let useB := [1, 2, 3, 4, 5, 6, 7, 8, 9, 10, 11, 12].contains v.op || (v.op == 14 && v.sub / 2 % 2 == 1)
    let useC := [4, 6, 9, 10, 12].contains v.op
    let regs := (if useB then [readV (v.vb + st + k)] else []) ++ (if useC then [readV (v.vc + st + k)] else [])
    a :: (if v.op = 16 then [readS v.vb, readS (v.vb + 1), readS (v.vb + 2)] ++ (if v.sub % 4 = 1 then [readV (v.vc + st)] else [])
      else regs)
  one 0 ++ (if v.dual then one 1 else []) ++ (if v.pen then [readP v.pred] else [])

/-- Registers that a matrix clause reads. -/
def matrixReads (c : BitVec 96) : List RegRead :=
  let m := mClause c
  match m.op with
  | 1 => [readV m.va, readV m.vb]
  | 3 => [{ readT m.td 0 with hit := fun d => match d with | .row t _ => t == m.td | .tile t => t == m.td | _ => false }]
  | 4 => (List.range (m.scnt + 1)).map (fun i => readV (m.va + i)) ++ (if m.acc then [readV m.vd] else [])
  | _ => []

/-- Registers that iteration `it` of clause `n` reads. -/
def regReads (n : Nat) (c : BitVec 96) (it : Nat) : List RegRead :=
  match n with
  | 0 => if clauseOp 0 c = 6 then [readA (fld c 54 4), readA (fld c 50 4)] else []
  | 1 => scalarReads c
  | 2 => vectorReads c it
  | 3 => matrixReads c
  | _ =>
    let l := lClause c
    let d := l.d + (if l.dstep then it else 0)
    [readA l.areg] ++ (if l.pen then [readP l.pred] else []) ++
      (if n = 5 then [if l.op = 1 then readV d else if l.op = 2 then readT l.td d else readS d] else [])

/-- Scratchpad runs that a clause reads, each a line of R137: core, mapped address, bytes (log 27). -/
def Braid.lineReads (b : Braid) (n : Nat) (c : BitVec 96) : List (Nat × Nat × Nat) :=
  if n = 4 then b.cores.map (fun k => (k, b.lsAddr (lClause c) k, (lClause c).unit))
  else if n = 0 ∧ clauseOp 0 c = 6 then (b.weaveReads c).map (fun x => (x.1, x.2 / 16 * 16, 16))
  else []

/-- Cycles by which a read comes early: the latest landing issued in an earlier cycle that concerns it; 0 for none. -/
def Braid.early (b : Braid) (p : Landing → Bool) : Nat :=
  let o := if b.issued.isEmpty then b.order else b.orderAt
  Nat.min 255 ((b.flights.filter (fun f => decide (f.order < o) && p f)).foldl (fun m f => Nat.max m (f.due - b.issueAt)) 0)

/-- The same for a run of scratchpad bytes, with a weave issued in an earlier cycle. -/
def Braid.earlyLine (b : Braid) (x : Nat × Nat × Nat) : Nat :=
  let inRun := fun (k a : Nat) => k == x.1 && decide (x.2.1 ≤ a) && decide (a < x.2.1 + x.2.2)
  let w : Nat := match b.weave with
    | none => 0
    | some w => if w.issuedAt < b.issueAt ∧ (b.weaveBytes w).any (fun y => inRun y.1 y.2.1) then Nat.min 255 (w.due - b.issueAt) else 0
  Nat.max w (b.early (fun f => f.dest == .mem && f.parts.any (fun p => p.bytes.any (fun y => inRun p.core y.1))))

/-- One entry of the watch: logged while the braid's RATE allows, else counted (R138); its periods are whole multiples of 2^16 cycles (log 27). -/
def State.hazard (s : State) (i : Nat) (args : List W64) : State :=
  let b := s.braid i
  let ep := b.issueAt / 65536
  let n := if b.hwEpoch = ep then b.hwCount else 0
  if n < s.dbg.rate.toNat then
    (s.setBraid i { b with hwEpoch := ep, hwCount := n + 1 }).log Dom.braid 0 i 0x11 0 b.ten args
  else
    { s with dbg := { s.dbg with dropped := BitVec.ofNat 32 (satAdd 32 s.dbg.dropped.toNat 1) } }

/-- Is the watch on for braid `i`. -/
def State.hwOn (s : State) (i : Nat) : Bool := s.lc == 3 && s.lcs.unlocked && s.dbg.en && bit s.dbg.mask i

/-- Log the early reads of clause `n` of a braid about to issue it; the places of the arguments are log 27's. -/
def State.watch (s : State) (i n : Nat) : State :=
  if !s.hwOn i then s
  else
    let b := s.braid i
    let c := clauseOf b.cur n
    let entry := fun (what : W64) (e : Nat) => [BitVec.ofNat 64 i, b.pc.setWidth 64, BitVec.ofNat 64 n, what, BitVec.ofNat 64 e]
    let s := (regReads n c b.iter).foldl (fun s r =>
      let e := b.early (fun f => r.hit f.dest)
      if e = 0 then s else s.hazard i (entry (put 8 8 r.cls ||| put 0 8 r.idx) e)) s
    (b.lineReads n c).foldl (fun s x =>
      let e := b.earlyLine x
      if e = 0 then s else s.hazard i (entry (s.haddr (b.ten.getD 0) (spPlace i (b.physical x.1) x.2.1)) e)) s

/-! ## Issue as a command -/

/-- Issue clause `n` on braid `i` (R106): one iteration of it. -/
def State.clause (s : State) (i n : Nat) (ok : BitVec 96 → Bool) (run : Braid → BitVec 96 → Nat → Braid) : State :=
  if !s.live then s
  else
    let r := (s.braid i).issueClause n ok run
    if r.2 then
      let s := s.watch i n
      s.afterBraid i { r.1 with hwCount := (s.braid i).hwCount, hwEpoch := (s.braid i).hwEpoch }
    else s.afterBraid i r.1

/-- A step of a braid that issues no clause. -/
def State.braidStep (s : State) (i : Nat) (f : Braid → Braid) : State :=
  if !s.live then s else s.afterBraid i (f (s.braid i))

/-- REVEAL counts once per issue, whatever its repeat count (R90). -/
def State.revealClause (s : State) (i : Nat) : State :=
  let b := s.braid i
  let s' := s.clause i 2 (opIs 2 13) runReveal
  if s.live && b.iter == 0 && (b.issueClause 2 (opIs 2 13) runReveal).2 then
    match b.ten with
    | some n => s'.modTen n (fun t => { t with reveals := t.reveals + 1 })
    | none => s'
  else s'

/-- The cause that a stall cycle of the SWAIT at PC counts under as things stand (R221): BANK_DEFER when the transfer that would change
the first unsatisfied slot has a DMA access deferred or waiting (log 28). -/
def State.stallCause (s : State) (i : Nat) : Nat :=
  let b := s.braid i
  let n := b.swaitOf.1
  let r := b.ring n
  let unmet := (r.head.toNat + r.run b.swaitOf.2.1) % r.size
  let waits := fun (w : XferWait) => w == .deferred || w == .owner
  let bank : Bool := (waits r.tileWait && r.tail.toNat % r.size == unmet) ||
    (match r.xfer with | some x => waits x.wait && x.slot == unmet | none => false)
  if b.held then 6
  else if s.sch.groups.any (fun g => !g.started && g.members.any (fun m => m.braid == i && m.ring == n)) then 5
  else if bank then 4
  else if r.kind = 4 then 2 else if r.kind = 1 then 3 else if r.kind = 2 then 0 else 1

/-- What holds for the SWAITs in progress has changed: each takes the cause that applies from here on (R221). -/
def State.noteStalls (s : State) : State :=
  s.braids.foldl (fun s e =>
    let b := s.braid e.1
    let k := s.stallCause e.1
    if b.phase == .waiting && b.waitFor.getLast? != some k then s.setBraid e.1 { b with waitFor := b.waitFor ++ [k] } else s) s

/-- The end of a SWAIT. -/
def State.swaitStep (s : State) (i : Nat) (f : Braid → List Nat → Braid) : State :=
  let r := s.shares i
  r.1.braidStep i (fun b => f b r.2)

/-! ## The commands: sync clauses (R111) -/

def execHitch (b : Bid) (s : State) : Result := .next (s.clause b.toNat 0 (opIs 0 1) runSync)
def execBankmap (b : Bid) (s : State) : Result := .next (s.clause b.toNat 0 (opIs 0 2) runSync)
def execSrel (b : Bid) (s : State) : Result := .next (s.clause b.toNat 0 (opIs 0 4) runSrel)
def execSplice (b : Bid) (s : State) : Result := .next (s.clause b.toNat 0 (opIs 0 5) runSync)
def execWeave (b : Bid) (s : State) : Result := .next (s.clause b.toNat 0 (opIs 0 6) runWeave)
def execSeal (b : Bid) (s : State) : Result := .next (s.clause b.toNat 0 (opIs 0 7) runSync)
def execIdle (b : Bid) (s : State) : Result := .next (s.clause b.toNat 0 (opIs 0 8) runSync)
def execSwait (b : Bid) (s : State) : Result := .next (s.braidStep b.toNat (fun x => x.swaitStart (s.stallCause b.toNat)))
def execSwaitEnd (b : Bid) (waited : BitVec 32) (s : State) : Result := .next (s.swaitStep b.toNat (fun x sh => x.swaitEnd waited.toNat sh))
def execSwaitTimeout (b : Bid) (s : State) : Result := .next (s.swaitStep b.toNat Braid.swaitTimeout)
def execResultLanding (b : Bid) (s : State) : Result := .next (s.braidStep b.toNat (·.landNext b.toNat))
def execWeaveLanding (b : Bid) (s : State) : Result := .next (s.braidStep b.toNat Braid.landWeave)

/-! ## Scalar clauses (R115, R116) -/

def execScalarAdd (b : Bid) (s : State) : Result := .next (s.clause b.toNat 1 (coreOp 0x01) (runAlu (· + ·)))
def execScalarSub (b : Bid) (s : State) : Result := .next (s.clause b.toNat 1 (coreOp 0x02) (runAlu (· - ·)))
def execScalarAnd (b : Bid) (s : State) : Result := .next (s.clause b.toNat 1 (coreOp 0x03) (runAlu (· &&& ·)))
def execScalarOr (b : Bid) (s : State) : Result := .next (s.clause b.toNat 1 (coreOp 0x04) (runAlu (· ||| ·)))
def execScalarXor (b : Bid) (s : State) : Result := .next (s.clause b.toNat 1 (coreOp 0x05) (runAlu (· ^^^ ·)))
def execScalarShl (b : Bid) (s : State) : Result := .next (s.clause b.toNat 1 (coreOp 0x06) (runAlu aluShl))
def execScalarShr (b : Bid) (s : State) : Result := .next (s.clause b.toNat 1 (coreOp 0x07) (runAlu aluShr))
def execScalarSar (b : Bid) (s : State) : Result := .next (s.clause b.toNat 1 (coreOp 0x08) (runAlu aluSar))
def execScalarMul (b : Bid) (s : State) : Result := .next (s.clause b.toNat 1 (coreOp 0x09) (runAlu (· * ·)))
def execScalarMin (b : Bid) (s : State) : Result := .next (s.clause b.toNat 1 (coreOp 0x0A) (runAlu aluMin))
def execScalarMax (b : Bid) (s : State) : Result := .next (s.clause b.toNat 1 (coreOp 0x0B) (runAlu aluMax))
def execMovi (b : Bid) (s : State) : Result := .next (s.clause b.toNat 1 (coreOp 0x0C) runMovi)
def execOrsh (b : Bid) (s : State) : Result := .next (s.clause b.toNat 1 (coreOp 0x0D) runOrsh)
def execScalarCmp (b : Bid) (s : State) : Result := .next (s.clause b.toNat 1 (coreOp 0x0E) runScalarCmp)
def execCid (b : Bid) (s : State) : Result := .next (s.clause b.toNat 1 (coreOp 0x0F) runCid)
def execHget (b : Bid) (s : State) : Result := .next (s.clause b.toNat 1 (coreOp 0x10) runHget)
def execLget (b : Bid) (s : State) : Result := .next (s.clause b.toNat 1 (coreOp 0x11) runLget)
def execSeta (b : Bid) (s : State) : Result := .next (s.clause b.toNat 1 (coreOp 0x18) runSeta)
def execSetstr (b : Bid) (s : State) : Result := .next (s.clause b.toNat 1 (coreOp 0x19) runSetstr)
def execSetwrap (b : Bid) (s : State) : Result := .next (s.clause b.toNat 1 (coreOp 0x1A) runSetwrap)
def execAdda (b : Bid) (s : State) : Result := .next (s.clause b.toNat 1 (coreOp 0x1B) runAdda)
def execGeta (b : Bid) (s : State) : Result := .next (s.clause b.toNat 1 (coreOp 0x1C) runGeta)
def execLoop (b : Bid) (s : State) : Result := .next (s.clause b.toNat 1 (seqOp 1) runLoop)
def execSetlc (b : Bid) (s : State) : Result := .next (s.clause b.toNat 1 (seqOp 2) runSetlc)
def execJmp (b : Bid) (s : State) : Result := .next (s.clause b.toNat 1 (seqOp 3) runJmp)
def execBr (b : Bid) (s : State) : Result := .next (s.clause b.toNat 1 (seqOp 4) runBr)
def execEndKernel (b : Bid) (s : State) : Result := .next (s.clause b.toNat 1 (seqOp 5) runEnd)

/-! ## Vector clauses (R118, R454) -/

/-- An operation with its modulus; each lane of the result follows the braid's residue mode. -/
def vec (uses : Nat) (f : Bool → Option Nat → VReg → VReg → VReg → VReg) (b : Braid) (c : BitVec 96) (it : Nat) : Braid :=
  runVec uses (fun _ q _ x y z => f b.m32 q x y z) b c it

def execVectorAdd (b : Bid) (s : State) : Result := .next (s.clause b.toNat 2 (opIs 2 1) (vec 2 (fun m q x y _ => vecAdd m q x y)))
def execVectorSub (b : Bid) (s : State) : Result := .next (s.clause b.toNat 2 (opIs 2 2) (vec 2 (fun m q x y _ => vecSub m q x y)))
def execVectorMul (b : Bid) (s : State) : Result := .next (s.clause b.toNat 2 (opIs 2 3) (vec 2 (fun m q x y _ => vecMul m q x y)))
def execFma (b : Bid) (s : State) : Result := .next (s.clause b.toNat 2 (opIs 2 4) (vec 3 vecFma))
def execVectorCmp (b : Bid) (s : State) : Result := .next (s.clause b.toNat 2 (opIs 2 5) runVecCmp)
def execSel (b : Bid) (s : State) : Result := .next (s.clause b.toNat 2 (opIs 2 6) (vec 3 (fun m _ x y z => vecSel m x y z)))
def execVectorMin (b : Bid) (s : State) : Result := .next (s.clause b.toNat 2 (opIs 2 7) (vec 2 (fun m _ x y _ => vecMin m x y)))
def execVectorMax (b : Bid) (s : State) : Result := .next (s.clause b.toNat 2 (opIs 2 8) (vec 2 (fun m _ x y _ => vecMax m x y)))
def execBfct (b : Bid) (s : State) : Result := .next (s.clause b.toNat 2 (opIs 2 9) (runBfly bfCt))
def execBfgs (b : Bid) (s : State) : Result := .next (s.clause b.toNat 2 (opIs 2 10) (runBfly bfGs))
def execRed (b : Bid) (s : State) : Result := .next (s.clause b.toNat 2 (opIs 2 11) (vec 2 (fun m q x y _ => vecRed m (q.getD 0) x y)))
def execEprog (b : Bid) (s : State) : Result := .next (s.clause b.toNat 2 (opIs 2 12) runEprog)
def execReveal (b : Bid) (s : State) : Result := .next (s.revealClause b.toNat)
def execMov (b : Bid) (s : State) : Result := .next (s.clause b.toNat 2 (opIs 2 14) runMov)
def execSplat (b : Bid) (s : State) : Result := .next (s.clause b.toNat 2 (opIs 2 15) runSplat)
def execSgen (b : Bid) (s : State) : Result := .next (s.clause b.toNat 2 (opIs 2 16) runSgen)

/-! ## Matrix, load and store clauses (R119, R120) -/

def execTmac (b : Bid) (s : State) : Result := .next (s.clause b.toNat 3 (opIs 3 1) runTmac)
def execTzero (b : Bid) (s : State) : Result := .next (s.clause b.toNat 3 (opIs 3 2) runTzero)
def execTred (b : Bid) (s : State) : Result := .next (s.clause b.toNat 3 (opIs 3 3) runTred)
def execBconv (b : Bid) (s : State) : Result := .next (s.clause b.toNat 3 (opIs 3 4) runBconv)
def execLdv (b : Bid) (s : State) : Result := .next (s.clause b.toNat 4 (opIs 4 1) runLoad)
def execLdt (b : Bid) (s : State) : Result := .next (s.clause b.toNat 4 (opIs 4 2) runLoad)
def execLds (b : Bid) (s : State) : Result := .next (s.clause b.toNat 4 (opIs 4 3) runLoad)
def execStv (b : Bid) (s : State) : Result := .next (s.clause b.toNat 5 (opIs 5 1) runStore)
def execStt (b : Bid) (s : State) : Result := .next (s.clause b.toNat 5 (opIs 5 2) runStore)
def execSts (b : Bid) (s : State) : Result := .next (s.clause b.toNat 5 (opIs 5 3) runStore)

end Sys2Proof.Machine
end

