-- ==== Sys2Proof/Machine/Mover.lean ====
section
/-! DEFINITION. Mover.lean: the layout mover: descriptors, the checks of a transfer, and the movement of elements (R183–R197,
R166–R173, R210, R211). -/

namespace Sys2Proof.Machine

/-! ## Descriptors (R184) -/

/-- A slice with its ring's bases applied (R210). `slot` is added to scratchpad-side addresses, `payS` and `payD` to memory-side
bases; a side in scratchpad is marked. -/
structure Slice where
  ok    : Bool
  dir   : Nat
  esize : Nat
  trans : Bool
  plan  : Bool
  bits  : Nat
  ovchk : Bool
  dist  : Nat
  core  : Nat
  d0    : Nat
  d1    : Nat
  d2    : Nat
  d3    : Nat
  src   : Nat
  dst   : Nat
  ss1   : Int
  ss2   : Int
  ss3   : Int
  ds1   : Int
  ds2   : Int
  ds3   : Int
  so0   : Int
  so1   : Int
  se0   : Nat
  se1   : Nat
  de0   : Nat
  de1   : Nat
  fill  : W64
  slot  : Nat

/-- CHAIN of a descriptor. -/
def descChain (d : BitVec 512) : Bool := bit d 15

/-- Reserved bits of a descriptor are zero and VERSION is 1 (R190). -/
def descClean (d : BitVec 512) : Bool :=
  wf d 0 0 4 == 1 && wf d 0 24 1 == 0 && wf d 0 61 3 == 0 && wf d 1 60 4 == 0 && wf d 2 60 4 == 0 && wf d 6 62 2 == 0

def Ring.fieldW (r : Ring) (w lo n : Nat) : Nat := wf r.cfg w lo n
def Ring.ldimen (r : Ring) : Bool := bit r.cfg 27
def Ring.ldim (r : Ring) : Nat := r.fieldW 0 25 2
def Ring.slotBase (r : Ring) : Nat := r.fieldW 0 32 22
def Ring.slotBytes (r : Ring) : Nat := r.fieldW 1 0 22
def Ring.passes (r : Ring) : Nat := r.fieldW 1 32 16 + 1
def Ring.prog (r : Ring) : Nat := r.fieldW 2 0 48
def Ring.progLen (r : Ring) : Nat := r.fieldW 2 48 16

/-- A dimension's size with the limb limit of LDIM applied (R210). -/
def Ring.dimSize (r : Ring) (k enc : Nat) : Nat := if r.ldimen && r.ldim == k then Nat.min (enc + 1) r.lim else enc + 1

/-- A descriptor of a ring's transfer into or out of slot `s`. -/
def Ring.slice (r : Ring) (s : Nat) (d : BitVec 512) : Slice :=
  let dir := wf d 0 4 2
  let mem1 := decide (dir = 0 ∨ dir = 3)
  let mem2 := decide (dir = 1 ∨ dir = 3)
  { ok := descClean d, dir := dir, esize := wf d 0 6 2, trans := bit d 8, plan := bit d 9, bits := wf d 0 10 4, ovchk := bit d 14,
    dist := wf d 0 16 2, core := wf d 0 18 6, d0 := r.dimSize 0 (wf d 0 25 12), d1 := r.dimSize 1 (wf d 0 37 12),
    d2 := r.dimSize 2 (wf d 0 49 12), d3 := r.dimSize 3 (wf d 1 48 12),
    src := if mem1 then wf d 1 0 48 + r.payS.toNat else wf d 1 0 22,
    dst := if mem2 then wf d 2 0 48 + r.payD.toNat else wf d 2 0 22,
    ss1 := sgn 32 (wf d 3 0 32), ss2 := sgn 32 (wf d 3 32 32), ss3 := sgn 32 (wf d 4 0 32), ds1 := sgn 32 (wf d 4 32 32),
    ds2 := sgn 32 (wf d 5 0 32), ds3 := sgn 32 (wf d 5 32 32), so0 := sgn 13 (wf d 6 0 13), so1 := sgn 13 (wf d 6 13 13),
    se0 := wf d 6 26 12 + 1, se1 := wf d 6 38 12 + 1, de0 := wf d 6 50 12 + 1, de1 := wf d 2 48 12 + 1,
    fill := BitVec.ofNat 64 (wf d 7 0 64), slot := if r.kind = 5 then 0 else r.slotBase + s * r.slotBytes }

def Slice.srcMem (l : Slice) : Bool := l.dir == 0 || l.dir == 3
def Slice.dstMem (l : Slice) : Bool := l.dir == 1 || l.dir == 3
def Slice.es (l : Slice) : Nat := 2 ^ l.esize
def Slice.count (l : Slice) : Nat := l.d0 * l.d1 * l.d2 * l.d3

/-- Memory-side extent in dimension 0, for bit planes (R189). -/
def Slice.planX (l : Slice) : Nat := if l.dir = 0 then l.se0 else if l.trans then l.de1 else l.de0

/-- Width of a moved element in bits. -/
def Slice.width (l : Slice) : Nat := if l.plan then l.bits + 1 else 8 * l.es

/-! ## Elements (R185–R189) -/

/-- An element of a slice: its indices. -/
structure Elem where
  i0 : Nat
  i1 : Nat
  i2 : Nat
  i3 : Nat

/-- Element `e` in the visiting order. -/
def Slice.at (l : Slice) (e : Nat) : Elem :=
  { i0 := e % l.d0, i1 := e / l.d0 % l.d1, i2 := e / (l.d0 * l.d1) % l.d2, i3 := e / (l.d0 * l.d1 * l.d2) }

def Slice.s0 (l : Slice) (x : Elem) : Int := l.so0 + x.i0
def Slice.s1 (l : Slice) (x : Elem) : Int := l.so1 + x.i1
def Slice.t0 (l : Slice) (x : Elem) : Nat := if l.trans then x.i1 else x.i0
def Slice.t1 (l : Slice) (x : Elem) : Nat := if l.trans then x.i0 else x.i1

/-- A dropped element has no destination (R187). -/
def Slice.dropped (l : Slice) (x : Elem) : Bool := decide (l.de0 ≤ l.t0 x) || decide (l.de1 ≤ l.t1 x)

/-- A padding element has no source (R187). -/
def Slice.padded (l : Slice) (x : Elem) : Bool :=
  !(decide (0 ≤ l.s0 x) && decide (l.s0 x < l.se0) && decide (0 ≤ l.s1 x) && decide (l.s1 x < l.se1))

/-- Is an element moved among the padding writes, or among the data writes (R194); with OVCHK = 1 there is one run in the visiting order
(R185, R196). -/
def Slice.moves (l : Slice) (data : Bool) (x : Elem) : Bool := !l.dropped x && (l.ovchk || l.padded x == !data)

/-- Dimension-2 stride of a side: ignored on the scratchpad side under DIST 2 (R188). -/
def Slice.stride2 (l : Slice) (mem : Bool) (st : Int) : Int := if l.dist = 2 && !mem then 0 else st

def Slice.srcRow (l : Slice) (x : Elem) : Int := l.s1 x * l.ss1 + x.i2 * l.stride2 l.srcMem l.ss2 + x.i3 * l.ss3
def Slice.dstRow (l : Slice) (x : Elem) : Int := l.t1 x * l.ds1 + x.i2 * l.stride2 l.dstMem l.ds2 + x.i3 * l.ds3

/-- A TVA of a side, modulo 2^48 (R185). -/
def tvaOf (base : Nat) (off : Int) : Nat := (((base : Int) + off) % (2 ^ 48 : Int)).toNat

/-- A scratchpad address of a side relative to its slot, modulo 2^22 (R185). -/
def relOf (base : Nat) (off : Int) : Nat := (((base : Int) + off) % (2 ^ 22 : Int)).toNat

/-- Bytes a side uses in memory, each with the bit taken from it in bit-plane form. -/
def Slice.memBits (l : Slice) (base : Nat) (row : Int) (x0 : Nat) : List (Nat × Nat) :=
  (List.range (l.bits + 1)).map (fun j => (tvaOf base (row + (j * (l.planX / 8) + x0 / 8 : Nat)), x0 % 8))

/-- The TVAs of an element's bytes on a memory side. -/
def Slice.memBytes (l : Slice) (base : Nat) (row : Int) (x0 : Int) : List Nat :=
  if l.plan then (l.memBits base row x0.toNat).map Prod.fst
  else (List.range l.es).map (fun k => tvaOf base (row + x0 * l.es + k))

/-- Relative scratchpad address of an element. -/
def Slice.rel (l : Slice) (source : Bool) (x : Elem) : Nat :=
  if source then relOf l.src (l.srcRow x + l.s0 x * l.es) else relOf l.dst (l.dstRow x + l.t0 x * l.es)

def Slice.srcTvas (l : Slice) (x : Elem) : List Nat := l.memBytes l.src (l.srcRow x) (l.s0 x)
def Slice.dstTvas (l : Slice) (x : Elem) : List Nat := l.memBytes l.dst (l.dstRow x) (l.t0 x)

/-- Scratchpad bytes of an element, relative address plus slot, modulo 2^22. -/
def Slice.spBytes (l : Slice) (source : Bool) (x : Elem) : List Nat :=
  (List.range l.es).map (fun k => (l.slot + l.rel source x + k) % 2 ^ 22)

/-- Logical cores of an element (R188). -/
def Slice.coresOf (l : Slice) (x : Elem) : List Nat :=
  if l.dist = 0 then [l.core] else if l.dist = 1 then List.range 64 else [x.i2]

/-- Does some element of a slice satisfy `p`. -/
def Slice.anyElem (l : Slice) (p : Elem → Bool) : Bool := (List.range l.count).any (fun e => p (l.at e))

/-- Lowest and highest of the numbers an element list gives; none when there is none. -/
def hull (l : Slice) (f : Elem → List Nat) : Option (Nat × Nat) :=
  (List.range l.count).foldl (fun m e => (f (l.at e)).foldl (fun m a =>
    match m with | none => some (a, a) | some r => some (Nat.min r.1 a, Nat.max r.2 a)) m) none

def meets (x y : Option (Nat × Nat)) : Bool :=
  match x, y with | some a, some c => decide (a.1 ≤ c.2) && decide (c.1 ≤ a.2) | _, _ => false

/-- The destination interval of a slice on logical core `c`, or in TVA (R193). -/
def Slice.dstHull (l : Slice) (c : Nat) : Option (Nat × Nat) :=
  hull l (fun x => if l.dropped x then [] else if l.dstMem then l.dstTvas x
    else if (l.coresOf x).contains c then l.spBytes false x else [])

/-- The source interval of a slice. -/
def Slice.srcHull (l : Slice) (c : Nat) : Option (Nat × Nat) :=
  hull l (fun x => if l.dropped x || l.padded x then [] else if l.srcMem then l.srcTvas x
    else if (l.coresOf x).contains c then l.spBytes true x else [])

/-! ## Checks (R190–R197, R211) -/

/-- A slice is valid for the kind of its ring (R188–R190, R211). -/
def Slice.valid (l : Slice) (r : Ring) (fold : Bool) : Bool :=
  let k := r.kind
  l.ok && l.dist != 3 && !(l.dist == 1 && (l.dir == 1 || l.dir == 3)) && !(l.dist == 2 && l.d2 != 64) &&
    !(l.dir == 3 && (l.dist != 0 || l.core != 0)) &&
    (if l.plan then decide (l.dir ≤ 1) && l.planX % 8 == 0 && decide (l.bits + 1 ≤ 8 * l.es) else l.bits == 0) &&
    (if k = 0 then l.dir == 0 else if k = 1 then l.dir == 1 else decide (2 ≤ l.dir)) &&
    (k == 5 || !(l.anyElem (fun x => !l.dropped x && (k == 0 || !l.padded x) &&
      decide (r.slotBytes < l.rel (k == 1) x + l.es)))) &&
    !(fold && l.anyElem (fun x => !l.dropped x &&
      ((!l.srcMem && !l.padded x && (l.spBytes true x).any (fun a => decide (2 ^ 21 ≤ a))) ||
       (!l.dstMem && (l.spBytes false x).any (fun a => decide (2 ^ 21 ≤ a))))))

/-- An in-place square transpose that R195 exempts. -/
def Slice.square (l : Slice) : Bool :=
  l.trans && decide (2 ≤ l.dir) && l.src == l.dst && l.d0 == l.d1 && l.d2 == 1 && l.d3 == 1 && l.ss1 == l.ds1 &&
    l.ss1 == (l.d0 * l.es : Nat) && l.so0 == 0 && l.so1 == 0 && decide (l.d0 ≤ l.se0) && decide (l.d0 ≤ l.se1) &&
    decide (l.d0 ≤ l.de0) && decide (l.d0 ≤ l.de1) && !l.plan && decide (l.d0 * l.d0 * l.es ≤ 65536)

/-- Case of an element's source and destination (R191). -/
def State.srcSealed (s : State) (b : Braid) (n : Tid) (l : Slice) (x : Elem) : Bool :=
  if l.srcMem then (l.srcTvas x).any (fun a => (s.pte n (pageOf a)).sealed)
  else (l.coresOf x).any (fun c => (l.spBytes true x).any (fun a => b.sealedAt (b.logAddr c a).2))
def State.dstOpen (s : State) (b : Braid) (n : Tid) (l : Slice) (x : Elem) : Bool :=
  if l.dstMem then (l.dstTvas x).any (fun a => !(s.pte n (pageOf a)).sealed)
  else (l.coresOf x).any (fun c => (l.spBytes false x).any (fun a => !b.sealedAt (b.logAddr c a).2))

/-- Two different slices of a list satisfy `p`. -/
def anyPair {α : Type} (p : α → α → Bool) : List α → Bool
  | [] => false
  | x :: xs => xs.any (p x) || anyPair p xs

/-- The checks on a transfer, in order (R197). -/
def State.checkXfer (s : State) (b : Braid) (n : Tid) (r : Ring) (ls : List Slice) (ends : Bool) : Option Byte :=
  let data := fun (l : Slice) (x : Elem) => !l.dropped x && !l.padded x
  firstFail
    [(!ends || decide (16 < ls.length) || ls.any (fun l => !l.valid r b.fold) ||
        ls.any (fun l => l.ovchk != (ls.headD (r.slice 0 0)).ovchk), Status.aborted),
     (ls.any (fun l => l.anyElem (fun x => data l x && s.srcSealed b n l x)) &&
        ls.any (fun l => l.anyElem (fun x => data l x && s.dstOpen b n l x)), Status.caseViolation),
     (ls.any (fun l => l.trans && decide (2 ≤ l.dir) && !l.square &&
        (List.range 64).any (fun c => meets (l.srcHull c) (l.dstHull c))), Status.transposeOverlap),
     ((ls.headD (r.slice 0 0)).ovchk && (List.range 64).any (fun c => anyPair (fun x y => x.dstMem == y.dstMem && meets (x.dstHull c) (y.dstHull c)) ls),
        Status.descriptorOverlap)]

/-! ## Bank access (R166–R169, R175) -/

/-- The banks of mapped addresses. -/
def banksOf (addrs : List Nat) : List Nat := (addrs.map (fun a => a / 2 ^ 18)).dedup

/-- Why a DMA access to some mapped addresses cannot take place now: held by ownership or a clearing (R169, R175), or deferred by a core
port that touches one of its banks in this cycle (R168). -/
def Braid.dmaWait? (b : Braid) (addrs : List Nat) : Option XferWait :=
  let banks := banksOf addrs
  if banks.any (fun k => !bit b.bankMap k || !(Sparse.get [] b.clear k).isEmpty) then some .owner
  else if banks.any b.busyBanks.contains then some .deferred
  else none

/-- A transfer waits for its banks: a deferral is counted for the banks touched in this cycle (R168). -/
def Braid.holdXfer (b : Braid) (r : Nat) (w : XferWait) (addrs : List Nat) : Braid :=
  let banks := banksOf addrs
  let b := b.setRing r { b.ring r with xfer := (b.ring r).xfer.map (fun x => { x with wait := w, banks := banks }) }
  if w = .deferred then b.countConflict b.issueAt (banks.filter b.busyBanks.contains) else b

def State.holdXfer (s : State) (i r : Nat) (w : XferWait) (addrs : List Nat) : State :=
  ((s.modBraid i (fun b => b.holdXfer r w addrs)).beginDmaWait i (s.braid i)).noteStalls

/-! ## Moving elements (R194, R223) -/

/-- How the movement of an element ended. -/
inductive MoveEnd where
  | go
  | halt
  | hold (w : XferWait) (addrs : List Nat)
  | fail (st : Byte)
  deriving DecidableEq, Repr

/-- Places of an element's bytes on the scratchpads: physical core key and mapped address, by logical core. -/
def Braid.spots (b : Braid) (l : Slice) (source : Bool) (x : Elem) : List (List (Nat × Nat)) :=
  (l.coresOf x).map (fun c => (l.spBytes source x).map (fun a => b.logAddr c a))

/-- Read an element's bytes on one core through the DMA port: poison first, then ECC (R171, R173). -/
def Braid.dmaRead (b : Braid) (ps : List (Nat × Nat)) : Braid × Option Byte × Nat :=
  if ps.any (fun p => b.poisonAtDma p.1 p.2) then (b, some Status.poisonedOperand, 0)
  else
    let keys := (ps.map (fun p => spKey p.1 p.2)).dedup
    let r := b.eccRead keys true
    (r.1, if r.2 then some Status.eccUncorrected else none, leNat (ps.map (fun p => b.dmaByte p.1 p.2)))

/-- Write bytes on one core through the DMA port: words that the write covers in part are read for the merge, but for the words `whole`, which
the write's beat covers (R170, log 107), and stores not yet visible lose these bytes (log 13). -/
def Braid.dmaWrite (b : Braid) (ps : List (Nat × Nat)) (v : Nat) (whole : List Nat) : Braid × Option Byte :=
  let r := b.eccWrite ps true whole
  if !r.2.isEmpty then (r.1, some Status.eccUncorrected)
  else
    let ws := List.zip ps (leBytes ps.length v)
    (ws.foldl (fun b w => ((b.cancelStores w.1.1 w.1.2 1).putByte w.1.1 w.1.2 w.2).setWritten w.1.1 w.1.2) r.1, none)

/-- Key of a region in a transfer's cover. -/
def coverKey (slice : Nat) (p : Nat × Nat) : Nat := slice * 2 ^ 17 + regionKey p.1 p.2

/-- What a mover's write to the scratchpads does to poison bits (R172): poisoned data sets them, a single slice that has written
all 4 KiB of a region from unpoisoned data, and has not put poisoned data over it, clears it. -/
def Braid.coverBytes (b : Braid) (cov : Sparse (BitVec 4096)) (slice : Nat) (ps : List (Nat × Nat)) (poison : Bool) :
    Braid × Sparse (BitVec 4096) :=
  ps.foldl (fun st p =>
    let k := coverKey slice p
    if poison then
      (st.1.setPoison p.1 p.2, Sparse.set 0 st.2 k (Sparse.get 0 st.2 k &&& ~~~(BitVec.ofNat 4096 (2 ^ (p.2 % 4096)))))
    else
      let m := Sparse.get 0 st.2 k ||| BitVec.ofNat 4096 (2 ^ (p.2 % 4096))
      (if m = BitVec.allOnes 4096 then st.1.clearPoison p.1 p.2 else st.1,
        Sparse.set 0 st.2 k m)) (b, cov)

/-- An element read from memory: pages unmapped fail the stream; a granule is read, and counted, when the element before it did
not read it (log 29). -/
def State.memRead (s : State) (n : Tid) (l : Slice) (e : Nat) : State × Option Byte × Nat × Bool :=
  let x := l.at e
  let tv := l.srcTvas x
  if tv.any (fun a => (s.pte n (pageOf a)).state == .unmapped) then (s, some Status.pageUnmapped, 0, false)
  else
    let gs := (tv.map (fun a => a / 4096 * 4096)).dedup
    let prev := if e = 0 then [] else
      let y := l.at (e - 1)
      if !l.dropped y && !l.padded y then ((l.srcTvas y).map (fun a => a / 4096 * 4096)).dedup else []
    let s := (gs.filter (fun g => !prev.contains g)).foldl (fun s g => s.touchGranule n g) s
    let s := s.countMoved (s.pte n (pageOf (tv.headD 0))).hawser l.es
    let v := if l.plan then
        ((l.memBits l.src (l.srcRow x) (l.s0 x).toNat).zipIdx).foldl (fun v y =>
          if bit (s.peekByte n y.1.1) y.1.2 then v + 2 ^ y.2 else v) 0
      else leNat (tv.map (s.peekByte n))
    (s, none, v, gs.any (s.poisonedTva n))

/-- Write bytes of an element to memory: every page must take them; the first that does not halts or fails the stream (R223,
R255). The stream halts as well where the mirror engine has yet to read what it would overwrite (R525). -/
def State.memWrite (s : State) (n : Tid) (hw : Bool) (tok : Option Nat) (ws : List (Nat × Byte)) : State × MoveEnd :=
  let pages := (ws.map (fun w => pageOf w.1)).dedup
  let r := pages.foldl (fun (st : State × MoveEnd) p =>
    if st.2 != .go then st
    else match (st.1.pte n p).state with
      | .unmapped => (st.1, .fail Status.pageUnmapped)
      | .mapped =>
        let t := st.1.touchWrite n p hw
        (t.1, match t.2 with | .fail f => .fail f | _ => .halt)
      | .backed => st
      | .migrating => if st.1.migBlocked n p then (st.1, .halt) else st) (s, .go)
  if r.2 != .go then r
  else
    let m := r.1.mirrorReads n (ws.map (fun w => w.1 / 4096))
    if m.2 then (m.1, .halt)
    else
    let s := ws.foldl (fun s w => s.writeBacked n w.1 [w.2]) m.1
    (match tok with
      | some t => s.tokWrote t n (ws.map (fun w => w.1 / 4096))
      | none => s, .go)

/-- The bytes that write value `v` at an element's memory side; in bit-plane form the other bits of each byte stay (R189). -/
def State.memImage (s : State) (n : Tid) (l : Slice) (x : Elem) (v : Nat) : List (Nat × Byte) :=
  if l.plan then
    ((l.memBits l.dst (l.dstRow x) (l.t0 x)).zipIdx).map (fun y =>
      let old := s.peekByte n y.1.1
      let m : Byte := BitVec.ofNat 8 (2 ^ y.1.2)
      (y.1.1, if v.testBit y.2 then old ||| m else old &&& ~~~m))
  else List.zip (l.dstTvas x) (leBytes l.es v)

/-- The ECC words of the scratchpads that the beat of element `e` covers whole: a beat is the elements of one 64-byte group in the visiting
order that move in the same run (R170, log 107). -/
def Braid.beatWords (b : Braid) (l : Slice) (data : Bool) (e : Nat) : List Nat :=
  let k := 64 / l.es
  wholeWords ((List.range k).flatMap (fun j =>
    let y := e / k * k + j
    if y < l.count ∧ l.moves data (l.at y) then (b.spots l false (l.at y)).flatten else []))

/-- Move element `e` of slice number `k`: read it on each core concerned, then write it (R185–R188). -/
def State.moveElem (s : State) (i : Nat) (n : Tid) (cov : Sparse (BitVec 4096)) (l : Slice) (k e : Nat) (data : Bool) :
    State × Sparse (BitVec 4096) × MoveEnd :=
  let b := s.braid i
  let x := l.at e
  let pad := l.padded x
  let fill := l.fill.toNat % 2 ^ l.width
  let srcs := if l.srcMem || pad then [] else b.spots l true x
  let dsts := if l.dstMem then [] else b.spots l false x
  match b.dmaWait? ((srcs ++ dsts).flatten.map Prod.snd) with
  | some w => (s, cov, .hold w ((srcs ++ dsts).flatten.map Prod.snd))
  | none =>
    -- the read
    let rd : State × Option Byte × List Nat × Bool :=
      if pad then (s, none, [fill], false)
      else if l.srcMem then
        let r := s.memRead n l e
        (r.1, r.2.1, [r.2.2.1], r.2.2.2)
      else
        let r := srcs.foldl (fun (st : Braid × Option Byte × List Nat) ps =>
          if st.2.1.isSome then st
          else
            let t := st.1.dmaRead ps
            (t.1, t.2.1, st.2.2 ++ [t.2.2])) (b, none, [])
        (s.putBraid i r.1, r.2.1, r.2.2, false)
    match rd.2.1 with
    | some f => (rd.1, cov, .fail f)
    | none =>
      let s := rd.1
      if l.dstMem then
        if rd.2.2.2 then (s, cov, .fail Status.poisonedOperand)
        else
          let v := rd.2.2.1.headD 0
          let r := s.memWrite n (braidHawser i) (s.braid i).tok (s.memImage n l x (v % 2 ^ l.width))
          (r.1, cov, r.2)
      else
        let b := s.braid i
        let whole := b.beatWords l data e
        let vals := if rd.2.2.1.length = 1 then List.replicate dsts.length (rd.2.2.1.headD 0) else rd.2.2.1
        let r := (List.zip dsts vals).foldl (fun (st : Braid × Sparse (BitVec 4096) × Option Byte) y =>
          if st.2.2.isSome then st
          else
            let t := st.1.dmaWrite y.1 y.2 whole
            match t.2 with
            | some f => (t.1, st.2.1, some f)
            | none =>
              let u := t.1.coverBytes st.2.1 k y.1 (rd.2.2.2 && !pad)
              (u.1, u.2, none)) (b, cov, none)
        (s.putBraid i r.1, r.2.1, match r.2.2 with | some f => .fail f | none => .go)

/-- An exempt square is read whole into the mover's buffer and then written transposed (R195); its pages are resident, and its
banks free, before the write phase starts. -/
def State.moveSquare (s : State) (i : Nat) (n : Tid) (cov : Sparse (BitVec 4096)) (l : Slice) (k : Nat) :
    State × Sparse (BitVec 4096) × MoveEnd :=
  let b := s.braid i
  let es := List.range l.count
  if l.dstMem then
    let rd := es.foldl (fun (st : State × Option Byte × List Nat) e =>
      if st.2.1.isSome then st
      else
        let r := st.1.memRead n l e
        (r.1, if r.2.1.isSome then r.2.1 else if r.2.2.2 then some Status.poisonedOperand else none, st.2.2 ++ [r.2.2.1])) (s, none, [])
    match rd.2.1 with
    | some f => (rd.1, cov, .fail f)
    | none =>
      let ws := (List.zip es rd.2.2).flatMap (fun y => rd.1.memImage n l (l.at y.1) y.2)
      let r := rd.1.memWrite n (braidHawser i) b.tok ws
      (r.1, cov, r.2)
  else
    let places := es.flatMap (fun e => (b.spots l true (l.at e)).flatten.map Prod.snd)
    match b.dmaWait? places with
    | some w => (s, cov, .hold w places)
    | none =>
      let rd := es.foldl (fun (st : Braid × Option Byte × List (List (Nat × Nat) × Nat)) e =>
        (List.zip (b.spots l true (l.at e)) (b.spots l false (l.at e))).foldl (fun st y =>
          if st.2.1.isSome then st
          else
            let t := st.1.dmaRead y.1
            (t.1, t.2.1, st.2.2 ++ [(y.2, t.2.2)])) st) (b, none, [])
      match rd.2.1 with
      | some f => (s.putBraid i rd.1, cov, .fail f)
      | none =>
        let whole := wholeWords (rd.2.2.flatMap Prod.fst)
        let r := rd.2.2.foldl (fun (st : Braid × Sparse (BitVec 4096) × Option Byte) y =>
          if st.2.2.isSome then st
          else
            let t := st.1.dmaWrite y.1 y.2 whole
            let u := t.1.coverBytes st.2.1 k y.1 false
            (u.1, u.2, t.2)) (rd.1, cov, none)
        (s.putBraid i r.1, r.2.1, match r.2.2 with | some f => .fail f | none => .go)

end Sys2Proof.Machine
end

