-- ==== Sys2Proof/Machine/Streams.lean ====
section
/-! DEFINITION. Streams.lean: stream rings: transfers, crossings, descriptor bursts, halts and failures (R199–R226, R242). -/

namespace Sys2Proof.Machine

/-! ## Failure (R224) -/

/-- The mapped places at which the regions of a slot start, on the cores given by logical number. -/
def Braid.slotRegions (b : Braid) (r : Ring) (slot : Nat) (cores : List Nat) : List (Nat × Nat) :=
  cores.flatMap (fun c => (List.range (r.slotBytes / 4096)).map (fun k =>
    b.logAddr c (r.slotBase + slot * r.slotBytes + 4096 * k)))

/-- A ring is disarmed; its stall counter stays. -/
def Braid.disarm (b : Braid) (r : Nat) : Braid := b.setRing r { Ring.init with stall := (b.ring r).stall }

/-- A stream fails: the slot in flight is poisoned on the cores given, the ring is disarmed, the kernel stops with CLAUSE 0b111. -/
def Braid.failStream (b : Braid) (r : Nat) (st : Byte) (slot : Option Nat) (cores : List Nat) : Braid :=
  let ring := b.ring r
  let b := match slot with
    | some k => if ring.kind = 5 then b else (b.slotRegions ring k cores).foldl (fun (b : Braid) (p : Nat × Nat) => b.setPoison p.1 p.2) b
    | none => b
  let b := b.disarm r
  let rec' : StopRec := { status := st, pc := b.pc, clause := 7 }
  let b := { b with tel := { b.tel with sfRing := BitVec.ofNat 5 r, sfStatus := st } }
  if b.phase == .idle || b.phase == .stopped then b
  else { b with phase := .stopped, stop := some rec', tel := { b.tel with fault := rec' } }

/-- The failure that follows concerns an address, where the kernel has not stopped before (R509). -/
def State.markFault (s : State) (i : Nat) (a : Option FaultAddr) : State :=
  s.modBraid i (fun b => if b.phase == .idle || b.phase == .stopped then b else { b with faultAt := a })

def State.failStream (s : State) (i r : Nat) (st : Byte) (slot : Option Nat) (cores : List Nat) : State :=
  s.afterBraid i ((s.braid i).failStream r st slot cores)

/-! ## Descriptors in the ring's cache (R209, R212) -/

/-- A cached descriptor. -/
def Ring.desc (r : Ring) (k : Nat) : Option (BitVec 512) := if r.cacheAt ≤ k then r.cache[k - r.cacheAt]? else none

/-- The descriptors of the transfer that starts at `k`, and whether it ends within the program; none when one is not cached. A
transfer of more than 16 slices is invalid, so 17 decide. -/
def Ring.collect (r : Ring) : Nat → Nat → Option (List (BitVec 512) × Bool)
  | 0, _ => some ([], true)
  | f + 1, k =>
    if r.progLen ≤ k then some ([], false)
    else match r.desc k with
      | none => none
      | some d => if descChain d then (r.collect f (k + 1)).map (fun x => (d :: x.1, x.2)) else some ([d], true)

/-- Descriptors of the transfer at `k` in the program, for the position after it: up to the first without CHAIN. -/
def Ring.programDone (r : Ring) : Bool := decide (r.passes ≤ r.pass)

/-- The ring after a transfer of `n` descriptors, or a filled slot of KIND 3: the next descriptor, or a new pass with a fresh
fetch (R209, R212). After the last pass nothing is fetched, and the cache stays for a re-arm (R226). -/
def Ring.advance (r : Ring) (n : Nat) : Ring :=
  if r.progLen ≤ r.next + n then
    let r := { r with next := 0, pass := r.pass + 1 }
    if r.programDone then r else { r with cache := [], cacheAt := 0 }
  else { r with next := r.next + n }

/-- May the engine take the slot at TAIL (R206, R207, R225): the ring is armed and not waiting for a re-arm, the passes are not
over, the kernel has not stopped, and after the end of issue, or while a context is saved, only drains go on. -/
def Braid.mayStart (b : Braid) (r : Nat) : Bool :=
  let x := b.ring r
  x.armed && !x.rearm && !x.halted && x.xfer.isNone && !x.programDone && b.pllUp && !b.linkDown &&
    b.phase != .idle && b.phase != .stopped && ((b.phase != .saving && b.phase != .ended) || x.kind == 1) &&
    (x.slotAt x.tail.toNat 0).engine == (if x.kind = 1 then SlotSt.full else SlotSt.free)

/-- The engine takes the slot at TAIL: it is in flight for both sides. -/
def Ring.take (r : Ring) (x : Xfer) : Ring :=
  { r with slots := r.slots.set (r.tail.toNat % r.size) { braid := .inflight, engine := .inflight }, tail := r.tail + 1
           xfer := some x }

/-- A transfer's way as it starts: with OVCHK = 1 all elements move in one run, else the padding first (R194, R196). -/
def Ring.newXfer (r : Ring) (ds : List (BitVec 512)) : Xfer :=
  { slot := r.tail.toNat % r.size, descs := ds, first := r.next, data := ds.any (fun d => bit d 14), slice := 0, elem := 0, wait := .run,
    cover := [], banks := [] }

def Braid.modXfer (b : Braid) (r : Nat) (f : Xfer → Xfer) : Braid := b.setRing r { b.ring r with xfer := (b.ring r).xfer.map f }

/-! ## KIND 3: DRBG output (R414) -/

/-- Fill a slot of every core, in ascending core order, by generate requests of at most 64 KiB. -/
def State.fillRandom (s : State) (i r slot : Nat) : State :=
  let ring := (s.braid i).ring r
  let base := ring.slotBase + slot * ring.slotBytes
  (List.range 64).foldl (fun s c => (List.range ((ring.slotBytes + 65535) / 65536)).foldl (fun s j =>
    let len := Nat.min 65536 (ring.slotBytes - 65536 * j)
    let v := s.drbgN (len / 64)
    v.2.modBraid i (fun b =>
      let ps := (List.range len).map (fun k => b.logAddr c (base + 65536 * j + k))
      (List.zip ps (leBytes len v.1)).foldl (fun b w => ((b.cancelStores w.1.1 w.1.2 1).putByte w.1.1 w.1.2 w.2).setWritten w.1.1 w.1.2)
        (b.eccFresh ((ps.map (fun p => spKey p.1 p.2)).dedup)))) s) s

/-- Move a KIND 3 slot: the banks must be the engine's; a request not begun when the DRBG is not available fails the stream with
INTERNAL (R415), an open region with CASE_VIOLATION (R224). -/
def State.moveRandom (s : State) (i r : Nat) (x : Xfer) : State :=
  let b := s.braid i
  let ring := b.ring r
  let ps := b.slotRegions ring x.slot (List.range 64)
  match b.dmaWait? (ps.map Prod.snd) with
  | some w => s.holdXfer i r w (ps.map Prod.snd)
  | none =>
    if !s.drbgOk then s.failStream i r Status.internal (some x.slot) (List.range 64)
    else if ps.any (fun p => !b.sealedAt p.2) then
      (s.markFault i ((ps.find? (fun p => !b.sealedAt p.2)).map (fun p => .sp p.1 p.2))).failStream i r Status.caseViolation (some x.slot) (List.range 64)
    else (s.fillRandom i r x.slot).modBraid i (fun b => b.modXfer r (fun x => { x with wait := .done }))

/-! ## The movement of a transfer (R194, R206, R223) -/

/-- The logical cores a transfer's slices concern. -/
def coresOfSlices (ls : List Slice) : List Nat :=
  (List.range 64).filter (fun c => ls.any (fun l => l.dist == 1 || l.dist == 2 || l.core == c))

/-- The address at which element `y` of a slice fails with status `st`: the first of its bytes to which the status applies (R508). -/
def State.elemFault (s : State) (b : Braid) (n : Tid) (l : Slice) (st : Byte) (y : Elem) : Option FaultAddr :=
  let src := if l.srcMem && !l.padded y then l.srcTvas y else []
  let dst := if l.dstMem then l.dstTvas y else []
  let from' := if l.srcMem || l.padded y then [] else (b.spots l true y).flatten
  let into := if l.dstMem then [] else (b.spots l false y).flatten
  let tva := fun (as : List Nat) (p : Nat → Bool) => (as.find? p).map FaultAddr.tva
  let sp := fun (as : List (Nat × Nat)) (p : Nat → Nat → Bool) => (as.find? (fun x => p x.1 x.2)).map (fun x => FaultAddr.sp x.1 x.2)
  if st = Status.pageUnmapped then tva (src ++ dst) (fun a => (s.pte n (pageOf a)).state == .unmapped)
  else if st = Status.quotaExceeded then tva dst (fun a => (s.pte n (pageOf a)).state == .mapped)
  else if st = Status.poisonedOperand then (tva src (s.poisonedTva n)).or (sp from' b.poisonAtDma)
  else if st = Status.eccUncorrected then sp (from' ++ into) (fun c a => b.ecc2.has (spKey c a))
  else none

/-- The address at which the transfer of a ring fails where it stands. -/
def State.moveFault (s : State) (i : Nat) (ring : Ring) (x : Xfer) (st : Byte) : Option FaultAddr :=
  let b := s.braid i
  match x.descs[x.slice]? with
  | none => none
  | some d =>
    let l := ring.slice x.slot d
    ((if l.square then List.range l.count else [x.elem]).map l.at).findSome? (s.elemFault b (b.ten.getD 0) l st)

/-- Where a transfer that the case check refuses would write open data: its first open destination (R191, R508). -/
def State.caseFault (s : State) (b : Braid) (n : Tid) (ls : List Slice) : Option FaultAddr :=
  ls.findSome? (fun l => (List.range l.count).findSome? (fun e =>
    let y := l.at e
    if l.dropped y || l.padded y then none
    else if l.dstMem then ((l.dstTvas y).find? (fun a => !(s.pte n (pageOf a)).sealed)).map FaultAddr.tva
    else ((b.spots l false y).flatten.find? (fun p => !b.sealedAt p.2)).map (fun p => FaultAddr.sp p.1 p.2)))

/-- What moving element `x.elem` of a transfer comes to: the next state, and whether the transfer goes on (R187, R223, R224). -/
def State.moveEnd (s : State) (i r : Nat) (ring : Ring) (x : Xfer) (skip : Bool) (count : Nat) (cover : Sparse (BitVec 4096))
    (e : MoveEnd) : State × Bool :=
  match e with
  | .go => (s.modBraid i (fun b => b.modXfer r (fun y => { y with cover := cover, elem := if skip then count else y.elem + 1 })), true)
  | .hold w addrs => (s.holdXfer i r w addrs, false)
  | .halt =>
    (s.modBraid i (fun b =>
      let q := b.ring r
      { (b.setRing r { q with halted := true, posDesc := BitVec.ofNat 16 (x.first + x.slice), posPass := BitVec.ofNat 16 q.pass
                              posElem := BitVec.ofNat 64 x.elem }) with
        tel := { b.tel with halts := BitVec.ofNat 16 (satAdd 16 b.tel.halts.toNat 1) } }), false)
  | .fail st => ((s.markFault i (s.moveFault i ring x st)).failStream i r st (some x.slot) (coresOfSlices (x.descs.map (ring.slice x.slot))), false)

/-- An element or a square of the slice in work is moved. -/
def State.moveData (s : State) (i r : Nat) (ring : Ring) (x : Xfer) (l : Slice) : State × Bool :=
  let n := (s.braid i).ten.getD 0
  let m := if l.square then s.moveSquare i n x.cover l x.slice else s.moveElem i n x.cover l x.slice x.elem x.data
  m.1.moveEnd i r ring x l.square l.count m.2.1 m.2.2

/-- The transfer of a ring stands at `y` now. -/
def State.setXfer (s : State) (i r : Nat) (y : Xfer) : State :=
  s.modBraid i (fun b => b.setRing r { b.ring r with xfer := some y })

/-- An element that its slice drops is counted and passed (R187). -/
def State.passElem (s : State) (i r : Nat) (x : Xfer) (drop : Bool) : State :=
  (if drop then s.modBraid i (fun b => { b with tel := { b.tel with movDrop := b.tel.movDrop + 1 } }) else s).setXfer i r
    { x with elem := x.elem + 1 }

/-- One step of a transfer: from the padding writes to the data (R194), to the next slice, past an element that does not move, or one
element or square is moved. -/
def State.moveStep (s : State) (i r : Nat) (ring : Ring) (x : Xfer) : State × Bool :=
  match x.descs[x.slice]? with
  | none =>
    if x.data then (s.modBraid i (fun b => b.modXfer r (fun y => { y with wait := .done })), false)
    else (s.setXfer i r { x with data := true, slice := 0, elem := 0 }, true)
  | some d =>
    let l := ring.slice x.slot d
    if l.count ≤ x.elem ∨ (l.square && !x.data) then (s.setXfer i r { x with slice := x.slice + 1, elem := 0 }, true)
    else if !l.square && !l.moves x.data (l.at x.elem) then (s.passElem i r x (x.data && l.dropped (l.at x.elem)), true)
    else s.moveData i r ring x l

/-- Does the transfer's next step move an element or a square. -/
def Ring.moving (r : Ring) (x : Xfer) : Bool :=
  match x.descs[x.slice]? with
  | none => false
  | some d =>
    let l := r.slice x.slot d
    decide (x.elem < l.count) && (if l.square then x.data else l.moves x.data (l.at x.elem))

/-- Move at most `n` elements from where the transfer stands, until it is done, halts, waits for a bank, or fails. -/
def State.moveLoop (i r : Nat) : Nat → Nat → State → State
  | 0, _, s => s
  | f + 1, n, s =>
    let ring := (s.braid i).ring r
    match ring.xfer with
    | none => s
    | some x =>
      let moving := ring.moving x
      if moving && n == 0 then s
      else
        let t := s.moveStep i r ring x
        if t.2 then State.moveLoop i r f (if moving then n - 1 else n) t.1 else t.1

/-- Enough steps for a transfer: every element twice, every slice twice, and the ends. -/
def xferFuel (r : Ring) (x : Xfer) : Nat :=
  2 * ((x.descs.map (fun d => (r.slice x.slot d).count + 1)).sum) + 4

/-- Elements of one 64-byte beat of a transfer (R166, R201): by the element size of the slice in work. -/
def Ring.beat (r : Ring) (x : Xfer) : Nat :=
  match x.descs[x.slice]? with
  | some d => 64 / (r.slice x.slot d).es
  | none => 1

/-- Go on with the transfer of a ring by one beat; a KIND 3 slot is filled whole. -/
def State.moveOn (s : State) (i r : Nat) : State :=
  let ring := (s.braid i).ring r
  match ring.xfer with
  | none => s
  | some x => if ring.kind = 2 then s else if ring.kind = 3 then s.moveRandom i r x else State.moveLoop i r (xferFuel ring x) (ring.beat x) s

/-- Has a ring a mover's transfer that moves. -/
def Braid.moverRuns (b : Braid) (r : Nat) : Bool :=
  let x := b.ring r
  b.pllUp && !b.linkDown && !x.halted && x.kind != 2 && (match x.xfer with | some y => y.wait == .run | none => false)

/-- One round of a strand's mover: a beat of every transfer that moves, in ascending order of braid and then ring (R201). -/
def State.moverRound (s : State) (strand : Nat) : State :=
  (List.range 4).foldl (fun s k =>
    let i := 4 * strand + k
    ((s.braid i).rings.map Prod.fst).foldl (fun s r => if (s.braid i).moverRuns r then s.moveOn i r else s) s) s

/-- Rounds of the mover until the transfer of ring `r` no longer moves. -/
def State.moverRounds (i r : Nat) : Nat → State → State
  | 0, s => s
  | f + 1, s => if (s.braid i).moverRuns r then State.moverRounds i r f (s.moverRound (i / 4)) else s

/-- The mover goes on until the transfer of ring `r` is done, halts, waits for a bank or fails; the other transfers of its strand move
with it, beat by beat (R201). -/
def State.finishXfer (s : State) (i r : Nat) : State :=
  match ((s.braid i).ring r).xfer with
  | none => s
  | some x => State.moverRounds i r (xferFuel ((s.braid i).ring r) x) s

/-- SLOT_TRANSFER_START: the engine takes the slot at TAIL, checks the transfer, and moves its first beat. -/
def State.slotStart (s : State) (i r : Nat) : State :=
  let b := s.braid i
  let ring := b.ring r
  if !s.live || !b.mayStart r then s
  else if ring.kind = 3 then (s.setBraid i (b.setRing r (ring.take (ring.newXfer [])))).moveOn i r
  else if ring.kind = 0 ∨ ring.kind = 1 ∨ ring.kind = 5 then
    match ring.collect 17 ring.next with
    | none => s
    | some c =>
      let x := ring.newXfer c.1
      let ls := c.1.map (ring.slice x.slot)
      let s' := s.setBraid i (b.setRing r (ring.take x))
      match s.checkXfer b (b.ten.getD 0) ring ls c.2 with
      | some st =>
        (s'.markFault i (if st = Status.caseViolation then s.caseFault b (b.ten.getD 0) ls else none)).failStream i r st (some x.slot) (coresOfSlices ls)
      | none => s'.moveOn i r
  else s

/-- The last byte has been written; the slot changes state on the engine's side, to full, or to free for KIND 1 and after the end of
issue (R206, R222, R225). -/
def Braid.slotDone (b : Braid) (r : Nat) : Braid :=
  let ring := b.ring r
  match ring.xfer with
  | none => b
  | some x =>
    if x.wait != .done then b
    else
      let st' := if ring.kind = 1 ∨ ring.rearm ∨ b.phase = .ended then SlotSt.free else SlotSt.full
      let ring := { ring with slots := ring.slots.set x.slot { braid := .inflight, engine := st' }, xfer := none }
      b.setRing r (if ring.rearm then ring else ring.advance (if ring.kind = 3 then 1 else x.descs.length))

/-- SLOT_TRANSFER_DONE: the transfer moves to its end; the slot changes state once its last byte has been written. -/
def State.slotFinish (s : State) (i r : Nat) : State :=
  if !s.live then s else (s.finishXfer i r).braidStep i (·.slotDone r)

/-- SLOT_CROSSING: the changes of the ring's slots that are crossing arrive: those of the engine in the braid's domain, where a
slot is still in flight, and those of the braid in the engine's (R208, R213, log 30). -/
def Braid.cross (b : Braid) (r : Nat) : Braid :=
  let ring := b.ring r
  if !ring.armed then b
  else b.setRing r { ring with slots := ring.slots.map (fun k =>
    if k.braid == .inflight then { k with braid := k.engine } else { k with engine := k.braid }) }

/-- The places of the access that a transfer waits for. -/
def Braid.waitAddrs (b : Braid) (r : Nat) (x : Xfer) : List Nat :=
  let ring := b.ring r
  match x.descs[x.slice]? with
  | some d =>
    let l := ring.slice x.slot d
    let es := if l.square then (List.range l.count).map l.at else [l.at x.elem]
    es.flatMap (fun e =>
      ((if l.srcMem || (l.padded e && !l.square) then [] else b.spots l true e) ++ (if l.dstMem then [] else b.spots l false e)).flatten.map Prod.snd)
  | none => (b.slotRegions ring x.slot (List.range 64)).map Prod.snd

/-- DEFERRED_DMA_ACCESS: an access deferred by the core port, or held by ownership or a clearing, takes place when the bank is
free to it (R168, R169). A key page's access takes place with the page. -/
def State.deferred (s : State) (i r : Nat) : State :=
  let b := s.braid i
  match (b.ring r).xfer with
  | none => s
  | some x =>
    if !s.live || (b.ring r).kind == 2 || !(x.wait == .deferred || x.wait == .owner) then s
    else match b.dmaWait? (b.waitAddrs r x) with
      | some w => s.holdXfer i r w (b.waitAddrs r x)
      | none =>
        let s := s.setBraid i (b.modXfer r (fun y => { y with wait := .run }))
        let s := if x.wait = .owner ∧ !(s.braid i).dmaWaits then s.endDmaWait i (s.braid i).phase else s
        (s.moveOn i r).noteStalls

/-! ## Descriptor bursts (R212) -/

/-- The first descriptor of the burst that the engine fetches next; none when no burst is due. -/
def Ring.burst (r : Ring) : Option Nat :=
  if r.programDone then none
  else
    let at' := if (r.desc r.next).isNone then r.next / 16 * 16 else r.cacheAt + r.cache.length
    let unused := if (r.desc r.next).isNone then 0 else r.cacheAt + r.cache.length - r.next
    if unused ≤ 16 ∧ at' < r.progLen then some at' else none

/-- DESCRIPTOR_BURST_FETCH: up to 16 descriptors are read; an unmapped page, a sealed page or poison fails the stream. -/
def State.burstFetch (s : State) (i r : Nat) : State :=
  let b := s.braid i
  let ring := b.ring r
  let n := b.ten.getD 0
  if !s.live || !ring.armed || ring.rearm || !(ring.kind == 0 || ring.kind == 1 || ring.kind == 5) || b.phase == .stopped then s
  else match ring.burst with
    | none => s
    | some k =>
      let cnt := Nat.min 16 (ring.progLen - k)
      let tva := ring.prog + 64 * k
      let fail := fun (s : State) (st : Byte) => (s.markFault i (s.firstBad n tva (64 * cnt) st)).failStream i r st (ring.xfer.map (·.slot))
        (match ring.xfer with | some x => coresOfSlices (x.descs.map (ring.slice x.slot)) | none => [])
      if s.anyUnmapped n tva (64 * cnt) then fail s Status.pageUnmapped
      else if s.anySealedPage n tva (64 * cnt) then fail s Status.caseViolation
      else
        let rd := s.readMem n tva (64 * cnt)
        if rd.2.2 then fail rd.1 Status.poisonedOperand
        else
          let ds := (chunks 64 cnt rd.2.1).map rec64
          rd.1.modBraid i (fun b =>
            let q := b.ring r
            if (q.desc q.next).isNone then b.setRing r { q with cache := ds, cacheAt := k }
            else b.setRing r { q with cache := q.cache.drop (q.next - q.cacheAt) ++ ds, cacheAt := q.next })

/-! ## Halts (R223) -/

/-- The pages that a halted ring waits for. -/
def Ring.haltPages (r : Ring) : List Nat :=
  match r.xfer with
  | none => []
  | some x =>
    match x.descs[x.slice]? with
    | none => []
    | some d =>
      let l := r.slice x.slot d
      if l.square then (List.range l.count).flatMap (fun e => (l.dstTvas (l.at e)).map pageOf)
      else (l.dstTvas (l.at x.elem)).map pageOf

/-- A page takes writes again: the braids whose rings halted at it learn so on source 4b + 1 (R223, R493). -/
def State.pageResident (s : State) (n : Tid) (page : Nat) : State :=
  (s.braids.filter (fun e => e.2.ten == some n &&
    e.2.rings.any (fun r => r.2.halted && r.2.haltPages.contains page))).foldl (fun s e => s.raise (4 * e.1 + 1)) s

/-- STREAM_RESUME: the page the stream halted at is no longer waited for; the ring goes on from the element that faulted. -/
def State.streamResume (s : State) (i r : Nat) : State :=
  let b := s.braid i
  let ring := b.ring r
  let n := b.ten.getD 0
  if s.live && ring.armed && ring.halted && ring.xfer.isSome && ring.haltPages.all (fun p => !s.pageWaits n p) then
    (s.setBraid i (b.setRing r { ring with halted := false })).moveOn i r
  else s

/-- AFFINITY_HOLD_EXPIRY: the hold of a key ring that waits for a re-arm ends (R242). -/
def Braid.holdEnd (b : Braid) (r : Nat) : Braid :=
  let x := b.ring r
  if x.armed && x.rearm && x.kind == 2 then b.disarm r else b

/-! ## The end of issue (R225) -/

/-- A transfer that waits for a bank which the map keeps from the DMA port, as nothing changes any more once issue has ended: it never
goes on (R169). -/
def Braid.stuck (b : Braid) (r : Ring) : Bool :=
  match r.xfer with
  | some x => x.wait == .owner && x.banks.any (fun k => !bit b.bankMap k)
  | none => false

/-- Has a ring nothing left that delays retirement: a drain has drained what SREL made full and a transfer could take, every other ring's
transfer in flight is complete, or stuck (R225, DESIGN CHOICE, log 95). -/
def Braid.drainedRing (b : Braid) (r : Ring) : Bool :=
  if r.kind = 1 then
    r.xfer.isNone && r.slots.all (fun k => k.braid == k.engine) &&
      (r.programDone || r.slots.all (fun k => k.engine != .full))
  else r.xfer.isNone || b.stuck r

/-- Every ring of the braid is drained. -/
def Braid.ringsDrained (b : Braid) : Bool := b.rings.all (fun e => !e.2.armed || e.2.rearm || b.drainedRing e.2)

/-- Drain slots left without a transfer (R225). -/
def Ring.left (r : Ring) : Nat := if r.armed && !r.rearm && r.kind == 1 then (r.slots.filter (fun k => k.engine == .full)).length else 0

/-- What becomes of a ring when its token retires: disarmed, or waiting for a re-arm. -/
def Ring.retire (r : Ring) : Ring :=
  if !r.armed || r.rearm then r
  else if r.persist then
    { r.discard with rearm := true, halted := false, xfer := none
                     slots := r.slots.map (fun _ => Slot.init) }
  else { Ring.init with stall := r.stall }

/-- The rings at retirement (R225). -/
def Braid.retireRings (b : Braid) : Braid :=
  let left := (b.rings.map (fun e => e.2.left)).sum
  let b := { b with rings := b.rings.map (fun e => (e.1, e.2.retire)) }
  if left = 0 then b else b.countClamped left

/-- Transfers already started complete, or stop as their own rules state (R504). -/
def State.finishFills (s : State) (i : Nat) : State :=
  ((s.braid i).rings.map Prod.fst).foldl (fun s r =>
    let x := (s.braid i).ring r
    if x.armed && !x.rearm then (s.deferred i r).finishXfer i r else s) s

/-! ## The commands -/

def execSlotTransferStart (b : Bid) (r : Rid) (s : State) : Result := .next (s.slotStart b.toNat r.toNat)
def execSlotTransferDone (b : Bid) (r : Rid) (s : State) : Result := .next (s.slotFinish b.toNat r.toNat)
def execSlotCrossing (b : Bid) (r : Rid) (s : State) : Result := .next (s.braidStep b.toNat (·.cross r.toNat))
def execDescriptorBurstFetch (b : Bid) (r : Rid) (s : State) : Result := .next (s.burstFetch b.toNat r.toNat)
def execStreamResume (b : Bid) (r : Rid) (s : State) : Result := .next (s.streamResume b.toNat r.toNat)
def execAffinityHoldExpiry (b : Bid) (r : Rid) (s : State) : Result := .next (s.braidStep b.toNat (·.holdEnd r.toNat))
def execDeferredDmaAccess (b : Bid) (r : Rid) (s : State) : Result := .next (s.deferred b.toNat r.toNat)
def execSealClearingDone (b : Bid) (bank : BitVec 4) (s : State) : Result := .next ((s.braidStep b.toNat (·.clearDone bank.toNat)).noteStalls)

end Sys2Proof.Machine
end

