-- ==== Sys2Proof/Machine/Objects.lean ====
section
/-! DEFINITION. Objects.lean: chains, object headers, payloads and kernel images (R61–R73, R102–R105, R147–R149, R163, R227,
R551–R553). -/

namespace Sys2Proof.Machine

/-! ## Kernel descriptors (R102, R103) -/

/-- The descriptor checks of R553. -/
def kernelOk (d : BitVec 512) (keys : List (BitVec 32)) : Bool :=
  wf d 0 0 4 == 1 && wf d 0 4 4 == 0 && wf d 0 33 31 == 0 && wf d 3 48 16 == 0 && wf d 5 12 52 == 0 && wf d 6 0 64 == 0 &&
    wf d 7 0 32 == 0 && kRule d != 3 && kC d 7 == 0 && decide (1 ≤ kSentences d) && decide (kSentences d ≤ 4096) &&
    decide (kKeys d ≤ 4095) &&
    (List.range 8).all (fun n => if (kSlot d n).used then (kSlot d n).ty != 0 && (kSlot d n).case != 3 else wf d 2 (8 * n) 8 == 0) &&
    keys.all (fun k => fld k 28 4 == 0)

/-! ## Images (R97, R98, R104, R121) -/

/-- A LOOP of an image: its sentence, counter and END. -/
def loopsOf (ss : List (BitVec 512)) : List (Nat × Nat × Nat) :=
  (ss.zipIdx).filterMap (fun x =>
    let c := clauseOf x.1 1
    if !isNop x.1 1 && seqOp 1 c then some (x.2, fld c 55 2, fld c 28 12) else none)

/-- Every LOOP has its END at or after LOOP + 1, bodies nest, no LOOP in a body names the same counter, and no sentence lies in
more than four bodies (R104 step 4). -/
def loopsOk (ss : List (BitVec 512)) : Bool :=
  let ls := loopsOf ss
  ls.all (fun l => decide (l.1 + 1 ≤ l.2.2)) &&
    ls.all (fun l => ls.all (fun m => m.1 ≤ l.1 || l.2.2 < m.1 || (decide (m.2.2 ≤ l.2.2) && m.2.1 != l.2.1))) &&
    (List.range ss.length).all (fun i => decide ((ls.filter (fun l => decide (l.1 < i) && decide (i ≤ l.2.2))).length ≤ 4))

/-- Every branch, loop and END target lies below SENTENCES (R104 step 3). -/
def targetsOk (ss : List (BitVec 512)) : Bool :=
  ss.all (fun x =>
    let c := clauseOf x 1
    isNop x 1 || scalarTgt c || !(clauseOp 1 c == 1 || clauseOp 1 c == 3 || clauseOp 1 c == 4) || decide (fld c 28 12 < ss.length))

/-- The image checks of R104: those of R553, KCRC, the sentences, ENTRY and targets, the loops. -/
def imageOk (d : BitVec 512) (keys : List (BitVec 32)) (ss : List (BitVec 512)) (crc : Nat) : Bool :=
  kernelOk d keys && kCrc d == crc && ss.all (sentenceValid (kMode d)) && decide (kEntry d < kSentences d) && targetsOk ss && loopsOk ss

/-! ## The auxiliary area (R147–R149) -/

/-- The auxiliary area as loaded: programs, constant sets, the list fields, ACRC. -/
structure AuxD where
  progs  : List EProg
  consts : List W64
  list   : Nat
  listen : Bool
  addr   : Nat
  max    : Nat
  acrc   : BitVec 32

/-- A step of an element program is valid (R149). -/
def stepOk (kcount : Nat) (s : BitVec 32) : Bool :=
  let op := fld s 0 5
  let ring := bit s 5
  decide (1 ≤ op) && decide (op ≤ 0x10) && fld s 28 4 == 0 && !(op == 5 && ring) && !(decide (0x0A ≤ op) && decide (op ≤ 0x0E) && !ring) &&
    (if op = 0x0F then decide (fld s 25 3 < kcount) else fld s 25 3 == 0) &&
    (if op = 6 then decide (fld s 22 3 ≤ 5) else fld s 22 3 == 0)

/-- An element program at offset `off` of the area; none when it is invalid or lies beyond it. -/
def progAt (aux : List Byte) (off : Nat) : Option EProg :=
  let h := leAt aux off 8
  let n := h % 32 + 1
  let k := h / 256 % 16
  if aux.length < off + 8 + 8 * k + 4 * n ∨ h / 4096 ≠ 0 ∨ 8 < k then none
  else
    let cs := (List.range k).map (fun i => BitVec.ofNat 64 (leAt aux (off + 8 + 8 * i) 8))
    let st := (List.range n).map (fun i => BitVec.ofNat 32 (leAt aux (off + 8 + 8 * k + 4 * i) 4))
    let muls := (st.filter (fun s => [3, 4, 5].contains (fld s 0 5))).length
    if st.all (stepOk k) && decide (muls ≤ 1) then some { res := BitVec.ofNat 3 (h / 32), consts := cs, steps := st } else none

/-- The checks of R147 to R149 on an auxiliary area of bytes `aux`. -/
def auxOf (aux : List Byte) : Option AuxD :=
  let y := fun i => (aux.getD i 0).toNat
  let ep := leAt aux 2 2
  let sets := leAt aux 8 2
  let epoff := leAt aux 4 4
  let setoff := leAt aux 12 4
  let crc := crc32c (aux.take 60 ++ aux.drop 64)
  if aux.length < 64 ∨ y 0 ≠ 1 ∨ y 1 ≠ 0 ∨ leAt aux 10 2 ≠ 0 ∨ y 16 / 16 ≠ 0 ∨ leAt aux 17 3 ≠ 0 ∨ leAt aux 28 32 ≠ 0 ∨
      leAt aux 60 4 ≠ crc.toNat ∨ 256 < ep ∨ 1024 < sets ∨ aux.length < epoff + 4 * ep ∨ aux.length < setoff + 64 * sets ∨
      leAt aux 20 4 % 8 ≠ 0 then none
  else
    let ps := (List.range ep).map (fun p => progAt aux (leAt aux (epoff + 4 * p) 4))
    if ps.any Option.isNone then none
    else some
      { progs := ps.filterMap id, consts := (List.range (8 * sets)).map (fun i => BitVec.ofNat 64 (leAt aux (setoff + 8 * i) 8)),
        list := y 16 % 8, listen := y 16 / 8 % 2 == 1, addr := leAt aux 20 4, max := leAt aux 24 4, acrc := crc }

/-- No auxiliary area (R148). -/
def noAux : AuxD := { progs := [], consts := [], list := 0, listen := false, addr := 0, max := 0, acrc := 0 }

end Sys2Proof.Machine
end

