-- ==== Sys2Proof/Machine/Record.lean ====
section
/-! DEFINITION. Record.lean: the record die's writer, the stored entries and their bytes (R478, R506–R512). -/

namespace Sys2Proof.Machine

/-- The 124 bytes of an entry that its CRC covers (R507). -/
def BbxStored.head (x : BbxStored) : List Byte :=
  leBytes 8 x.seq.toNat ++ leBytes 8 x.entry.cycles.toNat ++ [x.entry.domain, x.entry.cls] ++ leBytes 2 x.entry.unit.toNat ++
    leBytes 2 x.entry.event.toNat ++ [x.entry.status, x.entry.ten.getD 0, if x.entry.ten.isSome then 1 else 0] ++
    List.replicate 7 0 ++ (List.range 11).flatMap (fun i => leBytes 8 (x.entry.args.getD i 0).toNat) ++ List.replicate 4 0

/-- A stored entry's 128 bytes. -/
def BbxStored.bytes (x : BbxStored) : List Byte := x.head ++ leBytes 4 (crc32c x.head).toNat

def ringSize : Nat := 131072

/-- Is an entry copied to the first-fault area (R511): class 3 or 4, or UNSERVICEABLE. -/
def BbxEntry.fatal (e : BbxEntry) : Bool := decide (3 ≤ e.cls.toNat) || e.event == 0x0071

/-- Store one entry: SEQ at acceptance, ring position SEQ mod 131,072, the first-fault copy or its overflow (R506, R510, R511). -/
def RecordDie.store (d : RecordDie) (e : BbxEntry) : RecordDie :=
  let x : BbxStored := { seq := d.nextSeq, entry := e }
  let d := { d with nextSeq := d.nextSeq + 1, ring := Sparse.set none d.ring (d.nextSeq.toNat % ringSize) (some x) }
  if e.fatal then
    if d.ffa.length < 256 then { d with ffa := d.ffa ++ [x] }
    else { d with ffaOver := BitVec.ofNat 16 (satAdd 16 d.ffaOver.toNat 1) }
  else d

/-- The entry that says how many entries were dropped (R509, R510). -/
def droppedEntry (n : BitVec 32) (cycles : W64) : BbxEntry :=
  { cycles := cycles, domain := 9, cls := 0, unit := 19, event := 0x0080, status := 0, ten := none, args := [n.setWidth 64] }

/-- The writer accepts and stores the entry at the front of the queue; a fatal entry that waits at its source takes the place, and once there
is room after drops a DROPPED entry is added (R510). A DEVICE_FATAL entry stored is what R505's step 6 waits for. -/
def State.storeNext (s : State) : State :=
  match s.bbx.queue with
  | [] => s
  | e :: tail =>
    let rest := tail ++ s.bbx.held.take 1
    let s := { s with die := s.die.store e, bbx := { s.bbx with queue := rest, held := s.bbx.held.drop 1 }
                      sys := if e.event = 0x0070 then { s.sys with safe := s.sys.safe.map (fun f => { f with entry := true }) }
                        else s.sys }
    let s : State := if s.bbx.late != 0 ∧ rest.length < 512 then
        let v := s.free
        { v.2 with bbx := { v.2.bbx with queue := v.2.bbx.queue ++ [droppedEntry v.2.bbx.late v.1], late := 0 } }
      else s
    s.bbxLevel

end Sys2Proof.Machine
end

