-- ==== Sys2Proof/Machine/Windows.lean ====
section
/-! DEFINITION. Windows.lean: bulk windows and sealed records (R373–R381, R387). -/

namespace Sys2Proof.Machine

/-- The hawser that holds a bulk port (R26). -/
def portHawser (p : Port) : Bool := match p with | .a => false | .b => true
def State.portAvail (s : State) (p : Port) : Bool := match p with | .a => s.cap.bulkA | .b => s.cap.bulkB
def portReadyBit (p : Port) : Rdy.B := match p with | .a => .bulkA | .b => .bulkB

/-- The port's window logic serves accesses: ready, and the module live (R482, R505). -/
def State.portServes (s : State) (p : Port) : Bool :=
  s.live && s.ready (portReadyBit p) && bit s.sys.cfgLoaded (portNum p + 1) && s.portAvail p

def Win.onPort (w : Win) (p : Port) : Bool := match p with | .a => w.portA | .b => w.portB

/-! ## Sealed records (R379) -/

def frameLen : Nat := 131136
def plainLen : Nat := 131072

/-- K_w: the first 32 bytes of SHA-512(K ‖ "KZW1" ‖ le64(OPENSEQ)). -/
def windowKey (k : BitVec 256) (openseq : W64) : BitVec 256 :=
  BitVec.ofNat 256 (leNat ((Crypto.sha512 (leBytes 32 k.toNat ++ [0x4B, 0x5A, 0x57, 0x31] ++ leBytes 8 openseq.toNat)).take 32))

/-- The additional authenticated data of record r. -/
def Win.aad (w : Win) (i r : Nat) : List Byte :=
  leBytes 2 i ++ leBytes 2 w.gen.toNat ++ [w.ten, if w.dir then 1 else 0, 0, 0] ++ leBytes 8 r ++
    leBytes 8 (w.tva.toNat + plainLen * r)

/-- A record that is discarded: counted, logged and raised to the owning function (R378, R380); cause 0 tag, 1 incomplete; its unit is
the hawser of the port (R507). -/
def State.discardRecord (s : State) (hw : Bool) (i r cause : Nat) : State :=
  let w := s.win i
  let s := s.setWin i { w with authFail := BitVec.ofNat 16 (satAdd 16 w.authFail.toNat 1), last := Status.recordAuthFail }
  (s.log Dom.fabric 2 (hNum hw) 0x41 Status.recordAuthFail (some w.ten) [BitVec.ofNat 64 i, BitVec.ofNat 64 r, BitVec.ofNat 64 cause]).raise
    (0x120 + (s.ten w.ten).fn.toNat)

/-! ## Writes through a window -/

/-- A write accepted by an open-case window or a verified record: pieces whose page is not backed, or migrates,
are held in order (R255), as is one that the mirror engine's read of its granules holds up (R525). -/
def State.winWrite (s : State) (i : Nat) (hw : Bool) (n : Tid) (tva : Nat) (data : List Byte) : State :=
  (cutPages (data.length / 2 ^ 21 + 2) tva data).foldl (fun s c =>
    let hold := fun (s : State) => { s with held := s.held ++
      [{ slot := i, ten := n, tva := BitVec.ofNat 48 c.1, data := c.2, hawser := hw }] }
    if s.held.any (fun h => h.ten == n && pageOf h.tva.toNat == pageOf c.1) || (s.pte n (pageOf c.1)).state == .migrating then hold s
    else
      let gs := (granulesOf c.1 c.2.length).map (· / 4096)
      let m := s.mirrorReads n gs
      if m.2 then hold m.1
      else
      let r := m.1.writePage n hw c.1 c.2
      match r.2 with
      | .ok => r.1.modWin i (fun w =>
          { w with wrote := gs.foldl (fun w g => w.add g) w.wrote, ctls := r.1.ctlsOf n gs w.ctls })
      | _ => hold r.1) s

/-- Held writes go on, in order, where their page now takes them; a page that still has no backing is asked for again. -/
def State.runHeld (s : State) : State :=
  let hs := s.held
  hs.foldl (fun s h => s.winWrite h.slot h.hawser h.ten h.tva.toNat h.data) { s with held := [] }

/-! ## Close and drain (R376, R378) -/

/-- Buffers of a slot on a port. -/
def bufsOf (p : PortSt) (i : Nat) : List RecBuf := p.bufs.filter (fun b => b.slot == i)

/-- A close takes effect: CLOSED, the next generation, K_w zeroed, incomplete frames discarded. -/
def State.closeWin (s : State) (i : Nat) : State :=
  let w := s.win i
  if w.st != .open_ then s
  else
    let s := ([.a, .b] : List Port).foldl (fun s p =>
      ((bufsOf (s.port p) i).filter (fun b => !b.out)).foldl (fun s b => s.discardRecord (portHawser p) i b.frame 1) s) s
    let drop := fun (p : PortSt) => { p with bufs := p.bufs.filter (fun b => b.slot != i) }
    let s := (s.modPort .a drop).modPort .b drop
    s.modWin i (fun w => { w with st := .closed, gen := w.gen + 1, key := 0, lateGen := 0 })

/-- The drain of a slot may end: no accepted write is held any more. -/
def State.drainReady (s : State) (i : Nat) : Bool := (s.win i).st == .draining && !(s.held.any (fun h => h.slot == i))

/-- A fence of controllers: every entry open there is written to the devices (R272, R274). -/
def State.fence (s : State) (ctls : NatSet) : State := s.flushWhere (fun e => ctls.has (lineSet e.line))

/-- The drain completes: the fence passes, the slot is FREE, the command completes with the closed generation's late writes. -/
def State.drainDone (s : State) (i : Nat) : State :=
  let s := if s.held.any (fun h => h.slot == i) then s.runHeld else s
  let w := s.win i
  if !s.drainReady i then s
  else
    let s := s.fence w.ctls
    let s := s.setWin i { Win.init with gen := w.gen, records := w.records, authFail := w.authFail, rejected := w.rejected,
                                        last := w.last, lateLog := w.lateLog, ten := w.ten }
    match w.drainTok with
    | none => s
    | some e =>
      (s.modTok e (fun t => { t with wrote := w.wrote, ctls := w.ctls })).finish e (Comp.okv 0 w.lateGen.toNat)

/-! ## The commands -/

/-- WIN_OPEN (R373). -/
def State.winOpenCmd (s : State) (t : Token) : State :=
  let i := t.body 0 2
  let dir := t.bodyBit 2 0
  let sealed := t.bodyBit 2 1
  let pa := t.bodyBit 2 2
  let pb := t.bodyBit 2 3
  let keyref := t.body 6 1
  let tva := t.body 8 8
  let len := t.body 16 4
  let n := t.ten
  let bytes := 4096 * len
  let key := Sparse.get none (s.ten n).winKeys keyref
  let fail := fun (st : Byte) (d : Nat) => s.finish t.id (Comp.ofStatus st d)
  if 1023 < i ∨ (!pa ∧ !pb) ∨ (pa ∧ !s.cap.bulkA) ∨ (pb ∧ !s.cap.bulkB) ∨ tva % 4096 ≠ 0 ∨ len = 0 ∨ 262144 < len ∨
      2 ^ 48 < tva + bytes ∨ (sealed ∧ (tva % 131072 ≠ 0 ∨ len % 32 ≠ 0 ∨ 131072 < len ∨ 15 < keyref)) then
    fail Status.aborted 0x09
  else if (s.win i).st != .free then fail Status.aborted 0x0A
  else if inCtx tva bytes ∨ s.anyUnmapped n tva bytes then fail Status.pageUnmapped 0
  else if (pagesOf tva bytes).any (fun p => (s.pte n p).sealed != sealed) then fail Status.caseViolation 0
  else if sealed ∧ key.isNone then fail Status.aborted 0x0A
  else
    let s := { s with openseq := s.openseq + 1 }
    let w := s.win i
    let s := s.setWin i
      { w with st := .open_, dir := dir, sealed := sealed, portA := pa, portB := pb, riden := t.bodyBit 2 4,
               rid := BitVec.ofNat 16 (t.body 4 2), keyref := BitVec.ofNat 8 keyref, ten := n, tva := BitVec.ofNat 48 tva,
               length := BitVec.ofNat 32 len, openseq := s.openseq, enc := 0, last := 0, wrote := [], ctls := [], drainTok := none,
               key := if sealed then windowKey (key.getD 0) s.openseq else 0 }
    s.finish t.id (Comp.okv w.gen.toNat s.openseq.toNat)

/-- The slot a WIN_CLOSE or WIN_DRAIN names is the tenancy's and in the given state. -/
def State.winNamed (s : State) (t : Token) (st : WinSt) : Bool :=
  decide (t.body 0 2 < 1024) && (s.win (t.body 0 2)).st == st && (s.win (t.body 0 2)).ten == t.ten

/-- WIN_CLOSE. -/
def State.winCloseCmd (s : State) (t : Token) : State :=
  let i := t.body 0 2
  if 1023 < i then s.finish t.id (Comp.aborted 0x09)
  else if !s.winNamed t .open_ then s.finish t.id (Comp.aborted 0x0A)
  else
    let s := s.closeWin i
    s.finish t.id (Comp.okv (s.win i).gen.toNat 0)

/-- WIN_DRAIN: the drain starts; its completion comes with WIN_DRAIN_DONE. -/
def State.winDrainCmd (s : State) (t : Token) : State :=
  let i := t.body 0 2
  if 1023 < i then s.finish t.id (Comp.aborted 0x09)
  else if !s.winNamed t .closed then s.finish t.id (Comp.aborted 0x0A)
  else s.modWin i (fun w => { w with st := .draining, drainTok := some t.id })

def execWinOpen (e : Nat) (s : State) : Result := .next (s.startCmd e (selOp 0x28) State.winOpenCmd)
def execWinClose (e : Nat) (s : State) : Result := .next (s.startCmd e (selOp 0x29) State.winCloseCmd)
def execWinDrain (e : Nat) (s : State) : Result := .next (s.startCmd e (selOp 0x2A) State.winDrainCmd)
def execWinDrainDone (i : BitVec 10) (s : State) : Result := .next (if s.live then s.drainDone i.toNat else s)

/-! ## BAR2 accesses (R374, R375) -/

/-- Is the access in range of the open window. -/
def Win.inRange (w : Win) (o len : Nat) : Bool :=
  if w.sealed then decide (o / 2 ^ 18 < w.length.toNat / 32) && decide (o % 2 ^ 18 + len ≤ frameLen)
  else decide (o + len ≤ 4096 * w.length.toNat)

/-- Does an open window take the access. -/
def Win.takes (w : Win) (p : Port) (dir : Bool) (o len : Nat) (rid : BitVec 16) : Bool :=
  w.onPort p && w.dir == dir && w.inRange o len && (!w.riden || rid == w.rid)

/-- A frame's authentication has ended: its plaintext is written, or it is discarded (R380). -/
def State.frameEnd (s : State) (i r : Nat) (hw : Bool) (pt : Option (List Byte)) : State :=
  let w := s.win i
  match pt with
  | some p => (s.modWin i (fun w => { w with records := w.records + 1 })).winWrite i hw w.ten (w.tva.toNat + plainLen * r) p
  | none => s.discardRecord hw i r 0

/-- What a whole frame opens to under the window's key. -/
def Win.openFrame (w : Win) (i r : Nat) (bytes : Sparse (Option Byte)) : Option (List Byte) :=
  let f := (List.range frameLen).map (fun k => (Sparse.get none bytes k).getD 0)
  Crypto.gcmOpen (leBytes 32 w.key.toNat) ((f.drop 131072).take 12) (w.aad i r) (f.take plainLen) ((f.drop 131088).take 16)

/-- A complete inbound frame is verified: the plaintext is written and counted, or the frame is discarded (R380). -/
def State.frameComplete (s : State) (i r : Nat) (hw : Bool) (bytes : Sparse (Option Byte)) : State :=
  s.frameEnd i r hw ((s.win i).openFrame i r bytes)

/-- An accepted write to a sealed window: into the frame's buffer; with no buffer free the port withholds credits and the write
has not reached the decoder (R380). -/
def State.sealedWrite (s : State) (p : Port) (i o : Nat) (data : List Byte) : State :=
  let r := o / 2 ^ 18
  let mine := fun (b : RecBuf) => b.slot == i && b.frame == r && !b.out
  let ps := s.port p
  if !(ps.bufs.any mine) && decide (128 ≤ ps.bufs.length) then s
  else
    let old : Sparse (Option Byte) := match ps.bufs.find? mine with | some b => b.bytes | none => []
    let bytes := (data.zipIdx).foldl (fun m x => Sparse.set none m (o % 2 ^ 18 + x.2) (some x.1)) old
    let rest := ps.bufs.filter (fun b => !mine b)
    if bytes.length = frameLen then
      (s.setPort p { ps with bufs := rest }).frameComplete i r (portHawser p) bytes
    else s.setPort p { ps with bufs := rest ++ [{ slot := i, frame := r, out := false, bytes := bytes, image := [], poison := [] }] }

/-- One more late write on a hawser's port for a tenancy and a generation. -/
def lateCount (ls : List LateLog) (n : Tid) (gen : BitVec 16) (hw : Bool) : List LateLog :=
  match ls.getLast? with
  | some l => if l.ten = n ∧ l.gen = gen ∧ l.hawser = hw then ls.dropLast ++ [{ l with count := l.count + 1 }]
    else ls ++ [{ ten := n, gen := gen, count := 1, hawser := hw }]
  | none => [{ ten := n, gen := gen, count := 1, hawser := hw }]

/-- BAR2_WRITE: a TLP of at most Max Payload Size, 512 bytes (R352). -/
def State.bar2Write (s : State) (p : Port) (off : Nat) (rid : BitVec 16) (data : List Byte) : State :=
  let i := off / 2 ^ 30
  let o := off % 2 ^ 30
  let w := s.win i
  if !s.portServes p || data.isEmpty || decide ((s.portCaps (pciePort p)).maxPayload < data.length) then s
  else match w.st with
  | .open_ =>
    if w.takes p false o data.length rid then
      if w.sealed then s.sealedWrite p i o data else s.winWrite i (portHawser p) w.ten (w.tva.toNat + o) data
    else s.setWin i { w with rejected := BitVec.ofNat 16 (satAdd 16 w.rejected.toNat 1) }
  | .free => s.modPort p (fun x => { x with stray := BitVec.ofNat 32 (satAdd 32 x.stray.toNat 1) })
  | _ =>
    (s.setWin i { w with lateGen := w.lateGen + 1, lateLog := lateCount w.lateLog w.ten w.gen (portHawser p) }).modTen w.ten (fun t =>
      { t with late := BitVec.ofNat 32 (satAdd 32 t.late.toNat 1) })

/-- The image of an outbound record under encryption count c (R379, R381). -/
def Win.encrypt (w : Win) (i r : Nat) (pt : List Byte) : List Byte :=
  let iv := leBytes 4 r ++ leBytes 8 w.enc.toNat
  let x := Crypto.gcmSeal (leBytes 32 w.key.toNat) iv (w.aad i r) pt
  x.1 ++ iv ++ List.replicate 4 0 ++ x.2 ++ List.replicate 32 0

/-- A completion of a read; a poisoned one is counted (R375). -/
def State.readDone (s : State) (p : Port) (data : List Byte) (poison : Bool) : State :=
  let s := s.emit (.barData data poison)
  if poison then s.modPort p (fun x => { x with poisoned := BitVec.ofNat 16 (satAdd 16 x.poisoned.toNat 1) }) else s

/-- Room for one more buffer: the least recently used outbound one is evicted (R381). -/
def evict (bufs : List RecBuf) : List RecBuf :=
  if bufs.length < 128 then bufs
  else match bufs.find? (fun b => b.out) with
  | some b => bufs.erase b
  | none => bufs

/-- Frame bytes of the ciphertext whose granule of plaintext was poisoned (R375). -/
def frameBad (bad : NatSet) (a len : Nat) : Bool := bad.any (fun k => decide (4096 * k < a + len) && decide (a < 4096 * (k + 1)))

/-- A read of a sealed outbound window, from a buffer of the port (R381): EP where it covers a poisoned granule (R375). -/
def State.sealedServe (s : State) (p : Port) (b : RecBuf) (bufs : List RecBuf) (a len : Nat) : State :=
  let s := s.modPort p (fun x => { x with bufs := if a + len = frameLen then bufs else bufs ++ [b] })
  s.readDone p (slice b.image a len) (frameBad b.poison a len)

/-- A read of a sealed outbound window (R381). -/
def State.sealedRead (s : State) (p : Port) (i o len : Nat) : State :=
  let r := o / 2 ^ 18
  let a := o % 2 ^ 18
  let mine := fun (b : RecBuf) => b.slot == i && b.frame == r && b.out
  let ps := s.port p
  match ps.bufs.find? mine with
  | some b => s.sealedServe p b (ps.bufs.filter (fun b => !mine b)) a len
  | none =>
    let bufs := evict ps.bufs
    if 128 ≤ bufs.length then s
    else
      let w := s.win i
      let rd := s.readMem w.ten (w.tva.toNat + plainLen * r) plainLen
      let bad := (List.range 32).filter (fun k => rd.1.poisonedTva w.ten (w.tva.toNat + plainLen * r + 4096 * k))
      let s := rd.1.modWin i (fun w => { w with enc := w.enc + 1, records := w.records + 1 })
      s.sealedServe p { slot := i, frame := r, out := true, bytes := [], image := w.encrypt i r rd.2.1, poison := bad } bufs a len

/-- BAR2_READ. A Completer Abort is an error for AER. -/
def State.bar2Read (s : State) (p : Port) (off : Nat) (rid : BitVec 16) (len : Nat) : State :=
  let i := off / 2 ^ 30
  let o := off % 2 ^ 30
  let w := s.win i
  if !s.pins.powered || len = 0 then s
  else if s.portServes p && w.st == .open_ && w.takes p true o len rid then
    if w.sealed then s.sealedRead p i o len
    else
      let rd := s.readMem w.ten (w.tva.toNat + o) len
      rd.1.readDone p rd.2.1 rd.2.2
  else (s.emit .barAbort).aer (pciePort p)

def execBar2Write (p : Port) (off : BitVec 40) (rid : BitVec 16) (data : List Byte) (s : State) : Result :=
  .next (s.bar2Write p off.toNat rid data)

def execBar2Read (p : Port) (off : BitVec 40) (rid : BitVec 16) (len : BitVec 13) (s : State) : Result :=
  .next (s.bar2Read p off.toNat rid len.toNat)

/-- SEALED_FRAME_TIMEOUT: an inbound frame without a write for 2^24 fabric cycles is discarded (R380). -/
def State.frameTimeout (s : State) (p : Port) (i r : Nat) : State :=
  let mine := fun (b : RecBuf) => b.slot == i && b.frame == r && !b.out
  if (s.port p).bufs.any mine then
    (s.modPort p (fun x => { x with bufs := x.bufs.filter (fun b => !mine b) })).discardRecord (portHawser p) i r 1
  else s

def execSealedFrameTimeout (p : Port) (i : BitVec 10) (r : BitVec 12) (s : State) : Result :=
  .next (if s.live then s.frameTimeout p i.toNat r.toNat else s)

/-- LATE_WRITE_LOG (R377): the oldest late writes of a slot that are not logged yet, with the tenancy and the generation they were late
for. -/
def State.lateWriteLog (s : State) (i : Nat) : State :=
  let w := s.win i
  match w.lateLog with
  | [] => s
  | l :: ls =>
    (s.setWin i { w with lateLog := ls }).log Dom.fabric 0 (hNum l.hawser) 0x40 Status.windowClosed (some l.ten)
      [BitVec.ofNat 64 i, l.gen.setWidth 64, l.count.setWidth 64]

def execLateWriteLog (i : BitVec 10) (s : State) : Result := .next (if s.live then s.lateWriteLog i.toNat else s)

end Sys2Proof.Machine
end

