-- ==== Sys2Proof/Machine/Fatal.lean ====
section
/-! DEFINITION. Fatal.lean: keys zeroed, the device-fatal safe state, the unserviceable module and thermal alerts (R487, R501, R505,
R544, R545, R547). -/

namespace Sys2Proof.Machine

/-! ## Keys -/

/-- The hawsers zero every inline-encryption key slot. -/
def State.zeroXts (s : State) : State := { s with tens := Sparse.mapAll Ten.init s.tens (fun _ t => { t with xts := none }) }

/-- The security core zeroes window keys, migration keys and channel keys. -/
def State.zeroClientKeys (s : State) : State :=
  { s with tens := Sparse.mapAll Ten.init s.tens (fun _ t => { t with winKeys := [], migKeys := [], chan := none })
           wins := Sparse.mapAll Win.init s.wins (fun _ w => { w with key := 0 }) }

/-! ## Levels -/

/-- FAULT# is asserted in the safe state and while the module is not serviceable (R547). -/
def State.setFault (s : State) (on : Bool) : State := { s with pins := { s.pins with fault := on } }

/-- The module is not serviceable: RDY holds only MGMT and SEC, FAULT# is asserted, and the failing unit goes to the black box
(R487). -/
def State.unservice (s : State) (unit result : W64) : State :=
  if s.sys.unserv then s
  else
    let keep : BitVec 17 := s.rdy.bits &&& 6
    let s := ({ s with sys := { s.sys with unserv := true }, rdy := { s.rdy with bits := keep, braids := 0 } }.setFault true)
    s.log Dom.security 0 cleatDie 0x71 0 none [unit, result]

/-! ## The safe state (R505) -/

/-- The status of a DEVICE_FATAL entry: an uncorrectable error for cause 2 of R501's list, INTERNAL otherwise (R503). -/
def fatalStatus (cause : Nat) : Byte := if cause = 2 then Status.eccUncorrected else Status.internal

/-- Both conditions of step 6 hold: the entry is written and the notice acknowledged; the security core asks for the package
reset. -/
def State.safeOver (s : State) : State :=
  match s.sys.safe with
  | some f => if f.entry && f.acked then { s with sys := { s.sys with resetReq := some 3 } } else s
  | none => s

/-- Steps 1 to 5 of R505. A condition that recurs before BIST_DONE leaves the module not serviceable instead. The notice needs no
acknowledgement when no partner is paired. -/
def State.enterSafe (s : State) (cause : Nat) (unit : Nat) : State :=
  if !s.pins.powered || s.sys.safe.isSome || s.sys.unserv then s
  else
    let again := s.sys.lastFatal == some (BitVec.ofNat 8 cause)
    let s := ((s.setFault true).zeroXts.zeroClientKeys).setLevel 0x3F0 true
    let s := s.log Dom.security 4 cleatDie 0x70 (fatalStatus cause) none [BitVec.ofNat 64 cause, BitVec.ofNat 64 unit]
    if again then s.unservice (BitVec.ofNat 64 unit) 3
    else
      let up := decide (s.bel.state = 3)
      let s := if up then s.emit (.notice 0 0) else s
      { s with sys := { s.sys with safe := some { cause := BitVec.ofNat 8 cause, unit := BitVec.ofNat 16 unit,
                                                  entry := !s.bbxAvail, acked := !up } } }.safeOver

/-- DEVICE_FATAL_CONDITION: a cause of R501's list, counting from 1. -/
def execDeviceFatalCondition (cause : BitVec 8) (unit : BitVec 16) (s : State) : Result :=
  .next (if 1 ≤ cause.toNat ∧ cause.toNat ≤ 5 then s.enterSafe cause.toNat unit.toNat else s)

/-- SAFE_STATE_TIMEOUT. -/
def execSafeStateTimeout (s : State) : Result :=
  .next (if s.pins.powered && s.sys.safe.isSome then { s with sys := { s.sys with resetReq := some 3 } } else s)

/-- FATAL_NOTICE_ACKNOWLEDGED. -/
def execFatalNoticeAcknowledged (s : State) : Result :=
  .next (match s.sys.safe with
    | some f => if s.pins.powered then { s with sys := { s.sys with safe := some { f with acked := true } } }.safeOver else s
    | none => s)

/-- BLACK_BOX_STORE: the writer accepts the next entry. A stored DEVICE_FATAL entry is what step 6 of R505 waits for. The record die
stores also after the input is lost when an entry has been started (R31); an entry is stored whole here (log 25). -/
def execBlackBoxStore (s : State) : Result := .next (if s.bbxAvail then s.storeNext.safeOver else s)

/-- RECORD_WRITER_WATCHDOG (R478): with entries waiting and no progress, the writer first finishes the entry it has started, the one
at the front (log 25), and is reset; the sources resend every entry not acknowledged, which is the rest of the queue in its
order, and a resent entry gets its number when it is accepted. -/
def execRecordWriterWatchdog (s : State) : Result := .next (if s.bbxAvail then s.storeNext.safeOver else s)

/-! ## Thermal alert (R544) -/

/-- The hottest memory device at the last readings. -/
def State.memTemp (s : State) : Nat :=
  (s.mem.tiers.map (fun e => e.2.temp.toNat)).foldl Nat.max 0

/-- THERM_ALERT#, PWR.THERM.ALERT and the level source 0x350 follow the three conditions together. -/
def State.thermal (s : State) : State :=
  let on := decide (100 ≤ s.pwr.die.toNat) || decide (95 ≤ s.memTemp) || s.pwr.hold
  { s with pins := { s.pins with thermAlert := on }, pwr := { s.pwr with alert := on } }.setLevel 0x350 on

end Sys2Proof.Machine
end

