-- ==== Sys2Proof/Machine/Pages.lean ====
section
/-! DEFINITION. Pages.lean: the page commands MAP, ALLOC, FREE, UNMAP and PIN (R39, R254, R266, R341, R370–R372). -/

namespace Sys2Proof.Machine

/-! ## The range of a page command -/

def Token.pgTva (t : Token) : Nat := t.body 0 8
def Token.pgCount (t : Token) : Nat := t.body 8 4
def Token.pgFirst (t : Token) : Nat := t.pgTva / 2 ^ 21
/-- Pages of the range, in TVA order. -/
def Token.pgList (t : Token) : List Nat := (List.range t.pgCount).map (fun i => t.pgFirst + i)

/-- TVA a multiple of 2 MiB, PAGES at least 1, the end within 2^48 (R372). -/
def Token.pgRange (t : Token) : Bool :=
  t.pgTva % 2 ^ 21 == 0 && decide (1 ≤ t.pgCount) && decide (t.pgTva + 2 ^ 21 * t.pgCount ≤ 2 ^ 48)

/-- Does the range name a part of the context area (R341, R370). -/
def Token.pgCtx (t : Token) : Bool := inCtx t.pgTva (2 ^ 21 * t.pgCount)

/-- The changes of pages that a record carries (R523); none for a tenancy without one. -/
def State.pageChanges (s : State) (n : Tid) (ps : List Nat) : List TableChange :=
  if (s.ten n).mirrored then
    ps.map (fun k =>
      let p := s.pte n k
      .page (BitVec.ofNat 27 k) (p.state != .unmapped) p.backed p.sealed p.pref p.home p.homeft p.pin p.bulk)
  else []

/-- End a page command that changed `k` pages. -/
def State.pgEnd (s : State) (t : Token) (status : Byte) (detail k : Nat) : State :=
  s.finishWith t.id { status := status, detail := BitVec.ofNat 8 detail, position := 0, value := BitVec.ofNat 64 k }
    (s.pageChanges t.ten t.pgList)

/-- Run a page command whose range is right. -/
def State.pgCheck (s : State) (t : Token) (k : State) : State :=
  if !t.pgRange then s.pgEnd t Status.aborted 0x09 0
  else if t.pgCtx then s.pgEnd t Status.pageUnmapped 0 0
  else k

/-! ## MAP -/

/-- MAP, atomic: a page of the range already mapped refuses it (R254, R372). -/
def State.mapCmd (s : State) (t : Token) : State :=
  s.pgCheck t
    (let n := t.ten
     if t.pgList.any (fun k => (s.pte n k).state != .unmapped) then s.pgEnd t Status.aborted 0x0A 0
     else
       let p : Pte := { Pte.init with state := .mapped, sealed := t.bodyBit 12 0, pref := t.bodyBit 12 1, home := t.bodyBit 12 2,
                                      pin := t.bodyBit 12 3, homeft := t.bodyBit 12 4 }
       (t.pgList.foldl (fun s k => s.setPte n k p) s).pgEnd t Status.ok 0 t.pgCount)

def execMap (e : Nat) (s : State) : Result := .next (s.startCmd e (selOp 0x20) State.mapCmd)

/-! ## ALLOC -/

/-- Back the last `k` pages of the range, in TVA order (R372): a page in work is waited for, with the place in the range kept in
POSITION, the pages backed in VALUE, and in DETAIL whether the backing is the command's own, until the command completes. -/
def State.allocGo (s : State) (t : Token) (done : Nat) : Nat → State
  | 0 => s.pgEnd t Status.ok 0 done
  | k + 1 =>
    let n := t.ten
    let page := t.pgFirst + (t.pgCount - (k + 1))
    let p := s.pte n page
    let bulk := t.bodyBit 12 0
    let home := t.bodyBit 12 1
    let hold := fun (s : State) (mine : Bool) => s.modTok t.id (fun u => { u with comp :=
      { u.comp with detail := if mine then 1 else 0, position := BitVec.ofNat 32 (t.pgCount - (k + 1)), value := BitVec.ofNat 64 done } })
    if p.state == .unmapped then s.pgEnd t Status.pageUnmapped 0 done
    else if p.backed then s.allocGo t done k
    else if s.mem.backing.any (fun b => b.ten == n && b.page == page) then hold s false
    else if !s.tierOpen bulk then s.pgEnd t Status.aborted 0x0A done
    else if ((s.ten n).book bulk).avail == 0 || !s.tierHasFrame bulk then s.pgEnd t Status.quotaExceeded 0 done
    else
      hold (s.startBacking n page home bulk home (some t.id)) true

/-- ALLOC: an absent tier is out of range, one that is offline or not ready in the wrong state. -/
def State.allocCmd (s : State) (t : Token) : State :=
  s.pgCheck t
    (let bulk := t.bodyBit 12 0
     if !s.tierFitted bulk then s.pgEnd t Status.aborted 0x09 0
     else if !s.tierOpen bulk then s.pgEnd t Status.aborted 0x0A 0
     else s.allocGo t 0 t.pgCount)

def execAlloc (e : Nat) (s : State) : Result := .next (s.startCmd e (selOp 0x21) State.allocCmd)

/-- Is the entry an ALLOC command in work. -/
def Token.allocating (t : Token) : Bool := !t.kernel && t.started && t.st == .issued && cmdOpcode t.cmd == 0x21

/-- An ALLOC command in work goes on where it waits, unless its backing still goes on; a page that it has had backed counts. -/
def State.allocOn (s : State) (t : Token) : State :=
  let page := t.pgFirst + t.comp.position.toNat
  if s.mem.backing.any (fun b => b.ten == t.ten && b.page == page) then s
  else
    let own := if t.comp.detail = 1 ∧ (s.pte t.ten page).backed then 1 else 0
    s.allocGo t (t.comp.value.toNat + own) (t.pgCount - t.comp.position.toNat)

/-- ALLOC commands of a tenancy in work go on. -/
def State.allocAll (s : State) (n : Tid) : State :=
  (s.sch.pool.filter (fun t => t.allocating && t.ten == n)).foldl State.allocOn s

/-! ## FREE, UNMAP and PIN -/

/-- FREE: every backed page of the range is freed; windows may lie over it. -/
def State.freeCmd (s : State) (t : Token) : State :=
  s.pgCheck t
    (let n := t.ten
     if t.pgList.any (fun k => (s.pte n k).state == .unmapped) then s.pgEnd t Status.pageUnmapped 0 0
     else
       let ps := t.pgList.filter (fun k => (s.pte n k).backed)
       ((ps.foldl (fun s k => s.freePage n k) s).pgEnd t Status.ok 0 ps.length).runHeld)

def execFree (e : Nat) (s : State) : Result := .next (s.startCmd e (selOp 0x22) State.freeCmd)

/-- Does a window that is not FREE lie over a page of the range. -/
def State.windowOver (s : State) (n : Tid) (tva len : Nat) : Bool :=
  s.wins.any (fun e => e.2.st != .free && e.2.ten == n &&
    decide (e.2.tva.toNat / 2 ^ 21 * 2 ^ 21 < tva + len) && decide (tva < e.2.tva.toNat + 4096 * e.2.length.toNat))

/-- UNMAP, atomic. An ALLOC command that waits for a page of the range fails there (R372). -/
def State.unmapCmd (s : State) (t : Token) : State :=
  s.pgCheck t
    (let n := t.ten
     if t.pgList.any (fun k => (s.pte n k).state == .unmapped) then s.pgEnd t Status.pageUnmapped 0 0
     else if s.windowOver n t.pgTva (2 ^ 21 * t.pgCount) then s.pgEnd t Status.aborted 0x0A 0
     else ((t.pgList.foldl (fun s k => s.unmapPage n k) s).pgEnd t Status.ok 0 t.pgCount).allocAll n)

def execUnmap (e : Nat) (s : State) : Result := .next (s.startCmd e (selOp 0x23) State.unmapCmd)

/-- Pin or unpin the pages given, in order (R266): a page whose PIN already has the value is not changed. -/
def State.pinGo (s : State) (t : Token) (done : Nat) : List Nat → State
  | [] => s.pgEnd t Status.ok 0 done
  | k :: ks =>
    let n := t.ten
    let p := s.pte n k
    let on := t.bodyBit 12 0
    if p.pin == on then s.pinGo t done ks
    else if on && p.backed && p.bulk && ((s.ten n).book false).avail == 0 then s.pgEnd t Status.quotaExceeded 0 done
    else (s.setPte n k { p with pin := on }).pinGo t (done + 1) ks

/-- PIN. -/
def State.pinCmd (s : State) (t : Token) : State :=
  s.pgCheck t
    (if t.pgList.any (fun k => (s.pte t.ten k).state == .unmapped) then s.pgEnd t Status.pageUnmapped 0 0
     else s.pinGo t 0 t.pgList)

def execPin (e : Nat) (s : State) : Result := .next (s.startCmd e (selOp 0x24) State.pinCmd)

end Sys2Proof.Machine
end

