-- ==== Sys2Proof/Machine/PagerRows.lean ====
section
/-! DEFINITION. PagerRows.lean: backing, scrubs, migrations, write combining, temperature, margining and wipes (R246–R286). -/

namespace Sys2Proof.Machine

def tierBulk (t : Tier) : Bool := match t with | .ring => false | .bulk => true
def hawserNo (h : Hawser) : Bool := match h with | .h0 => false | .h1 => true

/-! ## Backing and scrubs (R256, R257, R260) -/

/-- A page that now takes writes: held window writes and halted streams go on. -/
def State.pageReady (s : State) (n : Tid) (page : Nat) : State := (s.runHeld).pageResident n page

/-- PAGE_BACKING_DONE. -/
def State.backingDone (s : State) (n : Tid) (page : Nat) : State :=
  match s.mem.backing.find? (fun b => b.ten == n && b.page == page && b.place.isSome) with
  | none => s
  | some b => ((s.finishBacking b).allocAll n).pageReady n page

def execPageBackingDone (n : Tid) (page : BitVec 27) (s : State) : Result :=
  .next (if s.live then s.backingDone n page.toNat else s)

/-- The backings of a tier that wait for a frame, oldest first. -/
def State.waiters (s : State) (bulk : Bool) : List Backing := s.mem.backing.filter (fun b => b.bulk == bulk && b.place.isNone)

/-- A backing that waits takes a frame where its tier has one (R257). -/
def State.serve (s : State) (b : Backing) : State :=
  match s.placePage b.ten b.page b.bulk (b.homeFor (s.pte b.ten b.page)) with
  | none => s
  | some r =>
    { r.2 with mem := { r.2.mem with backing := r.2.mem.backing.map (fun x =>
        if x.ten = b.ten ∧ x.page = b.page then { x with place := some (r.1.1, r.1.2.1, r.1.2.2) } else x) } }

/-- A waiting backing of a tier that now has no frame free or in SCRUBBING, or takes no page, is given up: an ALLOC command fails, and
whoever first touched the page touches it again, which backs it in the other tier or fails (R257, R258, R278). -/
def State.giveUp (s : State) (b : Backing) : State := ((s.dropBacking b.ten b.page).allocAll b.ten).pageReady b.ten b.page

/-- The waiting backings of a tier: the oldest takes a frame; when the tier can serve no more, the rest are given up. -/
def State.serveWaiting (s : State) (bulk : Bool) : State :=
  let s := match s.waiters bulk with
    | b :: _ => if s.tierOpen bulk then s.serve b else s
    | [] => s
  if s.tierOpen bulk && s.tierHasFrame bulk then s else (s.waiters bulk).foldl State.giveUp s

/-- A frame's scrub ends: the frame joins its free list, and reads as zero. -/
def State.scrubDone (s : State) (id : Nat) : State :=
  match s.frameUse id with
  | some (.scrubbing n) => ((s.scrubFrame n id).setUse id none).serveWaiting (idBulk id)
  | _ => s

/-! ## Starting a migration (R264, R265, R267, R270) -/

def State.migsOn (s : State) (h : Bool) : Nat := (s.mem.migs.filter (fun m => m.pager == hNum h)).length

/-- No page is promoted or demoted on DLS-KZ8 (R265). -/
def State.migrates (s : State) : Bool := s.fuses.part != .kz8

/-- The hawser whose list gives the destination: the page's home, or the other when the home's list is empty (R40). -/
def State.destHawser (s : State) (bulk home : Bool) : Bool := if 0 < s.freeFrames bulk home then home else !home

/-- Take a destination frame and start the migration of a backed page. -/
def State.startMig (s : State) (n : Tid) (page : Nat) (kind : MigKind) (bulk h : Bool) : State :=
  let p := s.pte n page
  match s.takeFrame bulk h (.reserved n page) with
  | none => s
  | some r =>
    let s := if h != p.home ∧ kind != .home then r.2.modTier bulk h (fun t => { t with far := t.far + 1 }) else r.2
    let s := s.setPte n page { s.pte n page with state := .migrating, dbulk := bulk, dhawser := h, dset := BitVec.ofNat 4 r.1.1,
                                                 dframe := BitVec.ofNat 16 r.1.2 }
    { s with mem := { s.mem with migs := s.mem.migs ++
        [{ ten := n, page := page, pager := hNum p.hawser, kind := kind, passes := 0, work := [], dirty := [], blocked := false,
           clean := false }] } }

/-- Is the page one that is to be promoted: pinned, or a candidate of the epoch (R264, R266). -/
def State.promotable (s : State) (n : Tid) (page : Nat) : Bool :=
  let p := s.pte n page
  p.state == .backed && p.bulk && (p.pin || (s.pager p.hawser).cand.has (pageKey n page))

/-- PROMOTION_START. -/
def State.promote (s : State) (n : Tid) (page : Nat) : State :=
  let p := s.pte n page
  let h := s.destHawser false p.home
  if s.live && s.migrates && s.promotable n page && decide (1 ≤ ((s.ten n).book false).avail) && s.tierOpen false &&
      (p.pin || decide ((s.pager h).lowWater.toNat < s.freeFrames false h)) && decide (s.migsOn p.hawser < 4) then
    s.startMig n page .promote false h
  else s

def execPromotionStart (n : Tid) (page : BitVec 27) (s : State) : Result := .next (s.promote n page.toNat)

/-- One frame of the demotion clock. -/
def State.sweepFrame (s : State) (h : Bool) (id : Nat) : State :=
  let s := s.modPager h (fun p => { p with sweep := id + 1 })
  match s.frameUse id with
  | some (.allocated n page) =>
    let p := s.pte n page
    if p.state != .backed then s
    else if p.ref then s.setPte n page { p with ref := false }
    else if p.pin || ((s.ten n).book true).avail == 0 || !s.tierOpen true then s
    else s.startMig n page .demote true (s.destHawser true p.home)
  | _ => s

/-- The sweep over frames, until FREE has reached LOW_WATER or four migrations are active. -/
def State.sweepGo (h : Bool) : List Nat → State → State
  | [], s => s
  | id :: ids, s =>
    if (s.pager h).lowWater.toNat ≤ s.freeFrames false h ∨ 4 ≤ s.migsOn h then s else State.sweepGo h ids (s.sweepFrame h id)

/-- DEMOTION_SWEEP: once round the hawser's ring-tier frames in use, from where the clock stands. -/
def State.sweep (s : State) (h : Bool) : State :=
  if s.live && s.migrates then
    let ids := (s.mem.use.filter (fun e => e.1 / 2 ^ 20 == tierKey false h)).map Prod.fst
    let at' := (s.pager h).sweep
    State.sweepGo h (ids.filter (fun i => decide (at' ≤ i)) ++ ids.filter (fun i => decide (i < at'))) s
  else s

def execDemotionSweep (h : Hawser) (s : State) : Result := .next (s.sweep (hawserNo h))

/-- HOME_MIGRATION_START. -/
def State.goHome (s : State) (n : Tid) (page : Nat) : State :=
  let p := s.pte n page
  if s.live && p.state == .backed && p.hawser != p.home && !p.homeft && s.tierOpen p.bulk &&
      decide ((s.pager p.home).lowWater.toNat < s.freeFrames p.bulk p.home) && decide (s.migsOn p.hawser < 4) then
    s.startMig n page .home p.bulk p.home
  else s

def execHomeMigrationStart (n : Tid) (page : BitVec 27) (s : State) : Result := .next (s.goHome n page.toNat)

/-! ## Copying and committing (R267–R269) -/

/-- MIGRATION_PASS_END: dirty granules are copied by a further pass, with writes blocked once four passes after pass 1 have ended
dirty; without one the page's write-combining entries are fenced. A fence during which a granule became dirty is followed by a further
pass and counts as none (R267, R268). -/
def State.passEnd (s : State) (n : Tid) (page : Nat) : State :=
  match s.mig n page with
  | none => s
  | some m =>
    if m.clean then
      if m.dirty.isEmpty then s
      else s.modMig n page (fun m => { m with work := m.dirty, dirty := [], clean := false })
    else
      let s := if m.passes = 0 then s.readPage n page else s
      if m.dirty.isEmpty then
        let id := (s.pte n page).id
        (s.flushWhere (fun e => e.line / 2 ^ 15 == id)).modMig n page (fun m =>
          { m with clean := true, work := [], passes := Nat.max 1 m.passes })
      else
        let k := m.passes + 1
        let block := decide (5 ≤ k) && !m.blocked
        let s := s.modMig n page (fun m => { m with passes := k, work := m.dirty, dirty := [], clean := false
                                                    blocked := m.blocked || block })
        if block then s.modPager (m.pager != 0) (fun p => { p with blocked := BitVec.ofNat 16 (satAdd 16 p.blocked.toNat 1) }) else s

def execMigrationPassEnd (n : Tid) (page : BitVec 27) (s : State) : Result :=
  .next (if s.live then s.passEnd n page.toNat else s)

/-- MIGRATION_COMMIT: the fence found nothing dirty. A migration that ended before, for the module's own firmware, lets the writers
that waited go on (log 22). -/
def State.migCommit (s : State) (n : Tid) (page : Nat) : State :=
  match s.mig n page with
  | none => if s.live && (s.pte n page).state == .backed then s.pageReady n page else s
  | some m => if s.live && m.clean && m.dirty.isEmpty then (s.endMig n page m).pageReady n page else s

def execMigrationCommit (n : Tid) (page : BitVec 27) (s : State) : Result := .next (s.migCommit n page.toNat)

/-- PAGER_EPOCH_END: every count is halved and the candidates of the epoch are dropped (R263, R264). -/
def Pager.epochEnd (p : Pager) : Pager :=
  { p with counts := Sparse.mapAll (0, 0) p.counts (fun _ e => (e.1, e.2 / 2)), cand := [] }

def execPagerEpochEnd (h : Hawser) (s : State) : Result := .next (if s.live then s.modPager (hawserNo h) Pager.epochEnd else s)

/-! ## Write combining by age (R272) -/

/-- WC_AGE_FLUSH: the oldest entry of a line is flushed. -/
def State.ageFlush (s : State) (line : Nat) : State :=
  match s.mem.wc.find? (fun e => e.line == line) with
  | none => s
  | some e =>
    let id := line / 2 ^ 15
    (State.flushEntry { s with mem := { s.mem with wc := s.mem.wc.erase e } } e).modTier (idBulk id) (idHawser id) (fun t =>
      { t with aged := t.aged + 1 })

def execWcAgeFlush (line : Nat) (s : State) : Result := .next (if s.live then s.ageFlush line else s)

/-! ## Temperature (R277, R544, R545) -/

/-- The refresh rate from the rate in force and the temperature: 0 1×, 1 2×, 2 4×. -/
def refreshRate (r : Nat) (t : Nat) : Nat :=
  if 95 ≤ t then 2
  else if r = 2 ∧ 92 ≤ t then 2
  else if 85 ≤ t then 1
  else if 1 ≤ r ∧ 82 ≤ t then 1 else 0

/-- Where a set stands in the numbering of R493 and R509. -/
def setPlace (bulk hawser : Bool) (set : Nat) : Nat := 24 * (if bulk then 1 else 0) + 12 * hNum hawser + set

/-- MEM_TEMP_READ. -/
def State.tempRead (s : State) (bulk h : Bool) (set : Nat) (t : Byte) : State :=
  if !(s.live && (s.setsOf bulk h).contains set) then s
  else
    let s := s.modTier bulk h (fun x =>
      let temps := Sparse.set 0 x.temps set t
      { x with temps := temps, temp := temps.foldl (fun m e => if m.toNat < e.2.toNat then e.2 else m) 0
               rates := Sparse.set 0 x.rates set (BitVec.ofNat 2 (refreshRate (Sparse.get 0 x.rates set).toNat t.toNat)) })
    let s := { s with pwr := { s.pwr with mem := BitVec.ofNat 8 s.memTemp } }.thermal
    if 105 ≤ t.toNat then s.enterSafe 5 (setPlace bulk h set) else s

def execMemTempRead (m : SetId) (temp : BitVec 8) (s : State) : Result :=
  .next (s.tempRead (tierBulk m.tier) (hawserNo m.hawser) m.set.toNat temp)

/-! ## Offline tiers, training and wipes (R248, R278, R279, R284) -/

/-- Has a tenancy a backed page in the tier on either hawser. -/
def State.tierUsed (s : State) (bulk : Bool) : Bool :=
  [false, true].any (fun h => decide (0 < s.inUse bulk h (fun u => match u with | .allocated _ _ => true | _ => false)))

/-- Migrations into a tier that goes offline abort, and writers that they blocked go on (R278, log 110). -/
def State.abortInto (s : State) (bulk : Bool) : State :=
  (s.mem.migs.filter (fun m => (s.pte m.ten m.page).dbulk == bulk)).foldl (fun s m =>
    (s.abortMig m.ten m.page m).pageReady m.ten m.page) s

/-- TIER_OFFLINE_SET, by the PF. -/
def State.offlineSet (s : State) (f : Fn) (bulk h : Bool) : State :=
  if s.live && f == 0 && s.tierFitted bulk && !s.tierUsed bulk then
    ((s.modTier bulk h (fun t => { t with offline := true })).abortInto bulk).serveWaiting bulk
  else s

/-- Every fitted set has been trained: the tier's wipe starts. -/
def TierSt.wipeIfTrained (t : TierSt) (fitted : Nat) : TierSt :=
  if (List.range fitted).all (fun i => bit t.trained i) then { t with wiping := true } else t

/-- TIER_OFFLINE_CLEAR: the margined sets are to be trained again, and the tier wiped; it is not ready meanwhile. -/
def State.offlineClear (s : State) (f : Fn) (bulk h : Bool) : State :=
  let t := s.tier bulk h
  if s.live && f == 0 && t.offline then
    (s.setTier bulk h
      ({ t with offline := false, ready := false, trained := t.trained &&& ~~~t.margined, sets := t.sets &&& ~~~t.margined
                margined := 0 }.wipeIfTrained (fittedSets s.fuses.part bulk))).setReady (State.tierBit bulk h) false
  else s

def execTierOfflineSet (f : Fn) (t : Tier) (h : Hawser) (s : State) : Result := .next (s.offlineSet f (tierBulk t) (hawserNo h))
def execTierOfflineClear (f : Fn) (t : Tier) (h : Hawser) (s : State) : Result := .next (s.offlineClear f (tierBulk t) (hawserNo h))

/-- The hawser and cleat units have been tested, so training runs (R480 step 6). -/
def State.unitsTested (s : State) : Bool := (List.range 25).all (fun i => (s.unit (64 + i)).result != 0)

/-- Every set of every ring tier has been trained and none passed (R250, R487). -/
def State.noRing (s : State) : Bool :=
  [false, true].all (fun h => (List.range (fittedSets s.fuses.part false)).all (fun i => bit (s.tier false h).trained i) &&
    (s.setsOf false h).isEmpty)

/-- MEMORY_TRAINING_DONE: a set that passes is in service, one that fails is held out and raises its source. -/
def State.trained (s : State) (bulk h : Bool) (set : Nat) (ok : Bool) : State :=
  let t := s.tier bulk h
  let fitted := fittedSets s.fuses.part bulk
  if !(s.live && !s.sys.unserv && s.unitsTested && decide (set < fitted) && !bit t.trained set) then s
  else
    let m : BitVec 12 := BitVec.ofNat 12 (2 ^ set)
    let s := s.setTier bulk h ({ t with trained := t.trained ||| m, sets := if ok then t.sets ||| m else t.sets }.wipeIfTrained fitted)
    let s := if ok then s else s.raise (0x300 + setPlace bulk h set)
    if s.noRing then
      let v := s.free
      v.2.unservice v.1 3
    else s

def execMemoryTrainingDone (m : SetId) (ok : Bool) (s : State) : Result :=
  .next (s.trained (tierBulk m.tier) (hawserNo m.hawser) m.set.toNat ok)

/-- RING_DONE and BULK_DONE of LCS.WIPE (R423). -/
def State.wipeFlags (s : State) : State :=
  let both := fun (b : Bool) => (s.tier b false).ready && (s.tier b true).ready
  { s with lcs := { s.lcs with ring := both false, bulk := both true || !s.tierFitted true } }

/-- TIER_WIPE_DONE: every frame of the tier has been written with zero, which the links count, the hawser's poison table is clear, the tier is
ready. -/
def State.wipeDone (s : State) (bulk h : Bool) : State :=
  let t := s.tier bulk h
  if !(s.live && !s.sys.unserv && t.wiping) then s
  else
    let mine := fun (a : Nat) => a / 2 ^ 41 == tierKey bulk h
    let s := (s.retryGrans (fun id => id / 2 ^ 20 == tierKey bulk h)).foldl (fun s g =>
      let v := s.free; v.2.transferGran none g none v.1 true) s
    let s := { s with mem := { s.mem with
      cells := Sparse.dropKeys s.mem.cells mine
      use := Sparse.dropKeys s.mem.use (fun id => id / 2 ^ 20 == tierKey bulk h)
      wc := s.mem.wc.filter (fun e => !mine (e.line * 64))
      poison := Sparse.dropKeys s.mem.poison (fun g => idHawser (g / 512) == h)
      bad := s.mem.bad.filter (fun g => !mine (g * 4096))
      soft := Sparse.dropKeys s.mem.soft (fun g => mine (g * 4096)) } }
    ((s.modTier bulk h (fun t => { t with wiping := false, ready := true })).setReady (State.tierBit bulk h) true).wipeFlags

def execTierWipeDone (t : Tier) (h : Hawser) (s : State) : Result := .next (s.wipeDone (tierBulk t) (hawserNo h))

/-! ## Margining (R278, R279, R286) -/

/-- MARGIN_GO: a write of MEM.MARGIN_CTL by the PF. With GO the measurement starts, or is refused. -/
def State.marginGo (s : State) (f : Fn) (v : W64) : State :=
  if !(s.live && f == 0) then s
  else
    let go := bit s.mem.margin 63
    let keep := put 0 20 (fld v 0 20)
    let bulk := bit v 0
    let h := bit v 1
    let set := fld v 2 4
    if !bit v 63 || go then { s with mem := { s.mem with margin := keep ||| putB 63 go } }
    else if !(s.tier bulk h).offline || !(s.setsOf bulk h).contains set then
      { s with mem := { s.mem with margin := keep, mDone := true, mRefuse := true } }
    else
      { s with mem := { s.mem with margin := keep ||| putB 63 true, mDone := false, mRefuse := false } }.modTier bulk h (fun t =>
        { t with margined := t.margined ||| BitVec.ofNat 12 (2 ^ set) })

def execMarginGo (f : Fn) (v : W64) (s : State) : Result := .next (s.marginGo f v)

/-- MARGIN_DONE: the errors counted are a free value (log 7). -/
def execMarginDone (s : State) : Result :=
  .next (if s.live && bit s.mem.margin 63 then
      let v := s.free
      { v.2 with mem := { v.2.mem with margin := put 0 20 (fld v.2.mem.margin 0 20), mErrors := v.1.setWidth 32, mDone := true } }
    else s)

end Sys2Proof.Machine
end

