-- ==== Sys2Proof/Machine/Curves.lean ====
section
/-! DEFINITION. Curves.lean: elliptic curves in short Weierstrass form (R433, R434, R441, R442), and ECDSA. -/

namespace Sys2Proof.Machine

open Sys2Proof.Arith

/-- A point: none is the point at infinity. -/
abbrev Pt := Option (Nat × Nat)

/-- P-384 of SP 800-186 (PRESUMED, log 17): the curve of entry 0. -/
def p384 : Curve :=
  let p := 2 ^ 384 - 2 ^ 128 - 2 ^ 96 + 2 ^ 32 - 1
  { pw := 6, nw := 6, h := 1, p := p, a := p - 3
    b := 0xb3312fa7e23ee7e4988e056be3f82d19181d9c6efe8141120314088f5013875ac656398d8a2ed19d2a85c8edd3ec2aef
    gx := 0xaa87ca22be8b05378eb1c71ef320ad746e1d3b628ba79b9859f741e082542a385502f25dbf55296c3a545e3872760ab7
    gy := 0x3617de4a96262c6f5d9e98bf9292dc29f8f41dbd289a147ce9da3113b5f0b8c00a60b1ce1d7e819d7a431d7c90ea0e5f
    n := 0xffffffffffffffffffffffffffffffffffffffffffffffffc7634d81f4372ddf581a0db248b0a77aecec196accc52973 }

def Curve.g (c : Curve) : Pt := some (c.gx, c.gy)

/-- y² = x³ + a·x + b mod p; infinity passes (R433). -/
def Curve.has (c : Curve) : Pt → Bool
  | none => true
  | some (x, y) => decide (y * y % c.p = (x * x * x + c.a * x + c.b) % c.p)

/-- Coordinates below p. -/
def Curve.inRange (c : Curve) : Pt → Bool
  | none => true
  | some (x, y) => decide (x < c.p) && decide (y < c.p)

/-- The point on the chord or tangent of slope `l`. -/
def Curve.slope (c : Curve) (l x1 y1 x2 : Nat) : Pt :=
  let x := (l * l + 2 * c.p - x1 % c.p - x2 % c.p) % c.p
  some (x, (l * (x1 % c.p + c.p - x) + c.p - y1 % c.p) % c.p)

/-- Doubling (R434). -/
def Curve.dbl (c : Curve) : Pt → Pt
  | none => none
  | some (x, y) => if y % c.p = 0 then none else c.slope ((3 * x * x + c.a) * (invMod (2 * y % c.p) c.p).getD 0 % c.p) x y x

/-- Addition (R434). -/
def Curve.add (c : Curve) : Pt → Pt → Pt
  | none, q => q
  | some p, none => some p
  | some (x1, y1), some (x2, y2) =>
    if x1 % c.p = x2 % c.p then (if (y1 + y2) % c.p = 0 then none else c.dbl (some (x1, y1)))
    else c.slope ((y2 + c.p - y1 % c.p) * (invMod ((x2 + c.p - x1 % c.p) % c.p) c.p).getD 0 % c.p) x1 y1 x2

/-- Scalar multiplication over `bits` bits from the top. -/
def Curve.mulAux (c : Curve) (k : Nat) (p : Pt) : Nat → Pt → Pt
  | 0, acc => acc
  | i + 1, acc =>
    let d := c.dbl acc
    Curve.mulAux c k p i (if k.testBit i then c.add d p else d)
def Curve.mul (c : Curve) (k : Nat) (p : Pt) : Pt := c.mulAux k p (bitlen k) none

def ptX : Pt → Nat | none => 0 | some (x, _) => x

/-- Miller–Rabin to the given bases. -/
def mrBases (q : Nat) (bases : List Nat) : Bool := bases.all (mrBase q)

/-- ECDSA verification of (r, s) over integer `e` (FIPS 186-5). -/
def Curve.ecVerify (c : Curve) (q : Pt) (e r s : Nat) : Bool :=
  if r = 0 ∨ s = 0 ∨ c.n ≤ r ∨ c.n ≤ s then false
  else
    match invMod s c.n with
    | none => false
    | some i =>
      match c.add (c.mul (e * i % c.n) c.g) (c.mul (r * i % c.n) q) with
      | none => false
      | some (x, _) => x % c.n == r

/-- The integer ECDSA takes from a 512-bit digest: its leftmost bits, as many as n has (FIPS 186-5). -/
def Curve.hashInt (c : Curve) (h : List Byte) : Nat :=
  if bitlen c.n < 512 then beNat h / 2 ^ (512 - bitlen c.n) else beNat h

/-- The curve parameter block: the CURVE_LOAD buffer from byte 1 (R441). -/
def Curve.block (c : Curve) : List Byte :=
  [BitVec.ofNat 8 c.pw, BitVec.ofNat 8 c.nw, BitVec.ofNat 8 c.h] ++ List.replicate 12 0 ++ leBytes (8 * c.pw) c.p ++
    leBytes (8 * c.pw) c.a ++ leBytes (8 * c.pw) c.b ++ leBytes (8 * c.pw) c.gx ++ leBytes (8 * c.pw) c.gy ++
    leBytes (8 * c.nw) c.n

/-- A curve from a CURVE_LOAD buffer (R441). -/
def curveOf (buf : List Byte) : Curve :=
  let pw := leAt buf 1 1
  let nw := leAt buf 2 1
  let at_ := fun k => leAt buf (16 + 8 * pw * k) (8 * pw)
  { pw := pw, nw := nw, h := leAt buf 3 1, p := at_ 0, a := at_ 1, b := at_ 2, gx := at_ 3, gy := at_ 4,
    n := leAt buf (16 + 40 * pw) (8 * nw) }

/-- Embedding degree above 100 (R442). -/
def embedOk (p n : Nat) : Nat → Nat → Bool
  | 0, _ => true
  | k + 1, x => decide (x % n ≠ 1) && embedOk p n k (x * p % n)

/-- The first failing check of CURVE_LOAD, or none (R442); `bp` and `bn` are the drawn Miller–Rabin bases. -/
def curveFail (entry : Nat) (loaded clean : Bool) (c : Curve) (bp bn : List Nat) : Option Nat :=
  let d : Int := (c.p : Int) + 1 - (c.h * c.n : Nat)
  if entry = 0 ∨ 7 < entry ∨ loaded ∨ c.pw = 0 ∨ 16 < c.pw ∨ c.nw = 0 ∨ c.pw + 1 < c.nw ∨ c.h = 0 ∨ 8 < c.h ∨ !clean then some 0x01
  else if c.p % 2 = 0 ∨ c.p ≤ 3 ∨ c.p < 2 ^ (64 * (c.pw - 1)) then some 0x02
  else if !mrBases c.p bp then some 0x03
  else if c.p ≤ c.a ∨ c.p ≤ c.b ∨ c.p ≤ c.gx ∨ c.p ≤ c.gy then some 0x04
  else if (4 * c.a * c.a * c.a + 27 * c.b * c.b) % c.p = 0 then some 0x05
  else if !c.has c.g then some 0x06
  else if c.n % 2 = 0 ∨ c.n ≤ 2 ^ 64 ∨ !mrBases c.n bn then some 0x07
  else if d * d > 4 * (c.p : Int) then some 0x08
  else if (c.mul c.n c.g).isSome then some 0x09
  else if !embedOk c.p c.n 100 (c.p % c.n) then some 0x0A
  else none

end Sys2Proof.Machine
end

