-- ==== Sys2Proof/Machine/Pke.lean ====
section
/-! DEFINITION. Pke.lean: the public-key engine: slots, checks, operations, times, order of service, aborts (R424–R449). -/

namespace Sys2Proof.Machine

open Sys2Proof.Arith

/-! ## Slots (R424-R426, R437) -/

def State.slot (s : State) (i : Nat) : Option PkeSlot := Sparse.get none s.pke.slots i
def State.setSlot (s : State) (i : Nat) (x : Option PkeSlot) : State :=
  { s with pke := { s.pke with slots := Sparse.set none s.pke.slots i x } }

/-- A binding ends on both slots (R437). -/
def State.unbind (s : State) (i : Nat) : State :=
  match s.slot i with
  | some x =>
    (match x.bound with
     | some b =>
       let s := s.setSlot i (some { x with bound := none })
       (match s.slot b.peer with
        | some y => s.setSlot b.peer (some { y with bound := none })
        | none => s)
     | none => s)
  | none => s

/-- An operation writes a slot: value cut to its width, case, INF; a binding ends. -/
def State.putSlot (s : State) (i v : Nat) (sealed inf : Bool) : State :=
  let s := s.unbind i
  match s.slot i with
  | some x => s.setSlot i (some { x with val := BitVec.ofNat 8192 (v % 2 ^ (64 * x.width)), sealed := sealed, inf := inf })
  | none => s

/-- FREE of a slot: zeroed, every attribute clear (R426). -/
def State.freeSlot (s : State) (i : Nat) : State := (s.unbind i).setSlot i none

/-- Slots of a tenancy. -/
def State.slotsOf (s : State) (n : Tid) : List Nat :=
  (s.pke.slots.filter (fun e => match e.2 with | some x => x.ten == n | none => false)).map Prod.fst

/-- Curve entry; entry 0 is P-384 (R441). -/
def State.curve (s : State) (i : Nat) : Option Curve := if i = 0 then some p384 else Sparse.get none s.pke.curves i

/-! ## The command's fields (R429) -/

def Token.pOp (t : Token) : Nat := t.body 0 1
def Token.pDst (t : Token) : Nat := t.body 1 1
def Token.pA (t : Token) : Nat := t.body 2 1
def Token.pB (t : Token) : Nat := t.body 3 1
def Token.pM (t : Token) : Nat := t.body 4 1
def Token.pE (t : Token) : Nat := t.body 5 1
def Token.pTva (t : Token) : Nat := t.body 8 8
def Token.pKeyrec (t : Token) : Bool := t.bodyBit 6 0

/-- The slots an operation names, DST first, with DST + 1 for a key record. -/
def pkeDst (t : Token) : List Nat :=
  if [0x02, 0x03, 0x07, 0x10, 0x11, 0x12, 0x13, 0x14, 0x15, 0x20, 0x21, 0x22, 0x24].contains t.pOp then [t.pDst]
  else if t.pOp = 0x05 then (if t.pKeyrec then [t.pDst, t.pDst + 1] else [t.pDst])
  else []

def pkeSrc (t : Token) : List Nat :=
  match t.pOp with
  | 0x04 => [t.pA]
  | 0x06 => [t.pA]
  | 0x07 => [t.pM]
  | 0x10 => [t.pA, t.pB, t.pM]
  | 0x11 => [t.pA, t.pB, t.pM]
  | 0x12 => [t.pA, t.pB, t.pM]
  | 0x13 => [t.pA, t.pM]
  | 0x14 => [t.pA, t.pM, t.pE]
  | 0x15 => [t.pA, t.pB]
  | 0x20 => [t.pA, t.pB]
  | 0x21 => [t.pA]
  | 0x22 => if t.pB = 0xFF then [t.pA] else [t.pA, t.pB]
  | 0x23 => [t.pA]
  | 0x24 => [t.pA, t.pB]
  | _ => []

def isModular (op : Nat) : Bool := op == 0x07 || (0x10 ≤ op && op ≤ 0x14)
def isCurveOp (op : Nat) : Bool := 0x20 ≤ op && op ≤ 0x23

def State.width (s : State) (i : Nat) : Nat := match s.slot i with | some x => x.width | none => 0
def State.val (s : State) (i : Nat) : Nat := match s.slot i with | some x => x.val.toNat | none => 0
def State.slotSealed (s : State) (i : Nat) : Bool := match s.slot i with | some x => x.sealed | none => false
def State.bindOf (s : State) (i : Nat) : Option Bind := match s.slot i with | some x => x.bound | none => none

/-- The curve an operation works on: entry M, or the binding's for ECSIGN. -/
def State.pkeCurve (s : State) (t : Token) : Option Curve :=
  if t.pOp = 0x24 then (match s.bindOf t.pB with | some b => s.curve b.curve | none => none)
  else if t.pM < 8 then s.curve t.pM else none

/-- Do the widths meet the table of R430. MSIGN's modulus n belongs to the pair that B is a half of, the public half a word longer (R438);
without a pair there is no n, and the check of R431 for one decides. -/
def State.pkeWidths (s : State) (t : Token) : Bool :=
  let w := s.width t.pM
  match t.pOp with
  | 0x03 => cmdHlen t.cmd == 8 * s.width t.pDst
  | 0x04 => cmdHlen t.cmd == 8 * s.width t.pA
  | 0x07 => s.width t.pDst == w
  | 0x10 => s.width t.pA == w && s.width t.pB == w && s.width t.pDst == w
  | 0x11 => s.width t.pA == w && s.width t.pB == w && s.width t.pDst == w
  | 0x12 => s.width t.pA == w && s.width t.pB == w && s.width t.pDst == w
  | 0x13 => s.width t.pA == w && s.width t.pDst == w
  | 0x14 => s.width t.pA == w && s.width t.pDst == w
  | 0x15 =>
    match s.bindOf t.pB with
    | some b =>
      let n := if b.priv then s.width t.pB else s.width t.pB - 1
      !b.rsa || (s.width t.pA == n && s.width t.pDst == n)
    | none => true
  | _ =>
    match s.pkeCurve t with
    | none => true
    | some c =>
      (match t.pOp with
       | 0x20 => s.width t.pA == 2 * c.pw && s.width t.pB == 2 * c.pw && s.width t.pDst == 2 * c.pw
       | 0x21 => s.width t.pA == 2 * c.pw && s.width t.pDst == 2 * c.pw
       | 0x22 => s.width t.pA == c.nw && (t.pB == 0xFF || s.width t.pB == 2 * c.pw) && s.width t.pDst == 2 * c.pw
       | 0x23 => s.width t.pA == 2 * c.pw
       | 0x24 => s.width t.pA == c.nw && s.width t.pDst == 2 * c.nw
       | _ => true)

/-- The pages an IMPORT or EXPORT touches. -/
def State.pkeLen (s : State) (t : Token) : Nat :=
  if t.pOp = 0x06 then 8 * s.width t.pA
  else if t.pKeyrec then 80 + 8 * s.width t.pDst + 8 * s.width (t.pDst + 1) else 8 * s.width t.pDst

/-- Binding of an MSIGN or ECSIGN pair: B is the private half of the right kind (R431). -/
def State.pkePair (s : State) (t : Token) (rsa : Bool) : Bool :=
  match s.bindOf t.pB with | some b => b.priv && b.rsa == rsa | none => false

/-- The checks before execution, in order (R431): none, or status and detail. An entry of M above 7 is out of range (R370, R429). -/
def State.pkeCheck (s : State) (t : Token) : Option (Byte × Nat) :=
  let n := t.ten
  let named := pkeDst t ++ pkeSrc t
  let op := t.pOp
  let transfer := op = 0x05 ∨ op = 0x06
  if named.any (fun i => decide (i < 4)) then some (Status.aborted, 0x03)
  else if (isCurveOp op ∨ op = 0x31) ∧ 7 < t.pM then some (Status.aborted, 0x09)
  else if named.any (fun i => match s.slot i with | some x => x.ten != n | none => true) then some (Status.aborted, 0x0A)
  else if op = 0x01 ∧ t.pDst < 4 then some (Status.aborted, 0x03)
  else if op = 0x01 ∧ (31 < t.pDst ∨ t.body 16 2 = 0 ∨ 128 < t.body 16 2) then some (Status.aborted, 0x09)
  else if op = 0x01 ∧ (s.slot t.pDst).isSome then some (Status.aborted, 0x0A)
  else if op = 0x01 ∧ 4 ≤ (s.slotsOf n).length then some (Status.quotaExceeded, 0)
  else if (op = 0x03 ∨ op = 0x04) ∧ !s.pkeWidths t then some (Status.aborted, 0x06)
  else if transfer ∧ (t.pTva % 8 ≠ 0 ∨ 2 ^ 48 < t.pTva + s.pkeLen t) then some (Status.aborted, 0x09)
  else if transfer ∧ (inCtx t.pTva (s.pkeLen t) ∨ s.anyUnmapped n t.pTva (s.pkeLen t)) then some (Status.pageUnmapped, 0)
  else if !s.pkeWidths t then some (Status.aborted, 0x09)
  else if isModular op ∧ s.slotSealed t.pM then some (Status.caseViolation, 0)
  else if op = 0x04 ∧ s.slotSealed t.pA then some (Status.caseViolation, 0)
  else if op = 0x06 ∧ s.slotSealed t.pA ∧ !s.allSealedPage n t.pTva (s.pkeLen t) then some (Status.caseViolation, 0)
  else if op = 0x05 ∧ t.pKeyrec ∧ !s.allSealedPage n t.pTva (s.pkeLen t) then some (Status.caseViolation, 0)
  else if op = 0x15 ∧ !s.pkePair t true then some (Status.aborted, 0x0A)
  else if op = 0x24 ∧ !s.pkePair t false then some (Status.aborted, 0x0A)
  else if (isCurveOp op ∨ op = 0x24) ∧ (s.pkeCurve t).isNone then some (Status.aborted, 0x0A)
  else if (op = 0x07 ∨ op = 0x15 ∨ op = 0x24 ∨ op = 0x30) ∧ !s.drbgOk then some (Status.aborted, 0x0A)
  else none

/-! ## Times (R444) -/

def tAdd (w : Nat) : Nat := 2 * w + 8
def tMul (w : Nat) : Nat := (w * w + 3) / 4 + 2 * w + 8
def tInv (w : Nat) : Nat := 128 * w * (w + 2) + 16
def tExp (w we : Nat) : Nat := (80 * we + 16) * tMul w
def tChk (wp : Nat) : Nat := 4 * tMul wp + 3 * tAdd wp
def tPmul (wp wn : Nat) : Nat := tChk wp + 64 * wn * (25 * tMul wp + 18 * tAdd wp) + tInv wp + 2 * tMul wp
def tPadd (wp : Nat) : Nat := 2 * tChk wp + 16 * tMul wp + 10 * tAdd wp + tInv wp
def tPdbl (wp : Nat) : Nat := tChk wp + 13 * tMul wp + 8 * tAdd wp + tInv wp

/-- Time of an operation: none where the spec gives no number (a curve load or release). -/
def State.pkeTime (s : State) (t : Token) : Option Nat :=
  let w := s.width t.pM
  match t.pOp with
  | 0x01 => some (t.body 16 2 + 8)
  | 0x02 => some (s.width t.pDst + 8)
  | 0x03 => some (s.width t.pDst + 8 + Config.pkeTransfer (cmdHlen t.cmd))
  | 0x04 => some (s.width t.pA + 8 + Config.pkeTransfer (cmdHlen t.cmd))
  | 0x05 => some (s.width t.pDst + 8 + Config.pkeTransfer (s.pkeLen t))
  | 0x06 => some (s.width t.pA + 8 + Config.pkeTransfer (s.pkeLen t))
  | 0x07 => some (2 * tMul w + 2 * w + 64)
  | 0x10 => some (tAdd w)
  | 0x11 => some (tAdd w)
  | 0x12 => some (3 * tMul w)
  | 0x13 => some (tInv w)
  | 0x14 => some (tExp w (s.width t.pE))
  | 0x15 => some (tExp (s.width t.pB) (s.width t.pB) + tExp (s.width t.pB) 1 + s.width t.pB + 8)
  | _ =>
    match s.pkeCurve t with
    | none => none
    | some c =>
      (match t.pOp with
       | 0x20 => some (tPadd c.pw)
       | 0x21 => some (tPdbl c.pw)
       | 0x22 => some (tPmul c.pw c.nw)
       | 0x23 => some (tChk c.pw + 16)
       | 0x24 => some (3 * tPmul c.pw c.nw + tPadd c.pw + 2 * tInv c.nw + 6 * tMul c.nw + 2 * tAdd c.nw + 8)
       | _ => none)

/-! ## Results -/

/-- What an operation ends with: status, detail, an early end's time. -/
structure PkeEnd where
  status : Byte
  detail : Nat
  early  : Option Nat

def PkeEnd.ok : PkeEnd := { status := Status.ok, detail := 0, early := none }
def PkeEnd.of (st : Byte) : PkeEnd := { status := st, detail := 0, early := none }

/-- The point in a slot: x in the low w_p words, y in the high ones (R430). -/
def State.point (s : State) (c : Curve) (i : Nat) : Pt :=
  if i = 0xFF then c.g
  else match s.slot i with
  | none => none
  | some x => if x.inf then none else some (x.val.toNat % 2 ^ (64 * c.pw), x.val.toNat / 2 ^ (64 * c.pw) % 2 ^ (64 * c.pw))

/-- Write a point: infinity sets INF with zero coordinates (R434). -/
def State.putPoint (s : State) (c : Curve) (i : Nat) (p : Pt) (sealed : Bool) : State :=
  match p with
  | none => s.putSlot i 0 sealed true
  | some (x, y) => s.putSlot i (x + y * 2 ^ (64 * c.pw)) sealed false

/-- A modular operation: the modulus odd and at least 3, every source but an exponent below it, else OPERAND_RANGE with a zero
result (R432). -/
def State.pkeModular (s : State) (t : Token) (srcs : List Nat) (f : Nat → Option Nat) : State × PkeEnd :=
  let m := s.val t.pM
  let sealed := (pkeSrc t).any s.slotSealed
  if m % 2 = 0 ∨ m < 3 ∨ srcs.any (fun i => decide (m ≤ s.val i)) then (s.putSlot t.pDst 0 sealed false, .of Status.operandRange)
  else match f m with
  | some v => (s.putSlot t.pDst (v % m) sealed false, .ok)
  | none => (s.putSlot t.pDst 0 sealed false, .of Status.noInverse)

/-- A curve operation on points: range in full time, then membership with the early end, then the result (R433, R434). -/
def State.pkeCurveOp (s : State) (t : Token) (pts : List Nat) (scalars : List Nat) (f : Curve → Pt) : State × PkeEnd :=
  match s.pkeCurve t with
  | none => (s, .of Status.aborted)
  | some c =>
    let ps := pts.map (s.point c)
    let sealed := (pkeSrc t).any s.slotSealed
    let zero := if t.pOp = 0x23 then s else s.putSlot t.pDst 0 sealed false
    if ps.any (fun p => !c.inRange p) ∨ scalars.any (fun i => decide (c.n ≤ s.val i)) then (zero, .of Status.operandRange)
    else if ps.any (fun p => !c.has p) then
      (zero, { status := Status.pointNotOnCurve, detail := 0, early := some (ps.length * tChk c.pw + 16) })
    else if t.pOp = 0x23 then (s, .ok)
    else (s.putPoint c t.pDst (f c) sealed, .ok)

/-- A uniform value in [1, m − 1] as RAND draws it: 64·w + 128 bits modulo m − 1, plus 1 (R440). -/
def State.randBelow (s : State) (w m : Nat) : Nat × State :=
  let r := s.drbgN ((64 * w + 128 + 511) / 512)
  (r.1 % 2 ^ (64 * w + 128) % (m - 1) + 1, r.2)

/-- RAND (R430, R440). -/
def State.pkeRand (s : State) (t : Token) : State × PkeEnd :=
  let m := s.val t.pM
  if m % 2 = 0 ∨ m < 3 then (s.putSlot t.pDst 0 true false, .of Status.operandRange)
  else
    let r := s.randBelow (s.width t.pM) m
    (r.2.putSlot t.pDst r.1 true false, .ok)

/-- A signature is released open, and counted for REVEALS (R90, R428, R438, R439). -/
def State.release (s : State) (t : Token) (v : Nat) : State :=
  (s.putSlot t.pDst v false false).modTen t.ten (fun x => { x with reveals := x.reveals + 1 })

/-- A zero result of a signature that is not released: it keeps the most sealed case of its sources (R427, R428). -/
def State.signZero (s : State) (t : Token) : State := s.putSlot t.pDst 0 ((pkeSrc t).any s.slotSealed) false

/-- The check before release fails: DST is zero, the failure is counted (R438, R439). -/
def State.signFail (s : State) (t : Token) : State × PkeEnd :=
  let s := s.signZero t
  ({ s with pke := { s.pke with signFail := BitVec.ofNat 16 (satAdd 16 s.pke.signFail.toNat 1) } }, .of Status.signCheckFail)

/-- MSIGN (R438): s = A^d mod n, released when s^e mod n = A. -/
def State.pkeMsign (s : State) (t : Token) : State × PkeEnd :=
  let w := s.width t.pB
  let pub := s.val (match s.bindOf t.pB with | some b => b.peer | none => 0)
  let n := pub % 2 ^ (64 * w)
  let e := pub / 2 ^ (64 * w) % 2 ^ 64
  let a := s.val t.pA
  if n % 2 = 0 ∨ n < 3 ∨ n ≤ a then (s.signZero t, .of Status.operandRange)
  else
    let v := powMod a (s.val t.pB) n
    if powMod v e n = a then (s.release t v, .ok) else s.signFail t

/-- ECSIGN (R439). -/
def State.pkeEcsign (s : State) (t : Token) : State × PkeEnd :=
  match s.pkeCurve t with
  | none => (s, .of Status.aborted)
  | some c =>
    let q := s.point c (match s.bindOf t.pB with | some b => b.peer | none => 0)
    let d := s.val t.pB
    let e := s.val t.pA % c.n
    if !c.inRange q ∨ c.n ≤ d then (s.signZero t, .of Status.operandRange)
    else if !c.has q then
      (s.signZero t, { status := Status.pointNotOnCurve, detail := 0, early := some (tChk c.pw + 16) })
    else
      let k := s.randBelow c.nw c.n
      let r := ptX (c.mul k.1 c.g) % c.n
      let v := (invMod k.1 c.n).getD 0 * (e + r * d) % c.n
      if r ≠ 0 ∧ v ≠ 0 ∧ c.ecVerify q e r v then (k.2.release t (r + v * 2 ^ (64 * c.nw)), .ok) else k.2.signFail t

/-- IMPORT: raw words with the page's case, or a key record into a bound pair (R427, R435, R436). -/
def State.pkeImport (s : State) (t : Token) : State × PkeEnd :=
  let rd := s.readMem t.ten t.pTva (s.pkeLen t)
  let s := rd.1
  let bs := rd.2.1
  if rd.2.2 then (s, .of Status.poisonedOperand)
  else if !t.pKeyrec then (s.putSlot t.pDst (leNat bs) (s.anySealedPage t.ten t.pTva (s.pkeLen t)) false, .ok)
  else
    let kind := leAt bs 1 1
    let w := leAt bs 2 2
    let bad : State × PkeEnd := (s, { status := Status.aborted, detail := 0x09, early := none })
    if leAt bs 0 1 ≠ 1 ∨ (slice bs 5 11).any (· != 0) ∨ (kind ≠ 1 ∧ kind ≠ 2) then bad
    else if kind = 1 then
      if w < 32 ∨ 127 < w ∨ leAt bs 4 1 ≠ 0 ∨ (slice bs 16 64).any (· != 0) then bad
      else if s.width t.pDst ≠ w ∨ s.width (t.pDst + 1) ≠ w + 1 then bad
      else
        let s := (s.putSlot t.pDst (leAt bs 80 (8 * w)) true false).putSlot (t.pDst + 1) (leAt bs (80 + 8 * w) (8 * w + 8)) false false
        let mark := fun (s : State) (i peer : Nat) (priv : Bool) => match s.slot i with
          | some x => s.setSlot i (some { x with bound := some { peer := peer, priv := priv, rsa := true, curve := 0 } })
          | none => s
        (mark (mark s t.pDst (t.pDst + 1) true) (t.pDst + 1) t.pDst false, .ok)
    else
      let ci := leAt bs 4 1
      match (if ci < 8 then s.curve ci else none) with
      | none => if ci < 8 then (s, .of Status.curveRejected) else bad
      | some c =>
        if leAt bs 16 64 ≠ (Crypto.digest c.block).toNat then (s, .of Status.curveRejected)
        else if w ≠ c.nw ∨ s.width t.pDst ≠ c.nw ∨ s.width (t.pDst + 1) ≠ 2 * c.pw then bad
        else
          let s := (s.putSlot t.pDst (leAt bs 80 (8 * w)) true false).putSlot (t.pDst + 1) (leAt bs (80 + 8 * w) (16 * c.pw)) false false
          let mark := fun (s : State) (i peer : Nat) (priv : Bool) => match s.slot i with
            | some x => s.setSlot i (some { x with bound := some { peer := peer, priv := priv, rsa := false, curve := ci } })
            | none => s
          (mark (mark s t.pDst (t.pDst + 1) true) (t.pDst + 1) t.pDst false, .ok)

/-- EXPORT: the slot's bytes go to device memory, whose pages are backed as needed. -/
def State.pkeExport (s : State) (t : Token) : State × PkeEnd :=
  let len := s.pkeLen t
  let s := (pagesOf t.pTva len).foldl (fun s p => s.backNow t.ten p (s.pte t.ten p).home) s
  if (pagesOf t.pTva len).any (fun p => !(s.pte t.ten p).backed) then (s, .of Status.quotaExceeded)
  else
    let s := s.writeOwn t.ten none t.pTva (leBytes len (s.val t.pA))
    (s.tokWrote t.id t.ten ((granulesOf t.pTva len).map (· / 4096)), .ok)

/-- 64 Miller–Rabin bases uniform in [2, p − 2] (R442). -/
def State.mrDraws (s : State) (pw p : Nat) : Nat → List Nat × State
  | 0 => ([], s)
  | k + 1 =>
    let r := s.drbgN ((64 * pw + 128 + 511) / 512)
    let rest := State.mrDraws r.2 pw p k
    ((2 + r.1 % (p - 3)) :: rest.1, rest.2)

/-- CURVE_LOAD (R441, R442). -/
def State.pkeCurveLoad (s : State) (buf : List Byte) : State × PkeEnd :=
  let entry := leAt buf 0 1
  let c := curveOf buf
  let bp := s.mrDraws c.pw c.p 64
  let bn := bp.2.mrDraws c.nw c.n 64
  match curveFail entry (s.curve entry).isSome ((slice buf 4 12).all (· == 0)) c bp.1 bn.1 with
  | some d => (bn.2, { status := Status.curveRejected, detail := d, early := none })
  | none => ({ bn.2 with pke := { bn.2.pke with curves := Sparse.set none bn.2.pke.curves entry (some c) } }, .ok)

/-- Does a tenancy's channel pin name the entry (R411, R443). -/
def State.pinNames (s : State) (i : Nat) : Bool := s.tens.any (fun e => e.2.pin.isSome && e.2.pinCurve == BitVec.ofNat 3 i)

/-- The entry of a request; none for a signature of the management port. -/
def State.reqTok (s : State) (r : PkeReq) : Option Token := r.tok.bind s.tok

/-- A PKE command, not a service of the security core. -/
def Token.isPke (t : Token) : Bool := cmdOpcode t.cmd == 0x41

/-- Does a queued or running PKE command name the curve entry: in M, through the pair it signs with, or as the entry it loads. -/
def State.reqNames (s : State) (r : PkeReq) (i : Nat) : Bool :=
  match s.reqTok r with
  | some t => t.isPke && (((isCurveOp t.pOp || t.pOp == 0x31) && t.pM == i) || (t.pOp == 0x30 && leAt r.buf 0 1 == i) ||
      (t.pOp == 0x24 && (match s.bindOf t.pB with | some b => b.curve == i | none => false)))
  | none => false

/-- A command, a bound pair or a channel pin names the entry (R443); `self` is the CURVE_FREE itself. -/
def State.curveBusy (s : State) (i self : Nat) : Bool :=
    ((s.pke.queue ++ s.pke.running.toList).any (fun r => r.tok != some self && s.reqNames r i)) ||
    (s.pke.slots.any (fun e => match e.2 with
      | some x => (match x.bound with | some b => !b.rsa && b.curve == i | none => false)
      | none => false)) ||
    s.pinNames i

/-- CURVE_FREE of the entry would fail (R443). -/
def State.curveInUse (s : State) (i self : Nat) : Bool := decide (i = 0) || s.curveBusy i self

/-- CURVE_FREE (R443). -/
def State.pkeCurveFree (s : State) (t : Token) : State × PkeEnd :=
  if (s.curve t.pM).isNone ∨ s.curveInUse t.pM t.id then (s, { status := Status.aborted, detail := 0x0A, early := none })
  else ({ s with pke := { s.pke with curves := Sparse.set none s.pke.curves t.pM none } }, .ok)

/-- The effect of an operation when it ends (R430). -/
def State.pkeRun (s : State) (t : Token) (buf : List Byte) : State × PkeEnd :=
  match t.pOp with
  | 0x01 => (s.setSlot t.pDst (some { width := t.body 16 2, val := 0, ten := t.ten, sealed := false, inf := false, bound := none }), .ok)
  | 0x02 => (s.freeSlot t.pDst, .ok)
  | 0x03 => (s.putSlot t.pDst (leNat buf) false (t.bodyBit 6 1), .ok)
  | 0x04 => (s.hostOut t (leBytes (8 * s.width t.pA) (s.val t.pA)), .ok)
  | 0x05 => s.pkeImport t
  | 0x06 => s.pkeExport t
  | 0x07 => s.pkeRand t
  | 0x10 => s.pkeModular t [t.pA, t.pB] (fun _ => some (s.val t.pA + s.val t.pB))
  | 0x11 => s.pkeModular t [t.pA, t.pB] (fun m => some (s.val t.pA + m - s.val t.pB))
  | 0x12 => s.pkeModular t [t.pA, t.pB] (fun _ => some (s.val t.pA * s.val t.pB))
  | 0x13 => s.pkeModular t [t.pA] (fun m => invMod (s.val t.pA) m)
  | 0x14 => s.pkeModular t [t.pA] (fun m => some (powMod (s.val t.pA) (s.val t.pE) m))
  | 0x15 => s.pkeMsign t
  | 0x20 => s.pkeCurveOp t [t.pA, t.pB] [] (fun c => c.add (s.point c t.pA) (s.point c t.pB))
  | 0x21 => s.pkeCurveOp t [t.pA] [] (fun c => c.dbl (s.point c t.pA))
  | 0x22 => s.pkeCurveOp t [t.pB] [t.pA] (fun c => c.mul (s.val t.pA) (s.point c t.pB))
  | 0x23 => s.pkeCurveOp t [t.pA] [] (fun _ => none)
  | 0x24 => s.pkeEcsign t
  | 0x30 => s.pkeCurveLoad buf
  | 0x31 => s.pkeCurveFree t
  | _ => (s, .ok)

/-! ## Order of service (R445) -/

/-- The queue without its front, filled from the requests that wait to enter. -/
def Pke.pop (p : Pke) : Pke := { p with queue := p.queue.drop 1 ++ p.entering.take 1, entering := p.entering.drop 1 }

/-- A request arrives: the queue holds 64, and beyond them it waits to enter. -/
def Pke.push (p : Pke) (r : PkeReq) : Pke :=
  if p.queue.length < 64 then { p with queue := p.queue ++ [r] } else { p with entering := p.entering ++ [r] }

/-- The engine neither runs nor holds a request. -/
def Pke.idle (p : Pke) : Bool := p.running.isNone && p.queue.isEmpty

/-- A PKE command that fails its checks ends at once, without execution time (R431); none for another request. -/
def State.reqRefused (s : State) (r : PkeReq) : Option (Token × Byte × Nat) :=
  match s.reqTok r with
  | some t => if t.isPke then (s.pkeCheck t).map (fun c => (t, c)) else none
  | none => none

/-- Take the next request. -/
def State.pkeNext : Nat → State → State
  | 0, s => s
  | f + 1, s =>
    if s.pke.running.isSome then s
    else match s.pke.queue with
    | [] => s
    | r :: _ =>
      let s := { s with pke := s.pke.pop }
      match s.reqRefused r with
      | some (t, st, d) =>
        let s := { s with pke := { s.pke with last := st } }
        State.pkeNext f ((s.finish t.id (Comp.ofStatus st d)).raise 0x361)
      | none => { s with pke := { s.pke with running := some r } }

def State.pkeGo (s : State) : State := s.pkeNext (s.pke.queue.length + s.pke.entering.length + 1)

/-- A request arrives; where the engine is free it is taken. -/
def State.pkeRequest (s : State) (r : PkeReq) : State := State.pkeGo { s with pke := s.pke.push r }

/-- A PKE command enters the queue (R445). -/
def State.pkeEnter (s : State) (t : Token) (buf : List Byte) : State := s.pkeRequest { tok := some t.id, buf := buf }

/-- A PKE command of operation `op` starts: it enters the queue. -/
def State.pkeCmd (s : State) (e op : Nat) : State :=
  if s.ready .pke then s.startCmd e (selPke op) (fun s t => s.pkeEnter t []) else s

/-- One that reads its host buffer. CURVE_LOAD's length is checked against the buffer's own fields (R441). -/
def State.pkeCmdBuf (s : State) (e op : Nat) (buf : HostBuf) : State :=
  if s.ready .pke then
    s.startCmd e (selPke op) (fun s t => s.withBuf t buf (fun bs =>
      if op = 0x30 ∧ cmdHlen t.cmd ≠ 16 + 40 * leAt bs 1 1 + 8 * leAt bs 2 1 then s.finish e (Comp.aborted 0x06)
      else s.pkeEnter t bs))
  else s

/-- The running operation of a PKE command ends: result, completion, the interrupt, the next request (R444, R493 source 0x361). Another
request leaves the engine. -/
def State.pkeDone (s : State) : State :=
  match s.pke.running with
  | none => s
  | some r =>
    let s := { s with pke := { s.pke with running := none } }
    match s.reqTok r with
    | none => (s.raise 0x361).pkeGo
    | some t =>
      if !t.isPke then (s.raise 0x361).pkeGo
      else
        let time := s.pkeTime t
        let x := s.pkeRun t r.buf
        let v : W64 × State := match x.2.early, time with
          | some e, _ => (BitVec.ofNat 64 e, x.1)
          | none, some n => (BitVec.ofNat 64 n, x.1)
          | none, none => x.1.free
        let s := { v.2 with pke := { v.2.pke with last := x.2.status } }
        ((s.finish t.id { status := x.2.status, detail := BitVec.ofNat 8 x.2.detail, position := 0, value := v.1 }).raise 0x361).pkeGo

/-- Is a request one of tenancy `n`. -/
def State.reqOf (s : State) (n : Tid) (r : PkeReq) : Bool := match s.reqTok r with | some t => t.ten == n | none => false

/-- Queued requests of a closing tenancy complete with ABORTED without running (R447), as do those that wait to enter (log 47). -/
def State.pkeDrop (s : State) (n : Tid) : State :=
  let dead := (s.pke.queue ++ s.pke.entering).filter (s.reqOf n)
  let q := (s.pke.queue ++ s.pke.entering).filter (fun r => !s.reqOf n r)
  let s := { s with pke := { s.pke with queue := q.take 64, entering := q.drop 64 } }
  (dead.filterMap (·.tok)).foldl (fun s e => s.finish e (Comp.aborted 0)) s

/-- Abort of the running operation of a closing tenancy, and of its queued commands (R447). VALUE, the cycles it has executed, is a free value
(log 7). -/
def State.pkeAbort (s : State) (n : Tid) : State :=
  let s := s.pkeDrop n
  match s.pke.running.bind s.reqTok with
  | none => s
  | some t =>
    if t.ten != n then s
    else
      let s := if t.isPke then (pkeDst t).foldl (fun s i => s.putSlot i 0 false false) s else s
      let s := { s with pke := { s.pke with
        running := none, last := Status.aborted, aborts := BitVec.ofNat 16 (satAdd 16 s.pke.aborts.toNat 1) } }
      let v := s.free
      (v.2.finish t.id { Comp.aborted 0 with value := v.1 }).pkeGo

/-! ## The rows -/

def execPkeAlloc (e : Nat) (s : State) : Result := .next (s.pkeCmd e 0x01)
def execPkeFree (e : Nat) (s : State) : Result := .next (s.pkeCmd e 0x02)
def execPkeWrite (e : Nat) (buf : HostBuf) (s : State) : Result := .next (s.pkeCmdBuf e 0x03 buf)
def execPkeRead (e : Nat) (s : State) : Result := .next (s.pkeCmd e 0x04)
def execPkeImport (e : Nat) (s : State) : Result := .next (s.pkeCmd e 0x05)
def execPkeExport (e : Nat) (s : State) : Result := .next (s.pkeCmd e 0x06)
def execRand (e : Nat) (s : State) : Result := .next (s.pkeCmd e 0x07)
def execMadd (e : Nat) (s : State) : Result := .next (s.pkeCmd e 0x10)
def execMsub (e : Nat) (s : State) : Result := .next (s.pkeCmd e 0x11)
def execMmul (e : Nat) (s : State) : Result := .next (s.pkeCmd e 0x12)
def execMinv (e : Nat) (s : State) : Result := .next (s.pkeCmd e 0x13)
def execMexp (e : Nat) (s : State) : Result := .next (s.pkeCmd e 0x14)
def execMsign (e : Nat) (s : State) : Result := .next (s.pkeCmd e 0x15)
def execPadd (e : Nat) (s : State) : Result := .next (s.pkeCmd e 0x20)
def execPdbl (e : Nat) (s : State) : Result := .next (s.pkeCmd e 0x21)
def execPmul (e : Nat) (s : State) : Result := .next (s.pkeCmd e 0x22)
def execPcheck (e : Nat) (s : State) : Result := .next (s.pkeCmd e 0x23)
def execEcsign (e : Nat) (s : State) : Result := .next (s.pkeCmd e 0x24)
def execCurveLoad (e : Nat) (buf : HostBuf) (s : State) : Result := .next (s.pkeCmdBuf e 0x30 buf)
def execCurveFree (e : Nat) (s : State) : Result := .next (s.pkeCmd e 0x31)

end Sys2Proof.Machine
end

