-- ==== Sys2Proof/Machine/SpliceNet.lean ====
section
/-! DEFINITION. SpliceNet.lean: splices: export, reduction, delivery, digests, failure (R287–R315, R356). -/

namespace Sys2Proof.Machine

open Sys2Proof.Arith

/-! ## Digests (R306, R307) -/

/-- Multiply by x modulo x^64 + x^4 + x^3 + x + 1. -/
def gfX (a : W64) : W64 := if bit a 63 then (a <<< 1) ^^^ 0x1B else a <<< 1

/-- a·b in GF(2^64), by the bits of `b` from bit 63 down. -/
def gfMul (a b : W64) : Nat → W64 → W64
  | 0, r => r
  | n + 1, r => gfMul a b n (if bit b n then gfX r ^^^ a else gfX r)

/-- H ← (H ⊕ m)·K. -/
def digestStep (k h m : W64) : W64 := gfMul (h ^^^ m) k 64 0

/-- The words of one crossing: the header word, then the tile's 64-bit words (R307). -/
def crossingWords (k i : Nat) (broadcast : Bool) (tile : Sparse VReg) : List W64 :=
  (put 0 16 k ||| put 16 6 i ||| putB 22 broadcast) ::
    (List.range 1024).flatMap (fun row => (List.range 16).map (fun w => BitVec.ofNat 64 (fld (Sparse.get 0 tile row) (64 * w) 64)))

/-- The router's link and paths carry a transfer: they are in service, and the retries it takes are at most eight; one that takes more
fails the path (R312, R356). -/
def Router.carries (r : Router) : Bool := r.up && decide (r.retryDue.toNat ≤ 8)

/-- A transfer of splice `i` over the link or a path of a strand's router: a retry that succeeded and the corrected errors of staging are
counted, and make the splice suspect (R308, R315). -/
def State.carry (s : State) (i st : Nat) : State :=
  let r := s.router st
  if r.retryDue = 0 ∧ r.softDue = 0 then s
  else
    let s := s.setRouter st { r with retries := BitVec.ofNat 16 (satAdd 16 r.retries.toNat (if r.retryDue = 0 then 0 else 1))
                                     corrected := BitVec.ofNat 16 (satAdd 16 r.corrected.toNat r.softDue.toNat)
                                     retryDue := 0, softDue := 0 }
    let s := s.corrected Dom.splice (st / 8) (routerCounter st true) (if r.retryDue = 0 then 0 else 1)
    (s.corrected Dom.splice (st / 8) (routerCounter st false) r.softDue.toNat).modSplice i (fun x => { x with suspect := true })

/-- A crossing of the link from s_j to s_(j+1): both digests take its words, the sender counts it. -/
def State.crossing (s : State) (i j : Nat) (words : List W64) : State :=
  let x := s.splice i
  let upd := fun (d : Sparse W64) => Sparse.set 0 d j (words.foldl (digestStep x.key) (Sparse.get 0 d j))
  let st := x.strands.getD j 0
  let r := s.router st
  ((s.setSplice i { x with send := upd x.send, recv := upd x.recv }).setRouter st { r with crossings := r.crossings + 1 }).carry i st

/-! ## Ranks and their failure (R311, R312) -/

/-- The KIND 4 ring of a braid. -/
def Braid.spliceRing (b : Braid) : Option Nat := (b.rings.find? (fun e => e.2.armed && !e.2.rearm && e.2.kind == 4)).map Prod.fst

/-- A rank fails without a stream: it stops, or fails at its commit point when its issue has ended. -/
def Braid.doom (b : Braid) (st : Byte) : Braid :=
  if b.phase == .idle || b.phase == .stopped then b
  else { b with phase := .stopped, stop := some { status := st, pc := b.pc, clause := 7 } }

/-- The rank on a braid fails: its KIND 4 ring fails as a stream, unless its issue has ended or the ring is not armed. -/
def State.failRank (s : State) (i : Nat) (st : Byte) : State :=
  let b := s.braid i
  match b.spliceRing with
  | some r =>
    if b.phase == .ended then s.afterBraid i (b.doom st)
    else
      let x := b.ring r
      let slot := (List.range x.size).find? (fun k => (x.slotAt k 0).engine == .inflight)
      s.failStream i r st slot (List.range 64)
  | none => s.afterBraid i (b.doom st)

/-- The splice's exports still in a braid's queue go uncounted. -/
def State.dropQueue (s : State) (i : Nat) : State := s.modBraid i (fun b => { b with queue := [], reserved := 0 })

/-- The routers stop: staged contributions are discarded and counted, nothing further is delivered. -/
def State.discardStaged (s : State) (i : Nat) : State :=
  s.modSplice i (fun x => { x with discarded := x.discarded + BitVec.ofNat 20 x.staged.length, staged := [], sums := [] })

/-- Every rank of a splice fails with one status: R301, R302, R309, R312, R313. -/
def State.failSplice (s : State) (i : Nat) (st : Byte) : State :=
  let x := s.splice i
  let s := s.modSplice i (fun x => { x with st := .failed, status := st, notice := false })
  let s := s.discardStaged i
  x.ranks.foldl (fun s r => (s.dropQueue r.2.2).failRank r.2.2 st) s

/-- The splice of a dispatched rank. -/
def State.spliceOf (s : State) (tok : Nat) : Option Nat := (s.splices.find? (fun e => e.2.ranks.any (fun r => r.2.1 == tok))).map Prod.fst

/-- A rank's token has failed: the splice records the status of the first, and the notice goes to the routers (R311). -/
def State.rankFailed (s : State) (tok : Nat) (st : Byte) : State :=
  match s.spliceOf tok with
  | none => s
  | some i =>
    s.modSplice i (fun x =>
      let rest := x.ranks.filter (fun r => r.2.1 != tok)
      if x.status != 0 then { x with ranks := rest }
      else { x with ranks := rest, st := if x.st == .comparing then .comparing else .failed, status := st, notice := true })

/-- A rank has committed. -/
def State.rankCommitted (s : State) (tok : Nat) : State :=
  match s.spliceOf tok with
  | none => s
  | some i => s.modSplice i (fun x => { x with ranks := x.ranks.filter (fun r => r.2.1 != tok) })

/-- The notice reaches the routers, and every other rank fails. -/
def State.noticeTaken (s : State) (i : Nat) : State :=
  let s' := (s.discardStaged i).modSplice i (fun x => { x with notice := false })
  (s.splice i).ranks.foldl (fun s r => (s.dropQueue r.2.2).failRank r.2.2 Status.aborted) s'

/-- SPLICE_FAILURE_NOTICE. -/
def State.spliceNotice (s : State) (i : Nat) : State := if s.live && (s.splice i).notice then s.noticeTaken i else s

def execSpliceFailureNotice (i : BitVec 6) (s : State) : Result := .next (s.spliceNotice i.toNat)

/-! ## Opening and closing (R287, R288, R306, R313) -/

/-- The digest key: drawn again while it is zero, at most 64 times (log 32). -/
def State.drawKey : Nat → State → W64 × State
  | 0, s => (1, s)
  | f + 1, s =>
    let d := s.drbg
    let k : W64 := d.1.setWidth 64
    if k = 0 then State.drawKey f d.2 else (k, d.2)

/-- Braids a splice of a tenancy may use: present, not in fold mode, permitted (R288). -/
def State.spliceBraids (s : State) (n : Tid) : Nat := popcount (s.cap.braids &&& ~~~s.cap.fold &&& (s.ten n).braids)

/-- SPLICE_OPEN. -/
def State.spliceOpenCmd (s : State) (t : Token) : State :=
  let i := t.body 0 1
  let p := t.body 1 1
  let tiles := t.body 2 2
  if 63 < i ∨ p < 2 ∨ 64 < p ∨ tiles = 0 ∨ s.spliceBraids t.ten < p then s.finish t.id (Comp.aborted 0x09)
  else if (s.splice i).st != .free || !s.secUp || !s.drbgOk then s.finish t.id (Comp.aborted 0x0A)
  else
    let k := State.drawKey 64 s
    let s := k.2.setSplice i
      { Splice.init with st := .open_, ten := t.ten, p := BitVec.ofNat 7 p, form := t.bodyBit 4 0, m32 := t.bodyBit 4 1,
                         tiles := BitVec.ofNat 16 tiles, key := k.1, compares := (s.splice i).compares }
    s.finish t.id (Comp.okv 0 0)

def execSpliceOpen (e : Nat) (s : State) : Result := .next (s.startCmd e (selOp 0x30) State.spliceOpenCmd)

/-- A close: a failed splice's notice that is still on its way acts first; ranks not committed of an open or running splice, or of one whose
check is not done, fail with the status of the close; K is zeroed, the identifier is free. Compare commands that wait fail with it. -/
def State.closeSplice (s : State) (i : Nat) (status : Byte) : State :=
  let x := s.splice i
  if x.st == .free then s
  else
    let s := if x.notice then s.noticeTaken i
      else if x.st == .ended || x.st == .failed || x.status != 0 then s else s.failSplice i status
    let s := (x.trigger.toList ++ x.asked).foldl (fun s e => s.finish e (Comp.aborted 0x0A)) s
    s.modSplice i (fun x => { x with st := .free, key := 0, ranks := [], trigger := none, asked := [], staged := [], sums := [], notice := false })

/-- The splice a command names is the tenancy's. -/
def State.spliceNamed (s : State) (t : Token) : Bool :=
  (s.splice (t.body 0 1)).st != .free && (s.splice (t.body 0 1)).ten == t.ten

/-- The splice has ended: its last tile has been delivered to every rank, whatever has come after (R304). -/
def Splice.over (x : Splice) : Bool := x.st != .free && x.st != .open_ && x.delivered == x.tiles

/-- SPLICE_COMPARE: after the end and before the close; the comparison then runs, after one in progress (R308). -/
def State.spliceCompareCmd (s : State) (t : Token) : State :=
  let i := t.body 0 1
  if 63 < i then s.finish t.id (Comp.aborted 0x09)
  else if !s.spliceNamed t || !(s.splice i).over then s.finish t.id (Comp.aborted 0x0A)
  else s.modSplice i (fun x =>
    if x.st == .comparing then { x with asked := x.asked ++ [t.id] } else { x with st := .comparing, trigger := some t.id })

def execSpliceCompare (e : Nat) (s : State) : Result := .next (s.startCmd e (selOp 0x32) State.spliceCompareCmd)

/-! ## Export (R294, R299) -/

/-- SPLICE_EXPORT_TAKE: the router takes the front export of a rank. A sentence the network held issues from then on: the cycles
of the hold count as SPLICE_LATE, and how many they are is a free value of at least one (R220, R221). -/
def State.exportTake (s : State) (i : Nat) : State :=
  let b := s.braid i
  match b.queue, b.tok.bind s.spliceOf with
  | c :: rest, some k =>
    let x := s.splice k
    if s.live && x.st == .running && (s.router (i / 4)).carries && decide (c.tile < x.delivered.toNat + 4) then
      let held := b.phase == .issuing && b.exportHeld
      let s := (s.setSplice k { x with staged := x.staged ++ [c], sent := x.sent + 1 }).carry k (i / 4)
      let v : W64 × State := if held then s.free else (0, s)
      let b := if held then (b.countStall 2 (v.1.toNat + 1)).advanceTo (b.issueAt + v.1.toNat + 1) else b
      v.2.setBraid i { b with queue := rest, reserved := b.reserved - 1 }
    else s
  | _, _ => s

def execSpliceExportTake (b : Bid) (s : State) : Result := .next (s.exportTake b.toNat)

/-! ## Reduction (R298–R301) -/

/-- Position-wise sum of tiles: modulo q, each contribution reduced first, or modulo 2^w. -/
def sumTiles (m32 : Bool) (q : Nat) (ts : List (Sparse VReg)) : Sparse VReg :=
  (List.range 1024).foldl (fun m row =>
    let vs := ts.map (fun t => Sparse.get 0 t row)
    let v := (List.range (laneN m32)).map (fun l =>
      let x := (vs.map (fun v => if q = 0 then lane m32 v l else lane m32 v l % q)).sum
      if q = 0 then x % 2 ^ laneW m32 else x % q)
    Sparse.set 0 m row (ofLanes m32 v)) []

/-- The headers of a tile's contributions agree with each other and with the splice (R301). -/
def headersAgree (x : Splice) (cs : List Contrib) : Bool :=
  match cs with
  | [] => false
  | c :: _ => cs.all (fun d => d.form == x.form && d.mode == x.m32 && d.q == c.q)

/-- Contributions of tile k, in ascending braid order. -/
def Splice.tileOf (x : Splice) (k : Nat) : List Contrib :=
  (x.staged.filter (fun c => c.tile == k)).foldl (fun l c =>
    l.takeWhile (fun d => decide (d.braid ≤ c.braid)) ++ [c] ++ l.dropWhile (fun d => decide (d.braid ≤ c.braid))) []

/-- Every crossing of one tile: the running sums on the links 0 to n − 2, the full sum on the link n − 1 and then 0 to n − 3. -/
def State.crossTile (s : State) (i k : Nat) (m32 : Bool) (q : Nat) (parts : List (Sparse VReg)) (full : Sparse VReg) : State :=
  let n := parts.length
  let s := (List.range (n - 1)).foldl (fun s j =>
    s.crossing i j (crossingWords k i false (sumTiles m32 q (parts.take (j + 1))))) s
  let fullAt := if n ≤ 1 then [] else (n - 1) :: List.range (n - 2)
  fullAt.foldl (fun s j => s.crossing i j (crossingWords k i true full)) s

/-- SPLICE_TILE_REDUCE: the next tile index, once every rank's contribution is staged. -/
def State.tileReduce (s : State) (i : Nat) : State :=
  let x := s.splice i
  let k := x.reduced.toNat
  let cs := x.tileOf k
  if !(s.live && x.st == .running && decide (cs.length = x.p.toNat) && x.strands.all (fun t => (s.router t).carries)) then s
  else if !headersAgree x cs then s.failSplice i Status.spliceMismatch
  else
    let q := match cs with | c :: _ => c.q | [] => 0
    let parts := x.strands.map (fun st => sumTiles x.m32 q ((cs.filter (fun c => c.braid / 4 == st)).map (·.words)))
    let full := sumTiles x.m32 q parts
    let sealed := cs.any (·.sealed)
    (s.crossTile i k x.m32 q parts full).modSplice i (fun y =>
      { y with reduced := y.reduced + 1, received := y.received + BitVec.ofNat 22 cs.length, sealed := y.sealed || sealed
               staged := y.staged.filter (fun c => c.tile != k)
               sums := y.sums ++ [{ braid := 0, tile := k, form := y.form, mode := y.m32, q := q, sealed := sealed, words := full }] })

def execSpliceTileReduce (i : BitVec 6) (s : State) : Result := .next (s.tileReduce i.toNat)

/-! ## Delivery (R302, R304) -/

/-- A rank's braid has a free slot at TAIL of its receive ring. -/
def Braid.hasSlot (b : Braid) : Bool :=
  match b.spliceRing with
  | none => false
  | some r => b.pllUp && !b.linkDown && b.phase != .stopped && b.phase != .idle && ((b.ring r).slotAt (b.ring r).tail.toNat 0).engine == .free

/-- The mapped addresses of the slot at TAIL of the receive ring. -/
def Braid.tileAddrs (b : Braid) : List Nat :=
  match b.spliceRing with
  | none => []
  | some r => (b.slotRegions (b.ring r) ((b.ring r).tail.toNat % (b.ring r).size) (List.range 64)).map Prod.snd

/-- A rank's braid can take a result tile: its slot at TAIL is free and its banks are the engine's. -/
def State.rankReady (s : State) (i : Nat) : Bool :=
  (s.braid i).hasSlot && ((s.braid i).dmaWait? (s.braid i).tileAddrs).isNone

/-- Does the slot at TAIL of a rank touch an open region. -/
def State.rankOpen (s : State) (i : Nat) : Bool := (s.braid i).tileAddrs.any (fun a => !(s.braid i).sealedAt a)

/-- The tile waits for the banks of a rank's slot: a deferral is counted for the banks touched in this cycle (R168, R169). -/
def Braid.holdTile (b : Braid) : Braid :=
  match b.spliceRing, (if b.hasSlot then b.dmaWait? b.tileAddrs else none) with
  | some r, some w =>
    let banks := banksOf b.tileAddrs
    let b := b.setRing r { b.ring r with tileWait := w, tileBanks := banks }
    if w = .deferred then b.countConflict b.issueAt (banks.filter b.busyBanks.contains) else b
  | _, _ => b

/-- Does a tile of the braid wait for the map or a clearing. -/
def Braid.tileWaits (b : Braid) : Bool :=
  match b.spliceRing with
  | none => false
  | some r => (b.ring r).tileWait == .owner

/-- Write a result tile into the slot at TAIL: row i of core c at offset 128·i; the slot is full on the engine's side, and free at once when the
rank's issue has ended (R225). -/
def Braid.takeTile (b : Braid) (tile : Sparse VReg) : Braid :=
  match b.spliceRing with
  | none => b
  | some r =>
    let x := b.ring r
    let slot := x.tail.toNat % x.size
    let base := x.slotBase + slot * x.slotBytes
    let b := (List.range 64).foldl (fun b c =>
      let keys := (List.range 128).map (fun k => let p := b.logAddr c (base + 16 * k); spKey p.1 p.2)
      (List.range 2048).foldl (fun (b : Braid) k =>
        let p := b.logAddr c (base + k)
        ((b.cancelStores p.1 p.2 1).putByte p.1 p.2
          (BitVec.ofNat 8 (fld (Sparse.get 0 tile (c * 16 + k / 128)) (8 * (k % 128)) 8))).setWritten p.1 p.2) (b.eccFresh keys)) b
    let done : Slot := if b.phase = .ended then Slot.init else { braid := .inflight, engine := .full }
    b.setRing r { x with tail := x.tail + 1, slots := x.slots.set slot done, tileWait := .run, tileBanks := [] }

/-- A rank takes the result tile; its wait for banks, if any, is over. -/
def State.takeTile (s : State) (i : Nat) (tile : Sparse VReg) : State :=
  let waited := (s.braid i).tileWaits
  let s := s.modBraid i (·.takeTile tile)
  if waited && !(s.braid i).dmaWaits then s.endDmaWait i (s.braid i).phase else s

/-- The splice has ended: a suspect one is compared first (R304, R308); its routers raise their sources. -/
def State.spliceEnd (s : State) (i : Nat) : State :=
  let x := s.splice i
  if x.suspect then
    x.strands.foldl (fun s t => s.raise (0x330 + t)) (s.setSplice i { x with st := .comparing, trigger := none })
  else s.setSplice i { x with st := .ended }

/-- SPLICE_TILE_DELIVERY: the tile goes to every rank, or waits for the banks of those whose slots are free. -/
def State.tileDeliver (s : State) (i : Nat) : State :=
  let x := s.splice i
  match x.sums with
  | [] => s
  | c :: rest =>
    if !(s.live && x.st == .running && x.strands.all (fun t => (s.router t).carries)) then s
    else if !x.ranks.all (fun r => s.rankReady r.2.2) then
      (x.ranks.foldl (fun s r => (s.modBraid r.2.2 Braid.holdTile).beginDmaWait r.2.2 (s.braid r.2.2)) s).noteStalls
    else if c.sealed && x.ranks.any (fun r => s.rankOpen r.2.2) then s.failSplice i Status.caseViolation
    else
      let s := x.ranks.foldl (fun s r => s.takeTile r.2.2 c.words) s
      let s := s.setSplice i { x with sums := rest, delivered := x.delivered + 1 }
      let s := x.strands.foldl (fun s t => s.carry i t) s
      (if x.delivered.toNat + 1 = x.tiles.toNat then s.spliceEnd i else s).noteStalls

def execSpliceTileDelivery (i : BitVec 6) (s : State) : Result := .next (s.tileDeliver i.toNat)

/-! ## Comparison (R308, R309) -/

/-- The lowest j whose digests differ; with one strand there is no link. -/
def Splice.differ (x : Splice) : Option Nat :=
  (List.range (if x.strands.length ≤ 1 then 0 else x.strands.length)).find? (fun j => Sparse.get 0 x.send j != Sparse.get 0 x.recv j)

/-- The comparison that a waiting compare command asked for starts. -/
def Splice.nextCompare (x : Splice) : Splice :=
  match x.asked with
  | [] => x
  | e :: rest => { x with st := .comparing, trigger := some e, asked := rest }

/-- A comparison has ended: COMPARES, RESULT and LINK, and what the triggering command or the ranks of a suspect splice learn (R309). -/
def State.compared (s : State) (i : Nat) : State :=
    let x := s.splice i
    let d := x.differ
    let y : Splice := { x with compares := x.compares + 1, result := if d.isSome then 2 else 1, trigger := none
                               st := if x.status != 0 then .failed else .ended, link := BitVec.ofNat 4 (d.getD 0) }
    match d with
    | none =>
      let s := s.setSplice i { y with passed := true }
      (match x.trigger with | some e => s.finish e (Comp.okv 0 0) | none => s)
    | some j =>
      let s := (s.setSplice i y).log Dom.splice 2 (if x.strands.getD j 0 < 8 then 0 else 1) 0x50 Status.digestMismatch (some x.ten)
        [BitVec.ofNat 64 i, BitVec.ofNat 64 j]
      match x.trigger with
      | some e => s.finish e { status := Status.digestMismatch, detail := 0, position := BitVec.ofNat 32 j, value := 0 }
      | none => if x.status != 0 then s else s.failSplice i Status.digestMismatch

/-- SPLICE_DIGEST_COMPARE_DONE. -/
def State.compareDone (s : State) (i : Nat) : State :=
  if !(s.schedUp && (s.splice i).st == .comparing) then s else (s.compared i).modSplice i Splice.nextCompare

def execSpliceDigestCompareDone (i : BitVec 6) (s : State) : Result := .next (s.compareDone i.toNat)

/-! ## Links (R312, R356) -/

/-- Running splices that a strand takes part in. -/
def State.splicesOn (s : State) (st : Nat) : List Nat :=
  (s.splices.filter (fun e => e.2.st == .running && e.2.strands.contains st)).map Prod.fst

/-- SPLICE_PATH_FAIL: every rank of every splice the path carries fails with LINK_FAIL; the path retrains. -/
def State.pathFail (s : State) (st : Nat) : State :=
  let r := s.router st
  if !(s.live && r.up) then s
  else
    let s := (s.splicesOn st).foldl (fun s i => s.failSplice i Status.linkFail) s
    (s.setRouter st { s.router st with up := false, retrain := true, fails := BitVec.ofNat 16 (satAdd 16 r.fails.toNat 1), retryDue := 0 }).raise
      (0x330 + st)

def execSplicePathFail (st : BitVec 4) (s : State) : Result := .next (s.pathFail st.toNat)

/-- SPLICE_PATH_RETRAIN_DONE. -/
def execSplicePathRetrainDone (st : BitVec 4) (s : State) : Result :=
  .next (if s.live && (s.router st.toNat).retrain then
      s.setRouter st.toNat { s.router st.toNat with up := true, retrain := false }
    else s)

/-- STRAND_LINK_RECOVERY: every splice on the strand becomes suspect. -/
def execStrandLinkRecovery (st : BitVec 4) (s : State) : Result :=
  .next (if s.live then (s.splicesOn st.toNat).foldl (fun s i => s.modSplice i (fun x => { x with suspect := true })) s else s)

end Sys2Proof.Machine
end

