-- ==== Sys2Proof/Machine/Close.lean ====
section
/-! DEFINITION. Close.lean: how a tenancy closes, and how a mirrored pair is undone (R283, R285, R335, R349, R502, R522, R527). -/

namespace Sys2Proof.Machine

/-! ## Completions held for the belay partner (R527) -/

/-- Is this the entry whose completion a record carries. -/
def recordOf (r : CommitRecord) (t : Token) : Bool :=
  t.ten == r.tenancy && t.fn == r.origin && t.ring == r.ring && t.seq == r.seq && t.seqgen == r.seqgen && t.set == r.set

/-- A completion is no longer held for the partner: it may be written, unless it is held for an orphaned tenancy (R346). -/
def State.releaseTok (s : State) (id : Nat) : State :=
  let s := s.modTok id (fun t => { t with held := false })
  if s.sch.heldQ.contains id || s.sch.order.contains id then s
  else { s with sch := { s.sch with order := s.sch.order ++ [id] } }

/-- Release the completion that a record carries. -/
def State.releaseRec (s : State) (r : CommitRecord) : State :=
  match s.sch.pool.find? (fun t => t.held && t.st == .retiring && recordOf r t) with
  | some t => s.releaseTok t.id
  | none => s

/-- A primary becomes unpaired: its queued records are discarded and its held completions may be written, in the order of their
records. -/
def State.unpair (s : State) (n : Tid) : State :=
  let m := (s.ten n).mir
  let s := s.modTen n (fun t => { t with mir := { t.mir with pstate := 0, sent := [], unsent := [], late := [], reads := [] } })
  let s := (m.sent ++ m.unsent ++ m.late).foldl (fun s r => s.releaseRec r) s
  (s.sch.pool.filter (fun t => t.ten == n && t.held)).foldl (fun s t => s.releaseTok t.id) s

/-! ## Steps 1 to 3 of R335 -/

/-- Send a stop notice to a braid (R328, R493); one on its way already stops the kernel first. -/
def State.sendNotice (s : State) (b : Nat) (st : Byte) : State :=
  (s.modBraid b (fun x => { x with notice := x.notice.orElse (fun _ => some st) })).raise (4 * b + 2)

/-- The context slots of a token are free. -/
def State.freeCtx (s : State) (n : Tid) (id : Nat) : State :=
  s.modTen n (fun t => { t with ctx := t.ctx.filter (fun e => e.2 != some id) })

/-! ## Headers written by the scheduler, and containment (R69, R75, R504) -/

/-- Write headers at the slots of a token; a header whose page is not mapped is left, as is one that no TVA names. The granules count as
the token's writes. -/
def State.writeHeaders (s : State) (t : Token) (hs : List (Nat × BitVec 512)) : State :=
  hs.foldl (fun s h =>
    let a := t.slotTva h.1
    if a = 0 ∨ s.anyUnmapped t.ten a 64 then s
    else (s.writeOwn t.ten none a (leBytes 64 h.2.toNat)).tokWrote t.id t.ten ((granulesOf a 64).map (· / 4096))) s

/-- A header poisoned with a status (R75, R504). -/
def hPoisoned (h : BitVec 512) (st : Byte) : BitVec 512 := hSeal (hSet (hSet h 0 56 1 1) 1 56 8 st.toNat)

/-- The payload range of a header in a tenancy (R551): first byte and length. -/
def State.payload (s : State) (n : Tid) (h : BitVec 512) : Nat × Nat :=
  (hPayload h, payloadLen h (((s.ten n).chain (hChain h)).getD { ringChain with mode := true }))

def rangesMeet (a b : Nat × Nat) : Bool := decide (a.1 < b.1 + b.2) && decide (b.1 < a.1 + a.2)

/-- Sources used in place: their payload meets a destination's (R504 step 5). -/
def State.inPlace (s : State) (t : Token) : List (Nat × BitVec 512) :=
  t.srcs.filter (fun x => t.dests.any (fun d => rangesMeet (s.payload t.ten x.2) (s.payload t.ten d.2)))

/-- The fence of the bytes a token wrote (R274). -/
def State.fenceTok (s : State) (id : Nat) : State :=
  match s.tok id with
  | some t => s.fence t.ctls
  | none => s

/-- Containment of a token that fails after dispatch (R504, steps 3 to 5): its writes pass a fence, and the headers of its destinations and of
the sources used in place are poisoned with the status. -/
def State.contain (s : State) (t : Token) (st : Byte) : State :=
  (s.fenceTok t.id).writeHeaders t ((t.dests ++ s.inPlace t).map (fun h => (h.1, hPoisoned h.2 st)))

/-- A token ends that was dispatched and holds a saved image: SAVED, or READY to be restored. Its slots are free, and it is contained. -/
def State.endSaved (s : State) (t : Token) (st : Byte) : State :=
  ((s.freeCtx t.ten t.id).contain t st).finish t.id (Comp.ofStatus st 0)

/-- Fail the tokens that do not run: WAITING and READY ones with `status`, SAVED ones with PREEMPTED, contained where they were dispatched; an
ALLOC in work ends as a command of a tenancy that is not ACTIVE. -/
def State.failIdle (s : State) (n : Tid) (status : Byte) : State :=
  (s.sch.pool.filter (fun t => t.ten == n)).foldl (fun s t =>
    if t.kernel && t.st == .issued then
      (if t.ctx.isSome then s.endSaved t status else s.finish t.id (Comp.ofStatus status 0))
    else if t.kernel && t.st == .saved then s.endSaved t Status.preempted
    else if t.allocating then s.finish t.id (Comp.aborted 0x04)
    else s) s

/-- Entries of the owner whose completion waits are gone, where completions are discarded (R349). -/
def State.dropHeld (s : State) (n : Tid) : State :=
  if s.discards n then
    (s.sch.pool.filter (fun t => t.ten == n && t.ownedBy (s.ten n) && t.st == .retiring)).foldl (fun s t => s.dropTok t.id) s
  else s

/-- Send the close notice of a mirrored tenancy, before any record of its tokens (R517, R522). -/
def State.closeNotice (s : State) (n : Tid) : State :=
  let t := s.ten n
  if t.mirror = 0 && !t.mir.standby then s
  else (if s.cap.belay then s.sendClose n else s).unpair n

/-! ## Steps 4 and 5 (R283, R285) -/

/-- Discard the tenancy's key and its lines in write combining, free every page, drop its held writes and windows, and its quotas fall
to zero. -/
def State.wipeTen (s : State) (n : Tid) : State :=
  let s := s.modTen n (fun t => { t with xts := none })
  let s := { s with mem := { s.mem with wc := s.mem.wc.filter (fun e => e.ten != n) }
                    held := s.held.filter (fun h => h.ten != n) }
  let s := ((s.ten n).pages.map Prod.fst).foldl (fun s k => s.unmapPage n k) s
  let s := (s.wins.filter (fun e => e.2.st != .free && e.2.ten == n)).foldl (fun s e =>
    let w := s.win e.1
    let s := s.setWin e.1 { Win.init with gen := w.gen, records := w.records, authFail := w.authFail, rejected := w.rejected,
                                          last := w.last, lateLog := w.lateLog, ten := w.ten }
    match w.drainTok with
    | some k => s.finish k (Comp.okv 0 w.lateGen.toNat)
    | none => s) s
  s.modTen n (fun t => { t with ring := Quota.init, bulk := Quota.init, closing := t.closing.map (fun c => { c with freed := true }) })

/-- A token of the tenancy is still ISSUED. -/
def State.tenBusy (s : State) (n : Tid) : Bool := s.sch.pool.any (fun t => t.kernel && t.ten == n && t.st != .retiring)

/-- Step 4, once no token of the closing tenancy remains ISSUED. -/
def State.closeStep (s : State) (n : Tid) : State :=
  match (s.ten n).closing with
  | some c => if c.freed || s.tenBusy n then s else s.wipeTen n
  | none => s

/-- Pending preemptions of the tenancy's running tokens are withdrawn: they go on to their commit points, but for a save that has begun (R335,
R337). -/
def State.unask (s : State) (n : Tid) : State :=
  (s.braids.filter (fun e => e.2.ten == some n && e.2.preempt.isSome && e.2.phase != .saving)).foldl (fun s e =>
    s.modBraid e.1 (fun b => { b with preempt := none })) s

/-- Every RUNNING token of a tenancy gets a stop notice (R335 with FORCE). -/
def State.stopRunning (s : State) (n : Tid) (status : Byte) : State :=
  (s.sch.pool.filter (fun t => t.kernel && t.ten == n && t.st == .running)).foldl (fun s t =>
    match t.braid with | some b => s.sendNotice b status | none => s) s

/-- A tenancy becomes CLOSING (R335): `status` is what its stopped tokens fail with, `tok` the command to complete, `cause` that of
the TENANCY_WIPED entry. -/
def State.beginClose (s : State) (n : Tid) (force : Bool) (status : Byte) (tok : Option Nat) (cause : Option W64) : State :=
  let t := s.ten n
  if t.st == .free || t.st == .closing then s
  else
    let s := s.setTen n { t with st := .closing
                                 closing := some { force := force, status := status, tok := tok, wiped := cause, freed := false, orphan := t.st == .orphaned } }
    let s := s.closeNotice n
    let s := (s.failIdle n status).dropHeld n
    let s := if force then s.stopRunning n status else s
    let s := s.unask n
    let s := s.pkeAbort n
    let s := (s.splices.filter (fun e => e.2.st != .free && e.2.ten == n)).foldl (fun s e => s.closeSplice e.1 status) s
    let s := (s.wins.filter (fun e => e.2.st == .open_ && e.2.ten == n)).foldl (fun s e => s.closeWin e.1) s
    s.closeStep n

/-! ## The end of a close -/

/-- A frame that the tenancy held is not scrubbed yet. -/
def State.scrubsOf (s : State) (n : Tid) : Bool :=
  s.mem.use.any (fun e => match e.2 with | some (.scrubbing m) => m == n | _ => false)

/-- What a tenancy that is FREE keeps: what TEN.STATE, TEN.LATE, TEN.BRAIDS and TEN.REVEALS show of its last life. -/
def Ten.freed (t : Ten) : Ten :=
  { Ten.init with fn := t.fn, prio := t.prio, weight := t.weight, revealOk := t.revealOk, mirror := t.mirror, ctxslots := t.ctxslots,
                  fails := t.fails, braids := t.braids, reveals := t.reveals, late := t.late
                  mir := { Mirror.init with epoch := t.mir.epoch, applied := t.mir.applied, wms := t.mir.wms } }

/-- TENANCY_CLOSE_COMPLETE: tables, keys, slots and chains are released, the tenancy is FREE, and a braid that ran it holds no tenancy's
contents any more for a later tenancy of the same ID, nor does a test in the field (log 42); the owner's source 0x120 + f is raised,
TENANCY_WIPED is logged where the close was not by command, and the command completes. -/
def State.closeDone (s : State) (n : Tid) : State :=
  let t := s.ten n
  match t.closing with
  | none => s
  | some c =>
    if !(s.schedUp && c.freed && !s.tenBusy n && !s.scrubsOf n) then s
    else
      let s := (s.slotsOf n).foldl (fun s i => s.freeSlot i) s
      let s := (s.setTen n t.freed).raise (0x120 + t.fn.toNat)
      let s := (s.braids.filter (fun e => e.2.ten == some n || e.2.storeTen == some n)).foldl (fun s e => s.modBraid e.1 (fun b =>
        { b with ten := if b.ten == some n then none else b.ten
                 storeTen := if b.storeTen == some n then none else b.storeTen })) s
      let s : State := { s with bist := { s.bist with saved := s.bist.saved.filter (fun x => x.ten != n) } }
      let s := match c.wiped with
        | some k => s.tenEvent n 3 0x31 Status.tenancyWiped k.toNat
        | none => s
      match c.tok with
      | some e =>
        let own := (s.sch.pool.filter (fun u => u.kernel && u.ten == n)).map (·.cmdId)
        (s.modTok e (fun u => { u with deps := own })).finish e (Comp.okv 0 0)
      | none => s

/-- TEN_CLOSE. -/
def State.tenCloseCmd (s : State) (t : Token) : State := s.beginClose t.ten (t.bodyBit 0 0) Status.aborted (some t.id) none

def execTenClose (e : Nat) (s : State) : Result := .next (s.startCmd e (selOp 0x11) State.tenCloseCmd)

end Sys2Proof.Machine
end

