-- ==== Sys2Proof/Machine/Finish.lean ====
section
/-! DEFINITION. Finish.lean: the end of a dispatched token: commit, failure, stop notices and timeouts (R34, R69, R75, R127, R157,
R225, R274, R295, R304, R328, R329, R504). -/

namespace Sys2Proof.Machine

/-! ## The braid afterwards -/

/-- The braid has no token. Its tenancy, its scratchpads, its image and its waiting persistent rings stay (R25, R104, R226). -/
def Braid.rest (b : Braid) : Braid :=
  { b with phase := .idle, tok := none, preempt := none, notice := none, stop := none, hitchReq := false, atEnd := false, flights := [], weave := none,
           waitDone := none, faultAt := none, queue := [], reserved := 0, nextTile := 0, tiles := 0, bcuBad := false, spliceEn := false, restore := false }

/-! ## Failure (R504) -/

/-- PC and clause as a TOKEN_FAIL entry's argument carries them (log 35). -/
def pcClause (r : StopRec) : W64 := put 0 12 r.pc.toNat ||| put 16 3 r.clause.toNat

/-- Statuses whose failure has a faulting address. -/
def hasAddress (st : Byte) : Bool :=
  [Status.pageUnmapped, Status.quotaExceeded, Status.caseViolation, Status.poisonedOperand, Status.eccUncorrected].contains st

/-- Regions whose written bit is set are poisoned. -/
def Braid.poisonWritten (b : Braid) : Braid := { b with spPoison := b.written.foldl (fun p k => p.add k) b.spPoison }

/-- HADDR of the address that a failure on braid `i` concerns, 0 where it concerns none (R508, R509, log 35). -/
def State.faultHash (s : State) (i : Nat) (n : Tid) (st : Byte) : W64 :=
  match (if hasAddress st then (s.braid i).faultAt else none) with
  | some (.tva a) => s.haddr n a
  | some (.sp c a) => s.haddr n (spPlace i c a)
  | none => 0

/-- A token fails after dispatch (R504): regions it wrote are poisoned, its writes pass a fence, the headers of its destinations and of
sources used in place are poisoned, it enters RETIRING; the black-box entry hashes the address that the failure concerns, if any (R509). -/
def State.failTok (s : State) (i e : Nat) (r : StopRec) : State :=
  match s.tok e with
  | none => s.modBraid i Braid.rest
  | some t =>
    let v := s.faultHash i t.ten r.status
    let s := s.finishFills i
    let s := if (s.braid i).dmaWaits then s.endDmaWait i (s.braid i).phase else s
    let s := s.modBraid i (fun b => (b.endDrain.poisonWritten.disarmAll).rest)
    let s := s.leaveGroups i
    let s := s.contain t r.status
    let s := (if t.ctx.isSome then s.freeCtx t.ten e else s).rankFailed e r.status
    (s.finishAt e (Comp.ofStatus r.status 0) [] (pcClause r) v).closeStep t.ten

/-- The failure by a check-prime mismatch, which takes precedence over a later stop (R157). -/
def Braid.bcuStop (b : Braid) : StopRec := { status := Status.residueCheckFail, pc := b.pc, clause := 0 }

/-- Why the braid's token fails now: its kernel has stopped, or its issue has ended with a check-prime mismatch (R157) or with too few
exports (R295); every result has landed. -/
def State.failure (s : State) (i : Nat) : Option StopRec :=
  let b := s.braid i
  if !(b.flights.isEmpty && b.weave.isNone) then none
  else if b.phase == .stopped then (if b.bcuBad then b.stop.map (fun _ => b.bcuStop) else b.stop)
  else if b.phase == .ended then
    if b.bcuBad then some b.bcuStop
    else if b.nextTile < b.tiles then some { status := Status.spliceMismatch, pc := b.pc, clause := 0 }
    else none
  else none

/-- TOKEN_FAIL. -/
def State.tokenFail (s : State) (i : Nat) : State :=
  match s.live, (s.braid i).tok, s.failure i with
  | true, some e, some r => s.failTok i e r
  | _, _, _ => s

def execTokenFail (b : Bid) (s : State) : Result := .next (s.tokenFail b.toNat)

/-! ## Commit (R34) -/

/-- A rank may commit: its splice has ended and, where suspect, has been checked (R304). -/
def State.rankMay (s : State) (e : Nat) : Bool :=
  match s.spliceOf e with
  | some k => let x := s.splice k; x.over && x.status == 0 && (!x.suspect || x.passed)
  | none => true

/-- May the braid's token retire. -/
def State.mayRetire (s : State) (i e : Nat) : Bool :=
  let b := s.braid i
  s.live && b.phase == .ended && b.flights.isEmpty && b.weave.isNone && (s.failure i).isNone && b.ringsDrained && s.rankMay e

/-- TOKEN_RETIRE: the writes pass the fence, the destination headers are written, the token's outputs are visible and it is
RETIRING (R34, R69). -/
def State.tokenRetire (s : State) (i : Nat) : State :=
  match (s.braid i).tok with
  | none => s
  | some e =>
    match s.tok e with
    | none => s
    | some t =>
      if !s.mayRetire i e then s
      else
        let s := if (s.braid i).dmaWaits then s.endDmaWait i .ended else s
        let s := (s.modBraid i (fun b => b.endDrain.retireRings.rest)).leaveGroups i
        let s := (s.writeHeaders t t.dests).fenceTok e
        let s := s.rankCommitted e
        (s.finish e (Comp.ofStatus (if t.flagged then Status.okFlagged else Status.ok) 0)).closeStep t.ten

def execTokenRetire (b : Bid) (s : State) : Result := .next (s.tokenRetire b.toNat)

/-- WC_FENCE_DONE: the fence of a token whose issue has ended reaches the controllers that took its writes. -/
def State.wcFence (s : State) (e : Nat) : State :=
  match s.tok e with
  | some t =>
    match t.braid with
    | some i => if s.live && t.st == .running && (s.braid i).phase == .ended && (s.braid i).tok == some e then s.fenceTok e else s
    | none => s
  | none => s

def execWcFenceDone (e : Nat) (s : State) : Result := .next (s.wcFence e)

/-! ## Stop notices and timeouts (R328, R329) -/

/-- STOP_NOTICE_ARRIVAL: the kernel stops at issue with CLAUSE 0b110; once issue is over the notice stops nothing (R329). A cycle whose first
clauses have issued is issued whole (R106), and a save that has begun completes first (R337, DESIGN CHOICE, log 97). -/
def State.noticeArrives (s : State) (i : Nat) : State :=
  let b := s.braid i
  match b.notice with
  | none => s
  | some st =>
    if !s.live || (b.phase == .saving && !b.issueOver) then s
    else
      let b := { b with notice := none }
      if b.phase == .idle || b.issueOver || b.phase == .stopped then s.setBraid i b
      else if b.phase == .issuing && !b.issued.isEmpty then
        s.setBraid i (if b.stop.isSome then b else { b with stop := some { status := st, pc := b.pc, clause := 6 } })
      else s.afterBraid i (b.stopNow st 6)

def execStopNoticeArrival (b : Bid) (s : State) : Result := .next (s.noticeArrives b.toNat)

/-- TOKEN_TIMEOUT_EXPIRY: the count of a running token ends; a token that has reached its commit point is not running. -/
def State.timeoutExpiry (s : State) (e : Nat) : State :=
  match s.tok e with
  | some t =>
    match t.braid with
    | some i =>
      if s.schedUp && t.st == .running && t.remain != 0 && (s.braid i).tok == some e then
        (s.modTok e (fun t => { t with remain := 0 })).sendNotice i Status.timeout
      else s
    | none => s
  | none => s

def execTokenTimeoutExpiry (e : Nat) (s : State) : Result := .next (s.timeoutExpiry e)

end Sys2Proof.Machine
end

