-- ==== Sys2Proof/Machine/Sec.lean ====
section
/-! DEFINITION. Sec.lean: identity, attestation, tenancy channels, the life cycle, DEBUG_UNLOCK, BBX_CLEAR and the entropy source
(R388–R393, R399–R415, R419, R511). -/

namespace Sys2Proof.Machine

open Sys2Proof.Arith

/-! ## Identity (R399, R400) -/

/-- 64 bytes that the spec leaves open: the salt of a signature (log 48). -/
def State.free64 (s : State) : List Byte × State :=
  ((List.range 8).flatMap (fun i => leBytes 8 (Config.free (s.draws + i)).toNat), { s with draws := s.draws + 8 })

/-- The key that wraps the identity key. -/
def State.wrapBytes (s : State) : List Byte := leBytes 32 (Config.wrapKey s.fuses.secret).toNat

/-- Wrap a key pair, modulus and private exponent, with AES-256-GCM (R400). -/
def State.wrapId (s : State) (iv : List Byte) (n d : Nat) : IdKey :=
  let x := Crypto.gcmSeal s.wrapBytes iv [] (leBytes 512 n ++ leBytes 512 d)
  { iv := iv, ct := x.1, tag := x.2 }

/-- Unwrap it. -/
def State.unwrapId (s : State) (k : IdKey) : Nat × Nat :=
  match Crypto.gcmOpen s.wrapBytes k.iv [] k.ct k.tag with
  | some p => (leNat (p.take 512), leNat (p.drop 512))
  | none => (0, 0)

/-- The identity key pair: the one generated here, or the one the module came with (log 48). -/
def State.idPair (s : State) : Nat × Nat :=
  match s.die.idKey with
  | some k => s.unwrapId k
  | none => ((Config.factoryKey s.fuses.serial).1.toNat, (Config.factoryKey s.fuses.serial).2.toNat)

/-- An identity-key signature of 512 bytes over a message: RSASSA-PSS, SHA-512, a salt of 64 bytes. -/
def State.idSign (s : State) (m : List Byte) : List Byte × State :=
  let salt := s.free64
  (slice (Crypto.pssSign s.idPair.1 s.idPair.2 (Crypto.sha512 m) salt.1) 0 512, salt.2)

/-- The bytes whose SHA-512 is measurement 7, in the order R399 lists them (log 49). -/
def State.fuseMap (s : State) : List Byte :=
  leBytes 8 s.ident.toNat ++ Crypto.digestBytes s.fuses.maps ++ leBytes 8 s.fuses.svn.toNat ++ Crypto.digestBytes s.fuses.fwKey ++
    Crypto.digestBytes s.fuses.lcKey

/-- Measurement `i`, 1 to 7. -/
def State.measurement (s : State) (i : Nat) : List Byte :=
  match i with
  | 1 => Crypto.digestBytes s.fuses.rom
  | 6 => [BitVec.ofNat 8 s.lc]
  | 7 => Crypto.sha512 s.fuseMap
  | _ => Crypto.digestBytes (s.boot.digests.getD (i - 2) 0)

/-- MEAS: measurements 1 to 7, 64 bytes each. -/
def State.meas (s : State) : List Byte := (List.range 7).flatMap (fun i => slice (s.measurement (i + 1)) 0 64)

/-- Run a SEC service: the security core runs. -/
def State.secCmd (s : State) (e v : Nat) (run : State → Token → State) : State :=
  if s.secUp then s.startCmd e (selSvc v) run else s

/-- A service of the security core that uses the public-key engine: served at once where the engine is idle (the time it takes there is not
stated, log 47), else a request in its queue, in arrival order (R445). -/
def State.viaEngine (s : State) (t : Token) (bs : List Byte) (run : State → Token → List Byte → State) : State :=
  if s.pke.idle then (run s t bs).raise 0x361 else s.pkeRequest { tok := some t.id, buf := bs }

/-! ## Attestation (R401–R403) -/

/-- Bytes 0-639 of a report. -/
def State.report (s : State) (n : Tid) (nonce : List Byte) : List Byte :=
  [0x4B, 0x5A, 0x41, 0x52, BitVec.ofNat 8 s.lc, n, 0, 0] ++ leBytes 8 s.fuses.serial.toNat ++ leBytes 4 s.ident.toNat ++
    leBytes 4 s.boot.version.toNat ++ leBytes 8 s.cap.braids.toNat ++ List.replicate 32 0 ++ s.meas ++ nonce ++
    Crypto.digestBytes (if n = 0xFF then 0 else ((s.ten n).pin).getD 0) ++ List.replicate 32 0

/-- ATTEST. -/
def State.attestCmd (s : State) (t : Token) (buf : List Byte) : State :=
  let m := s.report (cmdActsOn t.cmd) (slice buf 512 32)
  let r := s.idSign m
  (r.2.hostOut t (m ++ r.1)).finish t.id (Comp.okv 0 0)

def execAttest (e : Nat) (buf : HostBuf) (s : State) : Result :=
  .next (s.secCmd e 0x01 (fun s t => s.withBuf t buf (fun bs => s.viaEngine t bs State.attestCmd)))

/-- The device-identity chain: its device certificate binds the identity key to the serial number and CAP.IDENT (R401). -/
def State.certs (s : State) : List Byte := Config.certChain s.fuses.serial s.ident (BitVec.ofNat 4096 s.idPair.1)

/-- The certificate chain as the 16 KiB buffer takes it. -/
def State.chain (s : State) : List Byte := s.certs.take 16384

/-- CHAIN_GET. -/
def State.chainGetCmd (s : State) (t : Token) : State := (s.hostOut t s.chain).finish t.id (Comp.okv 0 s.chain.length)

def execChainGet (e : Nat) (s : State) : Result := .next (s.secCmd e 0x02 State.chainGetCmd)

/-! ## Tenancy channels (R407–R411) -/

/-- A KIND 6 record of a key that changed (R523). -/
def State.keyRecord (s : State) (t : Token) (cs : List TableChange) : State :=
  s.sendRecord t.ten
    { mseq := 0, epoch := 0, tenancy := t.ten, kind := 6, ring := t.ring, fn := (s.ten t.ten).fn, origin := t.fn, seq := t.seq, set := 0, last := false,
      seqgen := t.seqgen, granules := [], changes := cs, comp := { status := 0, detail := 0, position := 0, value := 0 } }

/-- F and G of a channel buffer. -/
def Curve.chanF (c : Curve) : Nat := 8 * Nat.max 6 c.pw
def Curve.chanG (c : Curve) : Nat := 8 * Nat.max 12 c.nw

/-- A public key of a channel buffer. -/
def chanPoint (buf : List Byte) (off f : Nat) : Nat × Nat := (beNat (slice buf off f), beNat (slice buf (off + f) f))
def Curve.good (c : Curve) (q : Nat × Nat) : Bool := c.inRange (some q) && c.has (some q)
def pointBytes (f : Nat) : Pt → List Byte
  | some q => beBytes f q.1 ++ beBytes f q.2
  | none => List.replicate (2 * f) 0

/-- The pin that Qs and the curve byte give. -/
def pinOf (buf : List Byte) (f curve : Nat) : BitVec 512 := Crypto.digest (slice buf 0 (2 * f) ++ [BitVec.ofNat 8 curve])

/-- Steps 3 to 5 of R407: ephemerals are drawn, the keys derived, the answer returned, the pin set. The x-coordinate of a
product at infinity is a free value (log 50). -/
def State.chanAnswer (s : State) (t : Token) (k : Nat) (c : Curve) (buf : List Byte) : State :=
  let n := t.ten
  let f := c.chanF
  let g := c.chanG
  let d := s.randBelow c.nw c.n
  let nd := d.2.drbg
  let z := c.mul d.1 (some (chanPoint buf (2 * f) f))
  let zx : Nat × State := match z with
    | some q => (q.1, nd.2)
    | none => ((nd.2.free).1.toNat, (nd.2.free).2)
  let s := zx.2
  let ndb := leBytes 32 (fld nd.1 0 256)
  let m := slice buf 0 (4 * f + 2 * g + 32) ++ pointBytes f (c.mul d.1 c.g) ++ ndb
  let sig := s.idSign (Crypto.sha512 (m ++ [n] ++ s.meas))
  let s := sig.2
  let okm := Crypto.hkdfExpand (Crypto.hkdfExtract (slice buf (4 * f) 32 ++ ndb) (beBytes (8 * c.pw) zx.1))
    ([0x4B, 0x5A, 0x43, 0x31] ++ [n]) 64
  let kc : BitVec 256 := BitVec.ofNat 256 (leNat (okm.take 32))
  let kd : BitVec 256 := BitVec.ofNat 256 (leNat (okm.drop 32))
  let pin := pinOf buf f k
  let first := (s.ten n).pin.isNone
  let s := s.modTen n (fun x => { x with chan := some { kc := kc, kd := kd, seqC := 0, seqD := 0 }
                                         pin := some pin, pinCurve := BitVec.ofNat 3 k })
  let s := s.keyRecord t ([.channel kc kd] ++ (if first then [.pin pin (BitVec.ofNat 3 k)] else []))
  (s.hostOut t (m ++ sig.1)).finish t.id (Comp.okv 0 0)

/-- The signature of the client over bytes 0 to 4F + 31 and the tenancy. -/
def State.chanSigned (n : Tid) (c : Curve) (buf : List Byte) : Bool :=
  let f := c.chanF
  let g := c.chanG
  let h := Crypto.sha512 (slice buf 0 (4 * f + 32) ++ [n])
  c.ecVerify (some (chanPoint buf 0 f)) (c.hashInt h) (beNat (slice buf (4 * f + 32) g)) (beNat (slice buf (4 * f + 32 + g) g))

/-- CHAN_OPEN from step 1 on, with the buffer read. A curve released while it waited is not loaded. -/
def State.chanServe (s : State) (t : Token) (bs : List Byte) : State :=
  let k := t.body 2 1
  match s.curve k with
  | none => s.finish t.id (Comp.aborted 0x0A)
  | some c =>
    if !s.drbgOk then s.finish t.id (Comp.aborted 0x0A)
    else if !(c.good (chanPoint bs 0 c.chanF)) || !(c.good (chanPoint bs (2 * c.chanF) c.chanF)) then
      s.finish t.id (Comp.ofStatus Status.pointNotOnCurve 0)
    else if !(State.chanSigned t.ten c bs) ||
        (match (s.ten t.ten).pin with | some p => p != pinOf bs c.chanF k | none => false) then
      s.finish t.id (Comp.ofStatus Status.signCheckFail 0)
    else s.chanAnswer t k c bs

/-- CHAN_OPEN. -/
def State.chanOpenCmd (s : State) (t : Token) (buf : HostBuf) : State :=
  let k := t.body 2 1
  if 7 < k then s.finish t.id (Comp.aborted 0x09)
  else match s.curve k with
  | none => s.finish t.id (Comp.aborted 0x0A)
  | some c =>
    if cmdHlen t.cmd ≠ 6 * c.chanF + 2 * c.chanG + 576 then s.finish t.id (Comp.aborted 0x06)
    else s.withBuf t buf (fun bs => s.viaEngine t bs State.chanServe)

def execChanOpen (e : Nat) (buf : HostBuf) (s : State) : Result := .next (s.secCmd e 0x10 (fun s t => s.chanOpenCmd t buf))

/-- IV of channel record `n`. -/
def chanIv (n : Nat) : List Byte := [0, 0, 0, 0] ++ leBytes 8 n

/-- The effect of a record: the tenancy, the result byte, what the partner is told (R410). A type or payload that R410 does not list is
out of range (log 51). -/
def Ten.chanEffect (x : Ten) (ty : Nat) (p : List Byte) : Ten × Byte × List TableChange :=
  let i := leAt p 0 1
  let key : BitVec 256 := BitVec.ofNat 256 (leAt p 1 32)
  if ty = 1 ∧ p.length = 33 ∧ i ≤ 15 then
    ({ x with winKeys := Sparse.set none x.winKeys i (some key) }, 0, [.winKey (BitVec.ofNat 4 i) key])
  else if ty = 2 ∧ p.length = 33 ∧ i ≤ 3 then
    ({ x with migKeys := Sparse.set none x.migKeys i (some key) }, 0, [.migKey (BitVec.ofNat 2 i) key])
  else if ty = 3 ∧ p.length = 2 ∧ i = 0 ∧ leAt p 1 1 ≤ 15 then
    ({ x with winKeys := Sparse.set none x.winKeys (leAt p 1 1) none }, 0, [.eraseKey false (BitVec.ofNat 4 (leAt p 1 1))])
  else if ty = 3 ∧ p.length = 2 ∧ i = 1 ∧ leAt p 1 1 ≤ 3 then
    ({ x with migKeys := Sparse.set none x.migKeys (leAt p 1 1) none }, 0, [.eraseKey true (BitVec.ofNat 4 (leAt p 1 1))])
  else (x, 1, [])

/-- The ACK record: it carries the client's SEQ and the result byte (log 51). -/
def ackRecord (kd : BitVec 256) (seqD seqC : Nat) (result : Byte) : List Byte :=
  let h := leBytes 8 seqD ++ leBytes 2 0x0080 ++ leBytes 2 9 ++ List.replicate 20 0
  let x := Crypto.gcmSeal (leBytes 32 kd.toNat) (chanIv seqD) h (leBytes 8 seqC ++ [result])
  h ++ x.1 ++ x.2

/-- CHAN_MSG with its record read. -/
def State.chanMsgCmd (s : State) (t : Token) (bs : List Byte) : State :=
  let n := t.ten
  let x := s.ten n
  let len := leAt bs 10 2
  let seq := leAt bs 0 8
  if cmdHlen t.cmd ≠ 48 + len then s.finish t.id (Comp.aborted 0x06)
  else match x.chan with
  | none => s.finish t.id (Comp.aborted 0x0A)
  | some c =>
    if 2 ^ 32 ≤ c.seqD.toNat then s.finish t.id (Comp.aborted 0x0A)
    else match Crypto.gcmOpen (leBytes 32 c.kc.toNat) (chanIv seq) (bs.take 32) (slice bs 32 len) (slice bs (32 + len) 16) with
    | none => s.finish t.id (Comp.ofStatus Status.recordAuthFail 0)
    | some p =>
      if seq ≤ c.seqC.toNat then s.finish t.id (Comp.ofStatus Status.recordAuthFail 0)
      else
        let r := x.chanEffect (leAt bs 8 2) p
        let d := c.seqD + 1
        let s := s.setTen n { r.1 with chan := some { c with seqC := BitVec.ofNat 64 seq, seqD := d } }
        let s := if r.2.2.isEmpty then s else s.keyRecord t r.2.2
        (s.hostOut t (ackRecord c.kd d.toNat seq r.2.1)).finish t.id (Comp.okv 0 0)

/-- A CHAN_MSG command whose record has a type that `sel` selects; a buffer that is not read selects none. -/
def State.chanMsg (s : State) (e : Nat) (buf : HostBuf) (sel : Nat → Bool) : State :=
  if (match buf with | some bs => sel (leAt bs 8 2) | none => false) then
    s.secCmd e 0x11 (fun s t =>
      if cmdHlen t.cmd < 48 ∨ 4096 < cmdHlen t.cmd then s.finish t.id (Comp.aborted 0x06)
      else s.withBuf t buf (fun bs => s.chanMsgCmd t bs))
  else s

/-- CHAN_MSG, of any type; a read error of the host buffer refuses it. -/
def execChanMsg (e : Nat) (buf : HostBuf) (s : State) : Result :=
  .next (match buf with
    | some _ => s.chanMsg e buf (fun _ => true)
    | none => s.secCmd e 0x11 (fun s t =>
        s.finish t.id (Comp.aborted (if cmdHlen t.cmd < 48 ∨ 4096 < cmdHlen t.cmd then 0x06 else 0x07))))

/-- The record types of R410 as rows of their own. -/
def execWindowKey (e : Nat) (buf : HostBuf) (s : State) : Result := .next (s.chanMsg e buf (· == 1))
def execMigrationKey (e : Nat) (buf : HostBuf) (s : State) : Result := .next (s.chanMsg e buf (· == 2))
def execErase (e : Nat) (buf : HostBuf) (s : State) : Result := .next (s.chanMsg e buf (· == 3))

/-- CHAN_CLOSE. -/
def State.chanCloseCmd (s : State) (t : Token) : State :=
  if (s.ten t.ten).chan.isNone then s.finish t.id (Comp.aborted 0x0A)
  else ((s.modTen t.ten (fun x => { x with chan := none })).keyRecord t [.noChannel]).finish t.id (Comp.okv 0 0)

def execChanClose (e : Nat) (s : State) : Result := .next (s.secCmd e 0x12 State.chanCloseCmd)

/-! ## Authenticated commands (R390, R406) -/

/-- The fields of bytes 0-63 of a certificate (R390). -/
def State.certOk (s : State) (b : List Byte) (target : Nat) : Bool :=
  slice b 0 4 == [0x4B, 0x5A, 0x4C, 0x43] && leAt b 4 1 == target && leAt b 5 3 == 0 && leAt b 8 8 == s.fuses.serial.toNat &&
    leAt b 16 8 == s.lcs.nonce.toNat && leAt b 24 40 == 0

/-- Bytes of a public key as its digest covers them: the modulus, then the exponent (R404). -/
def keyBytes (k : BitVec 4096 × BitVec 32) : List Byte := leBytes 512 k.1.toNat ++ leBytes 4 k.2.toNat

/-- A signature under the key of a stored digest; the key is compared with the digest before use (log 52). -/
def signedBy (d : BitVec 512) (m sig : List Byte) : Bool :=
  let k := Config.publicKey d
  Crypto.digest (keyBytes k) == d && Crypto.pssVerify k.1.toNat k.2.toNat (Crypto.sha512 m) sig

def State.opSigned (s : State) (b : List Byte) : Bool :=
  match s.die.opKey with | some d => signedBy d (b.take 64) (slice b 64 512) | none => false
def State.dlSigned (s : State) (b : List Byte) : Bool := signedBy s.fuses.lcKey (b.take 576) (slice b 576 512)
def noOp (b : List Byte) : Bool := leAt b 64 512 == 0
def noDl (b : List Byte) : Bool := leAt b 576 512 == 0

/-- An authenticated command ends. -/
def State.authEnd (s : State) (id : Nat) (c : Comp) : State := s.newNonce.finish id c

/-- The turn of an authenticated command at the engine, which checks its signatures. A transition that waits for its closes has consumed the
nonce, which no other certificate then matches (R393, R406). -/
def State.authServe (run : State → Token → List Byte → State) (s : State) (t : Token) (bs : List Byte) : State :=
  if !s.drbgOk then s.finish t.id (Comp.aborted 0x0A)
  else if s.lcs.wait.isSome then s.authEnd t.id (Comp.ofStatus Status.signCheckFail 0)
  else run s t bs

/-- Run an authenticated command with its host buffer, in its turn at the engine (R445); each draws a nonce at its end, so that none runs
without the DRBG (R415). They are taken in fetch order, one at a time (R393). -/
def State.authCmd (s : State) (e v : Nat) (buf : HostBuf) (run : State → Token → List Byte → State) : State :=
  if s.lcs.wait.isSome then s
  else s.secCmd e v (fun s t =>
    if !s.drbgOk then s.finish t.id (Comp.aborted 0x0A)
    else match buf with
    | none => s.authEnd t.id (Comp.aborted 0x07)
    | some bs => s.viaEngine t (slice bs 0 (cmdHlen t.cmd)) (State.authServe run))

/-! ## Life-cycle transitions (R388–R393) -/

/-- Is the transition to `target` legal and authorised by the buffer (R389, R404). -/
def State.lcAuthorised (s : State) (b : List Byte) (target : Nat) : Bool :=
  s.certOk b target &&
    (match s.lc, target with
     | 0, 1 => noOp b && s.dlSigned b
     | 1, 2 => leAt b 580 508 == 0
     | 2, 3 => s.opSigned b && s.dlSigned b
     | 2, 4 => s.opSigned b && noDl b
     | 0, 4 => noOp b && s.dlSigned b
     | 1, 4 => noOp b && s.dlSigned b
     | 3, 4 => noOp b && s.dlSigned b
     | _, _ => false)

/-- The private exponent of primes `p` and `q` for the public exponent 65,537. -/
def rsaExponent (p q : Nat) : Nat := (invMod 65537 ((p - 1) * (q - 1))).getD 0

/-- BLANK to PROVISIONED: the identity key pair is generated from the DRBG after a reseed, and written wrapped to the identity record (R400,
R413, log 48). -/
def State.makeIdentity (s : State) : State :=
  let d := s.reseed.drbg
  let pq := Config.rsaPrimes d.1
  let v := d.2.generate 12
  let n := pq.1.toNat * pq.2.toNat
  { v.2 with die := { v.2.die with idKey := some (v.2.wrapId v.1 n (rsaExponent pq.1.toNat pq.2.toNat)) } }

/-- Program the fuse word of a state (R392). -/
def State.programWord (s : State) (target : Nat) : State :=
  { s with fuses := { s.fuses with words := s.fuses.words.set (target - 1) 0xFFFFFFFF } }

/-- Step 1 of R391 for one tenancy: it closes as with FORCE; one that closes already without it is forced on. -/
def State.forceClose (s : State) (n : Tid) : State :=
  match (s.ten n).closing with
  | some c =>
    if c.force then s
    else
      (s.modTen n (fun t => { t with closing := some { c with force := true } })).stopRunning n c.status
  | none => s.beginClose n true Status.aborted none none

/-- Step 1 of R391: every tenancy that is not FREE closes. -/
def State.forceAll (s : State) : State :=
  (s.tens.filter (fun e => e.2.st != .free)).foldl (fun s e => s.forceClose (tid e.1)) s

/-- Windows close, the transition is recorded, and what the new state needs is made (R391 steps 2 and 3). -/
def State.lcReady (s : State) (target : Nat) (opKey : BitVec 512) : State :=
  let s' := (s.wins.filter (fun e => e.2.st == .open_)).foldl (fun s e => s.closeWin e.1) s
  let s' : State := { s' with lcs := { s'.lcs with pending := some (BitVec.ofNat 8 target), wait := none } }
  let s' := s'.log Dom.security 0 cleatDie 0x0002 0 none [BitVec.ofNat 64 s.lc, BitVec.ofNat 64 target]
  let s' := if s.lc = 0 ∧ target = 1 then s'.makeIdentity else s'
  if s.lc = 1 ∧ target = 2 then { s' with die := { s'.die with opKey := some opKey } } else s'

/-- Steps 2 to 5 of R391; the reset of step 5 is asked for. The request's completion is not written. -/
def State.lcGo (s : State) (target : Nat) (opKey : BitVec 512) : State :=
  let s := (s.lcReady target opKey).programWord target
  ({ s with sys := { s.sys with resetReq := some 2 } }).newNonce

/-- An authorised transition goes on once every tenancy is FREE; until then it waits for their closes (R391 step 1). -/
def State.lcStep (s : State) (w : LcWait) : State :=
  let s := s.forceAll
  if s.tens.all (fun e => e.2.st == .free) then s.lcGo w.target w.opKey else { s with lcs := { s.lcs with wait := some w } }

/-- TENANCY_CLOSE_COMPLETE; a transition that waits goes on with the last tenancy. -/
def State.closeEnd (s : State) (n : Tid) : State :=
  let s := s.closeDone n
  match s.lcs.wait with
  | some w => s.lcStep w
  | none => s

def execTenancyCloseComplete (n : Tid) (s : State) : Result := .next (s.closeEnd n)

/-- LC_ADVANCE. -/
def State.lcAdvanceCmd (s : State) (t : Token) (b : List Byte) : State :=
  let target := leAt b 4 1
  if !s.lcAuthorised b target then s.authEnd t.id (Comp.ofStatus Status.signCheckFail 0)
  else if s.tens.any (fun e => e.2.st != .free) && !t.bodyBit 2 0 then s.authEnd t.id (Comp.aborted 0x0A)
  else s.lcStep { target := target, opKey := Crypto.digest (slice b 64 516) }

def execLcAdvance (e : Nat) (buf : HostBuf) (s : State) : Result := .next (s.authCmd e 0x20 buf State.lcAdvanceCmd)

/-! ## BBX_CLEAR and DEBUG_UNLOCK (R404, R419, R511) -/

/-- BBX_CLEAR: the first-fault area is emptied, then FFA_CLEARED is logged with the nonce consumed. -/
def State.bbxClearCmd (s : State) (t : Token) (b : List Byte) : State :=
  if !(s.certOk b 0xFF && s.opSigned b) then s.authEnd t.id (Comp.ofStatus Status.signCheckFail 0)
  else
    let n := s.lcs.nonce
    let s : State := { s with die := { s.die with ffa := [] } }
    (s.log Dom.security 0 cleatDie 0x0081 0 none [n]).authEnd t.id (Comp.okv 0 0)

def execBbxClear (e : Nat) (buf : HostBuf) (s : State) : Result := .next (s.authCmd e 0x21 buf State.bbxClearCmd)

/-- The scratchpads and the sentence store of a braid are wiped. -/
def Braid.wipeStores (b : Braid) : Braid :=
  { b with sp := [], spPoison := [], written := [], ecc1 := [], ecc2 := [], sealMap := 0, clear := [], sents := [], storeTen := none,
           ten := none }

/-- DEBUG_UNLOCK: scratchpads, sentence stores and PKE operand memory are wiped before the completion. -/
def State.debugUnlockCmd (s : State) (t : Token) (b : List Byte) : State :=
  if !(s.certOk b 0xFE && noOp b && s.dlSigned b) then s.authEnd t.id (Comp.ofStatus Status.signCheckFail 0)
  else
    let s : State := { s with braids := Sparse.mapAll Braid.init s.braids (fun _ x => x.wipeStores), pke := { s.pke with slots := [] }
                              lcs := { s.lcs with unlocked := true } }
    s.authEnd t.id (Comp.okv 0 0)

def execDebugUnlock (e : Nat) (buf : HostBuf) (s : State) : Result := .next (s.authCmd e 0x22 buf State.debugUnlockCmd)

/-- The service of an entry whose turn at the engine has come. -/
def State.secServe (s : State) (t : Token) (bs : List Byte) : State :=
  match svcOf t.cmd with
  | 0x01 => s.attestCmd t bs
  | 0x20 => State.authServe State.lcAdvanceCmd s t bs
  | 0x21 => State.authServe State.bbxClearCmd s t bs
  | 0x22 => State.authServe State.debugUnlockCmd s t bs
  | _ => s.chanServe t bs

/-! ## The entropy source (R412, R415) -/

/-- The start-up test over windows: one that passes ends with a window that passes, and never failed three in a row (R412). -/
def Lcs.startup (l : Lcs) (ws : List (BitVec 1024)) : Lcs :=
  let l := { l with trng := Trng.init }
  let m := l.windows ws
  if m.trng.bad = 0 then m else l

/-- TRNG_STARTUP_TEST_DONE after the windows `ws`: those that fail are discarded and counted; 384 bits of noise that passes instantiate
the DRBG with SERIAL (R412, R413). It reports ready, and the nonce is drawn (R406). A module that is not serviceable reports no DRBG (R487). -/
def State.trngUp (s : State) (ws : List (BitVec 1024)) : State :=
  if s.secUp && !s.sys.unserv && !s.lcs.failed && !s.ready .drbg then
    let e := State.entropy { s with lcs := s.lcs.startup ws }
    if 3 ≤ e.2.lcs.trng.bad then e.2.sourceDead
    else
      let d := Crypto.Drbg.instantiate e.1 (leBytes 8 s.fuses.serial.toNat)
      ({ e.2 with lcs := { e.2.lcs with ok := true, gens := 0, drbg := d } }.setReady .drbg true).newNonce
  else s

def execTrngStartupTestDone (s : State) : Result := .next (s.trngUp (Config.startup s.draws))

/-- KIND 3 rings whose slot fill has not begun. -/
def State.waitingDraws (s : State) : List (Nat × Nat) :=
  s.braids.flatMap (fun e => (e.2.rings.filter (fun r => r.2.kind == 3 &&
    (match r.2.xfer with | some x => x.wait != .done | none => false))).map (fun r => (e.1, r.1)))

/-- The failure of the source is reported: the test that the last window failed is logged, 1 for adaptive proportion alone (log 100), source
0x360 is raised, and slot fills that wait for the DRBG fail their streams (R415). -/
def State.sourceReport (s : State) : State :=
  let s : State := { s with lcs := { s.lcs with trng := { s.lcs.trng with due := false } } }
  let s := (s.log Dom.security 2 cleatDie 0x0060 0 none [if s.lcs.trng.apt then 1 else 0]).raise 0x360
  s.waitingDraws.foldl (fun s x =>
    s.failStream x.1 x.2 Status.internal (((s.braid x.1).ring x.2).xfer.map (·.slot)) (List.range 64)) s

/-- ENTROPY_SOURCE_FAIL: with the windows sampled, the last three of which fail in a row, the failing ones are counted, and TRNG and DRBG are
not ready; or a failure that a draw has met is reported. -/
def State.entropyFail (s : State) (ws : List (BitVec 1024)) : State :=
  let l := s.lcs.windows ws
  if !s.secUp then s
  else if s.lcs.trng.due then s.sourceReport
  else if s.lcs.failed || l.trng.bad != 3 || (s.lcs.windows ws.dropLast).trng.bad != 2 then s
  else (State.sourceDead { s with lcs := l }).sourceReport

def execEntropySourceFail (ws : List (BitVec 1024)) (s : State) : Result := .next (s.entropyFail ws)

end Sys2Proof.Machine
end

