-- ==== Sys2Proof/Machine/Bist.lean ====
section
/-! DEFINITION. Bist.lean: resets of one braid and built-in self-test, at power-up and in the field (R131, R361, R397, R420, R421, R466,
R471, R474, R483–R491, R501). -/

namespace Sys2Proof.Machine

/-! ## A braid reset (R471, R474) -/

/-- The braid's registers return to their reset values, FOLD to its BIST result (R136), its soft repairs are gone (R485), and its endpoints on
the hawser are emptied; the state of its PLL and of its strand's link is not the braid's own. -/
def State.resetBraid (s : State) (i : Nat) : State :=
  let s : State := { s with bist := { s.bist with repairs := s.bist.repairs.filter (fun e => e.1 / 1025 != i) } }
  (s.modBraid i (fun b => { Braid.init with
    pllUp := b.pllUp, linkDown := b.linkDown, held := b.held, fold := bit s.cap.fold i, foldHigh := b.foldHigh })).leaveGroups i

/-! ## Golden signatures and spares (R483, R485) -/

/-- The type of a unit: braid, the eight kinds of hawser unit, those of the cleat, the record die (R483). -/
def unitType (u : Nat) : Nat := if u < 64 then 0 else if u < 80 then 1 + (u - 64) % 8 else 9 + (u - 80)

/-- The golden signature fused for a unit's type. -/
def State.golden (s : State) (u : Nat) : W64 := s.fuses.golden.getD (unitType u) 0

/-- A hawser, cleat or record-die unit passes: its spares suffice, and the last run gives the golden signature. -/
def State.unitPasses (s : State) (u : Nat) (r : UnitResult) : Bool := r.spared && r.sig == s.golden u

/-- Numbers in the repair maps of a scratchpad bank of a braid, and of its sentence store. -/
def bankKey (i core bank : Nat) : Nat := 1025 * i + 16 * core + bank
def storeKey (i : Nat) : Nat := 1025 * i + 1024

/-- Rows and columns that soft repair is to take after the first run of a braid's test. -/
def softOf (r : BraidResult) : Sparse (Nat × Nat) :=
  let m := r.banks.foldl (fun m x =>
    let k := bankKey r.braid.toNat x.core.toNat x.bank.toNat
    let y := Sparse.get (0, 0) m k
    Sparse.set (0, 0) m k (y.1 + x.rows.toNat, y.2 + x.cols.toNat)) []
  Sparse.set (0, 0) m (storeKey r.braid.toNat) (r.store.toNat, 0)

/-- The spares that the manufacturing map leaves suffice: of 8 rows and 4 columns of a bank, of 4 rows of a sentence store. -/
def State.spareFits (s : State) (e : Nat × Nat × Nat) : Bool :=
  let f := Sparse.get (0, 0) s.fuses.spares e.1
  if e.1 % 1025 = 1024 then decide (f.1 + e.2.1 ≤ 4) else decide (f.1 + e.2.1 ≤ 8) && decide (f.2 + e.2.2 ≤ 4)

/-- The soft repairs of a test that find spares. -/
def State.softDone (s : State) (r : BraidResult) : Sparse (Nat × Nat) := (softOf r).filter s.spareFits

/-- Spare rows and columns of a braid in use, fused and soft. -/
def State.sparesUsed (s : State) (i : Nat) (soft : Sparse (Nat × Nat)) : Nat × Nat :=
  ((s.fuses.spares ++ soft).filter (fun e => e.1 / 1025 == i)).foldl (fun n e => (n.1 + e.2.1, n.2 + e.2.2)) (0, 0)

/-- A count in a field of eight bits; what the field shows of a larger one is a free value (log 115). -/
def State.byteField (s : State) (n : Nat) : Byte × State :=
  if n < 256 then (BitVec.ofNat 8 n, s) else (BitVec.ofNat 8 (fld (s.free).1 0 8), (s.free).2)

/-- The cores that pass: those that the last run passes and whose banks had spares enough. -/
def State.coresLeft (s : State) (r : BraidResult) : W64 :=
  (softOf r).foldl (fun m e => if e.1 % 1025 = 1024 ∨ s.spareFits e then m else m &&& ~~~(oneBit (e.1 % 1025 / 16))) r.cores

/-- The rest of the braid passes: sequencer, sentence store with spares enough, weave, control core, and the link of its strand. -/
def State.restLeft (s : State) (r : BraidResult) : Bool :=
  r.restOk && (softOf r).all (fun e => e.1 % 1025 != 1024 || s.spareFits e) && !bit s.bist.badLinks (r.braid.toNat / 4)

/-! ## The result of a braid's test -/

/-- The cores that serve the pairs in fold mode: none when a pair has no passing core; where both pass, the lower (log 54). -/
def foldCores (cores : W64) : Option (BitVec 32) :=
  if (List.range 32).all (fun c => bit cores c || bit cores (c + 32)) then
    some (BitVec.ofNat 32 ((List.range 32).foldl (fun m c => if bit cores c then m else m + 2 ^ c) 0))
  else none

/-- Released whole, released in fold mode, or absent. -/
inductive BraidOutcome where
  | full
  | folded (high : BitVec 32)
  | absent
  deriving DecidableEq, Repr

/-- The outcome of a test: a braid all of whose parts pass is whole when its signature is the golden one, and has failed otherwise. -/
def State.outcomeOf (s : State) (r : BraidResult) : BraidOutcome :=
  if !s.restLeft r then .absent
  else if s.coresLeft r = BitVec.allOnes 64 then (if r.sig = s.golden r.braid.toNat then .full else .absent)
  else match foldCores (s.coresLeft r) with | some h => .folded h | none => .absent

/-- RESULT of BST.UNIT: 1 pass, 2 pass after repair, 3 fail. -/
def resultCode (ok repaired : Bool) : BitVec 2 := if !ok then 3 else if repaired then 2 else 1

/-- A test is entered in BST and logged (R491, R509); one that needed a repair has run twice (R485). -/
def State.testedUnit (s : State) (u : Nat) (res : BitVec 2) (held fold repaired : Bool) (rows cols : Byte) (sig : W64) : State :=
  let x := s.unit u
  let s := s.setUnit u { result := res, held := held, fold := fold, rows := rows, cols := cols
                         runs := x.runs + (if repaired then 2 else 1), sig := sig }
  s.log Dom.security 0 cleatDie 0x0003 0 none
    [BitVec.ofNat 64 u, res.setWidth 64, sig, put 0 8 rows.toNat ||| put 8 8 cols.toNat]

/-- The lowest of a braid's three limits (R539). -/
def PwrBraid.lowest (p : PwrBraid) : BitVec 5 := BitVec.ofNat 5 (Nat.min p.limit.toNat (Nat.min p.therm.toNat p.cap.toNat))

/-- The test of a braid ends: BST, CAP, the braid released whole or folded, or held and absent. A braid whose strand link has failed stays
absent until the power-up BIST (R501); one whose control core does not confirm its image is held (R397). `up` says that this is the
power-up test, which starts the braid's clock. -/
def State.braidTested (s : State) (r : BraidResult) (up : Bool) : State :=
  let i := r.braid.toNat
  let o := s.outcomeOf r
  let soft := s.softDone r
  let repaired := !(softOf r).isEmpty
  let fold := match o with | .folded _ => true | _ => false
  let used := s.sparesUsed i soft
  let rows := s.byteField used.1
  let cols := rows.2.byteField used.2
  let passed := s.coresLeft r
  let s := cols.2.testedUnit i (resultCode (o == .full) repaired) (o == .absent) fold repaired rows.1 cols.1 r.sig
  let s : State := { s with bist := { s.bist with cores := Sparse.set 0 s.bist.cores i passed } }
  let s := s.resetBraid i
  let s : State := { s with bist := { s.bist with repairs := soft.foldl (fun m e => Sparse.set (0, 0) m e.1 e.2) s.bist.repairs } }
  let s := s.modBraid i (fun b => { b with fold := fold, foldHigh := match o with | .folded h => h | _ => 0
                                           pllUp := up || b.pllUp, linkDown := b.linkDown && !up })
  let here := o != .absent && !(s.braid i).linkDown
  let bitOn := fun (m : W64) (on : Bool) => if on then m ||| oneBit i else m &&& ~~~(oneBit i)
  let s : State := { s with cap := { s.cap with braids := bitOn s.cap.braids here, fold := bitOn s.cap.fold (here && fold) }
                            boot := { s.boot with held := if here && !r.confirms then s.boot.held ||| oneBit i else s.boot.held } }
  let s := s.setPwrBraid i { s.pwrBraid i with step := (s.pwrBraid i).lowest }
  s.setBraidReady i (here && !bit s.boot.held i && (s.braid i).pllUp)

/-! ## Power-up BIST (R480 steps 6-8, R483, R484) -/

/-- Braids of the fitted strands, ascending. -/
def State.fittedBraids (s : State) : List Nat := (List.range 64).filter (fun b => s.fitted (b / 4))

/-- PWR.CAP.LIMIT as it is taken (R550). -/
def capWatts (v : BitVec 11) : Nat := Nat.max 300 (Nat.min 1000 v.toNat)

/-- Braids of the next wave: at most eight, and no more than what the cap leaves over the estimate carries, by the fused weight of a test. -/
def State.waveSize (s : State) : Nat :=
  if s.fuses.bistWatts = 0 then 8 else Nat.min 8 ((capWatts s.pwr.cap - s.pwr.est.toNat) / s.fuses.bistWatts)

/-- A braid is tested at 0.8 GHz (R464, R484). -/
def State.testSpeed (s : State) (i : Nat) : State := s.setPwrBraid i { s.pwrBraid i with step := 16 }

/-- The power core admits the next wave, once the other units are tested and no wave is in test; none while the cap leaves no room for one
braid (R484, R542). -/
def State.admitWave (s : State) : State :=
  if !(s.bist.running && s.ready .power && s.bist.left.isEmpty && s.bist.wave.isEmpty) then s
  else
    let w := s.bist.todo.take s.waveSize
    w.foldl State.testSpeed { s with bist := { s.bist with wave := w } }

/-- BIST_WAVE_DONE: the wave in test ends. With the last one BIST_DONE is set; a device-fatal condition that recurs from now on is a new
one (R505). -/
def State.waveDone (s : State) (rs : List BraidResult) : State :=
  if !(s.secUp && !s.sys.unserv && s.bist.running && !s.bist.wave.isEmpty && rs.map (fun r => r.braid.toNat) == s.bist.wave) then s
  else
    let s := rs.foldl (fun s r => s.braidTested r true) s
    let todo := s.bist.todo.drop rs.length
    let s : State := { s with bist := { s.bist with todo := todo, wave := [], waves := s.bist.waves + 1 } }
    if todo.isEmpty then
      { s with bist := { s.bist with running := false, done := true }, sys := { s.sys with lastFatal := none }
               lcs := { s.lcs with sp := true } }.setReady .bistDone true
    else s.admitWave

def execBistWaveDone (rs : List BraidResult) (s : State) : Result := .next (s.waveDone rs)

/-- A bulk port or splice router that fails is unavailable; any other unit leaves the module not serviceable. -/
def State.unitFails (s : State) (u : Nat) : State :=
  if u = 70 then { s with cap := { s.cap with bulkA := false } }
  else if u = 78 then { s with cap := { s.cap with bulkB := false, belay := false } }
  else if u = 68 ∨ u = 76 then s
  else s.unservice (BitVec.ofNat 64 u) 3

/-- RDY bits of the units that report as they pass; the splice network needs the routers of both hawsers (log 55). -/
def State.unitReady (s : State) (u : Nat) : State :=
  if u = 70 then s.setReady .bulkA s.cap.bulkA
  else if u = 78 then (s.setReady .bulkB s.cap.bulkB).setReady .belay s.cap.belay
  else if u = 68 ∨ u = 76 then
    s.setReady .splice ([68, 76].all (fun k => (s.unit k).result == 1 || (s.unit k).result == 2))
  else s

/-- Scheduler core, power core and PKE, which are tested before they start in step 5 of R480. -/
def coreUnits : List Nat := [81, 82, 83]

/-- Step 5 of R480 ends with the three of them tested: the cores that confirm their images start, the PKE is wiped; with both cores running
the set is running (R396, R397). -/
def State.coresUp (s : State) : State :=
  match s.boot.rest with
  | none => s
  | some r =>
    if coreUnits.any s.bist.left.contains then s
    else
      let on := r.powerOk && r.schedOk
      let s : State := { s with
        boot := { s.boot with rest := none, state := if on then 3 else 2, held := s.boot.held ||| r.braidHeld }
        ic := { s.ic with lock := r.schedOk } }
      ((((s.setReady .pke true).setReady .power r.powerOk).setReady .sched r.schedOk).setReady .fw on).signalEvent

/-- A unit that has passed is in use: with the splice routers tested their strands' links are up; the belay link starts to train. -/
def State.unitUp (s : State) (u : Nat) : State :=
  let s := s.unitReady u
  let s := if u = 68 ∨ u = 76 then
      (List.range 8).foldl (fun s k =>
        let st := (if u = 68 then 0 else 8) + k
        if s.fitted st then s.setRouter st { s.router st with up := true } else s) s
    else s
  let s : State := if u = 78 ∧ s.cap.belay then { s with bel := { s.bel with state := 1 } } else s
  s.coresUp

/-- HAWSER_CLEAT_BIST_DONE: the units of step 5 of R480 first, then the others; a hawser's fabric tells which of its strand links spare lanes
cannot repair (R356). -/
def State.unitDone (s : State) (u : Nat) (r : UnitResult) : State :=
  if !(s.secUp && !s.sys.unserv && s.bist.left.contains u && (s.boot.rest.isNone || coreUnits.contains u)) then s
  else
    let ok := s.unitPasses u r
    let links : BitVec 16 := if u = 64 then r.links.setWidth 16 else if u = 72 then r.links.setWidth 16 <<< 8 else 0
    let s : State := { s with bist := { s.bist with left := s.bist.left.filter (· != u), badLinks := s.bist.badLinks ||| links } }
    let s := s.testedUnit u (resultCode ok r.repaired) (!ok) false r.repaired r.rows r.cols r.sig
    (if ok then s.unitUp u else s.unitFails u).admitWave

def execHawserCleatBistDone (u : BitVec 7) (r : UnitResult) (s : State) : Result := .next (s.unitDone u.toNat r)

/-! ## In-field BIST (R421, R488, R489) -/

/-- Why a BIST_REQ is refused: another runs, the braid has a RUNNING or SAVED token, or it is in a multicast group. -/
def State.bistBusy (s : State) (i : Nat) : Bool :=
  s.bist.running || s.bist.infield.isSome || (s.braid i).tok.isSome ||
    s.sch.pool.any (fun t => t.braid == some i && (t.st == .running || t.st == .saved)) ||
    s.sch.groups.any (fun g => g.members.any (fun m => m.braid == i))

/-- Where the contents of braid `i` are saved: 128 of the reserved frames of its hawser, from frame 1024 of the set that holds them, or of
the other hawser where its own ring tier has no set in service (DESIGN CHOICE, log 104). -/
def State.saveBase (s : State) (i : Nat) : Nat :=
  let h := if (s.setsOf false (braidHawser i)).isEmpty then !braidHawser i else braidHawser i
  frameBase (frameId false h ((s.setsOf false h).headD 0) 1024)

/-- Word `k` of a scratchpad, as the saved frames hold it and back: AES-256-XTS with data units of 4 KiB from the start of the area. -/
def saveCrypt (key : BitVec 512) (dec : Bool) (k : Nat) (w : BitVec 128) : BitVec 128 :=
  BitVec.ofNat 128 (leNat (Crypto.xts dec key (k / 256) (k % 256) (leBytes 16 w.toNat)))

/-- Bytes of memory in the save area. -/
def State.inArea (base a : Nat) : Bool := decide (base ≤ a) && decide (a < base + 2 ^ 28)

/-- Save scratchpad words to the area; words that are zero leave it blank (log 104). -/
def State.saveWords (s : State) (base : Nat) (key : BitVec 512) (sp : Sparse (BitVec 128)) : State :=
  let old := s.mem.cells.filter (fun e => !State.inArea base e.1)
  { s with mem := { s.mem with cells := sp.foldl (fun c e =>
      ((leBytes 16 (saveCrypt key false e.1 e.2).toNat).zipIdx).foldl (fun c x => Sparse.set 0 c (base + 16 * e.1 + x.2) x.1) c) old } }

/-- The words saved in the area. -/
def State.savedWords (s : State) (base : Nat) (key : BitVec 512) : Sparse (BitVec 128) :=
  (((s.mem.cells.filter (fun e => State.inArea base e.1)).map (fun e => (e.1 - base) / 16)).dedup).foldl (fun m k =>
    Sparse.set 0 m k (saveCrypt key true k (BitVec.ofNat 128 (leNat ((List.range 16).map (fun i =>
      Sparse.get 0 s.mem.cells (base + 16 * k + i))))))) []

/-- BIST_REQ: the braid leaves the candidate lists; contents held between tokens are saved to reserved frames under a key drawn for the
request; the braid is reset. -/
def State.bistReqCmd (s : State) (t : Token) : State :=
  let i := t.body 2 1
  let b := s.braid i
  if 63 < i ∨ !s.fitted (i / 4) then s.finish t.id (Comp.aborted 0x09)
  else if s.bistBusy i || (b.ten.isSome && !s.drbgOk) then s.finish t.id (Comp.aborted 0x0A)
  else
    let r : Option SavedSp × State := match b.ten with
      | some n =>
        let k := s.drbg
        (some { key := k.1, spPoison := b.spPoison, sealMap := b.sealMap, ten := n }, k.2.saveWords (k.2.saveBase i) k.1 b.sp)
      | none => (none, s)
    let s := ((r.2.setBraidReady i false).resetBraid i).testSpeed i
    { s with bist := { s.bist with infield := some (BitVec.ofNat 6 i), tok := some t.id, saved := r.1 } }

def execBistReq (e : Nat) (s : State) : Result := .next (s.secCmd e 0x30 State.bistReqCmd)

/-- INFIELD_BIST_DONE: saved contents come back only to a braid that passed whole; the key is gone either way. -/
def State.infieldDone (s : State) (r : BraidResult) : State :=
  if !(s.secUp && s.bist.infield == some r.braid) then s
  else
    let saved := s.bist.saved
    let tok := s.bist.tok
    let whole := s.outcomeOf r == .full
    let s : State := { s with bist := { s.bist with infield := none, tok := none, saved := none } }
    let s := s.braidTested r false
    let s := match saved with
      | some x => if whole then s.modBraid r.braid.toNat (fun b =>
          { b with sp := s.savedWords (s.saveBase r.braid.toNat) x.key, spPoison := x.spPoison, sealMap := x.sealMap, ten := some x.ten }) else s
      | none => s
    match tok with
    | some e => s.finish e (Comp.okv 0 0)
    | none => s

def execInfieldBistDone (r : BraidResult) (s : State) : Result := .next (s.infieldDone r)

/-! ## Loss of lock (R466) -/

/-- BRAID_PLL_LOSS: the running token fails with INTERNAL, then the braid is held in reset. A test in the field of that braid goes on when
its clock is back. -/
def State.pllLoss (s : State) (i : Nat) : State :=
  let b := s.braid i
  if !(s.live && b.pllUp) then s
  else
    let s := match b.tok with
      | some e => s.failTok i e { status := Status.internal, pc := b.pc, clause := 7 }
      | none => s
    let s := (s.resetBraid i).modBraid i (fun b => { b with pllUp := false })
    { s with die := { s.die with pllLoss := s.die.pllLoss + 1 }
             bist := { s.bist with relocks := s.bist.relocks.filter (fun r => r.braid.toNat != i) } }.setBraidReady i false

def execBraidPllLoss (b : Bid) (s : State) : Result := .next (s.pllLoss b.toNat)

/-- The security core sends the control core of a re-initialised braid its kept image: once it confirms it the braid is ready, else it is held
until the next application of the input (R397, R489 steps 5 to 7). A test in the field decides for its own braid. -/
def State.imageSent (s : State) (r : Relock) : State :=
  let i := r.braid.toNat
  let s : State := { s with boot := { s.boot with held := if r.confirms then s.boot.held else s.boot.held ||| oneBit i } }
  s.setBraidReady i (!bit s.boot.held i && bit s.cap.braids i && (s.braid i).pllUp && s.bist.infield != some r.braid)

/-- Images that waited for the security core are sent. -/
def State.sendImages (s : State) : State :=
  s.bist.relocks.foldl State.imageSent { s with bist := { s.bist with relocks := [] } }

/-- BRAID_PLL_RELOCK: the braid is re-initialised without a test, in the mode its last test gave; its control core is sent its image as soon as
the security core runs. -/
def State.pllRelock (s : State) (r : Relock) : State :=
  let i := r.braid.toNat
  let b := s.braid i
  if !(s.live && !b.pllUp && bit s.cap.braids i) then s
  else
    let s := s.modBraid i (fun b => { b with pllUp := true, fold := bit s.cap.fold i
                                             foldHigh := if bit s.cap.fold i then (foldCores (Sparse.get 0 s.bist.cores i)).getD 0 else 0 })
    if s.secUp then s.imageSent r else { s with bist := { s.bist with relocks := s.bist.relocks ++ [r] } }

def execBraidPllRelock (r : Relock) (s : State) : Result := .next (s.pllRelock r)

/-! ## A strand link that fails after recovery (R501) -/

/-- STRAND_LINK_FAIL: the running tokens of the strand's four braids fail with LINK_FAIL, and the braids are absent until the next
power-up BIST. -/
def State.strandFail (s : State) (st : Nat) : State :=
  if !(s.live && s.fitted st) then s
  else
    let s := (List.range 4).foldl (fun s k =>
      let i := 4 * st + k
      s.afterBraid i ({ s.braid i with linkDown := true }.doom Status.linkFail)) s
    let m : W64 := BitVec.ofNat 64 (0xF * 2 ^ (4 * st))
    let s : State := { s with cap := { s.cap with braids := s.cap.braids &&& ~~~m, fold := s.cap.fold &&& ~~~m } }
    s.raise (0x330 + st)

def execStrandLinkFail (st : BitVec 4) (s : State) : Result := .next (s.strandFail st.toNat)

end Sys2Proof.Machine
end

