-- ==== Sys2Proof/Machine/Irq.lean ====
section
/-! DEFINITION. Irq.lean: the interrupt controller's claims, ends of interrupt, withdrawals and messages (R492–R500). -/

namespace Sys2Proof.Machine

/-- RUN: the priority at the top of the stack (R495). -/
def Tgt.run (t : Tgt) : Option (BitVec 4) := (t.stack.head?).map Prod.fst

/-- Is source `i` deliverable to target `t` (R495). -/
def State.deliverable (s : State) (t i : Nat) : Bool :=
  let c := s.srcCfg i
  c.target.toNat == t && s.srcPending i && !(s.src i).active && c.en &&
    (match (s.tgt t).run with | none => true | some p => decide (p.toNat < c.prio.toNat))

/-- The deliverable sources of a target, ascending. -/
def State.deliverables (s : State) (t : Nat) : List Nat := (s.ic.srcs.map Prod.fst).filter (s.deliverable t)

/-- The one a claim takes: highest PRIO, then lowest identity (R496). -/
def State.bestSource (s : State) (t : Nat) : Option Nat :=
  (s.deliverables t).foldl (fun m i => match m with
    | none => some i
    | some j => if (s.srcCfg j).prio.toNat < (s.srcCfg i).prio.toNat then some i else some j) none

/-- A claim (R496): the identity, or 0x7FF. -/
def State.claim (s : State) (t : Nat) : Nat × State :=
  let g := s.tgt t
  match s.bestSource t with
  | none => (0x7FF, s.setTgt t { g with spurious := BitVec.ofNat 16 (satAdd 16 g.spurious.toNat 1), sent := false })
  | some i =>
    let s := s.setSrc i { s.src i with pending := false, active := true }
    (i, s.setTgt t { g with stack := ((s.srcCfg i).prio, BitVec.ofNat 11 i) :: g.stack, claims := g.claims + 1, sent := false })

/-- An end of interrupt (R497). -/
def State.eoi (s : State) (t id : Nat) : State :=
  let g := s.tgt t
  match g.stack with
  | (_, i) :: rest =>
    if i.toNat = id then (s.setTgt t { g with stack := rest }).setSrc id { s.src id with active := false }
    else s.setTgt t { g with badEoi := BitVec.ofNat 16 (satAdd 16 g.badEoi.toNat 1) }
  | [] => s.setTgt t { g with badEoi := BitVec.ofNat 16 (satAdd 16 g.badEoi.toNat 1) }

/-- Automatic mode: always for VF entries, never for cores (R500, R513). -/
def State.autoMode (s : State) (t : Nat) : Bool := if t ≤ 32 then (s.tgt t).auto else decide (t < 64)

/-- The controller sends a target's MSI-X message (R500): in automatic mode it claims first, one message outstanding at most; in
manual mode the message waits for the claim. -/
def State.sendMsix (s : State) (t : Nat) : State :=
  let g := s.tgt t
  if !(s.pins.powered && s.ready .ctrl) || g.masked || (s.deliverables t).isEmpty then s
  else if s.autoMode t then
    if g.claimed.isSome then s
    else
      let r := s.claim t
      (r.2.setTgt t { r.2.tgt t with claimed := some (BitVec.ofNat 11 r.1) }).emit (.msix t)
  else if g.sent then s
  else (s.setTgt t { g with sent := true }).emit (.msix t)

/-- The link layer acknowledges an automatic message: the controller ends the interrupt (R500). -/
def State.ackMsix (s : State) (t : Nat) : State :=
  match (s.tgt t).claimed with
  | none => s
  | some id => (s.setTgt t { s.tgt t with claimed := none }).eoi t id.toNat

/-- Target numbers (R494). -/
def isTarget (t : Nat) : Bool := decide (t ≤ 66) || (decide (128 ≤ t) && decide (t < 192))

/-- Does the interrupt controller serve a target: in the safe state it does, as R505 stops nothing of it; on a module that is not serviceable
the security core alone runs (R487). -/
def State.icServes (s : State) (t : Nat) : Bool := s.pins.powered && (!s.sys.unserv || t == 64) && isTarget t

/-- INTERRUPT_CLAIM: the identity goes to the claimer. -/
def execInterruptClaim (t : BitVec 8) (s : State) : Result :=
  if s.icServes t.toNat then
    let r := s.claim t.toNat
    .next (r.2.emit (.readData (BitVec.ofNat 64 r.1)))
  else .next s

/-- END_OF_INTERRUPT. -/
def execEndOfInterrupt (t : BitVec 8) (id : BitVec 11) (s : State) : Result :=
  .next (if s.icServes t.toNat then s.eoi t.toNat id.toNat else s)

/-- A source is withdrawn by its owner's write of 1 to PENDING (R498); a level source stays as its input is (R492). -/
def State.withdraw (s : State) (i : Nat) : State :=
  if isLevel i || !(s.src i).pending then s else s.setSrc i { s.src i with pending := false }

/-- INTERRUPT_WITHDRAW. -/
def execInterruptWithdraw (src : BitVec 11) (s : State) : Result := .next (if s.icServes (s.srcCfg src.toNat).target.toNat then s.withdraw src.toNat else s)

/-- MSIX_MESSAGE_SEND. -/
def execMsixMessageSend (t : BitVec 6) (s : State) : Result := .next (s.sendMsix t.toNat)

/-- The function whose completion ring an entry signals: entry 0 of each (R352). -/
def ringEntryFn (t : Nat) : Option Fn := if t = 0 then some 0 else if 33 ≤ t then some (BitVec.ofNat 5 (t - 32)) else none

/-- MSIX_TLP_ACK: with it the completions written before the message are acknowledged too, as the link layer acknowledges in order (R476). -/
def execMsixTlpAck (t : BitVec 6) (s : State) : Result :=
  .next (if !s.pins.powered then s
    else if (s.tgt t.toNat).claimed.isNone then s
    else { s.ackMsix t.toNat with sch := { s.sch with unacked := s.sch.unacked.filter (fun e => some e.1 != ringEntryFn t.toNat) } })

/-- TARGET_LOCK (R493): the scheduler core's firmware locks every TARGET. -/
def execTargetLock (s : State) : Result := .next (if s.live then { s with ic := { s.ic with lock := true } } else s)

end Sys2Proof.Machine
end

