-- ==== Sys2Proof/Machine/HostRings.lean ====
section
/-! DEFINITION. HostRings.lean: command and completion rings, command fetch, function power states (R321, R353, R355,
R362–R368). -/

namespace Sys2Proof.Machine

/-- HQ is usable: the control port and the scheduler core are ready, and the module is live (R359, R490). -/
def State.hqUp (s : State) : Bool := s.schedUp && s.ready .ctrl

/-! ## Register writes with rows of their own (R368) -/

def SqRing.size (r : SqRing) : Nat := 2 ^ r.log2size.toNat
def CqRing.size (r : CqRing) : Nat := 2 ^ r.log2size.toNat

/-- SQ_TAIL: a TAIL at or above the ring size sets ERR (R363). -/
def SqRing.setTail (r : SqRing) (v : W64) : SqRing :=
  let i := fld v 0 16
  { r with tail := BitVec.ofNat 16 i, err := r.err || decide (r.size ≤ i) }

/-- SQ_CFG: LOG2SIZE is ignored while EN is 1; EN from 0 to 1 sets HEAD and TAIL to 0 and clears ERR. LOG2SIZE is stored as written
(log 26). -/
def SqRing.setCfg (r : SqRing) (v : W64) : SqRing :=
  let en := bit v 0
  let r := if r.en then r else { r with log2size := BitVec.ofNat 5 (fld v 8 5) }
  if en && !r.en then { r with en := true, head := 0, tail := 0, err := false } else { r with en := en }

/-- CQ_CFG: as SQ_CFG; the first pass through the ring writes PHASE as 1 (R366). -/
def CqRing.setCfg (r : CqRing) (v : W64) : CqRing :=
  let en := bit v 0
  let r := if r.en then r else { r with log2size := BitVec.ofNat 5 (fld v 8 5) }
  let r := { r with coalesce := BitVec.ofNat 8 (fld v 16 8), delay := BitVec.ofNat 16 (fld v 24 16) }
  if en && !r.en then { r with en := true, head := 0, tail := 0, phase := true, used := 0 } else { r with en := en }

/-- CQ_HEAD: the entries up to the new index are consumed (log 26). -/
def CqRing.setHead (r : CqRing) (v : W64) : CqRing :=
  let i := fld v 0 16
  let k := (i + r.size - r.head.toNat % r.size) % r.size
  { r with head := BitVec.ofNat 16 i, used := r.used - Nat.min k r.used }

/-- BASE of a ring is ignored while EN is 1. -/
def SqRing.setBase (r : SqRing) (v : W64) : SqRing := if r.en then r else { r with base := BitVec.ofNat 52 (fld v 12 52) }
def CqRing.setBase (r : CqRing) (v : W64) : CqRing := if r.en then r else { r with base := BitVec.ofNat 52 (fld v 12 52) }

def State.modSq (s : State) (f : Fn) (q : BitVec 2) (g : SqRing → SqRing) : State := s.setSq f q (g (s.sq f q))
def State.modCq (s : State) (f : Fn) (g : CqRing → CqRing) : State := s.modFn f (fun x => { x with cq := g x.cq })

def execSqTailWrite (f : Fn) (q : BitVec 2) (v : W64) (s : State) : Result :=
  .next (if s.hqUp then s.modSq f q (·.setTail v) else s)
def execSqCfgWrite (f : Fn) (q : BitVec 2) (v : W64) (s : State) : Result :=
  .next (if s.hqUp then s.modSq f q (·.setCfg v) else s)
def execCqCfgWrite (f : Fn) (v : W64) (s : State) : Result := .next (if s.hqUp then s.modCq f (·.setCfg v) else s)
def execCqHeadWrite (f : Fn) (v : W64) (s : State) : Result := .next (if s.hqUp then s.modCq f (·.setHead v) else s)

/-! ## Fetch (R321, R363, R364) -/

def State.poolFree (s : State) : Nat := 8192 - s.sch.pool.length
def State.tokensOf (s : State) (f : Fn) : Nat := (s.sch.pool.filter (fun t => t.fn == f)).length

/-- Operand sets of a KERNEL command (R371). -/
def kernelSets (c : BitVec 512) : Nat := fld c (256 + 224) 4 + 1

/-- Entries the function may still take, those its fetched KERNEL commands are to take set aside (R321). -/
def State.room (s : State) (f : Fn) : Nat :=
  Nat.min s.poolFree ((s.fn f).toklim.toNat - s.tokensOf f) -
    ((s.sch.fetched.filter (fun x => x.fn == f)).map (fun x => kernelSets x.cmd)).sum

/-- The scheduler core has stopped fetching the function's commands (R321). -/
def State.fnHeld (s : State) (f : Fn) : Bool := s.room f == 0

/-- A command fetched from the ring is held for the watermark of its tenancy, which stops fetching (R528). -/
def State.ringBeyond (s : State) (f : Fn) (q : BitVec 2) : Bool :=
  s.sch.pool.any (fun t => t.fn == f && t.ring == q && t.st == .issued && !t.started && s.tokBeyond t) ||
    s.sch.fetched.any (fun t => t.fn == f && t.ring == q && s.beyondWm (cmdTen t.cmd) f q t.seqgen t.seq)

/-- Is VF k, function k, enabled; the PF is always (R357). -/
def State.fnEnabled (s : State) (f : Fn) : Bool := decide (f.toNat ≤ s.sys.vfs.toNat)

/-- Commands of a ring between HEAD and TAIL. -/
def SqRing.held (r : SqRing) : Nat := (r.tail.toNat + r.size - r.head.toNat % r.size) % r.size

/-- May commands be fetched from ring q of function f at all: the ring runs and holds some, and its function is not held (R321, R363). -/
def State.ringServes (s : State) (f : Fn) (q : BitVec 2) : Bool :=
  let r := s.sq f q
  let x := s.fn f
  (s.hqUp || s.attestUp) && s.lcs.pending.isNone && r.en && !r.err && (!x.lost || x.current) && s.fnEnabled f && !x.d3hot &&
    !s.fnHeld f && !s.ringBeyond f q && decide (0 < r.held)

/-- Number of a ring in the round over all functions. -/
def ringNo (f : Fn) (q : BitVec 2) : Nat := 4 * f.toNat + q.toNat

/-- The ring that the next read is for: the first, in the round from the pointer, that may be served (R363). -/
def State.nextRing (s : State) : Option Nat :=
  ((List.range 128).map (fun i => (s.sch.rr + i) % 128)).find? (fun j => s.ringServes (BitVec.ofNat 5 (j / 4)) (BitVec.ofNat 2 j))

/-- May the control port read `k` commands from ring q of function f now. -/
def State.canFetch (s : State) (f : Fn) (q : BitVec 2) (k : Nat) : Bool :=
  let r := s.sq f q
  s.ringServes f q && s.nextRing == some (ringNo f q) && decide (1 ≤ k) && decide (k ≤ 16) && decide (k ≤ r.held) &&
    decide (r.head.toNat % 16 + k ≤ 16) && decide (r.head.toNat + k ≤ r.size) && decide (k ≤ s.room f)

/-- The dependencies of a command, resolved when it is fetched (R324): the commands it waits for, and the detail of a refusal. -/
def resolveDeps (hist : List (Nat × Tid)) (c : BitVec 512) : List Nat × Byte :=
  let ds := ((List.range 4).map (fun i => fld c (96 + 12 * i) 12)).filter (· != 0)
  let hs := ds.map (fun d => hist[d - 1]?)
  let bad : Byte := if hs.any Option.isNone then 0x09
    else if hs.any (fun h => match h with | some x => x.2 != cmdTen c | none => false) then 0x05 else 0
  (hs.filterMap (fun h => h.map Prod.fst), bad)

/-- An entry for a command that creates no token (R365). -/
def entryOf (id cmdId : Nat) (f : Fn) (q : BitVec 2) (r : SqRing) (c : BitVec 512) (d : List Nat × Byte) : Token :=
  { id := id, cmdId := cmdId, fn := f, cfn := f, ring := q, seq := r.seq, seqgen := r.seqgen, cmd := c, ten := cmdTen c, kernel := false,
    set := 0, deps := d.1, badDep := d.2, st := .issued, slots := [], rank := 0, braid := none, remain := 0, ctx := none,
    srcs := [], dests := [], flagged := false, started := false, comp := Comp.ofStatus 0 0, held := false, wrote := [], ctls := [], keyHome := none }

/-- One command arrives: SEQ counts it, its dependencies are resolved; a KERNEL command waits to become tokens, any other takes an
entry. A command whose opcode is unknown is refused at once (R370 detail 0x02). -/
def State.arrive (s : State) (f : Fn) (q : BitVec 2) (c : BitVec 512) : State :=
  let r := s.sq f q
  let d := resolveDeps r.hist c
  let id := s.sch.nextCmd
  let s := s.setSq f q { r with seq := r.seq + 1, hist := ((id, cmdTen c) :: r.hist).take 4095,
                                head := BitVec.ofNat 16 ((r.head.toNat + 1) % r.size) }
  let s := { s with sch := { s.sch with nextCmd := id + 1 } }
  if cmdOpcode c = 0x01 then
    { s with sch := { s.sch with fetched := s.sch.fetched ++
        [{ cmdId := id, fn := f, ring := q, seq := r.seq, seqgen := r.seqgen, cmd := c, deps := d.1, badDep := d.2 }] } }
  else
    let e := s.sch.nextId
    let s := { s with sch := { s.sch with nextId := e + 1, pool := s.sch.pool ++ [entryOf e id f q r c d] } }
    let s := if cmdOpcode c = 0x40 then s.raise 0x362 else s
    if cmdKnown c then s else s.finish e (Comp.aborted (if cmdClean c then 0x02 else 0x01))

/-- The round goes on after ring `j`. -/
def State.served (s : State) (j : Nat) : State := { s with sch := { s.sch with rr := (j + 1) % 128 } }

/-- COMMAND_FETCH. -/
def execCommandFetch (f : Fn) (q : BitVec 2) (cmds : List (BitVec 512)) (s : State) : Result :=
  .next (if s.canFetch f q cmds.length then cmds.foldl (fun s c => s.arrive f q c) (s.served (ringNo f q)) else s)

/-- BARRIER: completes when its dependencies are satisfied (R365). -/
def execBarrier (e : Nat) (s : State) : Result :=
  .next (s.startCmd e (selOp 0x02) (fun s t => s.finish t.id (Comp.okv 0 0)))

/-! ## Completions (R366, R367) -/

/-- A completion's 32 bytes. -/
def completionBytes (t : Token) (phase : Bool) : List Byte :=
  leBytes 8 (fld t.cmd 0 64) ++ [t.comp.status, if t.comp.status = 0 then 0 else t.comp.detail] ++ leBytes 2 t.set.toNat ++
    leBytes 4 t.comp.position.toNat ++ leBytes 8 t.comp.value.toNat ++ [BitVec.ofNat 8 t.ring.toNat, 0] ++ leBytes 4 t.seq.toNat ++
    [t.seqgen, if phase then 1 else 0]

/-- The completion ring's interrupt: COALESCE completions, 0 acting as 1 (R367). -/
def State.coalesce (s : State) (f : Fn) : State :=
  let q := (s.fn f).cq
  if Nat.max 1 q.coalesce.toNat ≤ q.since then (s.modCq f (fun q => { q with since := 0 })).raise (0x100 + f.toNat) else s

/-- The completion of a close comes after those of the tenancy's own tokens, which its end has noted (R335). -/
def State.closeWaits (s : State) (t : Token) : Bool :=
  cmdOpcode t.cmd == 0x11 && t.comp.status == 0 && s.sch.pool.any (fun u => u.kernel && t.deps.contains u.cmdId)

/-- May the completion of an entry be written: HQ is usable, or the module is not serviceable and the entry is an ATTEST (R487). -/
def State.mayWrite (s : State) (t : Token) : Bool :=
  s.hqUp || (s.attestUp && isAttest t.cmd)

/-- The completions of a function that the host has not taken, oldest first: the port may still keep their TLPs (R476). -/
def State.unackedOf (s : State) (f : Fn) : List Token :=
  let ts := (s.sch.unacked.filter (fun e => e.1 == f)).map Prod.snd
  ts.drop (ts.length - (s.fn f).cq.used)

/-- The port keeps a completion until its TLP is acknowledged. -/
def State.keepUnacked (s : State) (f : Fn) (ts : List Token) : State :=
  { s with sch := { s.sch with unacked := s.sch.unacked.filter (fun e => e.1 != f) ++ ts.map (fun t => (f, t)) } }

/-- Completions of a function whose TLPs are not acknowledged when its port or the function resets are returned and count as not written; how
many of them have been acknowledged is a free value (R476, log 57). -/
def State.returnUnacked (s : State) (f : Fn) : State :=
  let ts := s.unackedOf f
  if ts.isEmpty then s.keepUnacked f []
  else
    let v := s.free
    let back := ts.drop (v.1.toNat % (ts.length + 1))
    let s := v.2.keepUnacked f []
    { s with sch := { s.sch with pool := s.sch.pool ++ back, order := back.map (·.id) ++ s.sch.order } }

/-- The next completion of the function is written, when the ring is enabled and has room; its entry is FREE, and its TLP is one that the port
keeps (R476). -/
def State.writeCompletion (s : State) (f : Fn) : State :=
  let q := (s.fn f).cq
  if !(q.en && decide (q.used < q.size)) then s
  else match (s.sch.order.filterMap s.tok).find? (fun t => t.cfn == f && s.mayWrite t && !s.closeWaits t) with
  | none => s
  | some t =>
    let addr : W64 := BitVec.ofNat 64 (q.base.toNat * 4096 + 32 * q.tail.toNat)
    let last := decide (q.size ≤ q.tail.toNat + 1)
    let kept := s.unackedOf f ++ [t]
    let s := s.emit (.completion f addr (completionBytes t q.phase))
    let s := s.modCq f (fun q => { q with tail := if last then 0 else q.tail + 1, phase := if last then !q.phase else q.phase,
                                          used := q.used + 1, since := q.since + 1 })
    ((s.keepUnacked f kept).freeEntry t.id).coalesce f

/-- COMPLETION_WRITE. -/
def execCompletionWrite (f : Fn) (s : State) : Result := .next (s.writeCompletion f)

/-- COMPLETION_DELAY_EXPIRY: DELAY is not 0 and a completion has been written since the last interrupt. -/
def execCompletionDelayExpiry (f : Fn) (s : State) : Result :=
  .next (if s.hqUp && (s.fn f).cq.delay != 0 && decide (0 < (s.fn f).cq.since) then
      (s.modCq f (fun q => { q with since := 0 })).raise (0x100 + f.toNat)
    else s)

/-! ## Port events without further effect (R352, R353, R355) -/

/-- A function of a port enters or leaves D3hot; a bulk port has no command rings (R353). -/
def State.setD3 (s : State) (f : PortFn) (on : Bool) : State :=
  match f with
  | .ctrl f => s.modFn f (fun x => { x with d3hot := on })
  | .bulk p => s.modPort p (fun x => { x with d3hot := on })

/-- D3HOT_ENTRY: fetching from the function's rings stops. -/
def execD3hotEntry (f : PortFn) (s : State) : Result := .next (if s.pins.powered then s.setD3 f true else s)

/-- D3HOT_EXIT. -/
def execD3hotExit (f : PortFn) (s : State) : Result := .next (if s.pins.powered then s.setD3 f false else s)

/-- UNSUPPORTED_REQUEST: an AtomicOp or I/O request completes with Unsupported Request, which is an error for AER. -/
def execUnsupportedRequest (p : PcieFn) (s : State) : Result :=
  match p with
  | { port := q, atomic := _ } => .next (if s.pins.powered then (s.emit .unsupported).aer q else s)

/-- Is the port's link up. -/
def State.linkUp (s : State) (p : PciePort) : Bool :=
  match p with | .control => s.sys.ctrlUp | .bulkA => (s.port .a).up | .bulkB => (s.port .b).up


/-- Lanes of the port's trained link. -/
def State.lanes (s : State) (p : PciePort) : Nat :=
  match Sparse.get none s.sys.links (pcieNum p) with | some l => l.lanes.toNat | none => 0

/-- What a margining report answers (R355): independent timing and voltage directions, error counts, an independent sampler; 32 steps up
to 40 hundredths of a UI, 64 up to 30 hundredths of a volt. The bits are those of PCI Express (PRESUMED, log 101). -/
def marginReport : MarginReport → W64
  | .capabilities => 0x17
  | .timingSteps => 32
  | .timingRange => 40
  | .voltageSteps => 64
  | .voltageRange => 30

/-- LANE_MARGINING: a report, or the error count at one point of a lane's independent sampler; which count is a free value (log 7). The link
and the data path are untouched. -/
def execLaneMargining (m : MarginPoint) (s : State) : Result :=
  .next (if !s.linkUp m.port || decide (s.lanes m.port ≤ m.lane.toNat) then s
    else match m.report with
    | some r => s.emit (.readData (marginReport r))
    | none =>
      if m.step.toNat ≤ (if m.voltage then 64 else 32) then
        let v := s.free
        v.2.emit (.readData v.1)
      else s)

end Sys2Proof.Machine
end

