-- ==== Sys2Proof/Machine/Tenancy.lean ====
section
/-! DEFINITION. Tenancy.lean: tenancies created, set and reattached, their tables, host loss (R58–R62, R330–R334, R345–R349, R357, R371,
R372, R502, R519). -/

namespace Sys2Proof.Machine

/-! ## TEN_CREATE and TEN_SET (R331, R357, R371, R519) -/

def Token.tcFn (t : Token) : Fn := BitVec.ofNat 5 (t.body 0 1)
def Token.tcPrio (t : Token) : BitVec 3 := BitVec.ofNat 3 (t.body 1 1)
def Token.tcWeight (t : Token) : Byte := BitVec.ofNat 8 (t.body 2 1)
def Token.tcReveal (t : Token) : Bool := t.bodyBit 3 0
def Token.tcMirror (t : Token) : BitVec 2 := BitVec.ofNat 2 (t.body 3 1 / 2)
def Token.tcSlots (t : Token) : Nat := t.body 4 1
def Token.tcBraids (t : Token) : W64 := BitVec.ofNat 64 (t.body 8 8)
def Token.tcQuota (t : Token) (bulk : Bool) : Nat := t.body (if bulk then 20 else 16) 3

/-- Frames of a tier promised to tenancies other than `n`. -/
def State.promised (s : State) (n : Tid) (bulk : Bool) : Nat :=
  ((s.tens.filter (fun e => e.1 != n.toNat && e.2.st != .free)).map (fun e => (e.2.book bulk).quota.toNat)).sum

/-- The quotas exceed the frames not promised to other tenancies. -/
def State.overPromised (s : State) (t : Token) (bulk : Bool) : Bool :=
  decide (s.usable bulk false + s.usable bulk true < s.promised t.ten bulk + t.tcQuota bulk)

/-- Fields of TEN_CREATE or TEN_SET out of range. -/
def State.tcRange (s : State) (t : Token) : Bool :=
  t.tcWeight == 0 || decide (64 < t.tcSlots) || !s.fnEnabled t.tcFn || s.overPromised t false || s.overPromised t true

/-- Every fitted tier is ready: the tenancy's pages may be backed in any (R482). -/
def State.tiersReady (s : State) : Bool :=
  [false, true].all (fun bulk => !s.tierFitted bulk || [false, true].all (fun h => s.ready (State.tierBit bulk h)))

/-- The context area's page tables: its pages sealed, PREF bulk where the part has a bulk tier, home by first touch (R341, log 37). -/
def ctxPages (slots : Nat) (bulk : Bool) : Sparse (Option (Sparse Pte)) :=
  ((List.range 4).filter (fun j => decide (8192 * j < 512 * slots))).map (fun j =>
    (ctxBase / 2 ^ 34 + j, some ((List.range (Nat.min 8192 (512 * slots - 8192 * j))).map (fun i =>
      (i, { Pte.init with state := .mapped, sealed := true, pref := bulk, homeft := true })))))

/-- A resume credential is drawn, returned in the host buffer, and kept as its digest (R331, R347). -/
def State.newCred (s : State) (t : Token) : State :=
  let d := s.drbg
  let c := leBytes 32 (fld d.1 0 256)
  (d.2.modTen t.ten (fun x => { x with cred := BitVec.ofNat 512 (leNat (Crypto.sha512 c)) })).hostOut t c

/-- A function is given a tenancy: it is no longer lost, and its interval count starts with its first (R345, R350). -/
def State.giveTen (s : State) (f : Fn) : State :=
  let first := !(s.tens.any (fun e => e.2.fn == f && e.2.st != .free))
  s.modFn f (fun x => { x with lost := false, current := x.current || first })

/-- TEN_CREATE. A source that fails in the reseed before the draw leaves no DRBG to draw from (R413, R415). -/
def State.tenCreateCmd (s : State) (t : Token) : State :=
  let n := t.ten
  if s.tcRange t then s.finish t.id (Comp.aborted 0x09)
  else if (s.ten n).st != .free || !s.tiersReady || s.lc != 2 || !s.secUp || !s.drbgOk then s.finish t.id (Comp.aborted 0x0A)
  else if t.tcMirror != 0 && !s.cap.belay then s.finish t.id (Comp.ofStatus Status.linkFail 0)
  else
    let s := s.reseed
    if !s.drbgOk then s.finish t.id (Comp.aborted 0x0A)
    else
    let s := s.giveTen t.tcFn
    let d := s.drbg
    let s := d.2.setTen n
      { Ten.init with st := .active, fn := t.tcFn, prio := t.tcPrio, weight := t.tcWeight, revealOk := t.tcReveal, mirror := t.tcMirror
                      ctxslots := BitVec.ofNat 7 t.tcSlots, braids := t.tcBraids, xts := some d.1
                      ring := { quota := BitVec.ofNat 24 (t.tcQuota false), alloc := 0 }
                      bulk := { quota := BitVec.ofNat 24 (t.tcQuota true), alloc := 0 }
                      ptes := ctxPages t.tcSlots (s.tierFitted true)
                      mir := { Mirror.init with standby := t.tcMirror == 3, applied := (s.ten n).mir.applied } }
    (s.newCred t).finish t.id (Comp.okv 0 0)

def execTenCreate (e : Nat) (s : State) : Result := .next (s.startCmd e (selOp 0x10) State.tenCreateCmd)

/-- TEN_SET: priority, weight, REVEAL_OK, the braid mask and the quotas take the values named. -/
def State.tenSetCmd (s : State) (t : Token) : State :=
  let n := t.ten
  let x := s.ten n
  if s.tcRange t || t.tcFn != x.fn || t.tcMirror != x.mirror || t.tcSlots != x.ctxslots.toNat then s.finish t.id (Comp.aborted 0x09)
  else
    let rq : BitVec 24 := BitVec.ofNat 24 (t.tcQuota false)
    let bq : BitVec 24 := BitVec.ofNat 24 (t.tcQuota true)
    let s := s.setTen n { x with prio := t.tcPrio, weight := t.tcWeight, revealOk := t.tcReveal, braids := t.tcBraids
                                 ring := { x.ring with quota := rq }, bulk := { x.bulk with quota := bq } }
    s.finishWith t.id (Comp.okv 0 0) [.tenSet t.tcPrio t.tcWeight t.tcReveal t.tcBraids rq bq]

def execTenSet (e : Nat) (s : State) : Result := .next (s.startCmd e (selOp 0x14) State.tenSetCmd)

/-! ## Host loss (R345, R346) -/

/-- Entries of a mirrored tenancy whose completions the belay partner still holds, in the order of their records. -/
def State.heldRecords (s : State) (n : Tid) : List Nat :=
  ((s.ten n).mir.sent ++ (s.ten n).mir.unsent ++ (s.ten n).mir.late).filterMap (fun r =>
    (s.sch.pool.find? (fun t => t.held && t.st == .retiring && t.holds && recordOf r t)).map (·.id))

/-- A tenancy of a lost function: ORPHANED, the completions of its tokens and PKE commands held, those that wait for the belay partner among
them (R346, R446). -/
def State.orphan (s : State) (n : Tid) : State :=
  let s := s.modTen n (fun t => { t with st := .orphaned, grace := false, lostAt := s.sch.nextId })
  let mine := fun (s : State) (k : Nat) => match s.tok k with | some t => t.ten == n && t.holds | none => false
  let hold := s.sch.order.filter (mine s) ++ s.heldRecords n
  let s : State := { s with sch := { s.sch with order := s.sch.order.filter (fun k => !mine s k), heldQ := s.sch.heldQ ++ hold } }
  s.tenEvent n 0 0x30 Status.tenancyOrphaned (s.ten n).fn.toNat

/-- The loss of the PF is sent to the management port; no black-box entry records it, so that its SEQ is a free value (R386, log 38). -/
def State.pfEvent (s : State) : State :=
  let v : W64 × State := if s.bbxAvail then s.free else (0, s)
  v.2.holdEvent { event := 1, ten := 0xFF, fn := 0, seq := v.1 }

/-- A function is lost: its source is raised and its ACTIVE tenancies are orphaned. -/
def State.loseFn (s : State) (f : Fn) : State :=
  let was := (s.fn f).lost
  let s := s.modFn f (fun x => { x with lost := true, current := false })
  let s := if was then s else s.raise (0x140 + f.toNat)
  let s := if !was && f == 0 && s.schedUp then s.pfEvent else s
  (s.tens.filter (fun e => e.2.st == .active && e.2.fn == f)).foldl (fun s e => s.orphan (tid e.1)) s

/-- HEARTBEAT: any write to SCH.FN_HB. -/
def execHeartbeat (f : Fn) (s : State) : Result :=
  .next (if s.hqUp then s.modFn f (fun x => { x with current := true }) else s)

/-- HEARTBEAT_EXPIRY: the interval passes; monitoring is off while HB_INT is 0. -/
def execHeartbeatExpiry (f : Fn) (s : State) : Result :=
  .next (if s.schedUp && (s.fn f).hbInt != 0 && (s.fn f).current then s.loseFn f else s)

/-- The grace window ends without a reattach (R349). -/
def State.graceEnd (s : State) (n : Tid) : State :=
  if (s.ten n).st != .orphaned then s
  else (s.modTen n (fun t => { t with grace := true })).beginClose n true Status.aborted none (some 0)

/-- GRACE_EXPIRY. -/
def execGraceExpiry (n : Tid) (s : State) : Result := .next (if s.schedUp then s.graceEnd n else s)

/-! ## REATTACH (R347, R348) -/

/-- Held completions go to the presenting function's ring, in their order; those the belay partner still holds follow its acknowledgement. -/
def State.giveHeld (s : State) (n : Tid) (f : Fn) : State × Nat :=
  let mine := fun (k : Nat) => match s.tok k with | some t => t.ten == n | none => false
  let ks := s.sch.heldQ.filter mine
  let go := ks.filter (fun k => match s.tok k with | some t => !t.held | none => false)
  let s : State := { s with sch := { s.sch with heldQ := s.sch.heldQ.filter (fun k => !mine k), order := s.sch.order ++ go } }
  (ks.foldl (fun s k => s.modTok k (fun t => { t with cfn := f })) s, ks.length)

/-- REATTACH. -/
def State.reattachCmd (s : State) (t : Token) : State :=
  let n := t.ten
  let x := s.ten n
  if !(s.fn t.fn).current then s.finish t.id (Comp.aborted 0x03)
  else if x.st != .orphaned then s.finish t.id (Comp.aborted 0x04)
  else if !s.secUp || !s.drbgOk then s.finish t.id (Comp.aborted 0x0A)
  else if leNat (Crypto.sha512 (leBytes 32 (t.body 0 32))) != x.cred.toNat then
    let s := (s.modTen n (fun x => { x with fails := x.fails + 1 })).finish t.id (Comp.aborted 0)
    if x.fails.toNat = 7 then s.graceEnd n else s
  else
    let s := (s.modTen n (fun x => { x with st := .active, fn := t.fn })).newCred t
    let s := s.modFn t.fn (fun x => { x with lost := false, current := true })
    let h := s.giveHeld n t.fn
    (h.1.finish t.id (Comp.okv 0 h.2)).wmRestarts n

def execReattach (e : Nat) (s : State) : Result := .next (s.startCmd e (selOp 0x12) State.reattachCmd)

/-! ## Keys (R333) -/

/-- KEY_REGISTER. -/
def State.keyRegisterCmd (s : State) (t : Token) : State :=
  let x := s.ten t.ten
  let ks : BitVec 16 := BitVec.ofNat 16 (t.body 0 2)
  let pu : BitVec 4 := BitVec.ofNat 4 (t.body 2 1)
  let ro : BitVec 24 := BitVec.ofNat 24 (t.body 4 3)
  let tva := t.body 8 8
  if 2 ^ 48 ≤ tva then s.finish t.id (Comp.aborted 0x09)
  else if 4096 ≤ x.keys.length || x.keys.any (fun k => k.keyset == ks && k.purpose == pu && k.rotation == ro) then
    s.finish t.id (Comp.aborted 0x0A)
  else
    let k : KeyRec := { keyset := ks, purpose := pu, rotation := ro, tva := BitVec.ofNat 48 tva }
    (s.setTen t.ten { x with keys := x.keys ++ [k] }).finishWith t.id (Comp.okv 0 (x.keys.length + 1)) [.key ks pu ro k.tva]

def execKeyRegister (e : Nat) (s : State) : Result := .next (s.startCmd e (selOp 0x13) State.keyRegisterCmd)

/-! ## Primes and chains (R58–R62) -/

/-- The checks of R60 on a 32-byte record, against the primes already there. -/
def primeCheck (ps : List Prime) (r : List Byte) : Option Nat :=
  let q := leAt r 0 8
  let psi := leAt r 8 8
  let l := leAt r 16 1
  if (r.drop 17).any (· != 0) then some 1
  else if q % 2 = 0 ∨ q < 3 then some 2
  else if 2 ^ 60 ≤ q then some 3
  else if !Arith.mrPrime q then some 4
  else if !(l = 0 ∨ (12 ≤ l ∧ l ≤ 17 ∧ q % 2 ^ (l + 1) = 1)) then some 5
  else if l = 0 ∧ psi ≠ 0 ∨ l ≠ 0 ∧ ¬ (2 ≤ psi ∧ psi < q ∧ Arith.powMod psi (2 ^ l) q = q - 1) then some 6
  else if ps.any (fun p => p.q.toNat == q) then some 7
  else if 128 ≤ ps.length then some 8
  else none

def primeOf (r : List Byte) : Prime :=
  { q := BitVec.ofNat 64 (leAt r 0 8), psi := BitVec.ofNat 64 (leAt r 8 8), log2n := BitVec.ofNat 8 (leAt r 16 1) }

/-- The records in order: the table with all of them, or the first failing record and its detail. -/
def primesOf (ps : List Prime) (i : Nat) : List (List Byte) → Except (Nat × Nat) (List Prime)
  | [] => .ok ps
  | r :: rs =>
    match primeCheck ps r with
    | some d => .error (i, d)
    | none => primesOf (ps ++ [primeOf r]) (i + 1) rs

/-- PRIME_LOAD: the records take ascending indices from the lowest free one. -/
def State.primeLoadCmd (s : State) (t : Token) (bs : List Byte) : State :=
  let x := s.ten t.ten
  let rs := chunks 32 128 bs
  match primesOf x.primes 0 rs with
  | .error e => s.finish t.id { status := Status.primeRejected, detail := BitVec.ofNat 8 e.2, position := BitVec.ofNat 32 e.1, value := 0 }
  | .ok ps => (s.setTen t.ten { x with primes := ps }).finishWith t.id (Comp.okv 0 x.primes.length) [.prime rs]

def execPrimeLoad (e : Nat) (buf : HostBuf) (s : State) : Result :=
  .next (s.startCmd e (selOp 0x18) (fun s t =>
    let h := cmdHlen t.cmd
    if h % 32 != 0 || h = 0 || 4096 < h then s.finish t.id (Comp.aborted 0x06)
    else s.withBuf t buf (fun bs => s.primeLoadCmd t bs)))

/-- The checks of R62 on a chain descriptor. -/
def chainCheck (x : Ten) (r : List Byte) : Option Nat :=
  let y := fun i => leAt r i 1
  let c := chainOf r
  let used := c.qlimbs + c.plimbs
  let prime := fun (i : Nat) => x.primes[i]?
  let qs := c.limbs.filterMap (fun i => (prime i).map (·.q.toNat))
  let clean := y 1 / 16 == 0 && y 2 / 32 == 0 && y 3 / 128 == 0 && y 4 / 128 == 0 && y 5 / 128 == 0 && y 7 == 0 && y 123 / 2 == 0
  let small := fun (i : Nat) => match prime i with | some p => decide (p.q.toNat < 2 ^ 30) | none => true
  if !(decide (y 0 ≤ 31) && (Sparse.get [] x.chains (y 0)).isEmpty && clean && decide (c.scheme ≤ 3) &&
      (if c.scheme = 3 then c.log2n == 0 else decide (12 ≤ c.log2n) && decide (c.log2n ≤ 17))) then some 0x10
  else if !(decide (1 ≤ c.qlimbs) && decide (used ≤ 96) && (c.scheme != 3 || (c.qlimbs == 1 && c.plimbs == 0))) then some 0x11
  else if !(c.limbs.all (fun i => (prime i).isSome) && (List.range (96 - used)).all (fun i => y (8 + used + i) == 0xFF)) then some 0x12
  else if !(decide qs.Nodup) then some 0x13
  else if c.scheme ≠ 3 ∧ c.limbs.any (fun i => match prime i with | some p => decide (p.log2n.toNat < c.log2n) | none => true) then some 0x14
  else if c.mode ∧ !(c.limbs.all small && small c.pt) then some 0x15
  else if !(if c.plimbs = 0 then c.dnum == 0 else decide (1 ≤ c.dnum) && decide (c.dnum ≤ c.qlimbs)) then some 0x16
  else if !(if c.scheme = 1 ∨ c.scheme = 2 then (prime c.pt).isSome && !c.limbs.contains c.pt else c.pt == 0xFF) then some 0x17
  else if c.qlimbs ≤ c.rlevel then some 0x18
  else none

/-- CHAIN_DEFINE. -/
def State.chainDefineCmd (s : State) (t : Token) (bs : List Byte) : State :=
  let x := s.ten t.ten
  match chainCheck x bs with
  | some d => s.finish t.id (Comp.ofStatus Status.primeRejected d)
  | none => (s.setTen t.ten { x with chains := Sparse.set [] x.chains (leAt bs 0 1) bs }).finishWith t.id (Comp.okv 0 0) [.chain bs]

def execChainDefine (e : Nat) (buf : HostBuf) (s : State) : Result :=
  .next (s.startCmd e (selOp 0x19) (fun s t => s.withBuf t buf (fun bs => s.chainDefineCmd t bs)))

/-! ## Tenancy-fatal errors (R501, R502) -/

/-- A close in progress goes on as the close of a tenancy-fatal error: with FORCE, and with the status of the error. -/
def State.closeFatally (s : State) (n : Tid) (st : Byte) : State :=
  (s.modTen n (fun t => { t with closing := t.closing.map (fun c => { c with force := true, status := st, wiped := some 1 }) })).stopRunning n st

/-- TENANCY_FATAL_ERROR: an uncorrectable error in a table of the tenancy or in its key slot (`ecc`), or an internal one. The first in a close
that is not for such an error makes it one (DESIGN CHOICE, log 117); a second changes nothing. -/
def State.tenFatal (s : State) (n : Tid) (table : Byte) (ecc : Bool) : State :=
  let t := s.ten n
  if !s.schedUp || t.st == .free || t.closing.any (fun c => c.wiped.isSome) then s
  else
    let st := if ecc then Status.eccUncorrected else Status.internal
    let s := (s.log Dom.sched 3 cleatDie 0x32 st (some n) [table.setWidth 64]).raise (0x200 + n.toNat)
    if t.st == .closing then s.closeFatally n st else s.beginClose n true st none (some 1)

def execTenancyFatalError (n : Tid) (table : BitVec 8) (ecc : Bool) (s : State) : Result := .next (s.tenFatal n table ecc)

end Sys2Proof.Machine
end

