-- ==== Sys2Proof/Machine/Bringup.lean ====
section
/-! DEFINITION. Bringup.lean: power, the image set, resets and readiness (R354, R364, R385, R391, R392, R394–R398, R471–R482, R490,
R536, R537). -/

namespace Sys2Proof.Machine

/-! ## What a reset leaves -/

/-- CAP.PORTS as part and straps give it, before BIST (R5, R361, R515). -/
def Cap.ofStraps (p : PartNo) (belaySel : Bool) : Cap :=
  let sel := belaySel && p != .kz8
  { Cap.init with bulkA := true, bulkB := !sel, belay := sel }

/-- The identity record is erased by the wipe of the transition to SCRAPPED (R403, R416). The operator-key digest is part of it (R400), so
that LCS.STATE.OPKEY, which R423 calls fused, reads 0 from then on (DESIGN CHOICE, log 99). -/
def State.eraseIdentity (s : State) : State :=
  if s.lc = 4 then { s with die := { s.die with idKey := none, opKey := none } } else s

/-- Every unit but the record die, the management port and the fuses returns to its reset values; queue, outputs and free-value
counter are the model's own. Device memory keeps what it holds until its wipe (R284). -/
def State.unitsReset (s : State) : State :=
  { State.reset with pending := s.pending, out := s.out, draws := s.draws, fuses := s.fuses, die := s.die, mgmt := s.mgmt
                     events := s.events, evDrop := s.evDrop
                     pins := { s.pins with fault := false, thermAlert := false }
                     mem := { Mem.init with cells := s.mem.cells, bad := s.mem.bad, soft := s.mem.soft }
                     cap := Cap.ofStraps s.fuses.part s.pins.belaySel }

/-- A reset that reaches the scheduler core is logged with its kind (R490, R509). -/
def State.logReset (s : State) (kind : BitVec 3) : State :=
  ({ s with die := { s.die with last := kind } }).log Dom.security 0 cleatDie 0x0001 0 none [kind.setWidth 64]

/-! ## Power (R473, R480, R536, R537) -/

/-- POWER_ON: straps bit 0 is BELAY_SEL, bits 3 to 1 MOD_ID. -/
def State.powerOn (s : State) (straps : BitVec 4) : State :=
  if s.pins.powered then s
  else
    let s := { s.unitsReset with mgmt := Mgmt.init, events := [], evDrop := 0, mem := Mem.init }
    let sel := bit straps 0
    let s : State := { s with
      pins := { powered := true, fault := false, thermAlert := false, belaySel := sel, modId := BitVec.ofNat 3 (fld straps 1 3), perst := 0 }
      cap := Cap.ofStraps s.fuses.part sel
      die := { s.die with ctrlResets := 0, secResets := 0, pllLoss := 0 }
      lcs := { s.lcs with keys := true, wipes := 1 } }
    (s.setReady .mgmt true).logReset 0

def execPowerOn (straps : BitVec 4) (s : State) : Result := .next (s.powerOn straps)

/-- INPUT_LOSS: every unit stops and nothing but fuses and record die keeps its contents; FAULT# is released. -/
def State.inputLoss (s : State) : State :=
  if s.pins.powered then
    { State.reset with pending := s.pending, out := s.out, draws := s.draws, fuses := s.fuses, die := s.die }
  else s

def execInputLoss (s : State) : Result := .next s.inputLoss

/-! ## The package reset (R391, R471, R472, R480, R505) -/

/-- The kept image set is verified again; without one the delivery starts anew. A held control core stays held until the next application of
the input (R397). -/
def Boot.again (b : Boot) : Boot :=
  if b.kept then { Boot.init with state := 2, total := b.total, received := b.received, image := b.image, kept := true, held := b.held }
  else { Boot.init with held := b.held }

/-- The entry of a life-cycle transition is not stored yet: the reset of step 5 of R391 waits for it, as step 3 records it. -/
def State.transitionQueued (s : State) : Bool := s.bbx.queue.any (fun e => e.domain.toNat == Dom.security && e.event == 0x0002)

/-- No tenancy is other than FREE (R472). -/
def State.allFree (s : State) : Bool := s.tens.all (fun e => e.2.st == .free)

/-- PACKAGE_RESET, once one has been asked for: 1 by the PF, which takes effect only when every tenancy is FREE still (R472), 2 by a
life-cycle transition, 3 out of the safe state. BST.UNIT.RUNS counts since power-on; the cause of a safe state is remembered until
BIST_DONE. -/
def State.packageReset (s : State) : State :=
  match s.sys.resetReq with
  | none => s
  | some k =>
    if !s.pins.powered || (k == 2 && s.transitionQueued) then s
    else if k == 1 && !s.allFree then { s with sys := { s.sys with resetReq := none }, rdy := { s.rdy with refused := true } }
    else
      let fatal : Option Byte := match s.sys.safe with | some f => some f.cause | none => s.sys.lastFatal
      let n : State := { s.unitsReset with
        boot := s.boot.again
        bist := { Bist.init with units := Sparse.mapAll UnitSt.init s.bist.units (fun _ u => { UnitSt.init with runs := u.runs }) }
        sys := { Sys.init with lastFatal := fatal }
        lcs := { Lcs.init with keys := true, cause := if k = 2 then 2 else 1, wipes := s.lcs.wipes + 1 } }
      ((n.setReady .mgmt true).eraseIdentity).logReset k

def execPackageReset (s : State) : Result := .next s.packageReset

/-- A PF write reaches RDY.CTL, and the security core is there to act on it. -/
def State.rdyCtl (s : State) (f : Fn) : Bool := f == 0 && bit s.sys.cfgLoaded 0 && s.secUp

/-- PKG_RESET. -/
def State.pkgReset (s : State) (f : Fn) : State :=
  if !s.rdyCtl f then s
  else if s.allFree then { s with sys := { s.sys with resetReq := some 1 } }
  else { s with rdy := { s.rdy with refused := true } }

def execPkgReset (f : Fn) (s : State) : Result := .next (s.pkgReset f)

/-! ## The security-domain reset (R472, R477) -/

/-- A PKE or SEC command that has not completed. -/
def Token.forSec (t : Token) : Bool :=
  !t.kernel && t.st == .issued && (cmdOpcode t.cmd == 0x40 || cmdOpcode t.cmd == 0x41)

/-- The reset: commands aborted, key slots zeroed, the domain's registers at their reset values, its wipes done, the kept security-core image
to be verified again; the other cores go on with the images they run. A BIST in the field ends with it: its braid stays not ready. RDY.CTL.REFUSED
(log 118) and the hazard-watch registers (log 119) stay as they are. -/
def State.secDomainReset (s : State) : State :=
  let s := (s.sch.pool.filter Token.forSec).foldl (fun s t => s.finish t.id (Comp.aborted 0)) s
  let s := s.zeroXts.zeroClientKeys
  let s : State := { s with
    lcs := { Lcs.init with keys := true }
    boot := { s.boot with state := 2, fail := 0 }
    pke := Pke.init
    bist := { s.bist with infield := none, tok := none, saved := none }
    die := { s.die with secResets := s.die.secResets + 1 } }
  (((s.setReady .sec false).setReady .pke false).setReady .drbg false).setReady .fw false

/-- SEC_RESET. -/
def State.secReset (s : State) (f : Fn) : State :=
  if !s.rdyCtl f then s
  else if s.allFree then s.secDomainReset
  else { s with rdy := { s.rdy with refused := true } }

def execSecReset (f : Fn) (s : State) : Result := .next (s.secReset f)

/-! ## The image set (R385, R394–R398) -/

/-- The management port answers: from the application of the input on (R480 step 2). -/
def State.mgmtUp (s : State) : Bool := s.pins.powered && s.ready .mgmt

/-- A message in packets of at most 64 bytes, from packet `k` on, each signalled (R382, R383). -/
def State.packets (s : State) : Nat → Nat → List Byte → State
  | 0, _, _ => s
  | n + 1, k, bs => (s.ibi.emit (.packet (k == 0) (bs.length ≤ 64) (k % 4) (bs.take 64))).packets n (k + 1) (bs.drop 64)

/-- Send a message (PRESUMED framing, log 58). -/
def State.message (s : State) (bs : List Byte) : State := s.packets ((bs.length + 63) / 64) 0 bs

/-- A vendor-defined message of command `cmd`: message type 0x7E, the vendor ID, the command. -/
def vendorMessage (cmd : Byte) (bs : List Byte) : List Byte := [0x7E] ++ beBytes 2 Config.vendorId.toNat ++ [cmd] ++ bs

/-- A vendor-defined response, from its completion byte on. -/
def State.respond (s : State) (cmd : Byte) (bs : List Byte) : State := s.message (vendorMessage cmd bs)

/-- FW_BEGIN: accepted while idle or failed. -/
def State.fwBegin (s : State) (len : Nat) : State :=
  if !s.mgmtUp then s
  else if s.boot.state = 2 then s.respond 0x01 [0x04]
  else if s.boot.state ≠ 0 ∧ s.boot.state ≠ 4 then s.respond 0x01 [0x01]
  else if 4202496 < len then s.respond 0x01 [0x03]
  else { s with boot := { Boot.init with state := 1, total := BitVec.ofNat 32 len, held := s.boot.held } }.respond 0x01 [0x00]

/-- FW_DATA. A message longer than 4,160 bytes, its header of 8 bytes with it, is not taken in (R383). -/
def State.fwData (s : State) (off : Nat) (data : List Byte) : State :=
  let b := s.boot
  if !s.mgmtUp || decide (4152 < data.length) then s
  else if b.state = 2 then s.respond 0x02 [0x04]
  else if b.state ≠ 1 then s.respond 0x02 [0x01]
  else if off ≠ b.received.toNat then s.respond 0x02 [0x02]
  else if data.isEmpty ∨ 4096 < data.length ∨ b.total.toNat < off + data.length then s.respond 0x02 [0x03]
  else { s with boot := { b with received := BitVec.ofNat 32 (off + data.length), image := b.image ++ data } }.respond 0x02 [0x00]

/-- FW_END. -/
def State.fwEnd (s : State) : State :=
  if !s.mgmtUp then s
  else if s.boot.state = 2 then s.respond 0x03 [0x04]
  else if s.boot.state ≠ 1 then s.respond 0x03 [0x01]
  else { s with boot := { s.boot with state := 2, kept := true } }.respond 0x03 [0x00]

/-- FW_STATUS. -/
def State.fwStatus (s : State) : State :=
  if !s.mgmtUp then s
  else s.respond 0x04 ([0x00, BitVec.ofNat 8 s.boot.state.toNat, s.boot.fail] ++ leBytes 4 s.boot.received.toNat)

/-- RDY.SUMMARY (R490). -/
def State.rdySummary (s : State) : W64 := s.rdy.bits.setWidth 64 ||| put 24 7 (popcount s.rdy.braids)

/-- GET_RDY. -/
def State.getRdy (s : State) : State := if s.mgmtUp then s.respond 0x05 ([0x00] ++ leBytes 4 (fld s.rdySummary 0 32)) else s

def execFwBegin (len : BitVec 32) (s : State) : Result := .next (s.fwBegin len.toNat)
def execFwData (off : BitVec 32) (data : List Byte) (s : State) : Result := .next (s.fwData off.toNat data)
def execFwEnd (s : State) : Result := .next s.fwEnd
def execFwStatus (s : State) : Result := .next s.fwStatus
def execGetRdy (s : State) : Result := .next s.getRdy

/-- Image `k` of the set, header first, and where the next begins; the firmware key of 516 bytes follows the body of image 0. -/
def imageSpan (img : List Byte) (k off : Nat) : Nat := 1024 + leAt img (off + 16) 4 + (if k = 0 then 516 else 0)

/-- The header fields of image `k` (R394). -/
def headerOk (h : List Byte) (k : Nat) : Bool :=
  slice h 0 4 == [0x4B, 0x5A, 0x46, 0x57] && leAt h 4 1 == k + 1 && leAt h 5 1 == k && leAt h 6 1 == 4 && decide (leAt h 12 4 ≤ 63) &&
    decide (leAt h 16 4 ≤ 2 ^ 20) && leAt h 20 44 == 0 && leAt h 128 384 == 0

/-- What the set's verification carries along: the offset, the firmware key, the digests and the lowest SVN. -/
structure Verified where
  off     : Nat
  n       : Nat
  e       : Nat
  digests : List (BitVec 512)
  svn     : Nat
  deriving DecidableEq, Repr

/-- Image `k`, in the order of R395; the failure code otherwise (R398). -/
def State.verifyImage (s : State) (v : Verified) (k : Nat) : Except Byte Verified :=
  let img := s.boot.image.drop v.off
  let h := slice img 0 1024
  let len := leAt h 16 4
  if !headerOk h k then .error 0x01
  else
    let key := slice img (1024 + len) 516
    if k = 0 ∧ Crypto.digest key ≠ s.fuses.fwKey then .error 0x02
    else
      let n := if k = 0 then leAt key 0 512 else v.n
      let e := if k = 0 then leAt key 512 4 else v.e
      let body := slice img 1024 (len + (if k = 0 then 516 else 0))
      if Crypto.sha512 body ≠ slice h 64 64 then .error 0x03
      else if !Crypto.pssVerify n e (Crypto.sha512 (h.take 512)) (slice h 512 512) then .error 0x04
      else if leAt h 12 4 < s.svnMin then .error 0x05
      else if leAt h 8 4 ≠ leAt s.boot.image 8 4 then .error 0x06
      else .ok { off := v.off + imageSpan s.boot.image k v.off, n := n, e := e, digests := v.digests ++ [Crypto.digest body]
                 svn := if k = 0 then leAt h 12 4 else Nat.min v.svn (leAt h 12 4) }

/-- The images in order. -/
def State.verifyFrom (s : State) (v : Verified) : List Nat → Except Byte Verified
  | [] => .ok v
  | k :: ks =>
    match s.verifyImage v k with
    | .ok v => s.verifyFrom v ks
    | .error c => .error c

/-- Image 0, which the cleat ROM verifies (R395). -/
def State.verifyFirst (s : State) : Except Byte Verified :=
  if s.lc = 4 then .error 0x08
  else if s.boot.received ≠ s.boot.total then .error 0x07
  else s.verifyImage { off := 0, n := 0, e := 0, digests := [], svn := 0 } 0

/-- The other images, which the security core verifies after image 0. -/
def State.verifyRest (s : State) (v : Verified) : Except Byte Verified :=
  match s.verifyFrom v [1, 2, 3] with
  | .ok v => if v.off = s.boot.total.toNat then .ok v else .error 0x07
  | .error c => .error c

/-- A fuse word cut short, 1 to 23 bits programmed, is completed (R392). -/
def completeWord (w : BitVec 32) : BitVec 32 :=
  let k := popcount (w.setWidth 64)
  if 1 ≤ k ∧ k ≤ 23 then 0xFFFFFFFF else w

/-- Fuse words with every cut one completed. -/
def State.wholeWords (s : State) : List (BitVec 32) := s.fuses.words.map completeWord

/-- The security core, started, programs the rest of a cut word and asks for the reset of step 5 of R391. -/
def State.completeWords (s : State) : State :=
  { s with fuses := { s.fuses with words := s.wholeWords }, sys := { s.sys with resetReq := some 2 } }

/-- Verification fails: no image runs, the security core's neither (R398, log 115). -/
def State.fwFail (s : State) (c : Byte) : State :=
  (({ s with boot := { s.boot with state := 4, fail := c, kept := false }, lcs := { s.lcs with ok := false } }.setReady .drbg false).setReady
    .sec false).setReady .fw false

/-- The whole set has verified: the minimum SVN rises, and BIST begins with the units that step 5 of R480 tests before they start, when the
power core and the scheduler core are to get their images (R396, R397). -/
def State.fwPass (s : State) (v : Verified) (r : BootConfirm) : State :=
  let svn : W64 := if s.svnMin < v.svn then BitVec.ofNat 64 (2 ^ v.svn - 1) else s.fuses.svn
  { s with
    fuses := { s.fuses with svn := svn }
    boot := { s.boot with digests := v.digests, version := BitVec.ofNat 32 (leAt s.boot.image 8 4), rest := some r }
    bist := { s.bist with running := true, left := (List.range 25).map (· + 64), todo := s.fittedBraids } }

/-- The ROM has verified the kept security-core image again after a security-domain reset: the security core runs, the PKE is wiped once it
has passed its test, the other cores never stopped (R477). Control cores that wait for their image get it. A module that is not serviceable
reports no PKE and no running set (R487). -/
def State.secAgain (s : State) : State :=
  let on := s.ready .power && s.ready .sched
  let ok := !s.sys.unserv && ((s.unit 83).result == 1 || (s.unit 83).result == 2)
  ((({ s with boot := { s.boot with state := if on then 3 else 2 } }.setReady .sec true).setReady .pke ok).setReady .fw on).sendImages

/-- FW_VERIFY_DONE in step 4 of R480: the ROM has verified image 0, and the security core starts, unless a cut fuse word comes first (R392,
R395). A set that has run, whose digests are there, is verified again in this image alone (R477). -/
def State.firstVerified (s : State) : State :=
  if !s.boot.digests.isEmpty then s.secAgain
  else match s.verifyFirst with
  | .error c => s.fwFail c
  | .ok _ => if s.wholeWords ≠ s.fuses.words then s.completeWords else s.setReady .sec true

/-- FW_VERIFY_DONE in step 5 of R480, which begins when the DRBG is ready: the security core has verified images 1 to 3. -/
def State.restVerified (s : State) (r : BootConfirm) : State :=
  if !s.boot.digests.isEmpty || !s.drbgOk then s
  else match s.verifyFirst with
  | .error c => s.fwFail c
  | .ok v => match s.verifyRest v with
    | .error c => s.fwFail c
    | .ok v => s.fwPass v r

/-- FW_VERIFY_DONE: of image 0 while the security core does not run, of the other images once it does. -/
def State.fwVerified (s : State) (r : BootConfirm) : State :=
  if !(s.pins.powered && s.sys.safe.isNone) || s.boot.state != 2 || s.sys.resetReq == some 2 then s
  else if s.ready .sec then s.restVerified r
  else s.firstVerified

def execFwVerifyDone (r : BootConfirm) (s : State) : Result := .next (s.fwVerified r)

/-! ## PCIe ports (R354, R364, R387, R476, R481) -/

/-- PERST_RELEASE: the PHY starts to train. -/
def State.perstRelease (s : State) (p : PciePort) : State :=
  if s.pins.powered then { s with pins := { s.pins with perst := s.pins.perst ||| BitVec.ofNat 3 (2 ^ pcieNum p) } } else s

def execPerstRelease (p : PciePort) (s : State) : Result := .next (s.perstRelease p)

/-- Links that a port can train (R352): its widths, and flit mode at 64 GT/s. -/
def State.linkLegal (s : State) (p : PciePort) (l : PcieLink) : Bool :=
  decide (l.rate.toNat ≤ (s.portCaps p).maxRate) && (l.rate != 5 || l.flit) && (s.portCaps p).widths.contains l.lanes.toNat

/-- What a port's training gave, or that its link is down. -/
def State.setLink (s : State) (p : PciePort) (l : Option PcieLink) : State :=
  { s with sys := { s.sys with links := Sparse.set none s.sys.links (pcieNum p) l } }

/-- PCIE_LINK_UP. With the control port's link, NumVFs is what the host that enumerates it sets; one above 7 asks for ARI Capable
Hierarchy first, and without it is not taken (R357, log 36). -/
def State.pcieUp (s : State) (u : PcieUp) : State :=
  if !(s.pins.powered && bit s.pins.perst (pcieNum u.port) && s.linkLegal u.port u.link) then s
  else match u.port with
  | .control =>
    let vfs := if decide (7 < u.vfs.toNat) && !u.ari then s.sys.vfs else u.vfs
    { s with sys := { s.sys with ctrlUp := true, vfs := vfs } }.setLink u.port (some u.link)
  | .bulkA => if s.cap.bulkA then (s.modPort .a (fun x => { x with up := true })).setLink u.port (some u.link) else s
  | .bulkB => if s.cap.bulkB then (s.modPort .b (fun x => { x with up := true })).setLink u.port (some u.link) else s

def execPcieLinkUp (l : PcieUp) (s : State) : Result := .next (s.pcieUp l)

/-- A bulk port's window logic reports ready again after a reset of the port, once its unit has passed its test (R481, R482). -/
def State.bulkAgain (s : State) (p : Port) : State :=
  let u := s.unit (match p with | .a => 70 | .b => 78)
  if bit s.pins.perst (portNum p + 1) && s.portAvail p && (u.result == 1 || u.result == 2) then s.setReady (portReadyBit p) true else s

/-- CONFIG_SPACE_LOAD_DONE: the configuration space of every port whose PERST# is released is loaded, that of the bulk ports in the same way
(R481). -/
def State.cfgLoad (s : State) : State :=
  if !s.mgmtUp then s
  else
    let s : State := { s with sys := { s.sys with cfgLoaded := s.sys.cfgLoaded ||| s.pins.perst } }
    if s.sys.unserv then s
    else ((if bit s.pins.perst 0 then s.setReady .ctrl true else s).bulkAgain .a).bulkAgain .b

def execConfigSpaceLoadDone (s : State) : Result := .next s.cfgLoad

/-- MSI-X state of a function's entries returns to its reset values: a message without acknowledgement is ended, pending bits are
cleared (R476). -/
def State.clearMsix (s : State) (ts : List Nat) : State :=
  ts.foldl (fun s t =>
    let s := s.ackMsix t
    let s := (s.deliverables t).foldl (fun s i => s.withdraw i) s
    s.setTgt t { s.tgt t with sent := false, msixAddr := 0, msixData := 0, masked := true }) s

/-- Entries of a function: 0-32 of the PF, 32 + k of VF k (R494). -/
def entriesOf (f : Fn) : List Nat := if f = 0 then List.range 33 else [32 + f.toNat]

/-- The ring registers of a function return to their reset values; SEQ and SEQGEN stay. -/
def State.resetRings (s : State) (f : Fn) : State :=
  let s := ([0, 1, 2, 3] : List (BitVec 2)).foldl (fun s q => s.modSq f q (fun r =>
    { SqRing.init with seq := r.seq, seqgen := r.seqgen, hist := r.hist })) s
  s.modFn f (fun x => { x with cq := CqRing.init, d3hot := false })

def allFns : List Fn := (List.range 32).map (fun k => BitVec.ofNat 5 k)

/-- CONTROL_PORT_RESET. The loss of a link that was up is an error for AER. -/
def State.ctrlReset (s : State) : State :=
  if !s.pins.powered then s
  else
    let s := if s.sys.ctrlUp then s.aer .control else s
    let s := s.clearMsix (List.range 64)
    let s := allFns.foldl (fun s f => (s.returnUnacked f).resetRings f) s
    let s : State := { s with sys := { s.sys with ctrlUp := false, vfs := 0, cfgLoaded := s.sys.cfgLoaded &&& 6 }
                              die := { s.die with ctrlResets := s.die.ctrlResets + 1 } }
    allFns.foldl (fun s f => s.loseFn f) ((s.setLink .control none).setReady .ctrl false)

def execControlPortReset (s : State) : Result := .next s.ctrlReset

/-- FUNCTION_LEVEL_RESET: SEQ is cleared and SEQGEN counts; numbering that a mirror tracks restarts (R528). -/
def State.flr (s : State) (f : Fn) : State :=
  if !s.pins.powered then s
  else
    let s := ((s.clearMsix (entriesOf f)).returnUnacked f).resetRings f
    let s := ([0, 1, 2, 3] : List (BitVec 2)).foldl (fun s q => s.modSq f q (fun r =>
      { r with seq := 0, seqgen := r.seqgen + 1, hist := [] })) s
    let s := s.loseFn f
    (s.tens.filter (fun e => e.2.fn == f && e.2.mirrored)).foldl (fun s e => s.wmRestarts (tid e.1)) s

def execFunctionLevelReset (f : Fn) (s : State) : Result := .next (s.flr f)

/-- VF_ENABLE_CLEAR. -/
def State.vfClear (s : State) : State :=
  if !s.pins.powered then s
  else (allFns.drop 1).foldl (fun s f => s.loseFn f) { s with sys := { s.sys with vfs := 0 } }

def execVfEnableClear (s : State) : Result := .next s.vfClear

/-- BULK_PORT_RESET: windows open on that port alone are closed, the others stay open on the other port; record buffers of the port are
gone, its link is down, its configuration space is to be loaded again and its RDY bit is cleared until then (R471, R482). -/
def State.bulkReset (s : State) (p : Port) : State :=
  if !s.pins.powered then s
  else
    let alone := fun (w : Win) => w.st == .open_ && w.onPort p && !(match p with | .a => w.portB | .b => w.portA)
    let s := (s.wins.filter (fun e => alone e.2)).foldl (fun s e => s.closeWin e.1) s
    let off := fun (w : Win) => match p with | .a => { w with portA := false } | .b => { w with portB := false }
    let s := (s.wins.filter (fun e => e.2.st == .open_ && e.2.onPort p)).foldl (fun s e => s.modWin e.1 off) s
    let was := (s.port p).up
    let s := (s.modPort p (fun x => { x with up := false, bufs := [], d3hot := false })).setLink (pciePort p) none
    let s := { s with sys := { s.sys with cfgLoaded := s.sys.cfgLoaded &&& ~~~(BitVec.ofNat 3 (2 ^ (portNum p + 1))) } }.setReady
      (portReadyBit p) false
    if was then s.raise (0x341 + portNum p) else s

end Sys2Proof.Machine
end

