-- ==== Sys2Proof/Machine/Belay.lean ====
section
/-! DEFINITION. Belay.lean: the belay link, commit records on the standby and the primary, takeover and resync (R479, R515–R533). -/

namespace Sys2Proof.Machine

/-! ## The link (R518, R529) -/

/-- The belay link is fitted, its logic ready and the module runs. -/
def State.belayUp (s : State) : Bool := s.live && s.secUp && s.cap.belay && s.ready .belay
/-- Records and notices cross the link. -/
def State.linked (s : State) : Bool := s.belayUp && s.bel.state == 3

/-- What the signature of step 3 of R518 covers: chain, life-cycle state, operator-key digest, nonce, ephemeral key. -/
def offerBytes (chain : List Byte) (lc : Byte) (operator : BitVec 512) (nonce : BitVec 256) (q : List Byte) : List Byte :=
  chain ++ [lc] ++ Crypto.digestBytes operator ++ leBytes 32 nonce.toNat ++ q

/-- The partner's signature verifies under the identity key that its chain binds, where the chain verifies under the fused root digest. -/
def State.offerSigned (s : State) (m : PairOffer) : Bool :=
  match Config.chainKey s.fuses.root m.chain with
  | some k => Crypto.pssVerify k.1.toNat k.2.toNat
      (Crypto.sha512 (offerBytes m.chain m.lc m.operator m.nonce (beBytes 48 m.keyX.toNat ++ beBytes 48 m.keyY.toNat))) m.sig
  | none => false

/-- The refusal code that the checks of step 4 of R518 give an offer, in their order. -/
def State.pairRefusal (s : State) (m : PairOffer) : Option Nat :=
  if !s.offerSigned m then some 2
  else if m.lc ≠ 2 then some 3
  else if s.die.opKey ≠ some m.operator then some 4
  else none

/-- What step 3 of R518 sends, with the signature over it all. -/
def State.sendOffer (s : State) (nonce : BitVec 256) (q : List Byte) : State :=
  let lc : Byte := BitVec.ofNat 8 s.lc
  let op := s.die.opKey.getD 0
  let r := s.idSign (offerBytes s.certs lc op nonce q)
  r.2.emit (.pairOffer s.certs lc op nonce q r.1)

/-- The 64 bytes of step 5 of R518: HKDF-SHA-512 over the shared value, the lower MOD_ID's nonce first in the salt. -/
def linkOkm (mine theirs : BitVec 256) (lower : Bool) (z : Nat) : List Byte :=
  let salt := if lower then leBytes 32 mine.toNat ++ leBytes 32 theirs.toNat else leBytes 32 theirs.toNat ++ leBytes 32 mine.toNat
  Crypto.hkdfExpand (Crypto.hkdfExtract salt (beBytes 48 z)) [0x4B, 0x5A, 0x42, 0x31] 64

/-- The link keys: those of the lower and of the higher MOD_ID. -/
def linkKeys (okm : List Byte) : BitVec 256 × BitVec 256 :=
  (BitVec.ofNat 256 (leNat (okm.take 32)), BitVec.ofNat 256 (leNat (okm.drop 32)))

/-- The x-coordinate of the shared point; at infinity a free value (log 50). -/
def State.sharedX (s : State) (p : Pt) : Nat × State :=
  match p with
  | some q => (q.1, s)
  | none => (s.free.1.toNat, s.free.2)

/-- A primary resends every record not acknowledged, in order, then sends those made while the link was down (R479, R529). -/
def State.resend (s : State) (n : Tid) : State :=
  ((s.ten n).mir.sent.foldl (fun s r => (s.sendOver r).1) s).sendUnsent n

/-! ### Copies (R523, R532) -/

def primeBytes (p : Prime) : List Byte := leBytes 8 p.q.toNat ++ leBytes 8 p.psi.toNat ++ [p.log2n] ++ List.replicate 15 0

/-- A page of the context area: SAVED contexts never cross the link (R341, R523). -/
def ctxPage (k : Nat) : Bool := inCtx (k * 2 ^ 21) (2 ^ 21)

/-- The tables, keys and pin of a tenancy, then its pages (R523, R532). -/
def State.copyChanges (s : State) (n : Tid) : List TableChange :=
  let t := s.ten n
  [.prime (t.primes.map primeBytes)] ++ t.chains.map (fun e => .chain e.2) ++
    t.keys.map (fun k => .key k.keyset k.purpose k.rotation k.tva) ++
    t.winKeys.filterMap (fun e => e.2.map (.winKey (BitVec.ofNat 4 e.1))) ++
    t.migKeys.filterMap (fun e => e.2.map (.migKey (BitVec.ofNat 2 e.1))) ++
    (match t.chan with | some c => [.channel c.kc c.kd] | none => []) ++
    (match t.pin with | some d => [.pin d t.pinCurve] | none => []) ++
    (t.pages.filter (fun e => e.2.state != .unmapped && !ctxPage e.1)).map (fun e =>
      .page (BitVec.ofNat 27 e.1) true e.2.backed e.2.sealed e.2.pref e.2.home e.2.homeft e.2.pin e.2.bulk)

/-- Where the numbering of the owner's four rings stands. -/
def State.ringMarks (s : State) (n : Tid) (f : Fn) : List (BitVec 2 × BitVec 32 × Byte) :=
  ([0, 1, 2, 3] : List (BitVec 2)).map (fun q => (q, s.lowestOpen n f q (s.sq f q).seqgen, (s.sq f q).seqgen))

/-- What the primary sends in step 3 of R532: every backed page in TVA order, as it stands. -/
def State.copyOf (s : State) (n : Tid) : PeerCopy :=
  let t := s.ten n
  { epoch := t.mir.epoch, mseq := t.mir.mseq, sync := t.sync, fn := t.fn, rings := s.ringMarks n t.fn, cred := t.cred
    changes := s.copyChanges n
    granules := ((t.pages.filter (fun e => e.2.backed && !ctxPage e.1)).map Prod.fst).flatMap (fun k =>
      s.granules n ((List.range 512).map (fun i => k * 512 + i)))
    late := [] }

/-- GCM records that a copy takes. -/
def copyRecords (c : PeerCopy) : Nat :=
  gcmRecords (4096 * c.granules.length + (c.changes.map changeSize).sum + 64)

/-- A copy goes over the link. -/
def State.sendCopy (s : State) (n : Tid) : State := (s.sendItem (copyRecords (s.copyOf n)) (.resync n (s.copyOf n))).1

/-! ### Pairing -/

/-- The link is up: close notices not acknowledged go first (R517, R522). Within the down timeout each standby that this drop froze goes on,
and each primary resends what is not acknowledged, its records or its copy (R479, R529). -/
def State.relink (s : State) : State :=
  let s := s.bel.notices.foldl (fun s n => s.sendClose n) s
  if !s.bel.down then s
  else
    let s := (s.tensOf (fun t => t.standby && t.mir.pstate == 3 && t.mir.cut)).foldl (fun s n =>
      s.modMir n (fun m => { m with pstate := if m.copying then 1 else 2, cut := false })) s
    let s := (s.tensOf (fun t => t.primary && t.mir.pstate == 2)).foldl State.resend s
    let s := (s.tensOf (fun t => t.primary && t.mir.pstate == 1 && t.mir.copying)).foldl State.sendCopy s
    s.setBel { s.bel with down := false }

/-- The steps of R518 end with a refusal code. -/
def State.refusePair (s : State) (c : Nat) : State := s.setBel { s.bel with state := 5, refusal := BitVec.ofNat 4 c, keys := none }

/-- Steps 3 to 6 of R518 with the partner's offer, when the engine serves them; the link has not dropped meanwhile. -/
def State.pairNow (s : State) (m : PairOffer) : State :=
  if s.bel.state ≠ 2 ∨ !s.drbgOk then s
  else
    let d := s.randBelow p384.nw p384.n
    let n := d.2.drbg
    let nonce : BitVec 256 := n.1.setWidth 256
    let s := n.2.sendOffer nonce (pointBytes 48 (p384.mul d.1 p384.g))
    match s.pairRefusal m with
    | some c => s.refusePair c
    | none =>
      let z := s.sharedX (p384.mul d.1 (some (m.keyX.toNat, m.keyY.toNat)))
      (z.2.setBel { z.2.bel with state := 3, refusal := 0, tx := 0, rx := 0
                                 keys := some (linkKeys (linkOkm nonce m.nonce (s.pins.modId.toNat < m.modId.toNat) z.1)) }).relink

/-- Pairing once the link has trained: the MOD_IDs are exchanged, and equal ones end it before anything else is sent; then the signatures and
the shared value take their turn at the public-key engine (R445, R518). -/
def State.pair (s : State) (m : PairOffer) : State :=
  if !(s.belayUp && (s.bel.state == 1 || s.bel.state == 4) && s.drbgOk && m.trained) then s
  else
    let s := (s.setBel { s.bel with state := 2, width := if m.x16 then 2 else 1, partner := m.modId }).emit (.modId s.pins.modId)
    if m.modId = s.pins.modId then s.refusePair 1
    else if s.pke.idle then (s.pairNow m).raise 0x361
    else s.pkeRequest { tok := none, buf := [], pair := some m }

def execBelayPairing (m : PairOffer) (s : State) : Result := .next (s.pair m)

/-- The running request of the engine ends: a PKE command's operation, a service of the security core, or a pairing. -/
def State.engineDone (s : State) : State :=
  match s.pke.running with
  | none => s
  | some r =>
    let free : State := { s with pke := { s.pke with running := none } }
    match s.reqTok r, r.pair with
    | some t, _ => if t.isPke then s.pkeDone else ((free.secServe t r.buf).raise 0x361).pkeGo
    | none, some m => ((if s.belayUp then free.pairNow m else free).raise 0x361).pkeGo
    | none, none => s.pkeDone

/-- PKE_OPERATION_DONE. -/
def execPkeOperationDone (s : State) : Result := .next (if s.secUp then s.engineDone else s)

/-- BELAY_PAIRING_RETRY: the link starts again from step 1. -/
def execBelayPairingRetry (s : State) : Result :=
  .next (if s.belayUp && s.bel.state == 5 then s.setBel { s.bel with state := 1, refusal := 0 } else s)

/-- BELAY_LINK_DOWN; a link that drops while it authenticates has not been up. -/
def execBelayLinkDown (s : State) : Result :=
  .next (if s.linked then s.leaveUp 4 else if s.belayUp && s.bel.state == 2 then s.setBel { s.bel with state := 4, width := 0 } else s)

/-- The link is retrained; nothing not acknowledged is lost (R479). It reaches the link alone, whatever else of the module runs (R471, R546). -/
def State.belayReset (s : State) : State :=
  if !(s.pins.powered && s.cap.belay && s.ready .belay) || s.bel.state == 0 then s
  else if s.bel.state == 3 then s.leaveUp 1
  else s.setBel { s.bel with state := 1, refusal := 0, width := 0 }

/-- BELAY_LINK_RESET. -/
def execBelayLinkReset (s : State) : Result := .next s.belayReset

/-- BULK_PORT_RESET. Where the belay link has the macro of bulk port B, BULKB_PERST# resets that link (R546). -/
def execBulkPortReset (p : Port) (s : State) : Result :=
  .next (if p == .b && s.cap.belay then s.belayReset else s.bulkReset p)

/-- BELAY_DOWN_TIMEOUT: each primary becomes unpaired, each frozen standby stays frozen; 0 means never. -/
def execBelayDownTimeout (s : State) : Result :=
  .next (if s.belayUp && s.bel.state != 3 && s.bel.down && s.bel.timeout != 0 then
      let s := (s.tensOf Ten.primary).foldl (fun s n => (s.unpair n).modMir n (fun m => { m with copying := false })) s
      let s := (s.tensOf (fun t => t.standby && t.mir.cut)).foldl (fun s n => s.modMir n (fun m => { m with cut := false })) s
      s.setBel { s.bel with down := false }
    else s)

/-! ## Applying records (R523, R526) -/

/-- What backing a page of a standby comes to: it is backed, no quota is left, or a scrub is waited for. -/
inductive Backed where
  | ok (s : State)
  | full
  | wait

/-- Run a list of steps until one is full or waits. -/
def Backed.all {α : Type} (f : State → α → Backed) : List α → State → Backed
  | [], s => .ok s
  | x :: xs, s => match f s x with
    | .ok s' => Backed.all f xs s'
    | .full => .full
    | .wait => .wait

/-- How a page stands once its backing has been started. -/
def State.backedNow (s : State) (n : Tid) (page : Nat) : Backed :=
  match s.mem.backing.find? (fun b => b.ten == n && b.page == page) with
  | none => if (s.pte n page).backed then .ok s else .full
  | some b => if b.place.isSome then .ok (s.finishBacking b) else .wait

/-- Back a mapped page in the tier that a record names, or by the pager's choice (R258). -/
def State.backFor (s : State) (tier : Option Bool) (n : Tid) (page : Nat) : Backed :=
  let p := s.pte n page
  if p.state != .mapped then .ok s
  else match tier with
    | none => (s.touchWrite n page p.home).1.backedNow n page
    | some b =>
      if s.tierTakes n b then (s.startBacking n page p.home b p.home none).backedNow n page
      else s.backedNow n page

/-- A change of a page of a record. -/
def State.applyPage (s : State) (n : Tid) (page : Nat) (mapped backed sealed pref home homeft pinned bulkTier : Bool) : Backed :=
  if !mapped then .ok (s.unmapPage n page)
  else
    let s := if backed then s else s.freePage n page
    let p := s.pte n page
    let s := s.setPte n page { p with state := if p.state == .unmapped then .mapped else p.state, sealed := sealed, pref := pref,
                                      home := home, homeft := homeft, pin := pinned }
    if backed then s.backFor (some bulkTier) n page else .ok s

/-- A change of a table, a key or a page that a record carries. -/
def State.applyChange (n : Tid) (s : State) (c : TableChange) : Backed :=
  match c with
  | .prime rs => .ok (s.modTen n (fun t => { t with primes := t.primes ++ rs.map primeOf }))
  | .chain r => .ok (s.modTen n (fun t => { t with chains := Sparse.set [] t.chains (leAt r 0 1) r }))
  | .key k u r a => .ok (s.modTen n (fun t => { t with keys := t.keys ++ [{ keyset := k, purpose := u, rotation := r, tva := a }] }))
  | .tenSet p w rv b rq bq => .ok (s.modTen n (fun t =>
      { t with prio := p, weight := w, revealOk := rv, braids := b, ring := { t.ring with quota := rq }
               bulk := { t.bulk with quota := bq } }))
  | .winKey i k => .ok (s.modTen n (fun t => { t with winKeys := Sparse.set none t.winKeys i.toNat (some k) }))
  | .migKey i k => .ok (s.modTen n (fun t => { t with migKeys := Sparse.set none t.migKeys i.toNat (some k) }))
  | .eraseKey m i => .ok (s.modTen n (fun t =>
      if m then { t with migKeys := Sparse.set none t.migKeys i.toNat none }
      else { t with winKeys := Sparse.set none t.winKeys i.toNat none }))
  | .pin d k => .ok (s.modTen n (fun t => { t with pin := some d, pinCurve := k }))
  | .channel kc kd => .ok (s.modTen n (fun t => { t with chan := some { kc := kc, kd := kd, seqC := 0, seqD := 0 } }))
  | .noChannel => .ok (s.modTen n (fun t => { t with chan := none }))
  | .page k m b se pr h hf pi bt => s.applyPage n k.toNat m b se pr h hf pi bt

/-- A granule of a record, written at its TVA through the standby's own encryption. -/
def State.applyGranule (n : Tid) (s : State) (g : BitVec 36 × List Byte) : Backed :=
  let a := g.1.toNat * 4096
  if (s.pte n (pageOf a)).state == .unmapped then .ok s
  else match s.backFor none n (pageOf a) with
    | .ok s => .ok (s.writeBacked n a (slice g.2 0 4096))
    | r => r

/-- The body of a record: its table changes and granules in place, its writes past a fence. -/
def State.applyBody (s : State) (n : Tid) (cs : List TableChange) (gs : List (BitVec 36 × List Byte)) : Backed :=
  match Backed.all (State.applyChange n) cs s with
  | .ok s => (match Backed.all (State.applyGranule n) gs s with
    | .ok s => .ok (s.fence (s.ctlsOf n (gs.map (fun g => g.1.toNat)) []))
    | r => r)
  | r => r

/-- The watermark a record moves on the standby: a KIND 7 record restarts it, one with LAST set marks its command (R528). Which of the
commands from WM on are of other tenancies the primary tells it (log 61). -/
def Wm.applied (w : Wm) (r : CommitRecord) (others : W64) : Wm :=
  if r.kind = 7 then { wm := r.seq, bits := 0, fn := r.fn, gen := r.seqgen }
  else if r.last && r.origin == w.fn && r.seqgen == w.gen then w.mark r.seq others else w

/-- A record is in place. -/
def State.recordDone (s : State) (n : Tid) (r : CommitRecord) (others : W64) : State :=
  let s := s.setWm n r.ring (((s.ten n).wm r.ring).applied r others)
  s.modMir n (fun m => { m with mseq := r.mseq, applied := m.applied + 1 })

/-- The standby cannot back a page within its quota: it closes as wiped; the cause of the entry is a free value (log 62). -/
def State.standbyFull (s : State) (n : Tid) : State :=
  let v := s.free
  v.2.beginClose n true Status.tenancyWiped none (some v.1)

/-- An acknowledgement goes back while the link is up. -/
def State.sendAck (s : State) (n : Tid) : State := (s.sendItem 1 (.notice n 2)).1

/-- Apply the authenticated records of a standby in MSEQ order, each acknowledged; one whose page waits for a scrub stays with those behind it
(R526, R530). -/
def State.drainInbox (n : Tid) : Nat → State → State
  | 0, s => s
  | f + 1, s =>
    match (s.ten n).mir.inbox with
    | [] => s
    | x :: rest =>
      match s.applyBody n x.1.changes x.1.granules with
      | .ok s => State.drainInbox n f (((s.recordDone n x.1 x.2).modMir n (fun m => { m with inbox := rest })).sendAck n)
      | .full => s.standbyFull n
      | .wait => s

/-- MSEQ of the last record that a standby has applied or authenticated. -/
def Mirror.lastSeq (m : Mirror) : W64 := (m.inbox.getLast?.map (fun x => x.1.mseq)).getD m.mseq

/-- COMMIT_RECORD_APPLY: a record of a paired standby has come, all of it authenticated. The next in order is kept, and what can be applied is;
one applied before is acknowledged again, as its sender has not heard of it (R479, R526). -/
def State.applyRecord (s : State) (r : CommitRecord) (others : W64) : State :=
  let n := r.tenancy
  let t := s.ten n
  if !(s.linked && t.standby && t.st != .closing && t.mir.pstate == 2 && r.epoch == t.mir.epoch) then s
  else
    let s := s.heard (gcmRecords (64 + recBody r))
    let s := s.setBel { s.bel with records := s.bel.records + 1 }
    if r.mseq.toNat ≤ t.mir.mseq.toNat then s.sendAck n
    else
      let s := if r.mseq == t.mir.lastSeq + 1 then s.modMir n (fun m => { m with inbox := m.inbox ++ [(r, others)] }) else s
      State.drainInbox n (s.ten n).mir.inbox.length s

def execCommitRecordApply (r : CommitRecord) (others : W64) (s : State) : Result := .next (s.applyRecord r others)

/-- The primary's watermark when a record is acknowledged: the commands of other tenancies are known from the ring (R528). -/
def State.ackWm (s : State) (n : Tid) (r : CommitRecord) : State :=
  let w := (s.ten n).wm r.ring
  let q := s.sq r.origin r.ring
  if r.kind = 7 || !r.last || r.origin != w.fn || r.seqgen != w.gen then s
  else if q.seqgen = w.gen then
    s.setWm n r.ring (Wm.onward q n (q.hist.length + 1) (w.mark r.seq (q.others n w.wm)))
  else s.setWm n r.ring (w.mark r.seq 0)

/-- COMMIT_RECORD_ACK: the partner acknowledges what it has of a tenancy: its close notice, or else the oldest record (log 113). What the mirror
engine had to read of that record it has read. -/
def State.ackRecord (s : State) (n : Tid) : State :=
  if !s.linked then s
  else if s.bel.notices.contains n then (s.setBel { s.bel with notices := s.bel.notices.filter (· != n) }).heard 1
  else match (s.ten n).mir.sent with
  | [] => s
  | r :: rs =>
    if !((s.ten n).primary && (s.ten n).mir.pstate == 2) then s
    else
      let s := s.modMir n (fun m => { m with sent := rs, reads := m.reads.filter (fun g => !r.granules.any (fun x => x.1.toNat == g)) })
      ((((s.releaseRec r).ackWm n r).wmRestarts n).heard 1).runHeld

def execCommitRecordAck (n : Tid) (s : State) : Result := .next (s.ackRecord n)

/-- Records of the standbys that waited for a frame. -/
def State.applyWaiting (s : State) : State :=
  (s.tensOf (fun t => t.standby && t.st != .closing)).foldl (fun s n => State.drainInbox n (s.ten n).mir.inbox.length s) s

/-- FRAME_SCRUB_DONE: backings that waited for the frame are served, then what a standby's records waited for is applied (R526). -/
def execFrameScrubDone (frame : Nat) (s : State) : Result := .next (if s.live then (s.scrubDone frame).applyWaiting else s)

/-! ## Takeover (R530) -/

/-- Every frame whose scrub is in progress is scrubbed. -/
def State.scrubAll (s : State) : State :=
  (s.mem.use.filterMap (fun e => match e.2 with | some (.scrubbing _) => some e.1 | _ => none)).foldl (fun s f => s.scrubDone f) s

/-- Records fully authenticated before a takeover are applied first; the takeover waits for the scrubs they need (R530, step 1). -/
def State.applyInbox (s : State) (n : Tid) : State :=
  let k := (s.ten n).mir.inbox.length
  if k = 0 then s else State.drainInbox n k (State.drainInbox n k s).scrubAll

/-- A standby becomes primary and unpaired, in the mode its primary had; the entry's event code is a free value (log 60). One that closes, or
that its records close for want of quota, is not taken over. -/
def State.takeOver (s : State) (n : Tid) : State :=
  let s := if (s.ten n).standby && (s.ten n).st != .closing then s.applyInbox n else s
  let t := s.ten n
  if !t.standby || t.st == .closing then s
  else
    let s := s.setTen n { t with mirror := if t.mir.sync then 2 else 1
                                 mir := { t.mir with standby := false, copying := false, pstate := 0, epoch := t.mir.epoch + 1
                                                     inbox := [], cut := false } }
    let v := s.free
    (v.2.log Dom.sched 0 cleatDie (v.1.toNat % 2 ^ 16) 0 (some n) []).raise (0x200 + n.toNat)

/-- TAKEOVER: a write of BEL.TEN.TAKEOVER by the PF; ignored while the link is up. -/
def execTakeover (f : Fn) (n : Tid) (s : State) : Result :=
  .next (if s.belayUp && f == 0 && s.bel.state != 3 then s.takeOver n else s)

/-- PARTNER_FATAL_NOTICE: every standby tenancy whose primary is the partner is taken over, then the notice is acknowledged (R505). -/
def execPartnerFatalNotice (s : State) : Result :=
  .next (if s.linked then
      (((s.heard 1).tensOf (fun t => t.standby && t.mir.pstate != 0)).foldl (fun s n => s.takeOver n) (s.heard 1) |>.sendItem 1 (.notice 0 3)).1
    else s)

/-- CLOSE_NOTICE: it is acknowledged, and the standby closes or the primary becomes unpaired (R522). -/
def execCloseNotice (n : Tid) (s : State) : Result :=
  .next (if !s.linked then s
    else
      let s := ((s.heard 1).sendItem 1 (.notice n 4)).1
      if (s.ten n).standby then s.beginClose n true Status.aborted none none
      else if (s.ten n).primary then (s.unpair n).modMir n (fun m => { m with copying := false })
      else s)

/-! ## Resync and divergence (R532, R533) -/

/-- The standby discards its pages and tables as at a closing wipe and keeps the tenancy, its own context area mapped as at its creation; its
pages take a fresh key (log 63). -/
def State.clearStandby (s : State) (n : Tid) : State :=
  let d := s.drbg
  let s := d.2
  let s : State := { s with mem := { s.mem with wc := s.mem.wc.filter (fun e => e.ten != n) } }
  let s := ((s.ten n).pages.map Prod.fst).foldl (fun s k => s.unmapPage n k) s
  s.modTen n (fun t =>
    { t with primes := [], chains := [], keys := [], winKeys := [], migKeys := [], chan := none, pin := none, xts := some d.1
             ptes := ctxPages t.ctxslots.toNat (s.tierFitted true)
             mir := { t.mir with pstate := 1, copying := true, inbox := [], cut := false } })

/-- The side of lower epoch closes; the cause of its TENANCY_WIPED entry is a free value (log 62). -/
def State.diverge (s : State) (n : Tid) : State :=
  let v := s.free
  v.2.beginClose n true Status.aborted none (some v.1)

/-- RESYNC_START: what this module does when the pair of its tenancy with the partner's forms (R532, R533). -/
def State.resyncStart (s : State) (n : Tid) (peer : PeerTen) : State :=
  let t := s.ten n
  let own := t.mir.epoch.toNat
  if !s.linked || t.st == .closing then s
  else if t.primary && peer.primary then
    if own < peer.epoch.toNat then s.diverge n
    else if own = peer.epoch.toNat then s.raise 0x343
    else s
  else if t.mir.pstate == 1 || t.mir.pstate == 2 then s
  else if t.primary then
    if own < peer.epoch.toNat then s.diverge n
    else
      (s.modMir n (fun m => { m with pstate := 1, copying := true })).sendCopy n
  else if t.standby && peer.primary then
    if peer.epoch.toNat < own || !s.drbgOk then s else s.clearStandby n
  else s

def execResyncStart (n : Tid) (peer : PeerTen) (s : State) : Result := .next (s.resyncStart n peer)

/-- The watermarks restart from the primary's function and rings. -/
def wmsOf (f : Fn) (rs : List (BitVec 2 × BitVec 32 × Byte)) : Sparse Wm :=
  rs.foldl (fun ws r => Sparse.set Wm.init ws r.1.toNat { wm := r.2.1, bits := 0, fn := f, gen := r.2.2 }) []

/-- The copy, then the records queued during it, in their order. -/
def State.applyCopy (s : State) (n : Tid) (c : PeerCopy) : Backed :=
  match s.applyBody n c.changes c.granules with
  | .ok s => Backed.all (fun (s : State) (r : CommitRecord) => match s.applyBody n r.changes r.granules with
    | .ok s => .ok ((s.recordDone n r 0).sendAck n)
    | x => x) c.late (s.modMir n (fun m => { m with mseq := c.mseq }))
  | x => x

/-- RESYNC_DONE on the primary: the pair is paired, and the queued records are sent in MSEQ order, each to be acknowledged as any other, so that
held completions wait for that (R527, R532). -/
def State.resyncPrimary (s : State) (n : Tid) : State :=
  let f := (s.ten n).fn
  (s.modMir n (fun m => { m with unsent := m.unsent ++ m.late, late := [], pstate := 2, copying := false
                                 wms := wmsOf f (s.ringMarks n f) })).sendUnsent n

/-- RESYNC_DONE on the standby: it takes the copy, the queued records, the primary's epoch, mode and numbering. -/
def State.resyncStandby (s : State) (n : Tid) (c : PeerCopy) : State :=
  match s.applyCopy n c with
  | .ok s => s.modTen n (fun t =>
      { t with cred := c.cred
               mir := { t.mir with epoch := c.epoch, sync := c.sync, pstate := 2, copying := false, wms := wmsOf c.fn c.rings } })
  | .full => s.standbyFull n
  | .wait => s

/-- RESYNC_DONE. -/
def State.resyncDone (s : State) (n : Tid) (c : PeerCopy) : State :=
  let t := s.ten n
  if !(s.linked && t.st != .closing && t.mir.pstate == 1 && t.mir.copying) then s
  else if t.primary then s.resyncPrimary n
  else if t.standby then s.resyncStandby n c
  else s

def execResyncDone (n : Tid) (copy : PeerCopy) (s : State) : Result := .next (s.resyncDone n copy)

end Sys2Proof.Machine
end

