-- ==== Sys2Proof/Machine/Admit.lean ====
section
/-! DEFINITION. Admit.lean: the dispatch check and the headers of destinations (R64, R65, R69–R77, R89, R327, R552–R554). -/

namespace Sys2Proof.Machine

/-! ## Destination headers (R69, R552) -/

/-- Fields of a destination header that R552 keeps from the header in place: word, lowest bit, width. -/
def keptFields : List (Nat × Nat × Nat) :=
  [(0, 8, 8), (0, 59, 1), (0, 60, 1), (1, 8, 4), (2, 0, 2), (2, 2, 1), (2, 3, 5), (2, 32, 32), (3, 0, 48), (4, 0, 4), (4, 8, 24),
   (4, 32, 7), (4, 40, 4), (4, 44, 4), (4, 48, 4), (5, 0, 32), (5, 32, 8), (5, 40, 8)]

/-- The check of R552 on a header in place. -/
def Ten.destOk (x : Ten) (n : Tid) (ty : Nat) (h : BitVec 512) : Bool :=
  hClean h && hTen h == n.toNat && hType h == ty && hFields h ((x.chain (hChain h)).map (·.w8))

/-- What the scheduler has computed for the destinations, as far as it can be (R73, R75): the chain and its LOG2N, LEVEL, SCALE,
HEADROOM, UNBOUNDED, and the most sealed case of the sources. -/
structure DestVals where
  chain  : Option Nat
  log2n  : Nat
  level  : Option Nat
  scale  : Option Nat
  head   : Option Nat
  unb    : Option Bool
  sealed : Option Bool

/-- SEALED of a destination (R552). The types that fix it take it as fixed, whatever the case of the sources is (DESIGN CHOICE, log 98). -/
def destCase (d : BitVec 512) (n : Nat) (sealed : Option Bool) : Option Bool :=
  let x := kSlot d n
  match fixedCase x.ty with
  | some k => some k
  | none => if kReveals d && x.case != 2 then some (x.case == 1) else sealed

/-- A destination header from the header in place, when that passed R552, and the values computed; what cannot be computed is zero. A share, a
key share and a skip map carry UNBOUNDED 0, as R552 says, under an advisory chain too, where R76 says 1 (DESIGN CHOICE, log 98). -/
def destHeader (n : Tid) (d : BitVec 512) (keyset slot : Nat) (keep : Option (BitVec 512)) (v : DestVals) : BitVec 512 :=
  let ty := (kSlot d slot).ty
  let old := keep.getD 0
  let h := keptFields.foldl (fun (h : BitVec 512) f => hSet h f.1 f.2.1 f.2.2 (wf old f.1 f.2.1 f.2.2)) 0
  let h := hSet h 0 0 4 1
  let h := hSet h 0 16 8 n.toNat
  let h := hSet h 0 24 8 (if ty = 3 ∧ kRingsh d then 0xFF else v.chain.getD 0)
  let h := hSet h 0 32 16 (if ty = 1 ∨ ty = 4 ∨ ty = 5 then keyset else 0)
  let h := hSet h 0 48 5 (if ty = 3 ∨ ty = 7 then 0 else v.log2n)
  let h := hSet h 0 58 1 (if (destCase d slot v.sealed).getD false then 1 else 0)
  let plain := ty == 3 || ty == 5 || ty == 7
  let h := hSet h 0 57 1 (if !plain && v.unb.getD false then 1 else 0)
  let h := hSet h 1 0 8 (if plain then 0 else v.level.getD 0)
  let h := hSet h 1 16 16 (if plain then 0 else v.scale.getD 0)
  let h := hSet h 1 32 16 (if plain then 0 else v.head.getD 0)
  hSeal h

/-! ## The checks of R74 -/

/-- A source slot, its declaration and its header. -/
structure Src where
  slot : Nat
  d    : SlotD
  h    : Option (BitVec 512)

/-- Check 1 on a source. -/
def Src.good (x : Src) (t : Ten) (n : Tid) : Bool :=
  match x.h with
  | some h => t.headerValid h && hTen h == n.toNat && hType h == x.d.ty
  | none => false

def Src.hdr (x : Src) : BitVec 512 := x.h.getD 0

/-- A share over Z_2^64. -/
def ringShare (h : BitVec 512) : Bool := hType h == 3 && hChain h == 0xFF

/-- Sources that have a say in the token's chain (R65). -/
def chained (ss : List Src) : List (BitVec 512) := (ss.map Src.hdr).filter (fun h => hType h != 7 && !ringShare h)

/-- Sources that checks 6 to 8 apply to. -/
def scaled (ss : List Src) : List Src := ss.filter (fun x => [1, 2, 4, 6].contains x.d.ty)

/-- The slot's declared case admits a case (R103). -/
def SlotD.admits (d : SlotD) (sealed : Bool) : Bool := if d.case = 0 then !sealed else if d.case = 1 then sealed else d.case == 2

/-- A sealed payload lies wholly in sealed pages (R71). -/
def State.payloadSealed (s : State) (n : Tid) (h : BitVec 512) : Bool :=
  let p := s.payload n h
  s.allSealedPage n p.1 p.2

/-- The sum of the two factors' SCALE under rule 1; none when check 7 fails (R73). -/
def ruleOne (ms : List (BitVec 512)) : Option Nat :=
  match ms with
  | [] => none
  | a :: _ =>
    match ms.find? (fun h => hType h != hType a) with
    | some b =>
      if ms.all (fun h => match ms.find? (fun k => hType k == hType h) with | some k => hScale k == hScale h | none => false) then
        some (hScale a + hScale b)
      else none
    | none =>
      let ps := chunks 2 (ms.length + 1) ms
      let sums := ps.map (fun p => (p.map hScale).sum)
      if ms.length % 2 = 0 && sums.all (fun x => x == sums.headD 0) then some (sums.headD 0) else none

/-- The lowest of a list. -/
def lowest (xs : List Nat) : Option Nat := xs.foldl (fun m x => match m with | none => some x | some y => some (Nat.min x y)) none

/-- h of R73; none where a source that has a say in it is not known. -/
def lowHead (ss : List Src) : Option Nat :=
  let of := fun (ts : List Nat) => ss.filter (fun x => ts.contains x.d.ty)
  let ys := if (of [1, 6]).isEmpty then of [2] else of [1, 6]
  if ys.all (fun x => x.h.isSome) then lowest (ys.map (fun x => hHeadroom x.hdr)) else none

/-- Σ c_j · W[j] (R73). -/
def headCost (d : BitVec 512) (c : ChainD) : Nat := ((List.range 8).map (fun j => kC d j * c.w.getD j 0)).sum

/-- The destination values of R73, each where the chain and the sources that it rests on are known: a source that check 1 refuses is there
without a header (R75). `fv` supplies those the spec gives no value for (log 40). -/
def Ten.destVals (t : Ten) (d : BitVec 512) (ss : List Src) (chain : Option Nat) (fv : W64) : DestVals :=
  let xs := scaled ss
  let known := fun (ys : List Src) => ys.all (fun y => y.h.isSome)
  let c := chain.bind t.chain
  let ell := if known xs then lowest (xs.map (fun x => hLevel x.hdr)) else none
  let unb := xs.any (fun x => hUnbounded x.hdr)
  let drop := fun (c : ChainD) (l : Nat) => ((List.range (kDl d)).map (fun i => Arith.log2q (t.primeAt c (l - i)))).sum
  let cased := ss.filter (fun x => x.d.ty != 7)
  let sealed := cased.any (fun x => hSealed x.hdr)
  let scaleOf := fun (c : ChainD) =>
    if c.scheme ≠ 0 then some 0
    else if kRefresh d && kRule d == 2 then some c.rscale
    else if kRefresh d || kRule d == 2 then some (fld fv 0 16)
    else if kRule d = 0 then (match xs with | x :: _ => x.h.map hScale | [] => some (fld fv 0 16))
    else
      let ms := xs.filter (fun x => x.d.scalem)
      match ell, (if known ms then ruleOne (ms.map Src.hdr) else none) with
      | some l, some v => if kDl d ≤ l + 1 ∧ drop c l ≤ v ∧ v - drop c l < 2 ^ 16 then some (v - drop c l) else none
      | _, _ => if xs.isEmpty then some (fld fv 0 16) else none
  { chain := chain, log2n := (match c with | some c => c.log2n | none => 0)
    level := if kRefresh d then c.map (·.rlevel)
      else match ell with
        | some l => if kDl d ≤ l then some (l - kDl d) else none
        | none => if xs.isEmpty && c.isSome then some (fld fv 32 8) else none
    scale := c.bind scaleOf
    head := c.bind (fun c =>
      if kRefresh d then some c.rhead
      else match lowHead xs with
        | some h => some (h - headCost d c)
        | none => if known xs then some (fld fv 16 16) else none)
    unb := if kRefresh d then some false else if unb || known xs then some unb else none
    sealed := if sealed || known cased then some sealed else none }

/-- Checks 2 to 8 on sources that passed check 1; `dests` are the destination slots with their headers in place. None when all pass,
else the status; the flag says that check 8 failed under an advisory chain. -/
def State.checks (s : State) (t : Token) (d : BitVec 512) (keys : List (BitVec 32)) (ss : List Src) (dests : List (Nat × BitVec 512))
    (chain : Nat) (v : DestVals) : Option Byte × Bool :=
  let x := s.ten t.ten
  let xs := scaled ss
  let c := x.chain chain
  let ell := (lowest (xs.map (fun y => hLevel y.hdr))).getD 0
  let hmin := match c with | some c => c.hmin | none => 0
  let adv := match c with | some c => c.advisory | none => false
  let ms := (xs.filter (fun y => y.d.scalem)).map Src.hdr
  let inList := fun (h : BitVec 512) => keys.any (fun k => fld k 0 4 == hPurpose h && fld k 4 24 == hRotation h)
  let case := kReveals d && !x.revealOk ||
    ss.any (fun y => !y.d.admits (hSealed y.hdr) || (hSealed y.hdr && !s.payloadSealed t.ten y.hdr)) ||
    dests.any (fun y =>
      let k := (destCase d y.1 v.sealed).getD false
      !(kSlot d y.1).admits k || (k && !s.payloadSealed t.ten (destHeader t.ten d t.kKeyset y.1 (some y.2) v)))
  let chainBad := match c with
    | none => true
    | some c => c.mode != kMode d || (ss.any (fun y => ringShare y.hdr) && kMode d) ||
        (chained ss).any (fun h => hChain h != chain || hLog2n h != c.log2n)
  let keyBad := ss.any (fun y =>
    let h := y.hdr
    ([1, 4, 5].contains (hType h) && hKeyset h != t.kKeyset) ||
      (hType h == 4 && (!inList h || hDnum h != (match c with | some c => c.dnum | none => 0))))
  let scaleBad := if kRule d = 2 then false
    else if kRule d = 0 then ms.any (fun h => hScale h != hScale (ms.headD 0))
    else !xs.isEmpty && ((ruleOne ms).isNone || v.scale.isNone)
  let headBad := !xs.isEmpty && (xs.any (fun y => hUnbounded y.hdr) || decide (v.head.getD 0 < hmin))
  if ss.any (fun y => hPoison y.hdr) then (some Status.poisonedOperand, false)
  else if case then (some Status.caseViolation, false)
  else if chainBad then (some Status.chainMismatch, false)
  else if keyBad then (some Status.keysetMismatch, false)
  else if !xs.isEmpty && decide (ell < kDl d) then (some Status.levelExhausted, false)
  else if scaleBad then (some Status.headroomExceeded, false)
  else if headBad && !adv then (some Status.headroomExceeded, false)
  else (none, headBad)

/-! ## A token's plan -/

/-- What the dispatch check leaves: the descriptor and the key list, the status (OK or OK_FLAGGED when the token may run), the headers of
sources and destinations. -/
structure Plan where
  status : Byte
  desc   : BitVec 512
  keys   : List (BitVec 32)
  srcs   : List (Nat × BitVec 512)
  dests  : List (Nat × BitVec 512)

/-- Read the headers of slots, in slot order. -/
def State.readHeaders (s : State) (t : Token) (slots : List Nat) : State × List (Nat × Option (BitVec 512)) :=
  slots.foldl (fun r n =>
    let x := r.1.readHeader t.ten (t.slotTva n)
    (x.1, r.2 ++ [(n, x.2)])) (s, [])

/-- The token's chain (R65): of its lowest-numbered source slot that is neither a skip map nor a share over Z_2^64. None when that slot's
header gives none. -/
def tokenChain (ss : List Src) (x : Ten) (n : Tid) : Option Nat :=
  match ss.find? (fun y => y.d.ty != 7 && !(y.good x n && ringShare y.hdr)) with
  | some y => if y.good x n then some (hChain y.hdr) else none
  | none => some 0xFF

/-- The dispatch check of R327 step 1, with the destination headers computed as far as they can be. `force` is a status that refuses the
token before R74. -/
def State.planFor (s : State) (t : Token) (d : BitVec 512) (keys : List (BitVec 32)) (force : Option Byte) : State × Plan :=
  let n := t.ten
  let r := s.readHeaders t (kSources d)
  let q := r.1.readHeaders t (kDests d)
  let fv := q.1.free
  let s := fv.2
  let x := s.ten n
  let ss := r.2.map (fun e => ({ slot := e.1, d := kSlot d e.1, h := e.2 } : Src))
  let keep := q.2.map (fun e => (e.1, match e.2 with
    | some h => if x.destOk n (kSlot d e.1).ty h then some h else none
    | none => none))
  let good := ss.all (fun y => y.good x n)
  let chain := tokenChain ss x n
  let v := x.destVals d (ss.map (fun y => if y.good x n then y else { y with h := none })) chain fv.1
  let one := !good || keep.any (fun e => e.2.isNone)
  let c := s.checks t d keys ss (keep.filterMap (fun e => e.2.map (fun h => (e.1, h)))) (chain.getD 0xFF) v
  let status := match force with
    | some st => st
    | none => if one then Status.poisonedOperand else c.1.getD (if c.2 then Status.okFlagged else Status.ok)
  let v := if status = Status.okFlagged then { v with unb := some true, head := some 0 } else v
  (s, { status := status, desc := d, keys := keys, srcs := ss.filterMap (fun y => y.h.map (fun h => (y.slot, h)))
        dests := keep.map (fun e => (e.1, destHeader n d t.kKeyset e.1 e.2 v)) })

/-- The checks of R327 step 1. Where the descriptor itself cannot be read, no slot is known to be a destination and no header is poisoned
(DESIGN CHOICE, log 98). -/
def State.plan (s : State) (t : Token) : State × Plan :=
  let r := s.readItem t.ten t.kImage 64
  match r.2 with
  | .error st => (r.1, { status := st, desc := 0, keys := [], srcs := [], dests := [] })
  | .ok bs =>
    let d := rec64 bs
    let k := if kKeys d = 0 ∨ 4095 < kKeys d then (r.1, .ok []) else r.1.readItem t.ten (t.kImage + kKeylist d) (4 * kKeys d)
    match k.2 with
    | .error st => k.1.planFor t d [] (some st)
    | .ok ks =>
      let keys := keyWords ks
      k.1.planFor t d keys (if kernelOk d keys then none else some Status.aborted)

/-- A token is refused: its destination headers are written poisoned and it is RETIRING (R75). -/
def State.refuse (s : State) (t : Token) (p : Plan) (st : Byte) : State :=
  let s := s.writeHeaders t (p.dests.map (fun h => (h.1, hPoisoned h.2 st)))
  let s := (if t.ctx.isSome then s.freeCtx t.ten t.id else s).fenceTok t.id
  (s.finish t.id (Comp.ofStatus st 0)).closeStep t.ten

end Sys2Proof.Machine
end

