-- ==== Sys2Proof/Machine/Context.lean ====
section
/-! DEFINITION. Context.lean: context images: their bytes, saves and restores (R130, R337–R343). The places that R340 leaves inside its
areas are DESIGN CHOICES of log 41. -/

namespace Sys2Proof.Machine

/-! ## Ring records -/

/-- The key page that a key ring has not released first: as many pages back from the next as its slots hold; a page in flight is still the
next (R241). -/
def Ring.rewind (r : Ring) (len : Nat) (source : Bool) : Ring :=
  let back := (r.tail - r.head).toNat - (if r.xfer.isSome then 1 else 0)
  let lin := ((if source then r.entry * r.passes else 0) + r.pass) * len + r.next - back
  if len = 0 then r
  else
    let p := lin / len
    { r with next := lin % len, tail := r.head, slots := r.slots.map (fun _ => Slot.init)
             pass := if source then p % r.passes else p, entry := if source then p / r.passes else 0, xfer := none }

/-- A ring's 32-byte record: ARMED, PERSIST, in flight, among its data writes; KIND; SIZE; the slot in flight; HEAD; TAIL; the FULL mask;
DESC of the transfer; PASS; the slice reached; ELEMENT; the present-list entry. -/
def Ring.record (r : Ring) : List Byte :=
  if !r.armed || r.rearm then List.replicate 32 0
  else
    let x := r.xfer
    let full := (r.slots.zipIdx).foldl (fun m k => if k.1.engine == .full || k.1.braid == .full then m ||| oneBit k.2 else m) (0 : W64)
    let data := match x with | some y => y.data | none => false
    [BitVec.ofNat 8 (1 + (if r.persist then 2 else 0) + (if x.isSome then 4 else 0) + (if data then 8 else 0)),
      BitVec.ofNat 8 r.kind, BitVec.ofNat 8 r.size, BitVec.ofNat 8 ((x.map (·.slot)).getD 0)] ++
      leBytes 2 r.head.toNat ++ leBytes 2 r.tail.toNat ++ leBytes 2 full.toNat ++ leBytes 2 ((x.map (·.first)).getD r.next) ++
      leBytes 2 r.pass ++ leBytes 2 ((x.map (·.slice)).getD 0) ++ leBytes 8 ((x.map (·.elem)).getD 0) ++ leBytes 2 r.entry ++
      List.replicate 6 0

/-! ## The image (R339, R340) -/

/-- Bytes of a core's scratchpad in an image. -/
def imageS (foldSafe : Bool) : Nat := if foldSafe then 2 ^ 21 else 2 ^ 22

/-- Records of 128 KiB in an image (R344). -/
def imageRecords (foldSafe : Bool) : Nat := 16 + imageS foldSafe * 64 / 131072

/-- Sequencer state from offset 64: PC, L0-L3, LC0-LC3, the timeout flag, the bank map; then whether issue had ended at the hitch point,
and whether a base conversion had failed its check (R157, log 41). -/
def Braid.seqBytes (b : Braid) : List Byte :=
  leBytes 2 b.pc.toNat ++
    (List.range 4).flatMap (fun i =>
      let l := b.loop i
      [if l.active then 1 else 0] ++ leBytes 2 l.index.toNat ++ leBytes 2 l.count.toNat ++ leBytes 2 l.first.toNat ++ leBytes 2 l.last.toNat) ++
    (List.range 4).flatMap (fun i => leBytes 2 (b.lcs.getD i 0).toNat) ++ [if b.tflag then 1 else 0] ++ leBytes 2 b.bankMap.toNat ++
    [BitVec.ofNat 8 ((if b.atEnd then 1 else 0) + (if b.bcuBad then 2 else 0))]

/-- Bytes padded with zeros to `n`. -/
def padTo (n : Nat) (bs : List Byte) : List Byte := bs.take n ++ List.replicate (n - bs.length) 0

/-- Poison bits of a logical core, one per 4 KiB region. -/
def Braid.poisonBytes (b : Braid) (c : Nat) : List Byte :=
  (List.range 128).map (fun i => BitVec.ofNat 8 (((List.range 8).map (fun k =>
    let a := (8 * i + k) * 4096
    let p := b.logAddr c a
    if (!b.fold || decide (a < 2 ^ 21)) && b.poisonAt p.1 p.2 then 2 ^ k else 0)).sum))

/-- The image's first 16 KiB from offset 64 on. -/
def Braid.imageTail (b : Braid) (t : Token) : List Byte :=
  let hs := t.srcs ++ t.dests
  let hdr := fun (n : Nat) => match hs.find? (fun h => h.1 == n) with | some h => leBytes 64 h.2.toNat | none => List.replicate 64 0
  padTo 64 b.seqBytes ++ leBytes 8 (if b.fold then b.sealMap.toNat % 2 ^ 32 else b.sealMap.toNat) ++ (List.range 8).flatMap hdr ++
    padTo 376 ((List.range 8).flatMap (fun n => leBytes 8 (t.slotTva n))) ++
    (List.range 32).flatMap (fun r => (Sparse.get Ring.init b.rings r).record) ++ List.replicate 6144 0 ++
    (List.range 64).flatMap b.poisonBytes

/-- The image header. -/
def Braid.imageHead (b : Braid) (t : Token) (tail : List Byte) : List Byte :=
  let h := [1, t.ten, BitVec.ofNat 8 ((if b.m32 then 1 else 0) + (if b.foldSafe then 2 else 0)), 0] ++ leBytes 8 (fld t.cmd 0 64) ++
    leBytes 4 b.kcrc.toNat ++ leBytes 8 t.kImage ++ leBytes 8 t.kTable ++ leBytes 8 t.remain.toNat
  let h := padTo 60 h
  h ++ leBytes 4 (crc32c (h ++ tail)).toNat

/-- Scratchpad of a logical core. -/
def Braid.coreBytes (b : Braid) (c n : Nat) : List Byte := (List.range n).map (fun k => let p := b.logAddr c k; b.spByte p.1 p.2)

/-- Write the braid's context to slot `k` of the tenancy (R337 step 3). -/
def State.writeImage (s : State) (i k : Nat) (t : Token) : State :=
  let b := s.braid i
  let tail := b.imageTail t
  let base := ctxSlot k
  let n := imageS b.foldSafe
  let hw := some (braidHawser i)
  let s := s.writeOwn t.ten hw base (b.imageHead t tail ++ tail)
  (List.range 64).foldl (fun s c => s.writeOwn t.ten hw (base + 2 ^ 21 + n * c) (b.coreBytes c n)) s

/-! ## Room for a save (R341) -/

/-- Pages an image takes that are not backed yet. -/
def State.imageNeeds (s : State) (n : Tid) (k : Nat) (foldSafe : Bool) : Nat :=
  ((pagesOf (ctxSlot k) (2 ^ 21 + imageS foldSafe * 64)).filter (fun p => !(s.pte n p).backed)).length

/-- Pages a tenancy may still back in a tier. -/
def State.tierRoom (s : State) (n : Tid) (bulk : Bool) : Nat :=
  if s.tierFitted bulk && s.tierOpen bulk then
    Nat.min ((s.ten n).book bulk).avail
      (([false, true].map (fun h => s.freeFrames bulk h + s.scrubbing bulk h)).sum)
  else 0

/-- The lowest free context slot. -/
def State.freeSlotOf (s : State) (n : Tid) : Option Nat :=
  (List.range (s.ten n).ctxslots.toNat).find? (fun k => (Sparse.get none (s.ten n).ctx k).isNone)

/-- A save can back its pages within quota. -/
def State.canSave (s : State) (n : Tid) (k : Nat) (foldSafe : Bool) : Bool :=
  decide (s.imageNeeds n k foldSafe ≤ s.tierRoom n false + s.tierRoom n true)

/-- Victims passed over (R341). -/
def State.saveRefused (s : State) : State :=
  { s with sch := { s.sch with saveRef := BitVec.ofNat 8 (satAdd 8 s.sch.saveRef.toNat 1) } }

/-! ## Restore (R338, R342) -/

/-- A saved image as read: its first 16 KiB. -/
structure Image where
  head : List Byte
  ok   : Bool

def Image.kcrc (m : Image) : Nat := leAt m.head 12 4
def Image.foldSafe (m : Image) : Bool := leAt m.head 2 1 / 2 % 2 == 1
def Image.kImage (m : Image) : Nat := leAt m.head 16 8
def Image.kTable (m : Image) : Nat := leAt m.head 24 8
def Image.remain (m : Image) : Nat := leAt m.head 32 8
def Image.hdr (m : Image) (n : Nat) : BitVec 512 := rec64 (slice m.head (136 + 64 * n) 64)
def Image.slotTva (m : Image) (n : Nat) : Nat := leAt m.head (648 + 8 * n) 8
def Image.ring (m : Image) (r : Nat) : List Byte := slice m.head (1024 + 32 * r) 32
def ringArmed (r : List Byte) : Bool := leAt r 0 1 % 2 == 1

/-- VERSION 1, the tenancy's, ICRC right. -/
def imageGood (n : Tid) (bs : List Byte) : Bool :=
  leAt bs 0 1 == 1 && leAt bs 1 1 == n.toNat && leAt bs 60 4 == (crc32c (bs.take 60 ++ bs.drop 64)).toNat

/-- Read the image in a context slot. -/
def State.readImage (s : State) (n : Tid) (k : Nat) : State × Image :=
  let r := s.readMem n (ctxSlot k) 16384
  (r.1, { head := r.2.1, ok := !r.2.2 && imageGood n r.2.1 })

/-- The ring records agree with the stream table's configurations in KIND, PERSIST and SIZE (R342). -/
def Image.tableMatches (m : Image) (cfgs : List (BitVec 512)) : Bool :=
  (List.range 32).all (fun r =>
    let x := m.ring r
    !ringArmed x || cfgs.any (fun c => wf c 0 4 5 == r && wf c 0 9 3 == leAt x 1 1 && wf c 0 12 1 == leAt x 0 1 / 2 % 2 &&
      wf c 0 13 4 + 1 == leAt x 2 1))

/-- The sequencer, the seal map, the headers and the scratchpads of a braid from an image; registers start as at kernel start. -/
def Braid.loadImage (b : Braid) (m : Image) (sp : List (List Byte)) : Braid :=
  let at' := fun (o n : Nat) => leAt m.head o n
  let loops := (List.range 4).map (fun i =>
    let o := 66 + 9 * i
    ({ active := at' o 1 == 1, index := BitVec.ofNat 16 (at' (o + 1) 2), count := BitVec.ofNat 16 (at' (o + 3) 2)
       first := BitVec.ofNat 12 (at' (o + 5) 2), last := BitVec.ofNat 12 (at' (o + 7) 2) } : LoopCtr))
  let b := { b with pc := BitVec.ofNat 12 (at' 64 2), loops := loops, lcs := (List.range 4).map (fun i => BitVec.ofNat 16 (at' (102 + 2 * i) 2))
                    tflag := at' 110 1 == 1, atEnd := at' 113 1 % 2 == 1, bcuBad := at' 113 1 / 2 % 2 == 1, bankMap := b.mapOf (BitVec.ofNat 16 (at' 111 2))
                    sealMap := if b.fold then BitVec.ofNat 64 (at' 128 4 * (2 ^ 32 + 1)) else BitVec.ofNat 64 (at' 128 8)
                    hdrs := (List.range 8).map (fun n => BitVec.ofNat 64 (at' (136 + 64 * n + 8) 8)) }
  let b := (sp.zipIdx).foldl (fun b x => (x.1.zipIdx).foldl (fun (b : Braid) y =>
    let p := b.logAddr x.2 y.2
    if y.1 = 0 then b else b.putByte p.1 p.2 y.1) b) b
  (List.range 64).foldl (fun b c => (List.range (if b.fold then 512 else 1024)).foldl (fun (b : Braid) k =>
    let p := b.logAddr c (4096 * k)
    if (at' (8192 + 128 * c + k / 8) 1).testBit (k % 8) then b.setPoison p.1 p.2 else b) b) b

/-- The scratchpads of an image. -/
def State.readScratch (s : State) (n : Tid) (k : Nat) (foldSafe : Bool) : State × List (List Byte) × Bool :=
  (List.range 64).foldl (fun r c =>
    let x := r.1.readMem n (ctxSlot k + 2 ^ 21 + imageS foldSafe * c) (imageS foldSafe)
    (x.1, r.2.1 ++ [x.2.1], r.2.2 || x.2.2)) (s, [], false)

/-- A ring rebuilt from its record: full slots full, free slots free, its position where it stood; a transfer in flight waits to resume at
its element with its descriptors `ds`. -/
def Ring.rebuild (r : Ring) (x : List Byte) (ds : List (BitVec 512)) : Ring :=
  let full := leAt x 8 2
  let inflight := leAt x 0 1 / 4 % 2 == 1
  let slot := leAt x 3 1
  let slots := (List.range r.size).map (fun k =>
    if inflight && k == slot then ({ braid := .inflight, engine := .inflight } : Slot)
    else if full.testBit k then { braid := .full, engine := .full } else Slot.init)
  { r with head := BitVec.ofNat 16 (leAt x 4 2), tail := BitVec.ofNat 16 (leAt x 6 2), slots := slots
           next := leAt x 10 2, pass := leAt x 12 2, entry := leAt x 24 2, halted := inflight
           posDesc := BitVec.ofNat 16 (leAt x 10 2 + leAt x 14 2), posPass := BitVec.ofNat 16 (leAt x 12 2)
           posElem := BitVec.ofNat 64 (leAt x 16 8)
           xfer := if inflight then some { slot := slot, descs := ds, first := leAt x 10 2, data := leAt x 0 1 / 8 % 2 == 1,
                                           slice := leAt x 14 2, elem := leAt x 16 8, wait := .run, cover := [], banks := [] }
                   else none }

end Sys2Proof.Machine
end

