-- ==== Sys2Proof/Machine/Lanyard.lean ====
section
/-! DEFINITION. Lanyard.lean: key pages: the group's page order, the check before delivery, checksum, seed expansion and delivery
(R27–R29, R227–R241). -/

namespace Sys2Proof.Machine

def State.group (s : State) (g : Nat) : Option Group := s.sch.groups.find? (fun x => x.id == g)
def State.modGroup (s : State) (g : Nat) (f : Group → Group) : State :=
  { s with sch := { s.sch with groups := s.sch.groups.map (fun x => if x.id = g then f x else x) } }

def Group.hw (g : Group) : Bool := g.hawser != 0

/-- Digit and position of page `k`: limb-major with ORDER 0, digit-major with ORDER 1. -/
def pageAt (c : ChainD) (level : Nat) (order : Bool) (k : Nat) : Nat × Nat :=
  let ps := passPositions c level
  let d := passDigits c level
  if order then (k / ps.length, ps.getD (k % ps.length) 0) else (k % d, ps.getD (k / d) 0)

def passLen (c : ChainD) (level : Nat) : Nat := passDigits c level * (passPositions c level).length

/-- The group has passes left: PASSES of one key, or of every present entry's key (R231). -/
def Group.more (g : Group) : Bool :=
  if g.source then decide (g.entry < g.present.length) else decide (g.pass < g.passes)

/-- The key-list entry in use. -/
def Group.keyEntry (g : Group) : BitVec 32 :=
  let i := if g.source then g.keyidx + (g.present.getD g.entry 0).toNat else g.keyidx
  g.keys.getD i 0

/-- The header TVA of the key a group streams: KEYSLOT's, or the object registered (R231, R333). -/
def State.keyTva (s : State) (g : Group) : Option Nat :=
  if g.source then
    let k := g.keyEntry
    ((s.ten g.ten).keys.find? (fun r => r.keyset == g.keyset && r.purpose.toNat == fld k 0 4 && r.rotation.toNat == fld k 4 24)).map
      (·.tva.toNat)
  else some g.keyTva.toNat

/-- The group after a page. -/
def Group.advance (g : Group) (len : Nat) : Group :=
  if g.page + 1 < len then { g with page := g.page + 1 }
  else if g.pass + 1 < g.passes then { g with page := 0, pass := g.pass + 1 }
  else if g.source then { g with page := 0, pass := 0, entry := g.entry + 1 }
  else { g with page := 0, pass := g.pass + 1 }

/-- A member whose issue has ended does not get the page: its slot is free, and the ring is out of the group. -/
def Braid.dropPage (b : Braid) (ring : Nat) : Braid :=
  let r := b.ring ring
  match r.xfer with
  | none => b
  | some x => b.setRing ring { r with xfer := none, slots := r.slots.set x.slot Slot.init }

/-- Members that have left at the end of their issue are out of the group; a group without members is gone. -/
def State.dropLeft (s : State) (id : Nat) : State :=
  let gs := s.sch.groups.map (fun g => if g.id = id then { g with members := g.members.filter (fun m => !m.left) } else g)
  { s with sch := { s.sch with groups := gs.filter (fun g => !g.members.isEmpty) } }

/-- A failure of the stream fails it for every member (R233, R234), at an address where it concerns one (R508); the slots in flight are poisoned
but for a failed check. -/
def State.failGroup (s : State) (g : Group) (st : Byte) (poison : Bool) (at' : Option FaultAddr) : State :=
  (g.members.foldl (fun s m =>
    if m.left then s.modBraid m.braid (·.dropPage m.ring)
    else
      let r := (s.braid m.braid).ring m.ring
      (s.markFault m.braid at').failStream m.braid m.ring st (if poison then r.xfer.map (·.slot) else none) (List.range 64)) s).dropLeft g.id

/-- The members' rings show the group's position (R244). -/
def State.showPos (s : State) (g : Group) : State :=
  g.members.foldl (fun s m => s.modBraid m.braid (fun b =>
    b.setRing m.ring { b.ring m.ring with next := g.page, pass := g.pass, entry := g.entry })) s

/-- MULTICAST_GROUP_START: every member has armed its ring (R239). -/
def State.groupStart (s : State) (id : Nat) : State :=
  match s.group id with
  | some g =>
    if s.live && !g.started && g.members.all (·.armed) then (s.modGroup id (fun g => { g with started := true })).noteStalls else s
  | none => s

/-- May the group read its next page (R240): it has started, none is in read, every member has a free slot at TAIL. -/
def State.groupReady (s : State) (g : Group) : Bool :=
  s.live && g.started && g.read.isNone && g.more && g.members.all (fun m =>
    let b := s.braid m.braid
    let r := b.ring m.ring
    r.armed && !r.rearm && r.xfer.isNone && !b.linkDown && b.pllUp && (r.slotAt r.tail.toNat 0).engine == .free)

/-- Key-page header fields (R228), of 16 words. -/
def kp (h : List Byte) (w lo n : Nat) : Nat := leAt h (8 * w) 8 / 2 ^ lo % 2 ^ n

/-- Reserved fields of a key-page header are zero. -/
def kpClean (h : List Byte) : Bool :=
  kp h 0 0 4 == 1 && kp h 0 4 4 == 0 && kp h 0 44 4 == 0 && kp h 1 29 3 == 0 &&
    (List.range 9).all (fun i => kp h (7 + i) 0 64 == 0)

/-- The check before delivery (R232): the first failure decides. `oh` is the object header, `d` and `j` the digit and position
expected. -/
def State.keyCheck (s : State) (g : Group) (oh : BitVec 512) (h : List Byte) (d j : Nat) : Option Byte :=
  let t := s.ten g.ten
  let c := (t.chain g.chain.toNat).getD ringChain
  let e := g.keyEntry
  firstFail
    [(!kpClean h || !t.headerValid oh || hType oh != 4, Status.keysetMismatch),
     (kp h 0 8 8 != g.ten.toNat, Status.keysetMismatch),
     (kp h 0 16 16 != hKeyset oh || kp h 0 16 16 != g.keyset.toNat, Status.keysetMismatch),
     (kp h 0 40 4 != fld e 0 4 || kp h 0 40 4 != hPurpose oh || kp h 1 0 24 != fld e 4 24 || kp h 1 0 24 != hRotation oh,
        Status.keysetMismatch),
     ((kp h 0 63 1 == 1) != hSeeded oh || kp h 0 48 8 != d, Status.keysetMismatch),
     (kp h 0 32 8 != hChain oh || kp h 0 32 8 != g.chain.toNat, Status.chainMismatch),
     (kp h 1 24 5 != c.log2n, Status.chainMismatch),
     (kp h 0 56 7 != j || kp h 2 0 64 != t.primeAt c j, Status.chainMismatch)]

/-- Each member's slot at TAIL is taken for the page. -/
def State.takeSlots (s : State) (g : Group) : State :=
  g.members.foldl (fun s m => s.modBraid m.braid (fun b =>
    let r := b.ring m.ring
    b.setRing m.ring (r.take { r.newXfer [] with first := 0, data := true }))) s

/-- Count a failed check of a hawser's lanyard engine. -/
def State.keyFail (s : State) (g : Group) (st : Byte) (sum : Bool) : State :=
  s.modLan g.hw (fun l => if sum then { l with ckfail := BitVec.ofNat 16 (satAdd 16 l.ckfail.toNat 1), last := st }
    else { l with keyfail := BitVec.ofNat 16 (satAdd 16 l.keyfail.toNat 1), last := st })

/-- Is any slot area of a member's slot in flight open (R83). -/
def State.slotOpen (s : State) (m : Member) : Bool :=
  let b := s.braid m.braid
  let r := b.ring m.ring
  match r.xfer with
  | some x => (b.slotRegions r x.slot [0, 32]).any (fun p => !b.sealedAt p.2)
  | none => false

/-- KEY_PAGE_READ_START: the key is found, the object header and the page header are read and checked (R231–R233, R240). -/
def State.keyPageStart (s : State) (id : Nat) : State :=
  match s.group id with
  | none => s
  | some g =>
    if !s.groupReady g then s
    else
      let t := s.ten g.ten
      let c := (t.chain g.chain.toNat).getD ringChain
      let dj := pageAt c g.level g.order g.page
      match s.keyTva g with
      | none => s.failGroup g Status.keysetMismatch false none
      | some kt =>
        let s := s.takeSlots g
        if s.anyUnmapped g.ten kt 64 then s.failGroup g Status.pageUnmapped true (s.firstBad g.ten kt 64 Status.pageUnmapped)
        else
          let ro := s.readMem g.ten kt 64
          let s := ro.1
          let oh := rec64 ro.2.1
          let tva := keyPageTva oh c dj.1 dj.2
          if ro.2.2 then s.failGroup g Status.poisonedOperand true (s.firstBad g.ten kt 64 Status.poisonedOperand)
          else if s.anyUnmapped g.ten tva 128 then s.failGroup g Status.pageUnmapped true (s.firstBad g.ten tva 128 Status.pageUnmapped)
          else
            let rh := s.readMem g.ten tva 128
            let s := rh.1
            if rh.2.2 then s.failGroup g Status.poisonedOperand true (s.firstBad g.ten tva 128 Status.poisonedOperand)
            else match s.keyCheck g oh rh.2.1 dj.1 dj.2 with
            | some st => (s.keyFail g st false).failGroup g st false none
            | none =>
              let len := 4096 + 2 ^ c.log2n * c.w8 * (if hSeeded oh then 1 else 2)
              if s.anySealedPage g.ten tva len && g.members.any (fun m => s.slotOpen m) then
                s.failGroup g Status.caseViolation true (some (.tva tva))
              else s.modGroup id (fun g =>
                { g with read := some { digit := dj.1, pos := dj.2, tva := BitVec.ofNat 48 tva, hdr := rh.2.1 } })

/-! ## Seed expansion (R235) -/

/-- The words of one block of SHAKE128 output, tested in order. -/
def takeWords (w k q n : Nat) : List Byte → Nat → List Nat → Nat → List Nat × Nat
  | _, 0, a, rej => (a, rej)
  | bs, f + 1, a, rej =>
    if bs.isEmpty ∨ n ≤ a.length then (a, rej)
    else
      let x := leAt bs 0 w % 2 ^ k
      if x < q then takeWords w k q n (bs.drop w) f (a ++ [x]) rej else takeWords w k q n (bs.drop w) f a (rej + 1)

/-- Blocks until `n` words are accepted; the fuel allows 64 blocks for each block of words wanted (log 31). -/
def expandAux (w k q n : Nat) : Nat → List W64 → List Nat → Nat → List Nat × Nat
  | 0, _, a, rej => (a, rej)
  | f + 1, st, a, rej =>
    if n ≤ a.length then (a, rej)
    else
      let r := takeWords w k q n ((st.take 21).flatMap (fun x => leBytes 8 x.toNat)) 42 a rej
      expandAux w k q n f (Crypto.keccakF Crypto.keccakRCs st) r.1 r.2

/-- The k1 half of a seeded page, and the words rejected. -/
def expandSeed (h : List Byte) (c : ChainD) : List Nat × Nat :=
  let q := kp h 2 0 64
  let m := slice h 24 32 ++ [0x4B, 0x5A, 0x53, 0x31, BitVec.ofNat 8 (kp h 0 48 8), BitVec.ofNat 8 (kp h 0 56 7),
    BitVec.ofNat 8 (kp h 1 24 5), BitVec.ofNat 8 c.w8] ++ leBytes 8 q
  let p := m ++ [0x1F] ++ List.replicate 118 0 ++ [0x80]
  let n := 2 ^ c.log2n
  expandAux c.w8 (Arith.bitlen q) q n (64 * (n * c.w8 / 168 + 1)) (Crypto.absorb Crypto.keccakRCs [p]) [] 0

/-! ## Delivery (R234, R237) -/

/-- CKSUM is right (R229). -/
def cksumOk (h half : List Byte) : Bool := (crc32c (h.take 12 ++ List.replicate 4 0 ++ (h.drop 16).take 112 ++ half)).toNat == kp h 1 32 32

/-- Write a member's slot: core c receives slots c·M to (c + 1)·M − 1 of each half. -/
def Braid.deliver (b : Braid) (r : Ring) (slot : Nat) (k0 k1 : List Byte) : Braid :=
  let n := k0.length / 64
  let base := r.slotBase + slot * r.slotBytes
  (List.range 64).foldl (fun b c =>
    let put := fun (b : Braid) (off : Nat) (bs : List Byte) =>
      ((bs.zipIdx).foldl (fun (b : Braid) w =>
        let p := b.logAddr c (base + off + w.2)
        (b.cancelStores p.1 p.2 1).putByte p.1 p.2 w.1) b)
    let ks := (List.range (2 * n / 16)).map (fun i => let p := b.logAddr c (base + 16 * i); spKey p.1 p.2)
    put (put (b.eccFresh ks) 0 ((k0.drop (c * n)).take n)) n ((k1.drop (c * n)).take n)) b

/-- Why a member cannot take the page's words now. -/
def State.memberWait (s : State) (m : Member) : Option XferWait :=
  let b := s.braid m.braid
  let r := b.ring m.ring
  match r.xfer with
  | none => none
  | some x => b.dmaWait? ((b.slotRegions r x.slot [0, 32]).map Prod.snd)

/-- A member whose bank is not the engine's holds the page (R169, R240). -/
def State.keyHold (s : State) (m : Member) : State :=
  match s.memberWait m, ((s.braid m.braid).ring m.ring).xfer with
  | some w, some x => s.holdXfer m.braid m.ring w (((s.braid m.braid).slotRegions ((s.braid m.braid).ring m.ring) x.slot [0, 32]).map Prod.snd)
  | _, _ => s

/-- A member takes the two halves of a key page into its slot, which becomes full on the engine's side, or free after the end of its
issue (R225). -/
def Braid.takeKey (b : Braid) (ring : Nat) (k0 k1 : List Byte) : Braid :=
  match (b.ring ring).xfer with
  | none => b
  | some x =>
    let b := b.deliver (b.ring ring) x.slot k0 k1
    b.setRing ring { b.ring ring with
      xfer := none, slots := (b.ring ring).slots.set x.slot { braid := .inflight, engine := if b.phase = .ended then .free else .full } }

/-- A member whose issue has ended and whose bank the map keeps from the engine: nothing changes the map any more, and the page never takes
place (R169, log 95). A clearing ends by itself, and the page waits for it (R175, R225). -/
def State.memberStuck (s : State) (m : Member) : Bool :=
  let b := s.braid m.braid
  let r := b.ring m.ring
  m.left && (match r.xfer with
    | some x => (banksOf ((b.slotRegions r x.slot [0, 32]).map Prod.snd)).any (fun k => !bit b.bankMap k)
    | none => false)

/-- The page goes to a member; a stuck one does not get it. -/
def State.giveKey (s : State) (m : Member) (k0 k1 : List Byte) : State :=
  let w := ((s.braid m.braid).ring m.ring).xfer.map (·.wait)
  let s := s.modBraid m.braid (fun b => if s.memberStuck m then b.dropPage m.ring else b.takeKey m.ring k0 k1)
  if w = some .owner ∧ !(s.braid m.braid).dmaWaits then s.endDmaWait m.braid (s.braid m.braid).phase else s

/-- The page goes to every member, the group goes on to its next page. `seeded` pages are expanded, `rejected` words of it were not
used (R234, R235). -/
def State.keyDeliver (s : State) (id : Nat) (g : Group) (seeded : Bool) (rejected : Nat) (k0 k1 : List Byte) (pass : Nat) : State :=
  let took := g.members.filter (fun m => !s.memberStuck m)
  let s := s.modLan g.hw (fun l =>
    { l with delivers := l.delivers + BitVec.ofNat 64 took.length
             expPages := if seeded then l.expPages + 1 else l.expPages, rejected := l.rejected + BitVec.ofNat 32 rejected })
  let s := g.members.foldl (fun s m => s.giveKey m k0 k1) s
  let s := (s.modGroup id (fun g => { g.advance pass with read := none })).dropLeft id
  let s := s.noteStalls
  match s.group id with
  | some g => s.showPos g
  | none => s

/-- The halves have been read: the checksum is compared, a seeded page expanded (R234, R235). -/
def State.keyChecked (s : State) (id : Nat) (g : Group) (k : KeyRead) (c : ChainD) (bytes : List Byte) : State :=
  let half := 2 ^ c.log2n * c.w8
  let seeded := kp k.hdr 0 63 1 == 1
  if !cksumOk k.hdr bytes then (s.keyFail g Status.eccUncorrected true).failGroup g Status.eccUncorrected true (some (.tva k.tva.toNat))
  else
    let ex := if seeded then expandSeed k.hdr c else ([], 0)
    s.keyDeliver id g seeded ex.2 (bytes.take half) (if seeded then ex.1.flatMap (leBytes c.w8) else bytes.drop half)
      (passLen c g.level)

/-- Read the halves of a key page. -/
def State.keyRead (s : State) (id : Nat) (g : Group) (k : KeyRead) : State :=
  let c := ((s.ten g.ten).chain g.chain.toNat).getD ringChain
  let len := 2 ^ c.log2n * c.w8 * (if kp k.hdr 0 63 1 = 1 then 1 else 2)
  let tva := k.tva.toNat + 4096
  if s.anyUnmapped g.ten tva len then s.failGroup g Status.pageUnmapped true (s.firstBad g.ten tva len Status.pageUnmapped)
  else
    let rd := s.readMem g.ten tva len
    let s := rd.1.modLan g.hw (fun l => { l with reads := l.reads + 1 })
    if rd.2.2 then s.failGroup g Status.poisonedOperand true (s.firstBad g.ten tva len Status.poisonedOperand) else s.keyChecked id g k c rd.2.1

/-- KEY_PAGE_DONE: the halves are read; with the checksum right every member's slot is written and becomes full on the engine's
side. While the bank of a member that is not stuck is not the engine's the page waits (R169, R240). -/
def State.keyPageDone (s : State) (id : Nat) : State :=
  match s.group id with
  | none => s
  | some g =>
    match g.read with
    | none => s
    | some k =>
      if !s.live then s
      else if g.members.any (fun m => !s.memberStuck m && (s.memberWait m).isSome) then g.members.foldl (fun s m => s.keyHold m) s
      else s.keyRead id g k

def execMulticastGroupStart (g : Nat) (s : State) : Result := .next (s.groupStart g)
def execKeyPageReadStart (g : Nat) (s : State) : Result := .next (s.keyPageStart g)
def execKeyPageDone (g : Nat) (s : State) : Result := .next (s.keyPageDone g)

end Sys2Proof.Machine
end

