-- ==== Sys2Proof/Machine/Table.lean ====
section
/-! DEFINITION. Table.lean: stream tables and what the key rings of a token stream (R201–R204, R226, R238). -/

namespace Sys2Proof.Machine

/-! ## Ring configurations (R203) -/

/-- Slot areas of rings of KIND 0 to 4: R203's alignment, the end of scratchpad, disjointness (check 3). -/
def geometryOk (cs : List (BitVec 512)) (fold : Bool) : Bool :=
  let xs := (cs.filter (fun c => cKind c != 5)).map (fun c => (cBase c, cBase c + (cSlots c + 1) * cBytes c, cBytes c))
  xs.all (fun x => x.1 % 4096 == 0 && x.2.2 % 4096 == 0 && decide (4096 ≤ x.2.2) && decide (x.2.2 ≤ 2 ^ 20) &&
    decide (x.2.1 ≤ (if fold then 2 ^ 21 else 2 ^ 22))) &&
    (xs.zipIdx).all (fun x => (xs.zipIdx).all (fun y => x.2 == y.2 || decide (x.1.2.1 ≤ y.1.1) || decide (y.1.2.1 ≤ x.1.1)))

/-- A slot is used in the direction, and with the type where one is asked for. -/
def slotIs (d : BitVec 512) (n : Nat) (dest : Bool) (ty : Option Nat) : Bool :=
  decide (n < 8) && (kSlot d n).used && (kSlot d n).dest == dest && (match ty with | some t => (kSlot d n).ty == t | none => true)

/-- Bindings of one configuration (check 4); `count` is COUNT of the skip map when LISTEN is 1. -/
def bindOk (d : BitVec 512) (count : Option Nat) (c : BitVec 512) : Bool :=
  let k := cKind c
  (!(k == 0 || k == 5) || cSrc c == 0xF || slotIs d (cSrc c) false none) &&
    (!(k == 1 || k == 5) || cDst c == 0xF || slotIs d (cDst c) true none) &&
    (!cLdimen c || (if k = 0 then cSrc c != 0xF else cDst c != 0xF)) &&
    (k != 2 || (slotIs d (cLvlslot c) false (some 1) && decide (cKeyidx c < kKeys d) &&
      (if cSource c then (match count with | some n => decide (cKeyidx c + n ≤ kKeys d) | none => false)
       else slotIs d (cKeyslot c) false (some 4))))

/-- Exactly one KIND 4 ring with SPLICES = 1, none with SPLICES = 0 (R302). -/
def spliceRings (d : BitVec 512) (cs : List (BitVec 512)) : Bool :=
  (cs.filter (fun c => cKind c == 4)).length == (if kSplices d then 1 else 0)

/-- Check 5: a key ring needs a chain with P limbs and slots of a page. -/
def keySlotsOk (c : ChainD) (cs : List (BitVec 512)) : Bool :=
  cs.all (fun x => cKind x != 2 || (decide (1 ≤ c.plimbs) && decide (2 * (2 ^ c.log2n / 64) * c.w8 ≤ cBytes x)))

/-! ## Rings from configurations (R205, R210, R226) -/

/-- PAYLOAD of a bound slot, 0 where none is bound. -/
def boundPayload (hs : List (Nat × BitVec 512)) (n : Nat) : BitVec 48 := BitVec.ofNat 48 (if n = 0xF then 0 else hPayload (slotHdr hs n))

/-- Bind a ring to the headers of its token, sources as read and destinations as computed. -/
def Ring.bind (r : Ring) (c : BitVec 512) (hs : List (Nat × BitVec 512)) : Ring :=
  { r with cfg := c, payS := boundPayload hs (cSrc c), payD := boundPayload hs (cDst c)
           lim := hLevel (slotHdr hs (if cKind c = 0 then cSrc c else cDst c)) + 1 }

/-- A ring newly armed. -/
def Ring.arm (old : Ring) (c : BitVec 512) (hs : List (Nat × BitVec 512)) : Ring :=
  { Ring.init with armed := true, slots := List.replicate (cSlots c + 1) Slot.init, stall := old.stall }.bind c hs

/-- The configurations agree in what R226 asks for. -/
def sameCfg (a b : BitVec 512) : Bool :=
  cKind a == cKind b && cSlots a == cSlots b && cBase a == cBase b && cBytes a == cBytes b && cProg a == cProg b &&
    cProgLen a == cProgLen b && wf a 0 25 2 == wf b 0 25 2 && cLdimen a == cLdimen b && cOrder a == cOrder b &&
    cKeyidx a == cKeyidx b && cSource a == cSource b

/-- A waiting ring is re-armed: counters, pass count and position restart, the descriptor cache stays. -/
def Ring.rearmWith (r : Ring) (c : BitVec 512) (hs : List (Nat × BitVec 512)) : Ring :=
  { r with rearm := false, head := 0, tail := 0, pass := 0, next := 0, entry := 0, halted := false, xfer := none
           slots := List.replicate (cSlots c + 1) Slot.init }.bind c hs

/-- The braid's waiting rings when a token of the same tenancy is dispatched to it: re-armed, or disarmed. -/
def Braid.rearmFor (b : Braid) (cs : List (BitVec 512)) (hs : List (Nat × BitVec 512)) : Braid :=
  { b with rings := b.rings.map (fun e =>
      let r := e.2
      match cs.find? (fun c => cRing c == e.1 && cPersist c && r.armed && r.rearm && sameCfg c r.cfg) with
      | some c => (e.1, r.rearmWith c hs)
      | none => (e.1, { Ring.init with stall := r.stall })) }

end Sys2Proof.Machine
end

