-- ==== Sys2Proof/Machine/Sched.lean ====
section
/-! DEFINITION. Sched.lean: KERNEL commands turned into tokens, the dispatch decision and the close of a splice (R33, R42, R135, R238, R289, R290, R313, R321–R328, R336,
R372, R554). -/

namespace Sys2Proof.Machine

/-! ## KERNEL (R322, R323, R328, R370, R372, R554) -/

/-- Reserved bits of an operand-set record. -/
def setClean (r : List Byte) : Bool := leAt r 64 8 / 64 == 0 && (r.drop 72).all (· == 0)

/-- The first bytes of what a KERNEL command names lie in mapped, open pages. -/
def State.kernelPages (s : State) (t : Token) : Bool :=
  [t.kImage, t.kTable, t.kSets].all (fun a =>
    let p := s.pte t.ten (pageOf a)
    p.state != .unmapped && !p.sealed)

def Token.kTvas (t : Token) : Bool := decide (t.kImage < 2 ^ 48) && decide (t.kTable < 2 ^ 48) && decide (t.kSets < 2 ^ 48)

/-- Operand-set records of a command. -/
def opSets (c : BitVec 512) (bs : List Byte) : List (List Byte) := chunks 128 (kernelSets c) bs

/-- TVAs of a record's slots. -/
def recSlots (r : List Byte) : List W64 := (List.range 8).map (fun i => BitVec.ofNat 64 (leAt r (8 * i) 8))

/-- A fetched command refused whole: one entry, one completion (R323). -/
def State.refuseKernel (s : State) (x : Fetched) (st : Byte) (detail : Nat) (pre : State → Token → State) : State :=
  let e := s.sch.nextId
  let t : Token :=
    { id := e, cmdId := x.cmdId, fn := x.fn, cfn := x.fn, ring := x.ring, seq := x.seq, seqgen := x.seqgen, cmd := x.cmd, ten := cmdTen x.cmd,
      kernel := false, set := 0, deps := x.deps, badDep := x.badDep, st := .issued, slots := [], rank := 0, braid := none, remain := 0
      ctx := none, srcs := [], dests := [], flagged := false, started := true, comp := Comp.ofStatus 0 0, held := false, wrote := [], ctls := []
      keyHome := none }
  let s : State := { s with sch := { s.sch with nextId := e + 1, pool := s.sch.pool ++ [t]
                                                fetched := s.sch.fetched.filter (fun y => y.cmdId != x.cmdId) } }
  (pre s t).finish e (Comp.ofStatus st detail)

/-- Destination headers of a command refused for its dependency are written poisoned, where they can be found (R323). -/
def State.poisonSets (s : State) (t : Token) : State :=
  let r := s.readItem t.ten t.kSets (128 * kernelSets t.cmd)
  match r.2 with
  | .error _ => r.1
  | .ok bs =>
    (opSets t.cmd bs).foldl (fun s rec' =>
      let u := { t with slots := recSlots rec' }
      let p := s.plan u
      p.1.writeHeaders u (p.2.dests.map (fun h => (h.1, hPoisoned h.2 Status.aborted)))) r.1

/-- Tokens of a command, one for each record: its timeout counts units of 2^20 scheduler cycles. -/
def State.makeTokens (s : State) (x : Fetched) (rs : List (List Byte)) : State :=
  let e := s.sch.nextId
  let t0 := entryOf e x.cmdId x.fn x.ring (s.sq x.fn x.ring) x.cmd (x.deps, 0)
  let units := if t0.kTimeout = 0 then (s.fn x.fn).defTmo.toNat else t0.kTimeout
  let ts := rs.zipIdx.map (fun r =>
    { t0 with id := e + r.2, seq := x.seq, seqgen := x.seqgen, kernel := true, set := BitVec.ofNat 16 r.2, slots := recSlots r.1
              rank := BitVec.ofNat 6 (leAt r.1 64 1), remain := BitVec.ofNat 64 (units * 2 ^ 20), started := true })
  { s with sch := { s.sch with nextId := e + ts.length, pool := s.sch.pool ++ ts
                               fetched := s.sch.fetched.filter (fun y => y.cmdId != x.cmdId) } }.noteReady

/-- A KERNEL command that is its function's first not yet turned into tokens, with room for its tokens (R321); one with no unsatisfied dependency
comes after the earlier commands that could start (R365). -/
def State.kernelDue (s : State) (c : Nat) : Option Fetched :=
  match s.sch.fetched.find? (fun x => x.cmdId == c) with
  | none => none
  | some x =>
    if (s.sch.fetched.find? (fun y => y.fn == x.fn)).map (·.cmdId) = some c &&
        decide (kernelSets x.cmd ≤ Nat.min s.poolFree ((s.fn x.fn).toklim.toNat - s.tokensOf x.fn)) &&
        !(s.depsMet x.deps && (s.commandBefore c || s.kernelBefore c)) then some x
    else none

/-- KERNEL. -/
def State.kernelCmd (s : State) (c : Nat) : State :=
  match s.kernelDue c with
  | none => s
  | some x =>
    if !s.schedUp then s
    else
      let t := entryOf 0 x.cmdId x.fn x.ring (s.sq x.fn x.ring) x.cmd (x.deps, x.badDep)
      let plain := fun (s : State) (_ : Token) => s
      match s.cmdCheck x.fn x.cmd x.badDep s.sch.nextId with
      | some d => s.refuseKernel x Status.aborted d (if x.badDep.toNat = d then State.poisonSets else plain)
      | none =>
        if !t.kTvas then s.refuseKernel x Status.aborted 0x09 plain
        else if !s.kernelPages t then s.refuseKernel x Status.aborted 0x08 plain
        else
          let r := s.readItem t.ten t.kSets (128 * kernelSets x.cmd)
          match r.2 with
          | .error st => r.1.refuseKernel x st 0 plain
          | .ok bs =>
            let rs := opSets x.cmd bs
            if rs.all setClean then r.1.makeTokens x rs else r.1.refuseKernel x Status.aborted 0x01 plain

def execKernel (e : Nat) (s : State) : Result := .next (s.kernelCmd e)

/-! ## What a decision weighs (R42, R325) -/

/-- SAVED tokens whose image can be restored return to READY, at the decision that finds a braid of the part permitted to their tenancy (R338,
R343; DESIGN CHOICE, log 96); their key pages are counted anew. -/
def State.wakeSaved (s : State) : State :=
  s.setPool (s.sch.pool.map (fun t =>
    if t.kernel && t.st == .saved && (s.ten t.ten).braids &&& s.cap.braids != 0 then
      { t with st := .issued, keyHome := some (s.countKeys t) }
    else t))

/-- Tokens that a decision may take: READY, those with an image to restore among them; the mirror does not hold them (R528). -/
def State.candidates (s : State) : List Token :=
  s.sch.pool.filter (fun t => t.kernel && s.isReady t && !s.tokBeyond t)

/-- Criterion 4: the hawser that is home to more of the operands' bytes. -/
def State.operandHome (s : State) (n : Tid) (hs : List (Nat × BitVec 512)) : Option Bool :=
  s.homeOf n (hs.flatMap (fun h => let p := s.payload n h.2; pageShare p.1 p.2))

/-- A braid that could run a token now. -/
def State.braidFree (s : State) (i : Nat) : Bool :=
  let b := s.braid i
  bit s.cap.braids i && bit s.rdy.braids i && b.phase == .idle && b.tok.isNone && b.pllUp && !b.held && !b.linkDown &&
    s.bist.infield != some (BitVec.ofNat 6 i)

/-- Braids that policy permits a token (criterion 1): fold-mode braids only for a fold-safe kernel. -/
def State.permits (s : State) (n : Tid) (foldSafe : Bool) (i : Nat) : Bool :=
  bit (s.ten n).braids i && (!bit s.cap.fold i || foldSafe)

/-- Every braid that the tenancy may use is in fold mode (R135, R327). -/
def State.allFold (s : State) (n : Tid) : Bool :=
  let m := (s.ten n).braids &&& s.cap.braids
  m != 0 && m &&& ~~~s.cap.fold == 0

/-- The braid holds the evaluation key of one of the key rings in an armed ring (criterion 2, R242). -/
def Braid.holdsKey (b : Braid) (n : Tid) (gs : List KeySig) : Bool :=
  b.ten == some n && b.keySigs.any (fun h => gs.any (fun g => g.same h) && (b.ring h.ring).armed && (b.ring h.ring).rearm)

/-- Keep the braids that a criterion prefers, when it prefers any. -/
def prefer (p : Nat → Bool) (bs : List Nat) : List Nat := if bs.any p then bs.filter p else bs

/-- The braid that R42 chooses among `bs`. -/
def State.chooseBraid (s : State) (t : Token) (gs : List KeySig) (hs : List (Nat × BitVec 512)) (bs : List Nat) : Option Nat :=
  let near := fun (h : Option Bool) (bs : List Nat) => match h with
    | some h => prefer (fun i => braidHawser i == h) bs
    | none => bs
  let bs := if gs.isEmpty then bs else near (t.keyHome.getD none) (prefer (fun i => (s.braid i).holdsKey t.ten gs) bs)
  let bs := near (s.operandHome t.ten hs) bs
  (prefer (fun i => (s.braid i).ten == some t.ten) bs).head?

/-- Free braids permitted to a token, in ascending order. -/
def State.freeBraids (s : State) (n : Tid) (foldSafe : Bool) : List Nat :=
  (List.range 64).filter (fun i => s.braidFree i && s.permits n foldSafe i)

/-! ## Dispatch (R25, R226, R325, R327) -/

/-- A pending preemption asked for by a token is withdrawn, unless its save has begun (R337). -/
def State.withdrawFor (s : State) (e : Nat) : State :=
  (s.braids.filter (fun b => b.2.preempt == some e && b.2.phase != .saving)).foldl (fun s b =>
    s.modBraid b.1 (fun b => { b with preempt := none })) s

/-- Dispatch a token to a braid: a context switch wipes the scratchpads first; otherwise waiting persistent rings are re-armed and the
image is loaded. -/
def State.dispatch (s : State) (t : Token) (i : Nat) (gs : List KeySig) (srcs dests : List (Nat × BitVec 512)) (flagged : Bool) : State :=
  let b := s.braid i
  let restore := t.ctx.isSome
  let b := if b.ten == some t.ten && !restore then
      { b.rearmFor ((s.peekTable t.ten t.kTable).getD []) (srcs ++ dests) with phase := .loading }
    else { b.disarmAll with phase := .wiping, ten := some t.ten }
  let b := { b with tok := some t.id, restore := restore, keySigs := gs, written := [], preempt := none, notice := none, stop := none, tiles := 0 }
  let s := (s.setBraid i b).modTok t.id (fun u =>
    { u with st := .running, braid := some i, srcs := srcs, dests := dests, flagged := flagged || (restore && u.flagged) })
  (s.withdrawFor t.id).modTen t.ten (fun x => { x with deficit := x.deficit - 256 })

/-- A member in a new group; a ring re-armed at dispatch has armed already, and is served at once while the hawser has a group to spare (R201,
R226). -/
def State.newMember (s : State) (h : Bool) (r : Nat × Nat) : Member :=
  let x := (s.braid r.1).ring r.2
  { braid := r.1, ring := r.2, armed := x.armed && !x.rearm && x.kind == 2 && decide (s.activeGroups h < 32) }

/-- A new group of the key rings gathered for it. -/
def State.addGroup (s : State) (n : Tid) (h : Bool) (g : Gathered) : State :=
  let x : Group :=
    { id := s.sch.nextGroup, hawser := hNum h, ten := n, members := g.rings.map (s.newMember h), started := false
      keyTva := BitVec.ofNat 48 g.sig.obj, keyidx := g.sig.keyidx, source := g.sig.source, order := g.sig.order, passes := g.sig.passes + 1
      chain := BitVec.ofNat 8 g.sig.chain, keyset := BitVec.ofNat 16 g.sig.keyset, level := g.sig.level, present := [], keys := g.keys
      entry := 0, pass := 0, page := 0, read := none }
  { s with sch := { s.sch with groups := s.sch.groups ++ [x], nextGroup := s.sch.nextGroup + 1 } }

/-- Groups for the key rings of tokens dispatched together, each ring by itself (R238). -/
def State.formGroups (s : State) (n : Tid) (h : Bool) (ts : List KeyTok) : State :=
  (gather s.sch.groupMax.toNat ts).foldl (fun s g => s.addGroup n h g) s

/-! ## Splices (R289, R290) -/

/-- A token that names a splice as a rank: its kernel has SPLICES = 1. -/
def State.isRank (s : State) (t : Token) : Bool := t.kSpliceEn && kSplices (s.peekDesc t)

/-- Checks 1 and 2 of R289: the splice is open and the tenancy's, the rank is one of P, no earlier token of this opening holds it: the ranks
of an open splice have not been dispatched (R290), and a token that runs or is saved was one of an opening that has ended. -/
def State.rankOk (s : State) (t : Token) : Bool :=
  let x := s.splice t.kSplice
  x.st == .open_ && x.ten == t.ten && decide (t.rank.toNat < x.p.toNat) &&
    !s.sch.pool.any (fun u => u.kernel && u.st == .issued && u.ctx.isNone && decide (u.id < t.id) && u.kSpliceEn && u.kSplice == t.kSplice &&
      u.ten == t.ten && u.rank == t.rank && s.isRank u)

/-- The P ranks of an open splice in rank order, when all are READY. -/
def State.ranksReady (s : State) (i : Nat) (n : Tid) (c : List Token) : Option (List Token) :=
  let p := (s.splice i).p.toNat
  let rs := (List.range p).filterMap (fun r => c.find? (fun t =>
    t.st == .issued && t.ctx.isNone && t.ten == n && t.kSpliceEn && t.kSplice == i && t.rank.toNat == r && s.isRank t && s.rankOk t))
  if rs.length = p then some rs else none

/-- One braid for each rank, chosen in rank order. -/
def State.rankBraids (s : State) : List Token → List Nat → Option (List Nat)
  | [], _ => some []
  | t :: ts, bs =>
    let d := s.peekDesc t
    let hs := s.peekSrcs t d
    let ds := (kDests d).map (fun n => (n, rec64 (s.peek t.ten (t.slotTva n) 64)))
    match s.chooseBraid t (s.sigs t d hs) (hs ++ ds) (bs.filter (s.permits t.ten (kFoldSafe d))) with
    | none => none
    | some i => (s.rankBraids ts (bs.filter (· != i))).map (i :: ·)

/-- The status of a rank: of R327 step 1, then check 3 of R289, then the fold-mode refusal of R135. -/
def State.rankStatus (s : State) (t : Token) (p : Plan) : Byte :=
  if !Status.good p.status then p.status
  else if kMode p.desc != (s.splice t.kSplice).m32 then Status.spliceMismatch
  else if !kFoldSafe p.desc && s.allFold t.ten then Status.foldUnsafe
  else p.status

/-- The status of a token that is no rank: of R327 steps 1 to 3. -/
def State.tokStatus (s : State) (t : Token) (p : Plan) : Byte :=
  if !Status.good p.status then p.status
  else if t.kSpliceEn || kSplices p.desc then Status.spliceMismatch
  else if !kFoldSafe p.desc && s.allFold t.ten then Status.foldUnsafe
  else p.status

/-- Take other READY tokens into the groups of the first `lead` tokens placed (R238, R326), in the order of R325. -/
def State.takeMembers (s : State) (h : Bool) (lead : Nat) : List Token → List KeyTok → State × List KeyTok
  | [], ms => (s, ms)
  | t :: ts, ms =>
    if t.ctx.isSome ∨ s.isRank t ∨ !joinsSome s.sch.groupMax.toNat lead ms (s.tokSigs t) then s.takeMembers h lead ts ms
    else
      let p := s.plan t
      let s := p.1
      let st := s.tokStatus t p.2
      if !Status.good st then (s.refuse t p.2 st).takeMembers h lead ts ms
      else
        let bs := (s.freeBraids t.ten (kFoldSafe p.2.desc)).filter (fun i => braidHawser i == h)
        let gs := s.sigs t p.2.desc p.2.srcs
        match s.chooseBraid t gs (p.2.srcs ++ p.2.dests) bs with
        | none => s.takeMembers h lead ts ms
        | some i =>
          (s.dispatch t i gs p.2.srcs p.2.dests (st == Status.okFlagged)).takeMembers h lead ts (ms ++ [{ braid := i, sigs := gs, keys := p.2.keys }])

/-- The groups of tokens of one hawser placed together, filled from other READY tokens of the tenancy (R238, R326). -/
def State.joinGroups (s : State) (n : Tid) (h : Bool) (others : List Token) (ms : List KeyTok) : State :=
  if ms.all (fun m => m.sigs.isEmpty) then s
  else
    let ready := others.filter (fun u => u.ten == n && s.candidates.any (fun v => v.id == u.id))
    let r := s.takeMembers h ms.length ready ms
    r.1.formGroups n h r.2

/-- All ranks are checked; one failure refuses them all and fails the splice, otherwise all are dispatched. -/
def State.dispatchRanks (s : State) (i : Nat) (ts : List Token) (bs : List Nat) (others : List Token) : State :=
  let r := ts.foldl (fun (r : State × List (Token × Plan)) t =>
    let p := r.1.plan t
    (p.1, r.2 ++ [(t, p.2)])) (s, [])
  let s := r.1
  let ps := r.2.map (fun x => (x.1, x.2, s.rankStatus x.1 x.2))
  match ps.find? (fun x => !Status.good x.2.2) with
  | some f =>
    let s := s.modSplice i (fun x => { x with st := .failed, status := f.2.2 })
    ps.foldl (fun s x => s.refuse x.1 x.2.1 (if Status.good x.2.2 then Status.aborted else x.2.2)) s
  | none =>
    if bs.length < ts.length then s
    else
      let rs := (ps.zip bs).map (fun x => ({ braid := x.2, sigs := s.sigs x.1.1 x.1.2.1.desc x.1.2.1.srcs, keys := x.1.2.1.keys } : KeyTok))
      let s := (ps.zip bs).foldl (fun s x =>
        let t := x.1.1
        let p := x.1.2.1
        let s := s.dispatch t x.2 (s.sigs t p.desc p.srcs) p.srcs p.dests (x.1.2.2 == Status.okFlagged)
        s.modBraid x.2 (fun b => { b with tiles := (s.splice i).tiles.toNat })) s
      let s := s.modSplice i (fun x =>
        { x with st := .running, ranks := (ts.zip bs).map (fun y => (y.1.rank.toNat, y.1.id, y.2))
                 strands := (List.range 16).filter (fun st => bs.any (fun b => b / 4 == st)) })
      [false, true].foldl (fun s h => s.joinGroups (s.splice i).ten h others (rs.filter (fun r => braidHawser r.braid == h))) s

/-- Ranks of an open splice that are not dispatched yet fail with ABORTED as it closes (R313). -/
def State.failRanks (s : State) (i : Nat) : State :=
  let x := s.splice i
  if x.st != .open_ then s
  else
    (s.sch.pool.filter (fun t => t.kernel && t.st == .issued && t.ctx.isNone && t.ten == x.ten && t.kSpliceEn && t.kSplice == i && s.isRank t &&
      s.rankOk t)).foldl (fun s t => let p := s.plan t; p.1.refuse t p.2 Status.aborted) s

/-- SPLICE_CLOSE. -/
def State.spliceCloseCmd (s : State) (t : Token) : State :=
  let i := t.body 0 1
  if 63 < i then s.finish t.id (Comp.aborted 0x09)
  else if !s.spliceNamed t then s.finish t.id (Comp.aborted 0x0A)
  else ((s.failRanks i).closeSplice i Status.aborted).finish t.id (Comp.okv 0 0)

def execSpliceClose (e : Nat) (s : State) : Result := .next (s.startCmd e (selOp 0x31) State.spliceCloseCmd)

/-! ## Preemption requests (R336, R341) -/

/-- Victims of a request by a token, lowest priority first, then lowest braid; a running token of a closing tenancy goes on to its commit
point (R335). -/
def State.victims (s : State) (t : Token) (foldSafe : Bool) : List (Nat × Token) :=
  let prio := fun (n : Tid) => (s.ten n).prio.toNat
  let vs := (List.range 64).filterMap (fun i =>
    let b := s.braid i
    match b.tok.bind s.tok with
    | some v =>
      if bit s.cap.braids i && s.permits t.ten foldSafe i && v.st == .running && b.preempt.isNone && b.phase != .saving &&
          (s.ten v.ten).st != .closing && decide (prio v.ten + s.sch.pdelta.toNat ≤ prio t.ten) && (s.spliceOf v.id).isNone &&
          (s.freeSlotOf v.ten).isSome then
        some (i, v)
      else none
    | none => none)
  (List.range 8).flatMap (fun p => vs.filter (fun v => prio v.2.ten == p))

/-- Ask for a victim: the first whose save can back its pages; those before it are counted. -/
def State.request (s : State) (t : Token) : List (Nat × Token) → State
  | [] => s
  | v :: vs =>
    let k := (s.freeSlotOf v.2.ten).getD 0
    if s.canSave v.2.ten k (s.braid v.1).foldSafe then
      (s.modBraid v.1 (fun b => { b with preempt := some t.id })).raise (4 * v.1 + 2)
    else (s.saveRefused).request t vs

/-- A token that finds no braid permitted to it may request one victim; one request at a time. -/
def State.askPreempt (s : State) (t : Token) (foldSafe : Bool) : State :=
  if s.sch.pdelta = 0 || s.braids.any (fun b => b.2.preempt == some t.id) then s else s.request t (s.victims t foldSafe)

/-! ## One token of a decision (R325–R327) -/

/-- Place a checked token on braid `i`, with the tokens that join its group; `others` are the candidates after it. -/
def State.place (s : State) (t : Token) (p : Plan) (st : Byte) (i : Nat) (others : List Token) : State :=
  let gs := s.sigs t p.desc p.srcs
  (s.dispatch t i gs p.srcs p.dests (st == Status.okFlagged)).joinGroups t.ten (braidHawser i) others [{ braid := i, sigs := gs, keys := p.keys }]

/-- FOLD_SAFE of a saved image. -/
def State.imageFold (s : State) (t : Token) : Bool :=
  match t.ctx with
  | some k => leAt (s.peek t.ten (ctxSlot k + 2) 1) 0 1 / 2 % 2 == 1
  | none => false

/-- A saved token fails without a braid. -/
def State.failSaved (s : State) (t : Token) (st : Byte) : State :=
  (s.endSaved t st).closeStep t.ten

/-- Restore a saved token on braid `i`, which holds its keys from then on (R242). -/
def State.placeSaved (s : State) (t : Token) (i : Nat) : State := s.dispatch t i (s.tokSigs t) t.srcs t.dests false

/-- One token taken by a decision; the flag says that it was placed or refused. `c` are the candidates in order. -/
def State.consider (s : State) (t : Token) (c : List Token) : State × Bool :=
  if t.ctx.isSome then
    let fold := s.imageFold t
    if !fold && s.allFold t.ten then (s.failSaved t Status.foldUnsafe, true)
    else
      match s.chooseBraid t (s.tokSigs t) (t.srcs ++ t.dests) (s.freeBraids t.ten fold) with
      | some i => (s.placeSaved t i, true)
      | none => (s.askPreempt t fold, false)
  else if s.isRank t && s.rankOk t then
    match s.ranksReady t.kSplice t.ten c with
    | none => (s, false)
    | some ts =>
      match s.rankBraids ts (s.freeBraids t.ten true) with
      | none =>
        if s.allFold t.ten && ts.any (fun u => !kFoldSafe (s.peekDesc u)) then (s.dispatchRanks t.kSplice ts [] c, true) else (s, false)
      | some bs => (s.dispatchRanks t.kSplice ts bs c, true)
  else
    let p := s.plan t
    let s := p.1
    let st := s.tokStatus t p.2
    if !Status.good st then (s.refuse t p.2 st, true)
    else
      match s.chooseBraid t (s.sigs t p.2.desc p.2.srcs) (p.2.srcs ++ p.2.dests) (s.freeBraids t.ten (kFoldSafe p.2.desc)) with
      | some i => (s.place t p.2 st i c, true)
      | none => (s.askPreempt t (kFoldSafe p.2.desc), false)

/-- The tokens of a priority in order, until one is placed or refused. -/
def State.considerAll (c : List Token) : List Token → State → State × Bool
  | [], s => (s, false)
  | t :: ts, s =>
    let r := s.consider t c
    if r.2 then r else State.considerAll c ts r.1

/-! ## The order of R325 -/

/-- Insert by a strict order. -/
def insertBy {α : Type} (lt : α → α → Bool) (x : α) : List α → List α
  | [] => [x]
  | y :: ys => if lt x y then x :: y :: ys else y :: insertBy lt x ys

def sortBy {α : Type} (lt : α → α → Bool) (xs : List α) : List α := xs.foldl (fun l x => insertBy lt x l) []

/-- Which of two tenancies of one priority and one deficit comes first is a free value of the decision (log 44). -/
def State.before (s : State) (t u : Token) : Bool :=
  if t.ten = u.ten then decide (t.id < u.id)
  else
    let a := (s.ten t.ten).deficit
    let b := (s.ten u.ten).deficit
    if a = b then decide ((Config.free (s.draws + t.ten.toNat)).toNat * 256 + t.ten.toNat <
      (Config.free (s.draws + u.ten.toNat)).toNat * 256 + u.ten.toNat)
    else decide (b < a)

/-- A decision at one priority: its tenancies with a READY token gain their weights, and its tokens are considered in order (log 44). -/
def State.decideAt (s : State) (p : Nat) : State × Bool :=
  let mine := s.candidates.filter (fun t => (s.ten t.ten).prio.toNat == p)
  let s := ((mine.map (·.ten)).dedup).foldl (fun s n => s.modTen n (fun x => { x with deficit := x.deficit + x.weight.toNat })) s
  let c := sortBy s.before mine
  State.considerAll c c { s with draws := s.draws + 256 }

/-- The priorities from the highest, until a token is placed or refused. -/
def State.decideFrom : List Nat → State → State
  | [], s => s
  | p :: ps, s =>
    let r := s.decideAt p
    if r.2 then r.1 else State.decideFrom ps r.1

/-- DISPATCH_DECISION. -/
def execDispatchDecision (s : State) : Result :=
  .next (if s.schedUp && s.lcs.pending.isNone then State.decideFrom [7, 6, 5, 4, 3, 2, 1, 0] s.wakeSaved else s)

end Sys2Proof.Machine
end

