-- ==== Sys2Proof/Machine/Kernel.lean ====
section
/-! DEFINITION. Kernel.lean: the context-switch wipe, kernel start and restore, preemption at a hitch point, saves, exports and imports
(R25, R80, R104, R105, R147, R148, R163, R164, R167, R176, R202–R205, R302, R335–R344). -/

namespace Sys2Proof.Machine

/-! ## The context-switch wipe (R80, R176) -/

/-- Scratchpads zero with fresh ECC, no poison, every region open, every register zero and open; the image is loaded next. -/
def Braid.wipe (b : Braid) : Braid :=
  { b.clearRegs with sp := [], spPoison := [], written := [], ecc1 := [], ecc2 := [], sealMap := 0, clear := [], phase := .loading }

/-- SCRATCHPAD_WIPE_DONE. -/
def execScratchpadWipeDone (b : Bid) (s : State) : Result :=
  .next (if s.live && (s.braid b.toNat).phase == .wiping && (s.braid b.toNat).pllUp then s.modBraid b.toNat (·.wipe) else s)

/-! ## A failure before the first sentence (R104, R148, R163, R204) -/

/-- What a kernel start reads, in order: image header, key list, sentences, auxiliary area, present list, stream table, first bursts. -/
def State.startItems (s : State) (t : Token) : List (Nat × Nat) :=
  let d := s.peekDesc t
  let a := auxOf (s.peek t.ten (t.kImage + kAux d) (kAuxLen d))
  let h := rec64 (s.peek t.ten t.kTable 64)
  let cnt := Nat.min 32 (wf h 0 4 6)
  let cs := (chunks 64 cnt (s.peek t.ten (t.kTable + 64) (64 * cnt))).map rec64
  [(t.kImage, 64), (t.kImage + kKeylist d, 4 * kKeys d), (t.kImage + 64, 64 * kSentences d), (t.kImage + kAux d, kAuxLen d)] ++
    (match a with
     | some a => if a.listen then [(hPayload (slotHdr t.srcs a.list), (hCount (slotHdr t.srcs a.list) + 7) / 8)] else []
     | none => []) ++
    [(t.kTable, 64), (t.kTable + 64, 64 * cnt)] ++ (cs.filter cHasProg).map (fun c => (cProg c, 64 * Nat.min 16 (cProgLen c)))

/-- The address at which the reads of a kernel start fail (R508). -/
def State.startFault (s : State) (t : Token) (st : Byte) : Option FaultAddr :=
  (s.startItems t).findSome? (fun x => s.firstBad t.ten x.1 x.2 st)

/-- No sentence issues; every ring armed for the token is disarmed; the token fails. -/
def State.startFail (s : State) (i : Nat) (st : Byte) (at' : Option FaultAddr) : State :=
  let ph := (s.braid i).phase
  let s := if (s.braid i).dmaWaits then s.endDmaWait i ph else s
  (s.modBraid i (fun b => { b.disarmAll with phase := .stopped, stop := some { status := st, pc := 0, clause := 0 }, faultAt := at' })).leaveGroups i

/-! ## Checks (R104, R148, R163, R204) -/

/-- The chain of a dispatched token (R65). -/
def tokChainId (srcs : List (Nat × BitVec 512)) : Nat :=
  match srcs.find? (fun h => hType h.2 != 7 && !ringShare h.2) with
  | some h => hChain h.2
  | none => 0xFF

/-- What kernel start has read. -/
structure Loaded where
  desc    : BitVec 512
  keys    : List (BitVec 32)
  sents   : List (BitVec 512)
  crc     : BitVec 32
  chain   : ChainD
  aux     : AuxD
  present : List (BitVec 32)
  table   : List (BitVec 512)

/-- The image: the sentences are read unless the store holds an image of the tenancy with its KCRC. -/
def State.loadSents (s : State) (b : Braid) (t : Token) (d : BitVec 512) : State × Except Byte (List (BitVec 512) × BitVec 32) :=
  if b.storeTen == some t.ten && b.kcrc.toNat == kCrc d && decide (b.sents.length = kSentences d) then (s, .ok (b.sents, b.kcrc))
  else if kSentences d = 0 ∨ 4096 < kSentences d then (s, .error Status.aborted)
  else
    let r := s.readItem t.ten (t.kImage + 64) (64 * kSentences d)
    (r.1, match r.2 with
      | .error st => .error st
      | .ok bs => .ok ((chunks 64 (kSentences d) bs).map rec64, crc32c (leBytes 60 (d.toNat % 2 ^ 480) ++ bs)))

/-- The auxiliary area. -/
def State.loadAux (s : State) (t : Token) (d : BitVec 512) : State × Except Byte AuxD :=
  if kAuxLen d = 0 then (s, .ok noAux)
  else
    let r := s.readItem t.ten (t.kImage + kAux d) (kAuxLen d)
    (r.1, match r.2 with
      | .error st => .error st
      | .ok bs => match auxOf bs with | some a => .ok a | none => .error Status.aborted)

/-- The present list (R163): the indices of the skip map in slot LIST, within the bounds of the auxiliary header. -/
def State.loadPresent (s : State) (t : Token) (d : BitVec 512) (a : AuxD) : State × Except Byte (List (BitVec 32)) :=
  if !a.listen then (s, .ok [])
  else if !slotIs d a.list false (some 7) || hType (slotHdr t.srcs a.list) != 7 then (s, .error Status.aborted)
  else
    let m := slotHdr t.srcs a.list
    let n := (hCount m + 7) / 8
    let r := if n = 0 then (s, .ok []) else s.readItem t.ten (hPayload m) n
    (r.1, match r.2 with
      | .error st => .error st
      | .ok bs =>
        let ps := presentOf bs (hCount m)
        if a.max < ps.length ∨ 2 ^ 22 < a.addr + 4 * a.max then .error Status.aborted else .ok ps)

/-- COUNT of the skip map that drives the list, where LISTEN is 1. -/
def listCount (t : Token) (a : AuxD) : Option Nat := if a.listen then some (hCount (slotHdr t.srcs a.list)) else none

/-- Key rings armed on a hawser by braids other than `i`, and groups there (R201). -/
def State.keyRings (s : State) (h : Bool) (i : Nat) : Nat :=
  ((s.braids.filter (fun e => braidHawser e.1 == h && e.1 != i)).map (fun e => (e.2.rings.filter (fun r => r.2.armed && r.2.kind == 2)).length)).sum

/-- Groups of a hawser that are active, or become so as braid `i` arms its rings (R201). -/
def State.groupsWith (s : State) (h : Bool) (i : Nat) : Nat :=
  (s.sch.groups.filter (fun g => g.hawser == hNum h && (g.active || g.members.any (fun m => m.braid == i)))).length

/-- Check 6 of R204; `more` are the groups of one that a restored context adds (R241). -/
def State.limitsOk (s : State) (i : Nat) (cs : List (BitVec 512)) (more : Nat) : Bool :=
  let k := (cs.filter (fun c => cKind c == 2)).length
  let h := braidHawser i
  decide (k ≤ 4) && decide (s.keyRings h i + k ≤ 64) && (k == 0 || decide (s.groupsWith h i + more ≤ 32))

/-- Everything that is read and checked before a braid's first sentence; a status when a check fails. `more` are the groups that a restored
context adds. -/
def State.startChecks (s : State) (i : Nat) (t : Token) (more : Nat) : State × Except Byte Loaded :=
  let b := s.braid i
  let r := s.readItem t.ten t.kImage 64
  match r.2 with
  | .error st => (r.1, .error st)
  | .ok db =>
    let d := rec64 db
    let kr := if kKeys d = 0 ∨ 4095 < kKeys d then (r.1, .ok []) else r.1.readItem t.ten (t.kImage + kKeylist d) (4 * kKeys d)
    match kr.2 with
    | .error st => (kr.1, .error st)
    | .ok kb =>
      let keys := keyWords kb
      let sr := kr.1.loadSents b t d
      match sr.2 with
      | .error st => (sr.1, .error st)
      | .ok ss =>
        let chain := (((s.ten t.ten).chain (tokChainId t.srcs)).getD ringChain)
        if !imageOk d keys ss.1 ss.2.toNat || (kFoldSafe d && kSplices d) || kMode d != chain.mode then (sr.1, .error Status.aborted)
        else if b.fold && !kFoldSafe d then (sr.1, .error Status.foldUnsafe)
        else
          let ar := sr.1.loadAux t d
          match ar.2 with
          | .error st => (ar.1, .error st)
          | .ok a =>
            let pr := ar.1.loadPresent t d a
            match pr.2 with
            | .error st => (pr.1, .error st)
            | .ok ps =>
              let tr := pr.1.readTable t.ten t.kTable
              (tr.1, match tr.2 with
                | .error st => .error st
                | .ok cs =>
                  if geometryOk cs b.fold && cs.all (bindOk d (listCount t a)) && spliceRings d cs && keySlotsOk chain cs && tr.1.limitsOk i cs more then
                    .ok { desc := d, keys := keys, sents := ss.1, crc := ss.2, chain := chain, aux := a, present := ps, table := cs }
                  else .error Status.aborted)

/-! ## Loading (R105, R148, R163, R164, R167, R205) -/

/-- Write bytes at a logical core's addresses, with fresh ECC. -/
def Braid.fillAt (b : Braid) (c a : Nat) (bs : List Byte) : Braid :=
  let keys := (List.range ((bs.length + 15) / 16)).map (fun k => let p := b.logAddr c (a + 16 * k); spKey p.1 p.2)
  (bs.zipIdx).foldl (fun (b : Braid) x =>
    let p := b.logAddr c (a + x.2)
    b.putByte p.1 p.2 x.1) (b.eccFresh keys)

/-- The seal-map regions of a range of scratchpad addresses; in fold mode those of both passes (log 46). -/
def Braid.regionsOf (b : Braid) (a len : Nat) : List Nat :=
  if len = 0 then []
  else
    let rs := (List.range ((a + len - 1) / 65536 + 1 - a / 65536)).map (fun k => a / 65536 + k)
    if b.fold then rs.map (· % 32) ++ rs.map (fun r => r % 32 + 32) else rs

/-- The list region is open. -/
def Braid.listOpen (b : Braid) (a : AuxD) : Bool := (b.regionsOf a.addr (4 * a.max)).all (fun r => !bit b.sealMap r)

/-- Write the present list to every core. -/
def Braid.putList (b : Braid) (a : AuxD) (ps : List (BitVec 32)) : Braid :=
  if !a.listen then b
  else
    let bs := ps.flatMap (fun p => leBytes 4 p.toNat)
    (List.range 64).foldl (fun b c => b.fillAt c a.addr bs) b

/-- Seal the regions of a KIND 3 ring's slots (R174, R205). -/
def Braid.sealSlots (b : Braid) (c : BitVec 512) : Braid :=
  if cKind c = 3 then (b.regionsOf (cBase c) ((cSlots c + 1) * cBytes c)).foldl (fun b r => b.sealOne true r) b else b

/-- Arm the rings of a table in ascending ring number; a ring re-armed at dispatch stays as it is. -/
def Braid.armAll (b : Braid) (cs : List (BitVec 512)) (hs : List (Nat × BitVec 512)) : Braid :=
  let keep := fun (r : Nat) => cs.any (fun c => cRing c == r)
  let b := { b with rings := b.rings.map (fun e => if keep e.1 then e else (e.1, { Ring.init with stall := e.2.stall })) }
  cs.foldl (fun b c =>
    let r := b.ring (cRing c)
    if r.armed && !r.rearm && r.cfg == c then b else (b.setRing (cRing c) (r.arm c hs)).sealSlots c) b

/-- Registers, sequencer and tables at kernel start; LC3 takes the present count modulo 2^16 (R163, log 122). -/
def Braid.loadKernel (b : Braid) (t : Token) (x : Loaded) (limbs : List (W64 × W64)) : Braid :=
  let hs := t.srcs ++ t.dests
  let hdrs := (List.range 8).map (fun n => if (kSlot x.desc n).used then word512 (slotHdr hs n) 1 else (0 : W64))
  let consts := (x.aux.consts.zipIdx).foldl (fun m c => Sparse.set (0 : W64) m c.2 c.1) []
  let b := b.clearRegs
  { b with limbs := limbs.map Prod.fst, roots := limbs.map Prod.snd, consts := consts, progs := x.aux.progs, acrc := x.aux.acrc, bankMap := 0, m32 := kMode x.desc
           reveals := kReveals x.desc, splices := kSplices x.desc, foldSafe := kFoldSafe x.desc, sents := x.sents, storeTen := some t.ten
           kcrc := x.crc, pc := BitVec.ofNat 12 (kEntry x.desc), loops := List.replicate 4 LoopCtr.init
           lcs := [0, 0, 0, BitVec.ofNat 16 x.present.length], hdrs := hdrs, spliceEn := false, present := x.present
           issueAt := Nat.max b.cycle b.issueAt, freeFrom := Nat.max b.cycle b.issueAt, iter := 0, issued := [], touched := [], deferred := [], ctl := .none, waitAt := 0, waitFor := [], holds := [], dmaUpTo := 0
           hitchReq := false, atEnd := false, waitDone := none, flights := [], weave := none, stop := none, bcuBad := false, queue := [], reserved := 0, nextTile := 0 }

/-- The q of every limb of a chain, with its root for the chain: ψ of the prime-table entry, raised to 2^(its LOG2N − the chain's)
modulo q (R63). -/
def Ten.limbPrimes (t : Ten) (c : ChainD) : List (W64 × W64) :=
  (List.range (c.qlimbs + c.plimbs)).map (fun j => (BitVec.ofNat 64 (t.primeAt c j), BitVec.ofNat 64 (t.rootAt c j)))

/-- The braid's member rings in its groups are armed; a list-mode group knows the present list. -/
def State.armMembers (s : State) (i : Nat) (ps : List (BitVec 32)) : State :=
  { s with sch := { s.sch with groups := s.sch.groups.map (fun g =>
      if g.members.any (fun m => m.braid == i) then
        { g with present := if g.source then ps else g.present
                 members := g.members.map (fun m => if m.braid = i then { m with armed := true } else m) }
      else g) } }

/-- Issue begins. The first sentence is a hitch point, at which a pending preemption is taken (R128, R337); a restored kernel goes on past
the hitch point of its save, which ends it where that was the end of its issue. The first sentence is counted as it is passed (R136). -/
def Braid.begin (b : Braid) : Braid :=
  let b := if b.restore then b else { b with tel := { b.tel with hitch := b.tel.hitch + 1 } }
  if b.atEnd then { b.startSegment with phase := .ended }
  else if b.preempt.isSome && !b.restore then { b.startSegment with phase := .draining, drainAt := b.issueAt }
  else Braid.settle settleFuel { b.startSegment with phase := .issuing }

/-- KERNEL_START of a token that begins. -/
def State.freshStart (s : State) (i : Nat) (t : Token) : State :=
  let r := s.startChecks i t 0
  let s := r.1
  match r.2 with
  | .error st => s.startFail i st (s.startFault t st)
  | .ok x =>
    let b := s.braid i
    if x.aux.listen && !b.listOpen x.aux then s.startFail i Status.aborted none
    else
      let b := ((b.putList x.aux x.present).loadKernel t x ((s.ten t.ten).limbPrimes x.chain)).armAll x.table (t.srcs ++ t.dests)
      (s.armMembers i x.present).afterBraid i b.begin

/-! ## Restore (R338, R342) -/

/-- Descriptors of a transfer in flight, from the program. -/
def State.flightDescs (s : State) (n : Tid) (c : BitVec 512) : Nat → Nat → List (BitVec 512)
  | 0, _ => []
  | f + 1, k =>
    if cProgLen c ≤ k then []
    else
      let d := rec64 (s.peek n (cProg c + 64 * k) 64)
      d :: (if descChain d then s.flightDescs n c f (k + 1) else [])

/-- Key rings that a saved context has armed. -/
def Image.keyRings (m : Image) : Nat := ((List.range 32).filter (fun r => ringArmed (m.ring r) && leAt (m.ring r) 1 1 == 2)).length

/-- Has element `e` of slice `k` been moved where a transfer stands: all padding comes before the data of R194. -/
def Xfer.moved (x : Xfer) (l : Slice) (k e : Nat) : Bool :=
  !l.dropped (l.at e) &&
    ((x.data && !l.ovchk && l.padded (l.at e)) || (l.moves x.data (l.at e) && (decide (k < x.slice) || (k == x.slice && decide (e < x.elem)))))

/-- The bytes of regions that a transfer has covered where it stands, for a saved one that goes on: an image does not carry them, and an
element whose source is poisoned now covers nothing (R172, DESIGN CHOICE, log 41). -/
def State.coverAt (s : State) (b : Braid) (n : Tid) (ls : List Slice) (x : Xfer) : Sparse (BitVec 4096) :=
  ls.zipIdx.foldl (fun cov l => (List.range l.1.count).foldl (fun cov e =>
    if x.moved l.1 l.2 e && !l.1.dstMem &&
        !(l.1.srcMem && !l.1.padded (l.1.at e) && (l.1.srcTvas (l.1.at e)).any (s.poisonedTva n)) then
      (b.coverBytes cov l.2 (b.spots l.1 false (l.1.at e)).flatten false).2
    else cov) cov) []

/-- A ring of a saved context with what its transfer has covered. -/
def State.withCover (s : State) (b : Braid) (n : Tid) (r : Ring) : Ring :=
  { r with xfer := r.xfer.map (fun x => { x with cover := s.coverAt b n (x.descs.map (r.slice x.slot)) x }) }

/-- Rings of a saved context: each armed ring as its record says. -/
def State.restoreRings (s : State) (n : Tid) (b : Braid) (m : Image) (cs : List (BitVec 512)) (hs : List (Nat × BitVec 512)) : Braid :=
  cs.foldl (fun b c =>
    let x := m.ring (cRing c)
    if ringArmed x then
      b.setRing (cRing c) (s.withCover b n (((b.ring (cRing c)).arm c hs).rebuild x
        (if cHasProg c then s.flightDescs n c 16 (leAt x 10 2) else [])))
    else b) b

/-- The key rings of a restored context run as groups of one from where they stood (R241). -/
def State.restoreGroups (s : State) (i : Nat) (t : Token) (x : Loaded) (m : Image) : State :=
  (x.table.filter (fun c => cKind c == 2 && ringArmed (m.ring (cRing c)))).foldl (fun s c =>
    let g := sigOf t.srcs t.slotTva x.aux.list c
    let id := s.sch.nextGroup
    let s := s.formGroups t.ten (braidHawser i) [{ braid := i, sigs := [g], keys := x.keys }]
    let y := m.ring (cRing c)
    s.modGroup id (fun q => { q with page := leAt y 10 2, pass := leAt y 12 2, entry := leAt y 24 2, present := x.present
                                     members := q.members.map (fun k => { k with armed := true }) })) s

/-- The token's slots and headers as the image holds them. -/
def Token.fromImage (t : Token) (m : Image) (d : BitVec 512) : Token :=
  { t with slots := (List.range 8).map (fun n => BitVec.ofNat 64 (m.slotTva n))
           srcs := (kSources d).map (fun n => (n, m.hdr n)), dests := (kDests d).map (fun n => (n, m.hdr n))
           remain := BitVec.ofNat 64 m.remain }

/-- KERNEL_START of a restored context: the image, the kernel and the stream table agree, and the context is loaded; its slot is free again. -/
def State.restoreStart (s : State) (i : Nat) (t : Token) (k : Nat) : State :=
  let r := s.readImage t.ten k
  let m := r.2
  let sp := r.1.readScratch t.ten k m.foldSafe
  let s := (sp.1.freeCtx t.ten t.id).modTok t.id (fun u => { u with ctx := none })
  if !m.ok then s.startFail i Status.aborted none
  else
    let t := t.fromImage m (s.peekDesc t)
    let c := s.startChecks i t m.keyRings
    let s := c.1
    match c.2 with
    | .error st => s.startFail i st (s.startFault t st)
    | .ok x =>
      if sp.2.2 then s.startFail i Status.poisonedOperand (s.firstBad t.ten (ctxSlot k) 0x40000000 Status.poisonedOperand)
      else if x.crc.toNat != m.kcrc || !m.tableMatches x.table then s.startFail i Status.aborted none
      else
        let s := s.modTok t.id (fun u => { u with slots := t.slots, srcs := t.srcs, dests := t.dests, remain := t.remain })
        let b := ((s.braid i).loadKernel t x ((s.ten t.ten).limbPrimes x.chain)).loadImage m sp.2.1
        let b := s.restoreRings t.ten b m x.table (t.srcs ++ t.dests)
        (s.restoreGroups i t x m).afterBraid i b.begin

/-- KERNEL_START. -/
def State.kernelStart (s : State) (i : Nat) : State :=
  let b := s.braid i
  match b.tok.bind s.tok with
  | none => s
  | some t =>
    if !(s.live && b.phase == .loading && b.pllUp && !b.linkDown) then s
    else match (if b.restore then t.ctx else none) with
      | some k => s.restoreStart i t k
      | none => s.freshStart i t

def execKernelStart (b : Bid) (s : State) : Result := .next (s.kernelStart b.toNat)

/-! ## The end of a drain at a hitch point (R129, R130, R336, R337, R341) -/

/-- May the hitch point take a preemption: export is disabled, both fold passes of the segment are done, the token is no rank. -/
def State.mayPreempt (s : State) (b : Braid) (e : Nat) : Bool :=
  !b.spliceEn && !((b.hitchReq || b.atEnd) && b.passDue) && (s.spliceOf e).isNone

/-- Begin the save of a braid's token in slot `k`: key rings leave their groups with their first unreleased page as position. -/
def State.beginSave (s : State) (i k : Nat) (t : Token) : State :=
  let b := s.braid i
  let len := fun (r : Nat) => match s.sch.groups.find? (fun g => g.members.any (fun m => m.braid == i && m.ring == r)) with
    | some g => passLen (((s.ten g.ten).chain g.chain.toNat).getD ringChain) g.level
    | none => 0
  let at' := b.drainEnd
  let b := { b with phase := .saving, saveSlot := k, issueAt := at', cycle := at'
                    tel := { b.tel with hitch := b.tel.hitch + b.hitchPoints, drain := b.tel.drain + BitVec.ofNat 32 (at' - b.drainAt) }
                    rings := b.rings.map (fun e => if e.2.armed && !e.2.rearm && e.2.kind == 2 then (e.1, e.2.rewind (len e.1) (cSource e.2.cfg)) else e) }
  let s' := ((s.setBraid i b).modTen t.ten (fun x => { x with ctx := Sparse.set none x.ctx k (some t.id) })).leaveGroups i
  if (s.braid i).dmaWaits && !b.dmaWaits then s'.endDmaWait i .draining else s'

/-- HITCH_DRAIN_END: a pending preemption, a fold pass, or the next sentence. -/
def State.hitchEnd (s : State) (i : Nat) : State :=
  let b := s.braid i
  if !(s.live && b.drained && b.pllUp && !b.linkDown) then s
  else
    let onward := fun (s : State) => s.afterBraid i (s.braid i).drainOver
    match b.tok.bind s.tok, b.preempt with
    | some t, some q =>
      if !s.mayPreempt b t.id then onward s
      else
        let drop := fun (s : State) => onward (s.modBraid i (fun b => { b with preempt := none }))
        if !(s.candidates.any (fun u => u.id == q)) then drop s
        else match s.freeSlotOf t.ten with
          | none => drop s
          | some k => if s.canSave t.ten k b.foldSafe then s.beginSave i k t else drop s.saveRefused
    | _, _ => onward s

def execHitchDrainEnd (b : Bid) (s : State) : Result := .next (s.hitchEnd b.toNat)

/-! ## The end of a save (R337) -/

/-- The engines have come to rest: transfers are complete or halted, drains are done, no clearing is left. -/
def Braid.saveReady (b : Braid) : Bool :=
  b.phase == .saving && b.ringsDrained && b.rings.all (fun e => !e.2.armed || e.2.rearm || e.2.xfer.isNone || e.2.halted) &&
    b.clear.all (fun e => e.2.isEmpty)

/-- The requesting token is dispatched to braid `i` (R337 step 5). -/
def State.dispatchOn (s : State) (e i : Nat) : State :=
  match s.candidates.find? (fun t => t.id == e) with
  | none => s
  | some t =>
    if !s.braidFree i then s
    else if t.ctx.isSome then s.placeSaved t i
    else
      let p := s.plan t
      let st := p.1.tokStatus t p.2
      if Status.good st then p.1.place t p.2 st i (sortBy (fun a b => decide (a.id < b.id)) p.1.candidates) else p.1.refuse t p.2 st

/-- The save of a token that a stop notice has met in the meantime: its image is given up and its kernel stops (DESIGN CHOICE, log 97). -/
def State.saveStopped (s : State) (i : Nat) (t : Token) (st : Byte) : State :=
  (s.freeCtx t.ten t.id).afterBraid i { (s.braid i).stopNow st 6 with notice := none }

/-- CONTEXT_SAVE_DONE: the image is in its slot and the token SAVED, unless a stop notice has met a kernel whose issue is not over (R329);
the time left of its count is a free value below what it was
(log 47). -/
def State.saveDone (s : State) (i : Nat) : State :=
  let b := s.braid i
  match b.tok.bind s.tok with
  | none => s
  | some t =>
    if !(s.live && b.saveReady) then s
    else match (if b.issueOver then none else b.notice) with
    | some st => s.saveStopped i t st
    | none =>
      let v := s.free
      let left : W64 := if t.remain = 0 then 0 else BitVec.ofNat 64 (v.1.toNat % t.remain.toNat + 1)
      let t := { t with remain := left, ctx := some b.saveSlot, st := TokSt.saved, braid := none, keyHome := none }
      let s := (v.2.writeImage i b.saveSlot t).modTok t.id (fun u =>
        { u with remain := left, ctx := some b.saveSlot, st := .saved, braid := none, keyHome := none })
      let s := s.modBraid i (fun b => { b.disarmAll.rest with keySigs := [] })
      if (s.ten t.ten).st == .closing then
        (((s.freeCtx t.ten t.id).finish t.id (Comp.ofStatus Status.preempted 0)).closeStep t.ten)
      else match b.preempt with
        | some q => s.dispatchOn q i
        | none => s

def execContextSaveDone (b : Bid) (s : State) : Result := .next (s.saveDone b.toNat)

/-! ## Export and import (R344, R371, R372) -/

/-- Additional authenticated data of migration record r; its form is PRESUMED (log 45). -/
def migAad (r : Nat) : List Byte := leBytes 8 r

/-- A migration record: as the frame of R379, under IV le32(r) and eight bytes of free value (log 45). -/
def migRecord (key : BitVec 256) (r : Nat) (v : W64) (pt : List Byte) : List Byte :=
  let iv := leBytes 4 r ++ leBytes 8 v.toNat
  let x := Crypto.gcmSeal (leBytes 32 key.toNat) iv (migAad r) pt
  x.1 ++ iv ++ List.replicate 4 0 ++ x.2 ++ List.replicate 32 0

def Token.exTok (t : Token) (u : Token) : Bool :=
  u.kernel && u.ten == t.ten && u.seq.toNat == t.body 0 4 && u.ring.toNat == t.body 4 1 && u.set.toNat == t.body 6 2 && u.st != .retiring

/-- Pages of a range that a write would have to back. -/
def State.needPages (s : State) (n : Tid) (a len : Nat) : Nat := ((pagesOf a len).filter (fun p => !(s.pte n p).backed)).length

def State.migKey (s : State) (n : Tid) (i : Nat) : Option (BitVec 256) := Sparse.get none (s.ten n).migKeys i

/-- Write every record of an image. -/
def State.exportImage (s : State) (n : Tid) (k dest records : Nat) (key : BitVec 256) : State × Bool :=
  (List.range records).foldl (fun r i =>
    let x := r.1.readMem n (ctxSlot k + plainLen * i) plainLen
    let v := x.1.free
    (v.2.writeOwn n none (dest + frameLen * i) (migRecord key i v.1 x.2.1), r.2 || x.2.2)) (s, false)

/-- CTX_EXPORT. -/
def State.ctxExportCmd (s : State) (t : Token) : State :=
  let dest := t.body 8 8
  let ki := t.body 16 1
  if 3 < ki ∨ 2 ^ 48 ≤ dest then s.finish t.id (Comp.aborted 0x09)
  else match s.migKey t.ten ki, s.sch.pool.find? (fun u => t.exTok u && u.st == .saved) with
  | some key, some u =>
    let k := u.ctx.getD 0
    let n := imageRecords (s.imageFold u)
    let len := frameLen * n
    if 2 ^ 48 < dest + len then s.finish t.id (Comp.aborted 0x09)
    else if inCtx dest len || s.anyUnmapped t.ten dest len then s.finish t.id (Comp.ofStatus Status.pageUnmapped 0)
    else if s.anySealedPage t.ten dest len then s.finish t.id (Comp.ofStatus Status.caseViolation 0)
    else if s.tierRoom t.ten false + s.tierRoom t.ten true < s.needPages t.ten dest len then
      s.finish t.id (Comp.ofStatus Status.quotaExceeded 0)
    else
      let r := s.exportImage t.ten k dest n key
      if r.2 then r.1.finish t.id (Comp.ofStatus Status.poisonedOperand 0)
      else
        let s := r.1.endSaved u Status.preempted
        (s.tokWrote t.id t.ten ((granulesOf dest len).map (· / 4096))).finish t.id (Comp.okv 0 n)
  | _, _ => s.finish t.id (Comp.aborted 0x0A)

def execCtxExport (e : Nat) (s : State) : Result := .next (s.startCmd e (selOp 0x38) State.ctxExportCmd)

/-- The records of an import, decrypted in order: none when one fails its tag. -/
def State.openRecords (s : State) (n : Tid) (src records : Nat) (key : BitVec 256) : State × Option (List (List Byte)) :=
  (List.range records).foldl (fun r i =>
    let x := r.1.readMem n (src + frameLen * i) frameLen
    let f := x.2.1
    (x.1, match r.2, Crypto.gcmOpen (leBytes 32 key.toNat) (slice f 131072 12) (migAad i) (f.take plainLen) (slice f 131088 16) with
      | some ps, some p => if x.2.2 then none else some (ps ++ [p])
      | _, _ => none)) (s, some [])

/-- The image of an import with the importing tenancy and the command's tag in its header. -/
def ownHead (h : List Byte) (n : Tid) (tag : Nat) : List Byte :=
  let g := h.take 1 ++ [n] ++ slice h 2 2 ++ leBytes 8 tag ++ slice h 12 48
  g ++ leBytes 4 (crc32c (g ++ h.drop 64)).toNat ++ h.drop 64

/-- The SAVED token of an import (R372): it completes with the import's TAG, SEQ and RING and with SET 0xFFFF. -/
def State.importToken (s : State) (t : Token) (m : Image) (d : BitVec 512) (k : Nat) : State :=
  let e := s.sch.nextId
  let cmd : BitVec 512 := BitVec.ofNat 512 (fld t.cmd 0 64 + 0x01 * 2 ^ 64 + t.ten.toNat * 2 ^ 80 + (m.kImage + m.kTable * 2 ^ 64) * 2 ^ 256)
  let u : Token := { t with id := e, cmdId := s.sch.nextCmd, cmd := cmd, kernel := true, set := 0xFFFF, deps := [], badDep := 0, st := .saved
                            ctx := some k, flagged := false, wrote := [], ctls := [], comp := Comp.ofStatus 0 0, held := false, keyHome := none }
  let s : State := { s with sch := { s.sch with nextId := e + 1, nextCmd := s.sch.nextCmd + 1, pool := s.sch.pool ++ [u.fromImage m d] } }
  s.modTen t.ten (fun x => { x with ctx := Sparse.set none x.ctx k (some e) })

/-- An import's image is checked against R342 and put into slot `k`. -/
def State.importImage (s : State) (t : Token) (k : Nat) (ps : List (List Byte)) : State :=
  let all := ps.flatten
  let head := all.take 16384
  let m : Image := { head := head, ok := leAt head 0 1 == 1 && leAt head 60 4 == (crc32c (head.take 60 ++ head.drop 64)).toNat }
  let r := s.readItem t.ten m.kImage 64
  match r.2 with
  | .error st => r.1.finish t.id (Comp.ofStatus st 0)
  | .ok db =>
    let d := rec64 db
    let q := r.1.readTable t.ten m.kTable
    match q.2 with
    | .error st => q.1.finish t.id (Comp.ofStatus st 0)
    | .ok cs =>
      let s := q.1
      if !m.ok || kCrc d != m.kcrc || !m.tableMatches cs || imageRecords m.foldSafe != ps.length then s.finish t.id (Comp.aborted 0)
      else if !m.foldSafe && s.allFold t.ten then s.finish t.id (Comp.ofStatus Status.foldUnsafe 0)
      else if !s.canSave t.ten k m.foldSafe then s.finish t.id (Comp.ofStatus Status.quotaExceeded 0)
      else
        let s := s.writeOwn t.ten none (ctxSlot k) (ownHead head t.ten (fld t.cmd 0 64) ++ all.drop 16384)
        (s.importToken t m d k).finish t.id (Comp.okv 0 k)

/-- CTX_IMPORT. -/
def State.ctxImportCmd (s : State) (t : Token) : State :=
  let src := t.body 0 8
  let n := t.body 8 4
  let ki := t.body 12 1
  let len := frameLen * n
  if 3 < ki ∨ 2 ^ 48 < src + len ∨ (n ≠ imageRecords true ∧ n ≠ imageRecords false) then s.finish t.id (Comp.aborted 0x09)
  else match s.migKey t.ten ki, s.freeSlotOf t.ten with
  | some key, some k =>
    if inCtx src len || s.anyUnmapped t.ten src len then s.finish t.id (Comp.ofStatus Status.pageUnmapped 0)
    else if s.anySealedPage t.ten src len then s.finish t.id (Comp.ofStatus Status.caseViolation 0)
    else
      let r := s.openRecords t.ten src n key
      match r.2 with
      | none => r.1.finish t.id (Comp.ofStatus Status.recordAuthFail 0)
      | some ps => r.1.importImage t k ps
  | _, _ => s.finish t.id (Comp.aborted 0x0A)

/-- CTX_IMPORT waits while its function has no room for the token it creates (R321). -/
def execCtxImport (e : Nat) (s : State) : Result :=
  .next (match s.tok e with
    | some t => if s.room t.fn = 0 then s else s.startCmd e (selOp 0x39) State.ctxImportCmd
    | none => s)

end Sys2Proof.Machine
end

