-- ==== Sys2Proof/Machine/Mgmt.lean ====
section
/-! DEFINITION. Mgmt.lean: the management port: I3C address, MCTP control, SPDM, management events (R382–R386, R399–R403). The layouts of
MCTP control and SPDM messages are those of DSP0236 and DSP0274 (PRESUMED, log 58). -/

namespace Sys2Proof.Machine

/-! ## MCTP control (R382, R383) -/

/-- The 48-bit provisional ID: fused bits, and MOD_ID as its low three (R382). -/
def State.provId (s : State) : BitVec 48 := s.fuses.pid ++ s.pins.modId

/-- ENTDAA: the module sends its provisional ID and takes the dynamic address; an event that waits is signalled. -/
def execEntdaa (addr : BitVec 7) (s : State) : Result :=
  .next (if s.pins.powered then ({ s.emit (.provId s.provId) with mgmt := { s.mgmt with addr := some addr } } : State).signalEvent else s)

/-- An MCTP control response to command `cmd`: message type, instance (the request's, a free value here), command, then what `f` answers
from the completion code on. -/
def State.mctpAnswer (s : State) (cmd : Byte) (f : State → State × List Byte) : State :=
  if s.mgmtUp then
    let r := f s
    let v := r.1.free
    v.2.message ([0x00, BitVec.ofNat 8 (fld v.1 0 5), cmd] ++ r.2)
  else s

/-- Endpoint IDs that may be assigned. -/
def eidOk (e : Byte) : Bool := decide (8 ≤ e.toNat) && e != 0xFF

/-- SET_ENDPOINT_ID: the sender becomes the target of management events, and one that waits is signalled (R386). -/
def State.setEid (s : State) (eid sender : Byte) : State × List Byte :=
  if eidOk eid then (({ s with mgmt := { s.mgmt with eid := some eid, target := some sender } } : State).signalEvent, [0, 0, eid, 0])
  else (s, [2])

def execSetEndpointId (eid sender : BitVec 8) (s : State) : Result := .next (s.mctpAnswer 0x01 (fun s => s.setEid eid sender))

/-- GET_ENDPOINT_ID: a simple endpoint. -/
def execGetEndpointId (s : State) : Result := .next (s.mctpAnswer 0x02 (fun s => (s, [0, s.mgmt.eid.getD 0, 0, 0])))

/-- GET_ENDPOINT_UUID. -/
def execGetEndpointUuid (s : State) : Result := .next (s.mctpAnswer 0x03 (fun s => (s, 0 :: leBytes 16 s.fuses.uuid.toNat)))

/-- GET_MCTP_VERSION_SUPPORT: 1.3 of the base and of control, 1.2 of SPDM. -/
def execGetMctpVersionSupport (ty : BitVec 8) (s : State) : Result :=
  .next (s.mctpAnswer 0x04 (fun s =>
    (s, if ty = 0xFF ∨ ty = 0 then [0, 1, 0xF1, 0xF3, 0xF0, 0] else if ty = 5 then [0, 1, 0xF1, 0xF2, 0xF0, 0] else [0x80])))

/-- GET_MESSAGE_TYPE_SUPPORT: control, SPDM, vendor-defined PCI. -/
def execGetMessageTypeSupport (s : State) : Result := .next (s.mctpAnswer 0x05 (fun s => (s, [0, 3, 0x00, 0x05, 0x7E])))

/-- GET_VENDOR_DEFINED_MESSAGE_SUPPORT: one set, the last, under Delastur's PCI vendor ID; its version is a free value. -/
def execGetVendorDefinedMessageSupport (sel : BitVec 8) (s : State) : Result :=
  .next (s.mctpAnswer 0x06 (fun s =>
    if sel = 0 then let v := s.free; (v.2, [0, 0xFF, 0] ++ beBytes 2 Config.vendorId.toNat ++ leBytes 2 (fld v.1 0 16)) else (s, [2])))

/-! ## SPDM (R384) -/

/-- The responder answers: the security core runs. In SCRAPPED, where none does, requests that would be signed are answered with an
error (R403). -/
def State.spdmUp (s : State) : Bool := s.mgmtUp && s.sys.safe.isNone && (s.ready .sec || s.lc == 4)

/-- May the module sign (R388). -/
def State.signs (s : State) : Bool := decide (1 ≤ s.lc) && decide (s.lc ≤ 3)

def spdmError (code : Byte) : List Byte := [0x12, 0x7F, code, 0]

/-- An SPDM message, of message type 0x05. -/
def State.spdmSend (s : State) (bs : List Byte) : State := s.message ([0x05] ++ bs)

/-- An SPDM response; a request out of the order GET_VERSION, GET_CAPABILITIES, NEGOTIATE_ALGORITHMS is unexpected. -/
def State.spdm (s : State) (ready : Mgmt → Bool) (f : State → State × List Byte) : State :=
  if !s.spdmUp then s
  else if !ready s.mgmt then s.spdmSend (spdmError 0x04)
  else (f s).1.spdmSend (f s).2

/-- A negotiation message and its answer enter the transcript of every signature. -/
def Mgmt.noteVca (m : Mgmt) (req rsp : List Byte) : Mgmt := { m with vca := m.vca ++ req ++ rsp }

/-- GET_VERSION: 1.2; the negotiation and the transcripts start anew. -/
def State.getVersion (s : State) : State × List Byte :=
  let rsp : List Byte := [0x10, 0x04, 0, 0, 0, 1, 0x00, 0x12]
  ({ s with mgmt := { s.mgmt with version := true, caps := false, algs := false, deferred := none
                                  vca := [0x10, 0x84, 0, 0] ++ rsp, msgB := [], msgL := [] } }, rsp)

def execGetVersion (s : State) : Result := .next (s.spdm (fun _ => true) State.getVersion)

/-- A GET_CAPABILITIES request: the requester's time exponent, flags and two sizes, which the row does not bring, are free values
(log 58). -/
def capsRequest (a b : W64) : List Byte :=
  [0x12, 0xE1, 0, 0, 0, a.setWidth 8, 0, 0] ++ leBytes 4 (a >>> 32).toNat ++ leBytes 4 b.toNat ++ leBytes 4 (b >>> 32).toNat

/-- GET_CAPABILITIES: CERT, CHAL, MEAS with signature, MEAS_FRESH. The time exponent is a free value. -/
def State.getCaps (s : State) : State × List Byte :=
  let v := s.free
  let a := v.2.free
  let b := a.2.free
  let rsp := [0x12, 0x61, 0, 0, 0, v.1.setWidth 8, 0, 0] ++ leBytes 4 0x36 ++ leBytes 4 4160 ++ leBytes 4 4160
  ({ b.2 with mgmt := { b.2.mgmt with caps := true }.noteVca (capsRequest a.1 b.1) rsp }, rsp)

def execGetCapabilities (s : State) : Result := .next (s.spdm (·.version) State.getCaps)

/-- NEGOTIATE_ALGORITHMS: what is both offered and supported. -/
def State.negotiate (s : State) (o : SpdmOffer) : State × List Byte :=
  let rsp := [0x12, 0x63, 0, 0] ++ leBytes 2 36 ++ [1, 0] ++ leBytes 4 (if o.measSha512 then 8 else 0) ++
    leBytes 4 (if o.rsaPss4096 then 0x40 else 0) ++ leBytes 4 (if o.sha512 then 4 else 0) ++ List.replicate 16 0
  ({ s with mgmt := { s.mgmt with algs := o.rsaPss4096 && o.sha512 }.noteVca o.req rsp }, rsp)

def execNegotiateAlgorithms (offer : SpdmOffer) (s : State) : Result := .next (s.spdm (·.caps) (fun s => s.negotiate offer))

/-- The chain of slot 0 as SPDM carries it: length, root digest, certificates. -/
def State.spdmChain (s : State) : List Byte :=
  leBytes 2 (68 + s.certs.length) ++ [0, 0] ++ Crypto.digestBytes s.fuses.root ++ s.certs

/-- A certificate request and its answer enter the transcript of a CHALLENGE. -/
def State.noteB (s : State) (req rsp : List Byte) : State × List Byte :=
  ({ s with mgmt := { s.mgmt with msgB := s.mgmt.msgB ++ req ++ rsp } }, rsp)

/-- GET_DIGESTS. -/
def execGetDigests (s : State) : Result :=
  .next (s.spdm (·.algs) (fun s => s.noteB [0x12, 0x81, 0, 0] ([0x12, 0x01, 0, 1] ++ Crypto.sha512 s.spdmChain)))

/-- GET_CERTIFICATE: slot 0 only; messages hold at most 4,160 bytes. -/
def State.getCert (s : State) (slot : BitVec 4) (off len : Nat) : State × List Byte :=
  let c := s.spdmChain
  if slot ≠ 0 ∨ c.length ≤ off then (s, spdmError 0x01)
  else
    let k := Nat.min (Nat.min len 4151) (c.length - off)
    s.noteB ([0x12, 0x82, 0, 0] ++ leBytes 2 off ++ leBytes 2 len)
      ([0x12, 0x02, 0, 0] ++ leBytes 2 k ++ leBytes 2 (c.length - off - k) ++ slice c off k)

def execGetCertificate (slot : BitVec 4) (off len : BitVec 16) (s : State) : Result :=
  .next (s.spdm (·.algs) (fun s => s.getCert slot off.toNat len.toNat))

/-- What a signature of SPDM 1.2 covers: the version prefix four times, the context at the end of 36 bytes, the hash of the transcript. -/
def spdmSigned (context : List Byte) (transcript : List Byte) : List Byte :=
  (List.replicate 4 (beBytes 16 0x646D74662D7370646D2D76312E322E2A)).flatten ++ List.replicate (36 - context.length) 0 ++ context ++
    Crypto.sha512 transcript

/-- "responder-challenge_auth signing" and "responder-measurements signing". -/
def challengeContext : List Byte := beBytes 32 0x726573706F6E6465722D6368616C6C656E67655F61757468207369676E696E67
def measContext : List Byte := beBytes 30 0x726573706F6E6465722D6D6561737572656D656E7473207369676E696E67

/-- ResponseNotReady: the time to wait, the request's code and its token; the times are free values. -/
def State.notReady (s : State) (code tok : Byte) : State × List Byte :=
  let w := s.free
  (w.2, [0x12, 0x7F, 0x42, 0, BitVec.ofNat 8 (fld w.1 16 8), code, tok, BitVec.ofNat 8 (fld w.1 24 8)])

/-- A signed answer `m` with its signature over the transcript `tr`, which ends with `m`. Where the engine serves other requests the signature
takes its turn (R445) and the answer is deferred, with a token for RESPOND_IF_READY; else deferring it is a free choice. -/
def State.signedAnswer (s : State) (code : Byte) (context tr m : List Byte) : State × List Byte :=
  let sig := s.idSign (spdmSigned context tr)
  let full := m ++ sig.1
  let w := sig.2.free
  let tok : Byte := BitVec.ofNat 8 (fld w.1 8 8)
  let held : State := { w.2 with mgmt := { w.2.mgmt with deferred := some (code, tok, full) } }
  if !s.pke.idle then (held.pkeRequest { tok := none, buf := [] }).notReady code tok
  else if bit w.1 0 then held.notReady code tok
  else (w.2, full)

/-- A 32-byte nonce of the responder. -/
def State.nonce32 (s : State) : List Byte × State := let v := s.free64; (v.1.take 32, v.2)

/-- CHALLENGE, which asks for no measurement summary: its signature covers the negotiation, the certificate messages, the request with its
nonce, and the answer. -/
def State.challenge (s : State) (slot : BitVec 4) (nonce : BitVec 256) : State × List Byte :=
  if !s.signs then (s, spdmError 0x05)
  else if slot ≠ 0 then (s, spdmError 0x01)
  else
    let n := s.nonce32
    let m := [0x12, 0x03, 0, 1] ++ Crypto.sha512 s.spdmChain ++ n.1 ++ [0, 0]
    let tr := s.mgmt.vca ++ s.mgmt.msgB ++ [0x12, 0x83, 0, 0] ++ leBytes 32 nonce.toNat ++ m
    ({ n.2 with mgmt := { n.2.mgmt with msgB := [] } } : State).signedAnswer 0x83 challengeContext tr m

def execChallenge (slot : BitVec 4) (nonce : BitVec 256) (s : State) : Result :=
  .next (s.spdm (fun m => m.algs || s.lc == 4) (fun s => s.challenge slot nonce))

/-- A measurement block: index, specification, size, type, value. Index 6 is a raw value, the others digests. -/
def State.measBlock (s : State) (i : Nat) : List Byte :=
  let v := s.measurement i
  let ty : Byte := if i = 1 then 0 else if i = 6 then 0x83 else if i = 7 then 2 else 1
  [BitVec.ofNat 8 i, 1] ++ leBytes 2 (v.length + 3) ++ [ty] ++ leBytes 2 v.length ++ v

/-- The measurements asked for: index 0 asks for their number alone, 0xFF for all. -/
def measAsked (idx : Byte) : List Nat := if idx = 0xFF then [1, 2, 3, 4, 5, 6, 7] else if idx = 0 then [] else [idx.toNat]

/-- GET_MEASUREMENTS: the signature covers the negotiation, the measurement messages since the last one, this request, with its nonce and
slot 0, and the answer. -/
def State.getMeas (s : State) (idx : Byte) (signed : Bool) (nonce : BitVec 256) : State × List Byte :=
  let is := measAsked idx
  let rec' := is.flatMap s.measBlock
  if s.lc = 4 ∨ (signed ∧ !s.signs) then (s, spdmError 0x05)
  else if idx ≠ 0xFF ∧ 7 < idx.toNat then (s, spdmError 0x01)
  else
    let n := s.nonce32
    let m := [0x12, 0x60, if idx = 0 then 7 else 0, 0, BitVec.ofNat 8 is.length] ++ leBytes 3 rec'.length ++ rec' ++ n.1 ++ [0, 0]
    let req : List Byte := [0x12, 0xE0, if signed then 1 else 0, idx] ++ (if signed then leBytes 32 nonce.toNat ++ [0] else [])
    let l := s.mgmt.msgL ++ req ++ m
    let t : State := { n.2 with mgmt := { n.2.mgmt with msgL := if signed then [] else l } }
    if signed then t.signedAnswer 0xE0 measContext (s.mgmt.vca ++ l) m else (t, m)

def execGetMeasurements (idx : BitVec 8) (signed : Bool) (nonce : BitVec 256) (s : State) : Result :=
  .next (s.spdm (fun m => m.algs || s.lc == 4) (fun s => s.getMeas idx signed nonce))

/-- A signature of the management port has not had its turn at the engine. -/
def State.signing (s : State) : Bool := (s.pke.queue ++ s.pke.entering ++ s.pke.running.toList).any (fun r => r.tok.isNone)

/-- RESPOND_IF_READY: the deferred answer with that token, once its signature is made. -/
def State.respondReady (s : State) (token : Byte) : State × List Byte :=
  match s.mgmt.deferred with
  | some (code, tok, full) =>
    if tok ≠ token then (s, spdmError 0x01)
    else if s.signing then s.notReady code tok
    else ({ s with mgmt := { s.mgmt with deferred := none } }, full)
  | none => (s, spdmError 0x04)

def execRespondIfReady (token : BitVec 8) (s : State) : Result := .next (s.spdm (fun _ => true) (fun s => s.respondReady token))

/-! ## Management events (R386) -/

/-- MANAGEMENT_EVENT_READ: the oldest event is delivered in its packet, signalled before, with the count of those dropped before it; the
next one is signalled. -/
def State.eventRead (s : State) : State :=
  match s.events with
  | e :: rest =>
    if s.mgmtUp && s.ready .sched && s.mgmt.target.isSome then
      ({ s with events := rest, evDrop := 0 }.emit (.packet true true 0 (vendorMessage 0x80
        (leBytes 2 e.event.toNat ++ [e.ten, e.fn] ++ leBytes 8 e.seq.toNat ++ leBytes 4 s.evDrop.toNat)))).signalEvent
    else s
  | [] => s

def execManagementEventRead (s : State) : Result := .next s.eventRead

end Sys2Proof.Machine
end

