-- ==== Sys2Proof/Machine/Power.lean ====
section
/-! DEFINITION. Power.lean: the cap, thermal steps, frequency switches and power trips (R465, R539–R545, R550). -/

namespace Sys2Proof.Machine

def Braid.issues (b : Braid) : Bool := b.phase == .issuing || b.phase == .waiting

/-- Issue of a braid that runs is held for `n` cycles, counted under THROTTLE (R221, R465). A SWAIT goes on meanwhile, and its cycles in the
hold fall to THROTTLE; a hold that meets another follows it. -/
def Braid.throttle (b : Braid) (n : Nat) : Braid :=
  if b.phase == .issuing then (b.countStall 6 n).advanceTo (b.issueAt + n)
  else if b.phase == .waiting then
    let t := b.holds.foldl (fun t h => Nat.max t h.2) (Nat.max b.waitAt b.cycle)
    { b with holds := b.holds ++ [(t, t + n)] }
  else b

/-- A power trip's hold ends `n` cycles after issue stopped, and after every landing since; in a SWAIT its cycles count with the wait. -/
def Braid.unhold (b : Braid) (n : Nat) : Braid :=
  let b := { b with held := false }
  if b.phase == .issuing then Braid.settle settleFuel <| b.throttle (Nat.max (b.issueAt + n) b.cycle - b.issueAt) else b

/-- A braid in test runs at the frequency of the test. -/
def State.inTest (s : State) (i : Nat) : Bool := s.bist.infield == some (BitVec.ofNat 6 i) || s.bist.wave.contains i

/-- FREQUENCY_SWITCH: the braid runs at the lowest of its limits; issue is held for 32 cycles around a switch. -/
def State.restep (s : State) (i : Nat) : State :=
  let p := s.pwrBraid i
  if p.step = p.lowest ∨ s.inTest i then s
  else (s.setPwrBraid i { p with step := p.lowest }).modBraid i (·.throttle 32)

/-- Braids that report present. -/
def State.present (s : State) : List Nat := maskBits s.cap.braids

/-- A cap step after a window (R541). -/
def capStep (est limit : Nat) (c : BitVec 5) : BitVec 5 :=
  if limit < est then (if c = 0 then 0 else c - 1)
  else if est + 40 < limit then (if c.toNat < 28 then c + 1 else c)
  else c

/-- Lower a step by `n`, not below 0. -/
def lower (n : Nat) (c : BitVec 5) : BitVec 5 := BitVec.ofNat 5 (c.toNat - n)

/-- A thermal limit after a window, by the readings of its strand (R543). -/
def thermStep (temps : List Nat) (c : BitVec 5) : BitVec 5 :=
  if temps.any (95 ≤ ·) then lower 4 c
  else if temps.all (· < 90) then (if c.toNat < 28 then c + 1 else c)
  else c

/-- Readings of the braids of the strand of braid `i`, whether they report present or not. -/
def State.strandTemps (s : State) (i : Nat) : List Nat :=
  ((List.range 4).map (fun k => 4 * (i / 4) + k)).map (fun b => (s.pwrBraid b).temp.toNat)

/-- The activity estimate of the window: the clauses issued on each fitted braid with its step, the bytes moved by each hawser, the fused
weights (R540, log 116). -/
def State.estimate (s : State) : BitVec 11 :=
  Config.estimate s.fuses.weights (s.fittedBraids.map (fun i => ((s.pwrBraid i).step.toNat, (s.braid i).acts))) s.pwr.moved

/-- What the power core has read at the end of a window: the sensor of every fitted braid, the input, its estimate, whose counts start again
(R540, R543, R550). -/
def State.readings (s : State) (w : PowerWindow) : State :=
  let e := s.estimate
  let s := s.fittedBraids.foldl (fun s i =>
    (s.setPwrBraid i { s.pwrBraid i with temp := w.temps.toList.getD i 0 }).modBraid i (fun b => { b with acts := [] })) s
  let die := (s.fittedBraids.map (fun i => (w.temps.toList.getD i 0).toNat)).foldl Nat.max w.other.toNat
  { s with pwr := { s.pwr with mv := w.mv, ca := w.ca, meas := w.meas, est := e, moved := (0, 0), die := BitVec.ofNat 8 die
                               mem := BitVec.ofNat 8 s.memTemp } }

/-- Whether the estimate governs the window that ends: not while a trip holds issue, nor in the window in which it was released (R542). -/
def State.estGoverns (s : State) : Bool := !s.pwr.hold && !s.pwr.skip

/-- The steps after a window: the cap step of every present braid, by the estimate; the thermal limit of every braid of a fitted strand, by
the readings (R541, R543). -/
def State.moveSteps (s : State) : State :=
  let old := s
  let go := fun (s : State) (i : Nat) =>
    let p := old.pwrBraid i
    let cap := if old.estGoverns && bit old.cap.braids i then capStep old.pwr.est.toNat (capWatts old.pwr.cap) p.cap else p.cap
    s.setPwrBraid i { p with cap := cap, therm := thermStep (old.strandTemps i) p.therm }
  let s := s.fittedBraids.foldl go { s with pwr := { s.pwr with skip := false } }
  let fell := fun (f : PwrBraid → BitVec 5) => s.fittedBraids.any (fun i => decide ((f (s.pwrBraid i)).toNat < (f (old.pwrBraid i)).toNat))
  let count := fun (c : BitVec 16) (on : Bool) => if on then BitVec.ofNat 16 (satAdd 16 c.toNat 1) else c
  let s : State := { s with pwr := { s.pwr with capDown := count s.pwr.capDown (fell (·.cap))
                                                thermDown := count s.pwr.thermDown (fell (·.therm)) } }
  s.present.foldl State.restep s

/-- POWER_WINDOW_END. An over-temperature trip takes precedence; which unit it names is a free value (R545). A wave of tests that the cap had no
room for may be admitted now (R484). -/
def State.windowEnd (s : State) (w : PowerWindow) : State :=
  if !(s.live && s.ready .power) then s
  else
    let s := (s.readings w).thermal
    if 110 ≤ s.pwr.die.toNat ∨ 105 ≤ s.memTemp then
      let v := s.free
      v.2.enterSafe 5 (fld v.1 0 16)
    else s.moveSteps.admitWave

def execPowerWindowEnd (w : PowerWindow) (s : State) : Result := .next (s.windowEnd w)

/-- POWER_TRIP: issue is held on every braid, every cap step falls by 4, the trip is counted and the alert raised. -/
def State.powerTrip (s : State) : State :=
  if !(s.live && s.ready .power) || s.pwr.hold then s
  else
    let s : State := { s with pwr := { s.pwr with hold := true, trips := BitVec.ofNat 16 (satAdd 16 s.pwr.trips.toNat 1) } }
    let s := s.fittedBraids.foldl (fun s i =>
      (s.modBraid i (fun b => { b with held := true })).setPwrBraid i { s.pwrBraid i with cap := lower 4 (s.pwrBraid i).cap }) s
    (s.present.foldl State.restep s).thermal.noteStalls

def execPowerTrip (s : State) : Result := .next s.powerTrip

/-- POWER_TRIP_RELEASE: the cycles held count under THROTTLE; how many they are is a free value of at least one. -/
def State.powerRelease (s : State) : State :=
  if !(s.live && s.ready .power && s.pwr.hold) then s
  else
    let s : State := { s with pwr := { s.pwr with hold := false, skip := true } }
    let s := s.fittedBraids.foldl (fun s i =>
      let v := if (s.braid i).issues then s.free else (0, s)
      v.2.modBraid i (·.unhold (v.1.toNat + 1))) s
    s.thermal.noteStalls

def execPowerTripRelease (s : State) : Result := .next s.powerRelease

end Sys2Proof.Machine
end

