-- ==== Sys2Proof/Machine/Regs.lean ====
section
/-! DEFINITION. Regs.lean: what every register reads, block by block (R8, R14–R18, R136–R138, R159, R198, R243–R245, R286, R314, R315,
R350, R351, R358–R361, R368, R387, R423, R449, R463, R490, R491, R512–R514, R534, R550). -/

namespace Sys2Proof.Machine

/-! ## Blocks (R358, R359) -/

/-- The blocks of BAR0. -/
inductive Blk where
  | cap | rdy | ic | hq | ten | win | sch | mem | spl | tel | pwr | bel | bst | lcs | bbx | dbg
  deriving DecidableEq, Repr

/-- Block bases of R358, the highest first. -/
def blkBases : List (Nat × Blk) :=
  [(0x400000, .dbg), (0x300000, .bbx), (0x2C0000, .lcs), (0x280000, .bst), (0x240000, .bel), (0x200000, .pwr), (0x1C0000, .tel),
   (0x180000, .spl), (0x140000, .mem), (0x100000, .sch), (0xC0000, .win), (0x80000, .ten), (0x40000, .hq), (0x20000, .ic),
   (0x10000, .rdy), (0, .cap)]

/-- The block an offset of the PF's BAR0 lies in, and the offset inside it. -/
def blkOf (off : Nat) : Blk × Nat :=
  match blkBases.find? (fun e => decide (e.1 ≤ off)) with
  | some e => (e.2, off - e.1)
  | none => (.cap, off)

/-- A hawser reports ready through the bits of its splice routers, tiers and ports (log 64). -/
def State.hawserUp (s : State) : Bool :=
  ([.splice, .ringH0, .ringH1, .bulkH0, .bulkH1, .bulkA, .bulkB, .belay] : List Rdy.B).any s.ready

/-- The unit that owns a block reports ready (R359); which unit that is, log 64 says. DBG is open in BLANK and, unlocked, in RETURNED
(R388, R419). -/
def State.blkUp (s : State) (b : Blk) : Bool :=
  match b with
  | .cap => true
  | .rdy => true
  | .ic | .hq | .ten | .sch => s.ready .sched
  | .win => s.ready .bulkA || s.ready .bulkB
  | .spl => s.ready .splice
  | .mem | .tel => s.hawserUp
  | .pwr => s.ready .power
  | .bel => s.ready .belay
  | .bst | .lcs => s.ready .sec
  | .bbx => s.ready .mgmt
  | .dbg => s.ready .sec && s.dbgOpen

/-- The control port decodes requests to BAR0 (R481). -/
def State.barUp (s : State) : Bool := s.pins.powered && bit s.sys.cfgLoaded 0

/-! ## CAP and RDY -/

/-- CAP.LIMITS (R361). -/
def capLimits : W64 := put 0 16 0x2000 ||| put 16 9 0x100 ||| put 25 11 0x400 ||| put 36 12 0x800 ||| put 48 5 0x1F

def State.readCap (s : State) (o : Nat) : W64 :=
  let sets := fun (b h : Bool) => (s.setsOf b h).length
  match o with
  | 0x00 => s.ident
  | 0x08 => s.cap.braids
  | 0x10 => s.cap.fold
  | 0x18 => put 0 4 (sets false false) ||| put 4 4 (sets false true) ||| put 8 4 (sets true false) ||| put 12 4 (sets true true) |||
      put 16 24 (s.usable false false + s.usable false true) ||| put 40 24 (s.usable true false + s.usable true true)
  | 0x20 => putB 0 s.cap.bulkA ||| putB 1 s.cap.bulkB ||| putB 2 s.cap.belay ||| put 3 3 s.pins.modId.toNat
  | 0x28 => capLimits
  | 0x30 => put 0 32 s.boot.version.toNat
  | _ => 0

def State.readRdy (s : State) (o : Nat) : W64 :=
  match o with
  | 0x00 => put 0 17 s.rdy.bits.toNat ||| put 24 7 (popcount s.rdy.braids)
  | 0x08 => s.rdy.braids
  | 0x10 => putB 8 s.rdy.refused
  | 0x18 => put 0 3 s.die.last.toNat ||| put 16 16 s.die.ctrlResets.toNat ||| put 32 16 s.die.secResets.toNat |||
      put 48 16 s.die.pllLoss.toNat
  | _ => 0

/-! ## IC (R513) and MSI-X -/
def State.readSrc (s : State) (i : Nat) (state : Bool) : W64 :=
  let c := s.srcCfg i
  let x := s.src i
  if !state then put 0 8 c.target.toNat ||| put 8 4 c.prio.toNat ||| putB 12 c.en ||| putB 13 (isLevel i)
  else if (srcDefault i).isNone then 0
  else putB 0 (s.srcPending i) ||| putB 1 x.active ||| putB 2 x.level ||| put 16 32 x.raises.toNat

/-- Registers of a target; IC.CLAIM reads as the identity a claim would take, for host vectors alone. -/
def State.readTgt (s : State) (t r : Nat) : W64 :=
  let g := s.tgt t
  if !isTarget t then 0
  else match r with
    | 0x00 => putB 0 (s.autoMode t) ||| putB 1 g.sent ||| put 4 5 (match g.run with | some p => p.toNat | none => 0x1F) |||
        put 16 5 g.stack.length
    | 0x08 => if t < 64 then put 0 11 ((s.bestSource t).getD 0x7FF) else 0
    | 0x18 => put 0 16 g.spurious.toNat ||| put 16 16 g.badEoi.toNat ||| put 32 32 g.claims.toNat
    | _ => 0

/-- An MSI-X table entry: the address, then data and mask. -/
def State.readMsix (s : State) (t r : Nat) : W64 :=
  let g := s.tgt t
  match r with
  | 0 => g.msixAddr
  | 8 => put 0 32 g.msixData.toNat ||| putB 32 g.masked
  | _ => 0

/-- The pending bit of an entry follows deliverability while it is masked (R500). -/
def State.pbaBit (s : State) (t : Nat) : Bool := (s.tgt t).masked && !(s.deliverables t).isEmpty

/-- The PF's table of 33 entries and its PBA, by offset from the table. -/
def State.readPfMsix (s : State) (o : Nat) : W64 :=
  if o < 33 * 16 then s.readMsix (o / 16) (o % 16)
  else if o = 0x8000 then (List.range 33).foldl (fun v t => v ||| putB t (s.pbaBit t)) 0
  else 0

def State.readIc (s : State) (o : Nat) : W64 :=
  if o < 0x8000 then (if o % 16 = 0 ∨ o % 16 = 8 then s.readSrc (o / 16) (o % 16 = 8) else 0)
  else if o < 0x8000 + 0x40 * 192 then s.readTgt ((o - 0x8000) / 0x40) ((o - 0x8000) % 0x40)
  else if o = 0xF000 then putB 0 s.ic.lock
  else if 0x10000 ≤ o then s.readPfMsix (o - 0x10000)
  else 0

/-! ## HQ, TEN and SCH -/

/-- Completions of a function that wait for space in its ring. -/
def State.waiting (s : State) (f : Fn) : Nat :=
  let q := (s.fn f).cq
  if q.en && decide (q.used < q.size) then 0
  else ((s.sch.order.filterMap s.tok).filter (fun t => t.cfn == f)).length

def State.readHq (s : State) (f : Fn) (o : Nat) : W64 :=
  let q := (s.fn f).cq
  if o < 0x100 then
    let r := s.sq f (BitVec.ofNat 2 (o / 0x40))
    match o % 0x40 with
    | 0x00 => put 12 52 r.base.toNat
    | 0x08 => putB 0 r.en ||| putB 1 r.err ||| put 8 5 r.log2size.toNat
    | 0x10 => put 0 16 r.tail.toNat
    | 0x18 => put 0 16 r.head.toNat ||| put 16 8 r.seqgen.toNat ||| put 32 32 r.seq.toNat
    | _ => 0
  else match o with
    | 0x200 => put 12 52 q.base.toNat
    | 0x208 => putB 0 q.en ||| put 8 5 q.log2size.toNat ||| put 16 8 q.coalesce.toNat ||| put 24 16 q.delay.toNat
    | 0x210 => put 0 16 q.head.toNat
    | 0x218 => put 0 16 q.tail.toNat ||| putB 16 q.phase ||| put 32 16 (s.waiting f)
    | _ => 0

def TenSt.num : TenSt → Nat
  | .free => 0 | .active => 1 | .orphaned => 2 | .closing => 3

/-- Context slots in use: those that hold the image of a token (R351). -/
def State.imagesOf (s : State) (n : Tid) : Nat :=
  ((s.ten n).ctx.filter (fun e => e.2.any (fun id => s.sch.pool.any (fun t => t.id == id && t.ctx == some e.1)))).length

def State.readTen (s : State) (o : Nat) : W64 :=
  let t := s.ten (tid (o / 0x100))
  if 0x10000 ≤ o then 0
  else match o % 0x100 with
    | 0x00 => put 0 2 t.st.num ||| put 2 5 t.fn.toNat ||| put 8 3 t.prio.toNat ||| put 16 8 t.weight.toNat ||| putB 24 t.revealOk |||
        put 25 2 t.mirror.toNat ||| put 32 7 t.ctxslots.toNat ||| put 40 4 t.fails.toNat
    | 0x08 => t.braids
    | 0x10 => t.reveals
    | 0x18 => put 0 13 t.keys.length ||| put 16 7 (s.imagesOf (tid (o / 0x100)))
    | _ => 0

def State.countPool (s : State) (p : Token → Bool) : Nat := (s.sch.pool.filter p).length

def State.readSchFn (s : State) (f : Fn) (r : Nat) : W64 :=
  let x := s.fn f
  match r with
  | 0x00 => put 0 16 x.hbInt.toNat ||| put 16 16 x.grace.toNat ||| put 32 14 x.toklim.toNat ||| put 48 16 x.defTmo.toNat
  | 0x10 => put 0 14 (s.tokensOf f) ||| putB 16 x.lost |||
      put 32 14 ((s.sch.heldQ.filterMap s.tok).filter (fun t => (s.ten t.ten).fn == f)).length
  | _ => 0

def State.readSch (s : State) (o : Nat) : W64 :=
  if 0x1000 ≤ o ∧ o < 0x1000 + 0x40 * 32 then s.readSchFn (BitVec.ofNat 5 ((o - 0x1000) / 0x40)) ((o - 0x1000) % 0x40)
  else match o with
    | 0x00 => put 0 14 s.poolFree ||| put 16 14 (s.countPool (fun t => !(t.kernel && t.st == .retiring))) |||
        put 32 14 (s.countPool (fun t => t.kernel && t.st == .retiring))
    | 0x08 => put 0 14 (s.countPool (fun t => t.st == .issued && !s.depsMet t.deps)) ||| put 14 14 (s.countPool s.isReady) |||
        put 28 14 (s.countPool (fun t => t.st == .running)) ||| put 42 14 (s.countPool (fun t => t.st == .saved)) |||
        put 56 8 s.sch.saveRef.toNat
    | 0x10 => put 0 5 s.sch.groupMax.toNat ||| put 5 3 s.sch.pdelta.toNat ||| put 8 16 s.sch.hold.toNat
    | _ => 0

/-! ## WIN (R387) -/

def WinSt.num : WinSt → Nat
  | .free => 0 | .open_ => 1 | .closed => 2 | .draining => 3

def State.readWinPort (s : State) (p : Port) (avail : Bool) : W64 :=
  let x := s.port p
  put 0 32 x.stray.toNat ||| put 32 16 x.poisoned.toNat ||| putB 48 x.up ||| putB 49 avail

def State.readWin (s : State) (o : Nat) : W64 :=
  if o < 0x4000 then
    let w := s.win (o / 16)
    match o % 16 with
    | 0 => put 0 2 w.st.num ||| putB 2 w.dir ||| putB 3 w.sealed ||| putB 4 w.portA ||| putB 5 w.portB ||| put 8 8 w.ten.toNat |||
        put 16 16 w.gen.toNat ||| put 32 8 w.last.toNat
    | 8 => put 0 32 w.records.toNat ||| put 32 16 w.authFail.toNat ||| put 48 16 w.rejected.toNat
    | _ => 0
  else if o < 0x4800 then (if o % 8 = 0 then put 0 32 (s.ten (tid ((o - 0x4000) / 8))).late.toNat else 0)
  else if o = 0x5000 then s.readWinPort .a s.cap.bulkA
  else if o = 0x5008 then s.readWinPort .b s.cap.bulkB
  else 0

/-! ## MEM (R286) -/

/-- Poison-table entries of a hawser that record granules of a tier. -/
def State.poisonUsed (s : State) (bulk h : Bool) : Nat :=
  (s.mem.poison.filter (fun e => idHawser (e.1 / 512) == h && idBulk (e.1 / 512) == bulk)).length

def State.readTier (s : State) (bulk h : Bool) (r : Nat) : W64 :=
  let t := s.tier bulk h
  if !s.tierFitted bulk then 0
  else match r with
    | 0x00 => putB 0 true ||| putB 1 t.ready ||| putB 2 t.wiping ||| putB 3 t.offline |||
        put 4 2 ((t.rates.map (fun e => e.2.toNat)).foldl Nat.max 0) ||| put 6 8 t.temp.toNat ||| put 16 12 t.sets.toNat
    | 0x08 => put 0 24 (s.usable bulk h) ||| put 24 24 (s.freeFrames bulk h)
    | 0x10 => put 0 24 (s.scrubbing bulk h) ||| put 24 24 (s.inUse bulk h FrameUse.isReserved)
    | 0x18 => put 0 32 t.far.toNat
    | 0x20 => put 0 16 t.corr.toNat ||| put 16 16 t.retries.toNat ||| put 32 16 t.unc.toNat |||
        put 48 12 (Nat.min 4095 (s.poisonUsed bulk h))
    | 0x28 => put 0 32 t.aged.toNat ||| put 32 32 t.fullFl.toNat
    | _ => 0

def State.readPager (s : State) (h : Bool) (r : Nat) : W64 :=
  let p := s.pager h
  match r with
  | 0x00 => put 0 32 p.promoted.toNat ||| put 32 32 p.demoted.toNat
  | 0x08 => put 0 16 p.aborted.toNat ||| put 16 16 p.blocked.toNat ||| put 32 3 (s.mem.migs.filter (fun m => m.pager == hNum h)).length
  | 0x10 => put 0 16 p.promote.toNat ||| put 16 24 p.lowWater.toNat ||| put 40 5 p.epoch.toNat
  | _ => 0

def quotaWord (q : Quota) : W64 := put 0 24 q.quota.toNat ||| put 24 24 q.alloc.toNat

def State.readMemBlk (s : State) (o : Nat) : W64 :=
  if o < 0x400 then s.readTier (decide (2 ≤ o / 0x100)) (o / 0x100 % 2 == 1) (o % 0x100)
  else if o < 0x600 then s.readPager (o / 0x100 % 2 == 1) (o % 0x100)
  else if 0x1000 ≤ o ∧ o < 0x2000 then
    let t := s.ten (tid ((o - 0x1000) / 0x10))
    (match o % 0x10 with | 0 => quotaWord t.ring | 8 => quotaWord t.bulk | _ => 0)
  else match o with
    | 0x800 => put 0 16 s.mem.wcAge.toNat
    | 0x900 => s.mem.margin
    | 0x908 => put 0 32 s.mem.mErrors.toNat ||| putB 32 s.mem.mDone ||| putB 33 s.mem.mRefuse
    | _ => 0

/-! ## SPL (R314, R315) -/

def SplSt.num : SplSt → Nat
  | .free => 0 | .open_ => 1 | .running => 2 | .ended => 3 | .failed => 4 | .comparing => 5

def State.readSplice (s : State) (i r : Nat) : W64 :=
  let x := s.splice i
  match r with
  | 0x00 => put 0 3 x.st.num ||| put 8 8 x.ten.toNat ||| put 16 7 x.p.toNat ||| putB 23 x.form ||| putB 24 x.m32 ||| putB 25 x.sealed |||
      putB 26 x.suspect ||| put 32 16 x.tiles.toNat ||| put 48 8 x.status.toNat
  | 0x08 => put 0 16 x.reduced.toNat ||| put 16 16 x.delivered.toNat ||| put 32 5 x.strands.length
  | 0x10 => put 0 22 x.sent.toNat ||| put 22 22 x.received.toNat ||| put 44 20 x.discarded.toNat
  | 0x18 => put 0 2 x.result.toNat ||| put 2 4 x.link.toNat ||| put 16 16 x.compares.toNat
  | _ => 0

def State.readRouter (s : State) (st r : Nat) : W64 :=
  let x := s.router st
  if !s.fitted st then 0
  else match r with
    | 0x00 => put 0 32 x.crossings.toNat ||| put 32 16 x.retries.toNat ||| put 48 16 x.corrected.toNat
    | 0x08 => putB 0 x.up ||| putB 1 x.retrain ||| put 16 16 x.fails.toNat
    | _ => 0

def State.readSpl (s : State) (o : Nat) : W64 :=
  if o < 0x1000 then s.readSplice (o / 0x40) (o % 0x40)
  else if o < 0x1400 then s.readRouter ((o - 0x1000) / 0x40) (o % 0x40)
  else 0

/-! ## TEL (R136, R159, R198, R243–R245, R463) -/

/-- SEQ_STATE.STATE: an ended or stopped kernel issues nothing and reads as idle (log 65). -/
def SeqPhase.num : SeqPhase → Nat
  | .idle => 0 | .wiping => 1 | .loading => 1 | .issuing => 2 | .waiting => 2 | .draining => 3 | .saving => 3 | .ended => 0 | .stopped => 0

def Braid.readReg (b : Braid) (r : Nat) : W64 :=
  let x := b.tel
  let lact := (b.loops.zipIdx).foldl (fun v e => v ||| putB (16 + e.2) e.1.active) 0
  if 0x50 ≤ r ∧ r < 0x90 then
    (if r % 8 = 0 then
      let j := (r - 0x50) / 8
      put 0 32 (Sparse.get 0 x.conflict (2 * j)).toNat ||| put 32 32 (Sparse.get 0 x.conflict (2 * j + 1)).toNat
    else 0)
  else if 0xA8 ≤ r ∧ r < 0xE0 then (if r % 8 = 0 then Sparse.get 0 x.stall ((r - 0xA8) / 8) else 0)
  else match r with
    | 0x00 => put 0 12 b.pc.toNat ||| put 12 2 b.phase.num ||| putB 14 b.fold ||| putB 15 b.spliceEn ||| lact ||| putB 20 b.pass
    | 0x08 => x.issued
    | 0x10 => put 0 32 x.collide.toNat
    | 0x18 => put 0 32 x.hitch.toNat ||| put 32 32 x.drain.toNat
    | 0x20 => put 0 8 x.fault.status.toNat ||| put 8 12 x.fault.pc.toNat ||| put 20 3 x.fault.clause.toNat
    | 0x28 => x.bcuConv
    | 0x30 => put 0 16 x.bcuFails.toNat ||| put 16 6 x.bcuCore.toNat ||| put 22 12 x.bcuPc.toNat
    | 0x38 => put 0 16 x.eccCorr.toNat ||| put 16 8 x.eccUnc.toNat ||| put 24 6 x.eccCore.toNat ||| put 30 4 x.eccBank.toNat |||
        putB 34 x.eccPort
    | 0x40 => put 0 16 b.bankMap.toNat ||| b.clear.foldl (fun v e => v ||| putB (16 + e.1) (!e.2.isEmpty)) 0
    | 0x48 => b.sealMap
    | 0x90 => put 0 32 x.dmaWait.toNat
    | 0x98 => put 0 32 x.movDrop.toNat
    | 0xA0 => put 0 32 x.weaves.toNat ||| put 32 32 x.beats.toNat
    | 0xE0 => put 0 16 x.unarmed.toNat ||| put 16 16 x.clamped.toNat ||| put 32 16 x.timeouts.toNat
    | 0xE8 => put 0 5 x.sfRing.toNat ||| put 8 8 x.sfStatus.toNat ||| put 16 16 x.halts.toNat
    | 0xF0 => x.sgen
    | _ => 0

/-- Slots in a state; one whose change is crossing counts in neither its old nor its new state (R208). -/
def Ring.count (g : Ring) (x : SlotSt) : Nat := (g.slots.filter (fun e => e.braid == x && e.engine == x)).length

/-- The registers of a ring (R244): RING_POS shows where a halted ring stopped, else the next descriptor or page and the pass. -/
def Ring.readReg (g : Ring) (r : Nat) : W64 :=
  match r with
  | 0x00 => putB 0 g.armed ||| putB 1 g.rearm ||| putB 2 g.halted ||| putB 3 (cPersist g.cfg) ||| put 4 3 (cKind g.cfg) |||
      put 8 5 g.slots.length ||| put 13 5 (g.count .free) ||| put 18 5 (g.count .full) ||| put 23 5 (g.count .inflight) |||
      put 32 16 g.head.toNat ||| put 48 16 g.tail.toNat
  | 0x08 => if g.halted then put 0 16 g.posDesc.toNat ||| put 16 16 g.posPass.toNat ||| put 32 32 g.posElem.toNat
      else put 0 16 g.next ||| put 16 16 g.pass
  | 0x10 => g.stall
  | _ => 0

/-- Armed key rings on the braids of a hawser. -/
def State.keyStreams (s : State) (h : Bool) : Nat :=
  ((s.braids.filter (fun e => braidHawser e.1 == h)).map (fun e =>
    (e.2.rings.filter (fun x => x.2.armed && cKind x.2.cfg == 2)).length)).sum

def State.readLan (s : State) (h : Bool) (r : Nat) : W64 :=
  let x := s.lan h
  match r with
  | 0x00 => x.reads
  | 0x08 => x.delivers
  | 0x10 => put 0 32 x.expPages.toNat ||| put 32 32 x.rejected.toNat
  | 0x18 => put 0 16 x.keyfail.toNat ||| put 16 16 x.ckfail.toNat ||| put 32 8 x.last.toNat
  | 0x20 => put 0 6 (s.activeGroups h) ||| put 6 7 (s.keyStreams h)
  | _ => 0

def State.readTel (s : State) (o : Nat) : W64 :=
  if 0x10000 ≤ o ∧ o < 0x14000 then
    let b := (o - 0x10000) / 0x100
    if bit s.cap.braids b then (s.braid b).readReg (o % 0x100) else 0
  else if 0x20000 ≤ o ∧ o < 0x30000 then
    let b := (o - 0x20000) / 0x400
    if bit s.cap.braids b then (Sparse.get Ring.init (s.braid b).rings (o % 0x400 / 0x20)).readReg (o % 0x20) else 0
  else if 0x30000 ≤ o ∧ o < 0x30200 then s.readLan (o / 0x100 % 2 == 1) (o % 0x100)
  else 0

/-! ## PWR, BEL, BST, LCS, BBX and DBG -/

def State.readPwr (s : State) (o : Nat) : W64 :=
  let p := s.pwr
  if 0x100 ≤ o ∧ o < 0x300 then
    let b := (o - 0x100) / 8
    let x := s.pwrBraid b
    if o % 8 = 0 ∧ bit s.cap.braids b then
      put 0 5 x.step.toNat ||| put 8 5 x.limit.toNat ||| put 16 5 x.therm.toNat ||| put 24 5 x.cap.toNat ||| put 32 8 x.temp.toNat
    else 0
  else match o with
    | 0x00 => put 0 11 p.cap.toNat
    | 0x08 => put 0 16 p.mv.toNat ||| put 16 16 p.ca.toNat ||| put 32 11 p.meas.toNat ||| put 43 11 p.est.toNat
    | 0x10 => put 0 8 p.die.toNat ||| put 8 8 p.mem.toNat ||| putB 16 p.alert ||| putB 17 p.hold
    | 0x18 => put 0 16 p.capDown.toNat ||| put 16 16 p.thermDown.toNat ||| put 32 16 p.trips.toNat
    | _ => 0

def State.readBelTen (s : State) (n : Tid) (r : Nat) : W64 :=
  let t := s.ten n
  let m := t.mir
  match r with
  | 0x00 => put 0 2 (if t.standby then 2 else if t.primary then 1 else 0) ||| put 2 2 m.pstate.toNat |||
      putB 4 ((t.primary && t.sync) || (t.standby && m.sync)) ||| put 32 32 m.epoch.toNat
  | 0x08 => put 0 16 m.sent.length ||| put 16 32 m.applied.toNat
  | _ => 0

def State.readBel (s : State) (o : Nat) : W64 :=
  let b := s.bel
  if 0x1000 ≤ o ∧ o < 0x3000 then s.readBelTen (tid ((o - 0x1000) / 0x20)) (o % 0x20)
  else if 0x8000 ≤ o ∧ o < 0xC000 then
    let w := s.wmNow (tid ((o - 0x8000) / 0x40)) (BitVec.ofNat 2 (o % 0x40 / 0x10))
    (match o % 0x10 with
     | 0 => put 0 32 w.wm.toNat ||| put 32 5 w.fn.toNat ||| put 40 8 w.gen.toNat
     | 8 => w.bits
     | _ => 0)
  else match o with
    | 0x00 => put 0 3 b.state.toNat ||| put 3 2 b.width.toNat ||| put 5 3 b.partner.toNat ||| put 8 4 b.refusal.toNat
    | 0x08 => put 0 16 b.retries.toNat ||| put 16 16 b.downs.toNat ||| put 32 32 b.records.toNat
    | 0x10 => put 0 16 b.timeout.toNat
    | _ => 0

def State.readBst (s : State) (o : Nat) : W64 :=
  let b := s.bist
  if 0x100 ≤ o ∧ o < 0x100 + 0x10 * 89 then
    let u := s.unit ((o - 0x100) / 0x10)
    (match o % 0x10 with
     | 0 => put 0 2 u.result.toNat ||| putB 2 u.held ||| putB 3 u.fold ||| put 8 8 u.rows.toNat ||| put 16 8 u.cols.toNat |||
         put 24 8 u.runs.toNat
     | 8 => u.sig
     | _ => 0)
  else if 0x1000 ≤ o ∧ o < 0x1200 then (if o % 8 = 0 then Sparse.get 0 b.cores ((o - 0x1000) / 8) else 0)
  else if o = 0 then
    putB 0 (b.running || b.infield.isSome) ||| putB 1 (s.ready .bistDone) ||| putB 2 b.infield.isSome |||
      put 8 7 (match b.infield with | some x => x.toNat | none => 0) ||| put 16 4 b.waves.toNat
  else 0

/-- LCS.PKE and LCS.PKE_CURVES (R449). INUSE of entry 0, which is 0 at reset, tells what names it, not that it is never freed (log 65). -/
def State.readPke (s : State) (o : Nat) : W64 :=
  let p := s.pke
  match o with
  | 0x28 => putB 0 p.running.isSome ||| put 1 7 p.queue.length ||| put 8 8 p.last.toNat ||| put 16 16 p.signFail.toNat |||
      put 32 16 p.aborts.toNat ||| put 48 6 (p.slots.filter (fun e => decide (4 ≤ e.1) && e.2.isSome)).length
  | 0x30 => (List.range 8).foldl (fun v j =>
      v ||| putB j (decide (j = 0) || (Sparse.get none p.curves j).isSome) ||| putB (8 + j) (s.curveBusy j s.sch.nextId)) 0
  | _ => 0

def State.readLcs (s : State) (o : Nat) : W64 :=
  let l := s.lcs
  match o with
  | 0x00 => put 0 3 s.lc ||| putB 3 l.pending.isSome ||| putB 4 l.unlocked ||| put 8 6 s.svnMin ||| putB 16 s.die.opKey.isSome
  | 0x08 => l.nonce
  | 0x10 => put 0 3 s.boot.state.toNat ||| put 3 8 s.boot.fail.toNat ||| 
      put 11 7 (if s.boot.state = 3 then popcount s.boot.held else 0)
  | 0x18 => putB 0 l.ok ||| putB 1 l.failed ||| put 16 16 l.rct.toNat ||| put 32 16 l.apt.toNat ||| put 48 16 l.reseeds.toNat
  | 0x20 => put 0 2 l.cause.toNat ||| putB 2 l.keys ||| putB 3 l.sp ||| putB 4 l.ring ||| putB 5 l.bulk ||| put 32 32 l.wipes.toNat
  | _ => s.readPke o

/-- A stored entry's bytes; zeros for none. -/
def entryBytes (x : Option BbxStored) : List Byte := match x with | some e => e.bytes | none => List.replicate 128 0

/-- The window of R512 at entry `i`. -/
def State.windowEntry (s : State) (i : Nat) : List Byte :=
  if s.bbx.area then entryBytes (s.die.ffa[i]?)
  else entryBytes (Sparse.get none s.die.ring (4096 * s.bbx.block.toNat + i))

/-- BBX.OLDEST: the ring holds the last 131,072 entries (R506, R514). -/
def State.oldestSeq (s : State) : Nat := s.die.nextSeq.toNat - ringSize

def State.readBbx (s : State) (o : Nat) : W64 :=
  if 0x80000 ≤ o ∧ o < 0x100000 then
    (if o % 8 = 0 then BitVec.ofNat 64 (leAt (s.windowEntry ((o - 0x80000) / 128)) (o % 128) 8) else 0)
  else match o with
    | 0x00 => putB 0 s.bbxAvail ||| put 8 9 s.die.ffa.length ||| put 32 10 s.bbx.queue.length
    | 0x08 => s.die.nextSeq
    | 0x10 => BitVec.ofNat 64 s.oldestSeq
    | 0x18 => put 0 32 s.bbx.dropped.toNat ||| put 32 16 s.die.ffaOver.toNat
    | 0x20 => putB 0 s.bbx.area ||| put 4 5 s.bbx.block.toNat
    | _ => 0

def State.readDbg (s : State) (o : Nat) : W64 :=
  match o with
  | 0x2000 => putB 0 (s.dbg.en && s.lc == 3) ||| put 8 8 s.dbg.rate.toNat
  | 0x2008 => s.dbg.mask
  | 0x2010 => put 0 32 s.dbg.dropped.toNat
  | _ => 0

/-! ## BAR0 of a function (R358–R360) -/

def State.readBlk (s : State) (b : Blk) (o : Nat) : W64 :=
  match b with
  | .cap => s.readCap o
  | .rdy => s.readRdy o
  | .ic => s.readIc o
  | .hq => s.readHq (BitVec.ofNat 5 (o / 0x2000)) (o % 0x2000)
  | .ten => s.readTen o
  | .win => s.readWin o
  | .sch => s.readSch o
  | .mem => s.readMemBlk o
  | .spl => s.readSpl o
  | .tel => s.readTel o
  | .pwr => s.readPwr o
  | .bel => s.readBel o
  | .bst => s.readBst o
  | .lcs => s.readLcs o
  | .bbx => s.readBbx o
  | .dbg => s.readDbg o

/-- A VF's BAR0 (R360). -/
def State.readVf (s : State) (f : Fn) (o : Nat) : W64 :=
  if o < 0x10000 then s.readCap o
  else if o < 0x20000 then s.readRdy (o - 0x10000)
  else if !s.ready .sched then 0
  else if 0x20000 ≤ o ∧ o < 0x22000 then s.readHq f (o - 0x20000)
  else if 0x40000 ≤ o ∧ o < 0x40010 then s.readMsix (32 + f.toNat) (o - 0x40000)
  else if o = 0x41000 then putB 0 (s.pbaBit (32 + f.toNat))
  else 0

/-- A read of 8 bytes of a function's BAR0 (log 66). VFs are there while VF Enable is set. -/
def State.regRead (s : State) (f : Fn) (off : Nat) : W64 :=
  if !s.barUp then 0
  else if f = 0 then
    let x := blkOf off
    if s.blkUp x.1 then s.readBlk x.1 x.2 else 0
  else if s.fnEnabled f then s.readVf f off else 0

end Sys2Proof.Machine
end

