-- ==== Sys2Proof/Machine/RegWrite.lean ====
section
/-! DEFINITION. RegWrite.lean: REGISTER_WRITE and READ_CLEAR: what a write or a read of BAR0 does, by the access codes of R14–R18. -/

namespace Sys2Proof.Machine

/-! ## Writes -/

/-- Write the configuration of a source: TARGET while IC.LOCK is 0, PRIO and EN when the target is a host vector; nothing of a reserved
source (R493, R513). -/
def State.writeSrcCfg (s : State) (i : Nat) (v : W64) : State :=
  if (srcDefault i).isNone then s
  else
    let c := s.srcCfg i
    let c := if s.ic.lock then c else { c with target := BitVec.ofNat 8 (fld v 0 8) }
    let c := if c.target.toNat < 64 then { c with prio := BitVec.ofNat 4 (fld v 8 4), en := bit v 12 } else c
    { s with ic := { s.ic with cfgs := Sparse.set none s.ic.cfgs i (some c) } }

/-- A write of 1 to PENDING withdraws a source whose target is a host vector (R498). -/
def State.writeSrcState (s : State) (i : Nat) (v : W64) : State :=
  if bit v 0 && decide ((s.srcCfg i).target.toNat < 64) then s.withdraw i else s

def State.writeTgt (s : State) (t r : Nat) (v : W64) : State :=
  if 64 ≤ t then s
  else if r = 0x00 then (if t ≤ 32 then s.setTgt t { s.tgt t with auto := bit v 0 } else s)
  else if r = 0x10 then s.eoi t (fld v 0 11)
  else s

/-- An MSI-X table entry: the address, or the data with the mask bit. -/
def State.writeMsix (s : State) (t r : Nat) (v : W64) : State :=
  if r = 0 then s.setTgt t { s.tgt t with msixAddr := v }
  else if r = 8 then s.setTgt t { s.tgt t with msixData := BitVec.ofNat 32 (fld v 0 32), masked := bit v 32 }
  else s

def State.writeIc (s : State) (o : Nat) (v : W64) : State :=
  if o < 0x8000 then
    (if o % 16 = 0 then s.writeSrcCfg (o / 16) v else if o % 16 = 8 then s.writeSrcState (o / 16) v else s)
  else if o < 0x8000 + 0x40 * 64 then s.writeTgt ((o - 0x8000) / 0x40) ((o - 0x8000) % 0x40) v
  else if 0x10000 ≤ o ∧ o < 0x10000 + 33 * 16 then s.writeMsix ((o - 0x10000) / 16) (o % 16) v
  else s

/-- The rings of a function (R368). -/
def State.writeHq (s : State) (f : Fn) (o : Nat) (v : W64) : State :=
  if !s.hqUp then s
  else if o < 0x100 then
    let q : BitVec 2 := BitVec.ofNat 2 (o / 0x40)
    match o % 0x40 with
    | 0x00 => s.modSq f q (·.setBase v)
    | 0x08 => s.modSq f q (·.setCfg v)
    | 0x10 => s.modSq f q (·.setTail v)
    | _ => s
  else match o with
    | 0x200 => s.modCq f (·.setBase v)
    | 0x208 => s.modCq f (·.setCfg v)
    | 0x210 => s.modCq f (·.setHead v)
    | _ => s

/-- SCH.FN_HB: any write is a heartbeat; the other fields are read-only (R350). -/
def State.writeSch (s : State) (o : Nat) : State :=
  if s.hqUp ∧ 0x1000 ≤ o ∧ o < 0x1000 + 0x40 * 32 ∧ (o - 0x1000) % 0x40 = 8 then
    s.modFn (BitVec.ofNat 5 ((o - 0x1000) / 0x40)) (fun x => { x with current := true })
  else s

/-- OFFLINE of a tier, and MARGIN_CTL (R278, R286). -/
def State.writeMem (s : State) (o : Nat) (v : W64) : State :=
  if o < 0x400 ∧ o % 0x100 = 0 then
    let bulk := decide (2 ≤ o / 0x100)
    let h := o / 0x100 % 2 == 1
    if bit v 3 then s.offlineSet 0 bulk h else s.offlineClear 0 bulk h
  else if o = 0x900 then s.marginGo 0 v
  else s

def State.writePwr (s : State) (o : Nat) (v : W64) : State :=
  if o = 0 then { s with pwr := { s.pwr with cap := BitVec.ofNat 11 (fld v 0 11) } }
  else if 0x100 ≤ o ∧ o < 0x300 ∧ o % 8 = 0 then
    let b := (o - 0x100) / 8
    if bit s.cap.braids b then s.setPwrBraid b { s.pwrBraid b with limit := BitVec.ofNat 5 (fld v 8 5) } else s
  else s

/-- DOWN_TIMEOUT, and the takeover request of a tenancy (R530, R534). -/
def State.writeBel (s : State) (o : Nat) (v : W64) : State :=
  if o = 0x10 then s.setBel { s.bel with timeout := BitVec.ofNat 16 (fld v 0 16) }
  else if 0x1000 ≤ o ∧ o < 0x3000 ∧ (o - 0x1000) % 0x20 = 0 then
    if bit v 5 && s.belayUp && s.bel.state != 3 then s.takeOver (tid ((o - 0x1000) / 0x20)) else s
  else s

/-- RDY.CTL: REFUSED is cleared by 1, and a request of the same write decides it anew (R15, R472, R490). -/
def State.writeRdy (s : State) (o : Nat) (v : W64) : State :=
  if o = 0x10 then
    let s : State := if bit v 8 then { s with rdy := { s.rdy with refused := false } } else s
    let s := if bit v 0 then s.pkgReset 0 else s
    if bit v 1 then s.secReset 0 else s
  else s

def State.writeBbx (s : State) (o : Nat) (v : W64) : State :=
  if o = 0x20 then { s with bbx := { s.bbx with area := bit v 0, block := BitVec.ofNat 5 (fld v 4 5) } } else s

/-- The hazard watch (R138): EN is written in RETURNED alone. -/
def State.writeDbg (s : State) (o : Nat) (v : W64) : State :=
  if o = 0x2000 then
    { s with dbg := { s.dbg with en := if s.lc = 3 then bit v 0 else s.dbg.en, rate := BitVec.ofNat 8 (fld v 8 8) } }
  else if o = 0x2008 then { s with dbg := { s.dbg with mask := v } }
  else s

/-- A write to the PF's blocks; every block and field not named is read-only (R14, R17, R18). -/
def State.writeBlk (s : State) (b : Blk) (o : Nat) (v : W64) : State :=
  match b with
  | .rdy => s.writeRdy o v
  | .ic => s.writeIc o v
  | .hq => s.writeHq (BitVec.ofNat 5 (o / 0x2000)) (o % 0x2000) v
  | .sch => s.writeSch o
  | .mem => s.writeMem o v
  | .pwr => s.writePwr o v
  | .bel => s.writeBel o v
  | .bbx => s.writeBbx o v
  | .dbg => s.writeDbg o v
  | .cap | .ten | .win | .spl | .tel | .bst | .lcs => s

/-- A write to a VF's BAR0 (R360). -/
def State.writeVf (s : State) (f : Fn) (o : Nat) (v : W64) : State :=
  if !s.ready .sched then s
  else if 0x20000 ≤ o ∧ o < 0x22000 then s.writeHq f (o - 0x20000) v
  else if o = 0x30000 then s.writeSch (0x1008 + 0x40 * f.toNat)
  else if 0x40000 ≤ o ∧ o < 0x40010 then s.writeMsix (32 + f.toNat) (o - 0x40000) v
  else s

/-- A write of 8 bytes to a function's BAR0 (log 66). -/
def State.regWrite (s : State) (f : Fn) (off : Nat) (v : W64) : State :=
  if !s.barUp then s
  else if f = 0 then
    let x := blkOf off
    if s.blkUp x.1 then s.writeBlk x.1 x.2 v else s
  else if s.fnEnabled f then s.writeVf f off v else s

/-- REGISTER_WRITE. A register that has a row of its own does here what that row does. -/
def execRegisterWrite (f : Fn) (off : BitVec 26) (v : W64) (s : State) : Result := .next (s.regWrite f off.toNat v)

/-! ## What a read clears -/

def Braid.clearReg (b : Braid) (r : Nat) : Braid :=
  let x := b.tel
  let tel : BraidTel :=
    if 0x50 ≤ r ∧ r < 0x90 ∧ r % 8 = 0 then
      let j := (r - 0x50) / 8
      { x with conflict := Sparse.set 0 (Sparse.set 0 x.conflict (2 * j) 0) (2 * j + 1) 0 }
    else match r with
      | 0x10 => { x with collide := 0 }
      | 0x30 => { x with bcuFails := 0 }
      | 0x38 => { x with eccCorr := 0, eccUnc := 0 }
      | 0x90 => { x with dmaWait := 0 }
      | 0xE0 => { x with unarmed := 0, clamped := 0, timeouts := 0 }
      | 0xE8 => { x with halts := 0 }
      | _ => x
  { b with tel := tel }

def State.clearTel (s : State) (o : Nat) : State :=
  if 0x10000 ≤ o ∧ o < 0x14000 then
    let b := (o - 0x10000) / 0x100
    if bit s.cap.braids b then s.modBraid b (·.clearReg (o % 0x100)) else s
  else if o = 0x30018 then s.modLan false (fun x => { x with keyfail := 0, ckfail := 0 })
  else if o = 0x30118 then s.modLan true (fun x => { x with keyfail := 0, ckfail := 0 })
  else s

def State.clearMem (s : State) (o : Nat) : State :=
  if o < 0x400 ∧ o % 0x100 = 0x20 then
    s.modTier (decide (2 ≤ o / 0x100)) (o / 0x100 % 2 == 1) (fun t => { t with corr := 0, retries := 0, unc := 0 })
  else if o = 0x408 then s.modPager false (fun p => { p with aborted := 0, blocked := 0 })
  else if o = 0x508 then s.modPager true (fun p => { p with aborted := 0, blocked := 0 })
  else s

def State.clearSpl (s : State) (o : Nat) : State :=
  if 0x1000 ≤ o ∧ o < 0x1400 then
    let st := (o - 0x1000) / 0x40
    let x := s.router st
    match o % 0x40 with
    | 0x00 => s.setRouter st { x with retries := 0, corrected := 0 }
    | 0x08 => s.setRouter st { x with fails := 0 }
    | _ => s
  else s

def State.clearWin (s : State) (o : Nat) : State :=
  if o < 0x4000 then (if o % 16 = 8 then s.modWin (o / 16) (fun w => { w with authFail := 0, rejected := 0 }) else s)
  else if o < 0x4800 then (if o % 8 = 0 then s.modTen (tid ((o - 0x4000) / 8)) (fun t => { t with late := 0 }) else s)
  else if o = 0x5000 then s.modPort .a (fun p => { p with stray := 0, poisoned := 0 })
  else if o = 0x5008 then s.modPort .b (fun p => { p with stray := 0, poisoned := 0 })
  else s

def State.clearLcs (s : State) (o : Nat) : State :=
  match o with
  | 0x18 => { s with lcs := { s.lcs with rct := 0, apt := 0 } }
  | 0x28 => { s with pke := { s.pke with signFail := 0, aborts := 0 } }
  | _ => s

/-- IC.CLAIM of a host vector claims (R496); IC.TGT_STAT's counters are cleared. -/
def State.clearIc (s : State) (o : Nat) : State :=
  if 0x8000 ≤ o ∧ o < 0x8000 + 0x40 * 192 then
    let t := (o - 0x8000) / 0x40
    match (o - 0x8000) % 0x40 with
    | 0x08 => if t < 64 then (s.claim t).2 else s
    | 0x18 => if isTarget t then s.setTgt t { s.tgt t with spurious := 0, badEoi := 0 } else s
    | _ => s
  else s

/-- The RC fields of a register are cleared (R14, R16). -/
def State.clearBlk (s : State) (b : Blk) (o : Nat) : State :=
  match b with
  | .ic => s.clearIc o
  | .win => s.clearWin o
  | .sch => if o = 0x08 then { s with sch := { s.sch with saveRef := 0 } } else s
  | .mem => s.clearMem o
  | .spl => s.clearSpl o
  | .tel => s.clearTel o
  | .pwr => if o = 0x18 then { s with pwr := { s.pwr with capDown := 0, thermDown := 0, trips := 0 } } else s
  | .bel => if o = 0x08 then s.setBel { s.bel with retries := 0, downs := 0 } else s
  | .lcs => s.clearLcs o
  | .dbg => if o = 0x2010 then { s with dbg := { s.dbg with dropped := 0 } } else s
  | .cap | .rdy | .hq | .ten | .bst | .bbx => s

/-- A read of a function's BAR0 clears the RC fields it returns; a VF's BAR0 holds none. -/
def State.regClear (s : State) (f : Fn) (off : Nat) : State :=
  if !s.barUp || f != 0 then s
  else
    let x := blkOf off
    if s.blkUp x.1 then s.clearBlk x.1 x.2 else s

/-- A bulk port's BAR0: a copy of CAP.IDENT at 0, zero elsewhere (R360). A read gets an answer while the port's link is up. -/
def State.bulkBar0 (s : State) (p : Port) (off : Nat) : State :=
  if s.pins.powered && (s.port p).up then s.emit (.readData (if off = 0 then s.ident else 0)) else s

/-- READ_CLEAR: the value goes to the reader. A register without RC fields is only read. -/
def execReadClear (f : PortFn) (off : BitVec 26) (s : State) : Result :=
  .next (match f with
    | .ctrl f => if s.pins.powered then (s.regClear f off.toNat).emit (.readData (s.regRead f off.toNat)) else s
    | .bulk p => s.bulkBar0 p off.toNat)

end Sys2Proof.Machine
end

