-- ==== Sys2Proof/Machine/Dispatch.lean ====
section
/-! DEFINITION. Dispatch.lean: one arm per command, each the direct call of its meaning. -/

namespace Sys2Proof.Machine

open Sys2Proof

/-- The effect of a command on everything but the queue. -/
def exec (i : Instr) (s : State) : Host.Outcome State Fault Refusal :=
  match i with
  | .powerOn straps => Sys2Proof.Machine.execPowerOn straps s
  | .inputLoss => Sys2Proof.Machine.execInputLoss s
  | .configSpaceLoadDone => Sys2Proof.Machine.execConfigSpaceLoadDone s
  | .packageReset => Sys2Proof.Machine.execPackageReset s
  | .pkgReset f => Sys2Proof.Machine.execPkgReset f s
  | .secReset f => Sys2Proof.Machine.execSecReset f s
  | .controlPortReset => Sys2Proof.Machine.execControlPortReset s
  | .functionLevelReset f => Sys2Proof.Machine.execFunctionLevelReset f s
  | .vfEnableClear => Sys2Proof.Machine.execVfEnableClear s
  | .bulkPortReset p => Sys2Proof.Machine.execBulkPortReset p s
  | .d3hotEntry f => Sys2Proof.Machine.execD3hotEntry f s
  | .unsupportedRequest p => Sys2Proof.Machine.execUnsupportedRequest p s
  | .laneMargining m => Sys2Proof.Machine.execLaneMargining m s
  | .braidPllLoss b => Sys2Proof.Machine.execBraidPllLoss b s
  | .deviceFatalCondition cause unit => Sys2Proof.Machine.execDeviceFatalCondition cause unit s
  | .safeStateTimeout => Sys2Proof.Machine.execSafeStateTimeout s
  | .recordWriterWatchdog => Sys2Proof.Machine.execRecordWriterWatchdog s
  | .blackBoxStore => Sys2Proof.Machine.execBlackBoxStore s
  | .tenancyFatalError n table ecc => Sys2Proof.Machine.execTenancyFatalError n table ecc s
  | .strandLinkFail st => Sys2Proof.Machine.execStrandLinkFail st s
  | .fwBegin len => Sys2Proof.Machine.execFwBegin len s
  | .fwData off data => Sys2Proof.Machine.execFwData off data s
  | .fwEnd => Sys2Proof.Machine.execFwEnd s
  | .fwStatus => Sys2Proof.Machine.execFwStatus s
  | .getRdy => Sys2Proof.Machine.execGetRdy s
  | .fwVerifyDone r => Sys2Proof.Machine.execFwVerifyDone r s
  | .bistWaveDone rs => Sys2Proof.Machine.execBistWaveDone rs s
  | .entdaa addr => Sys2Proof.Machine.execEntdaa addr s
  | .setEndpointId eid sender => Sys2Proof.Machine.execSetEndpointId eid sender s
  | .getEndpointId => Sys2Proof.Machine.execGetEndpointId s
  | .getEndpointUuid => Sys2Proof.Machine.execGetEndpointUuid s
  | .getMctpVersionSupport ty => Sys2Proof.Machine.execGetMctpVersionSupport ty s
  | .getMessageTypeSupport => Sys2Proof.Machine.execGetMessageTypeSupport s
  | .getVendorDefinedMessageSupport sel => Sys2Proof.Machine.execGetVendorDefinedMessageSupport sel s
  | .getVersion => Sys2Proof.Machine.execGetVersion s
  | .getCapabilities => Sys2Proof.Machine.execGetCapabilities s
  | .negotiateAlgorithms offer => Sys2Proof.Machine.execNegotiateAlgorithms offer s
  | .getDigests => Sys2Proof.Machine.execGetDigests s
  | .getCertificate slot off len => Sys2Proof.Machine.execGetCertificate slot off len s
  | .challenge slot nonce => Sys2Proof.Machine.execChallenge slot nonce s
  | .getMeasurements idx signed nonce => Sys2Proof.Machine.execGetMeasurements idx signed nonce s
  | .respondIfReady token => Sys2Proof.Machine.execRespondIfReady token s
  | .sqTailWrite f q v => Sys2Proof.Machine.execSqTailWrite f q v s
  | .sqCfgWrite f q v => Sys2Proof.Machine.execSqCfgWrite f q v s
  | .cqCfgWrite f v => Sys2Proof.Machine.execCqCfgWrite f v s
  | .cqHeadWrite f v => Sys2Proof.Machine.execCqHeadWrite f v s
  | .commandFetch f q cmds => Sys2Proof.Machine.execCommandFetch f q cmds s
  | .heartbeat f => Sys2Proof.Machine.execHeartbeat f s
  | .heartbeatExpiry f => Sys2Proof.Machine.execHeartbeatExpiry f s
  | .graceExpiry n => Sys2Proof.Machine.execGraceExpiry n s
  | .kernel e => Sys2Proof.Machine.execKernel e s
  | .barrier e => Sys2Proof.Machine.execBarrier e s
  | .tenCreate e => Sys2Proof.Machine.execTenCreate e s
  | .tenClose e => Sys2Proof.Machine.execTenClose e s
  | .tenancyCloseComplete n => Sys2Proof.Machine.execTenancyCloseComplete n s
  | .reattach e => Sys2Proof.Machine.execReattach e s
  | .keyRegister e => Sys2Proof.Machine.execKeyRegister e s
  | .tenSet e => Sys2Proof.Machine.execTenSet e s
  | .primeLoad e buf => Sys2Proof.Machine.execPrimeLoad e buf s
  | .chainDefine e buf => Sys2Proof.Machine.execChainDefine e buf s
  | .map e => Sys2Proof.Machine.execMap e s
  | .alloc e => Sys2Proof.Machine.execAlloc e s
  | .free e => Sys2Proof.Machine.execFree e s
  | .unmap e => Sys2Proof.Machine.execUnmap e s
  | .pin e => Sys2Proof.Machine.execPin e s
  | .winOpen e => Sys2Proof.Machine.execWinOpen e s
  | .winClose e => Sys2Proof.Machine.execWinClose e s
  | .winDrain e => Sys2Proof.Machine.execWinDrain e s
  | .winDrainDone idx => Sys2Proof.Machine.execWinDrainDone idx s
  | .spliceOpen e => Sys2Proof.Machine.execSpliceOpen e s
  | .spliceClose e => Sys2Proof.Machine.execSpliceClose e s
  | .spliceCompare e => Sys2Proof.Machine.execSpliceCompare e s
  | .ctxExport e => Sys2Proof.Machine.execCtxExport e s
  | .ctxImport e => Sys2Proof.Machine.execCtxImport e s
  | .attest e buf => Sys2Proof.Machine.execAttest e buf s
  | .chainGet e => Sys2Proof.Machine.execChainGet e s
  | .chanOpen e buf => Sys2Proof.Machine.execChanOpen e buf s
  | .chanMsg e buf => Sys2Proof.Machine.execChanMsg e buf s
  | .chanClose e => Sys2Proof.Machine.execChanClose e s
  | .windowKey e buf => Sys2Proof.Machine.execWindowKey e buf s
  | .migrationKey e buf => Sys2Proof.Machine.execMigrationKey e buf s
  | .erase e buf => Sys2Proof.Machine.execErase e buf s
  | .lcAdvance e buf => Sys2Proof.Machine.execLcAdvance e buf s
  | .bbxClear e buf => Sys2Proof.Machine.execBbxClear e buf s
  | .debugUnlock e buf => Sys2Proof.Machine.execDebugUnlock e buf s
  | .bistReq e => Sys2Proof.Machine.execBistReq e s
  | .infieldBistDone r => Sys2Proof.Machine.execInfieldBistDone r s
  | .pkeAlloc e => Sys2Proof.Machine.execPkeAlloc e s
  | .pkeFree e => Sys2Proof.Machine.execPkeFree e s
  | .pkeWrite e buf => Sys2Proof.Machine.execPkeWrite e buf s
  | .pkeRead e => Sys2Proof.Machine.execPkeRead e s
  | .pkeImport e => Sys2Proof.Machine.execPkeImport e s
  | .pkeExport e => Sys2Proof.Machine.execPkeExport e s
  | .rand e => Sys2Proof.Machine.execRand e s
  | .madd e => Sys2Proof.Machine.execMadd e s
  | .msub e => Sys2Proof.Machine.execMsub e s
  | .mmul e => Sys2Proof.Machine.execMmul e s
  | .minv e => Sys2Proof.Machine.execMinv e s
  | .mexp e => Sys2Proof.Machine.execMexp e s
  | .msign e => Sys2Proof.Machine.execMsign e s
  | .padd e => Sys2Proof.Machine.execPadd e s
  | .pdbl e => Sys2Proof.Machine.execPdbl e s
  | .pmul e => Sys2Proof.Machine.execPmul e s
  | .pcheck e => Sys2Proof.Machine.execPcheck e s
  | .ecsign e => Sys2Proof.Machine.execEcsign e s
  | .curveLoad e buf => Sys2Proof.Machine.execCurveLoad e buf s
  | .curveFree e => Sys2Proof.Machine.execCurveFree e s
  | .pkeOperationDone => Sys2Proof.Machine.execPkeOperationDone s
  | .entropySourceFail ws => Sys2Proof.Machine.execEntropySourceFail ws s
  | .dispatchDecision => Sys2Proof.Machine.execDispatchDecision s
  | .contextSaveDone b => Sys2Proof.Machine.execContextSaveDone b s
  | .scratchpadWipeDone b => Sys2Proof.Machine.execScratchpadWipeDone b s
  | .kernelStart b => Sys2Proof.Machine.execKernelStart b s
  | .tokenTimeoutExpiry e => Sys2Proof.Machine.execTokenTimeoutExpiry e s
  | .stopNoticeArrival b => Sys2Proof.Machine.execStopNoticeArrival b s
  | .tokenRetire b => Sys2Proof.Machine.execTokenRetire b s
  | .tokenFail b => Sys2Proof.Machine.execTokenFail b s
  | .completionWrite f => Sys2Proof.Machine.execCompletionWrite f s
  | .completionDelayExpiry f => Sys2Proof.Machine.execCompletionDelayExpiry f s
  | .resultLanding b => Sys2Proof.Machine.execResultLanding b s
  | .hitch b => Sys2Proof.Machine.execHitch b s
  | .hitchDrainEnd b => Sys2Proof.Machine.execHitchDrainEnd b s
  | .bankmap b => Sys2Proof.Machine.execBankmap b s
  | .swait b => Sys2Proof.Machine.execSwait b s
  | .swaitEnd b waited => Sys2Proof.Machine.execSwaitEnd b waited s
  | .swaitTimeout b => Sys2Proof.Machine.execSwaitTimeout b s
  | .srel b => Sys2Proof.Machine.execSrel b s
  | .splice b => Sys2Proof.Machine.execSplice b s
  | .weave b => Sys2Proof.Machine.execWeave b s
  | .weaveLanding b => Sys2Proof.Machine.execWeaveLanding b s
  | .seal b => Sys2Proof.Machine.execSeal b s
  | .sealClearingDone b bank => Sys2Proof.Machine.execSealClearingDone b bank s
  | .idle b => Sys2Proof.Machine.execIdle b s
  | .scalarAdd b => Sys2Proof.Machine.execScalarAdd b s
  | .scalarSub b => Sys2Proof.Machine.execScalarSub b s
  | .scalarAnd b => Sys2Proof.Machine.execScalarAnd b s
  | .scalarOr b => Sys2Proof.Machine.execScalarOr b s
  | .scalarXor b => Sys2Proof.Machine.execScalarXor b s
  | .scalarShl b => Sys2Proof.Machine.execScalarShl b s
  | .scalarShr b => Sys2Proof.Machine.execScalarShr b s
  | .scalarSar b => Sys2Proof.Machine.execScalarSar b s
  | .scalarMul b => Sys2Proof.Machine.execScalarMul b s
  | .scalarMin b => Sys2Proof.Machine.execScalarMin b s
  | .scalarMax b => Sys2Proof.Machine.execScalarMax b s
  | .movi b => Sys2Proof.Machine.execMovi b s
  | .orsh b => Sys2Proof.Machine.execOrsh b s
  | .scalarCmp b => Sys2Proof.Machine.execScalarCmp b s
  | .cid b => Sys2Proof.Machine.execCid b s
  | .hget b => Sys2Proof.Machine.execHget b s
  | .lget b => Sys2Proof.Machine.execLget b s
  | .seta b => Sys2Proof.Machine.execSeta b s
  | .setstr b => Sys2Proof.Machine.execSetstr b s
  | .setwrap b => Sys2Proof.Machine.execSetwrap b s
  | .adda b => Sys2Proof.Machine.execAdda b s
  | .geta b => Sys2Proof.Machine.execGeta b s
  | .loop b => Sys2Proof.Machine.execLoop b s
  | .setlc b => Sys2Proof.Machine.execSetlc b s
  | .jmp b => Sys2Proof.Machine.execJmp b s
  | .br b => Sys2Proof.Machine.execBr b s
  | .endKernel b => Sys2Proof.Machine.execEndKernel b s
  | .vectorAdd b => Sys2Proof.Machine.execVectorAdd b s
  | .vectorSub b => Sys2Proof.Machine.execVectorSub b s
  | .vectorMul b => Sys2Proof.Machine.execVectorMul b s
  | .fma b => Sys2Proof.Machine.execFma b s
  | .vectorCmp b => Sys2Proof.Machine.execVectorCmp b s
  | .sel b => Sys2Proof.Machine.execSel b s
  | .vectorMin b => Sys2Proof.Machine.execVectorMin b s
  | .vectorMax b => Sys2Proof.Machine.execVectorMax b s
  | .bfct b => Sys2Proof.Machine.execBfct b s
  | .bfgs b => Sys2Proof.Machine.execBfgs b s
  | .red b => Sys2Proof.Machine.execRed b s
  | .eprog b => Sys2Proof.Machine.execEprog b s
  | .reveal b => Sys2Proof.Machine.execReveal b s
  | .mov b => Sys2Proof.Machine.execMov b s
  | .splat b => Sys2Proof.Machine.execSplat b s
  | .sgen b => Sys2Proof.Machine.execSgen b s
  | .tmac b => Sys2Proof.Machine.execTmac b s
  | .tzero b => Sys2Proof.Machine.execTzero b s
  | .tred b => Sys2Proof.Machine.execTred b s
  | .bconv b => Sys2Proof.Machine.execBconv b s
  | .ldv b => Sys2Proof.Machine.execLdv b s
  | .ldt b => Sys2Proof.Machine.execLdt b s
  | .lds b => Sys2Proof.Machine.execLds b s
  | .stv b => Sys2Proof.Machine.execStv b s
  | .stt b => Sys2Proof.Machine.execStt b s
  | .sts b => Sys2Proof.Machine.execSts b s
  | .deferredDmaAccess b r => Sys2Proof.Machine.execDeferredDmaAccess b r s
  | .slotTransferStart b r => Sys2Proof.Machine.execSlotTransferStart b r s
  | .slotTransferDone b r => Sys2Proof.Machine.execSlotTransferDone b r s
  | .slotCrossing b r => Sys2Proof.Machine.execSlotCrossing b r s
  | .descriptorBurstFetch b r => Sys2Proof.Machine.execDescriptorBurstFetch b r s
  | .streamResume b r => Sys2Proof.Machine.execStreamResume b r s
  | .affinityHoldExpiry b r => Sys2Proof.Machine.execAffinityHoldExpiry b r s
  | .multicastGroupStart g => Sys2Proof.Machine.execMulticastGroupStart g s
  | .keyPageReadStart g => Sys2Proof.Machine.execKeyPageReadStart g s
  | .keyPageDone g => Sys2Proof.Machine.execKeyPageDone g s
  | .pageBackingDone n page => Sys2Proof.Machine.execPageBackingDone n page s
  | .frameScrubDone frame => Sys2Proof.Machine.execFrameScrubDone frame s
  | .promotionStart n page => Sys2Proof.Machine.execPromotionStart n page s
  | .demotionSweep h => Sys2Proof.Machine.execDemotionSweep h s
  | .homeMigrationStart n page => Sys2Proof.Machine.execHomeMigrationStart n page s
  | .migrationPassEnd n page => Sys2Proof.Machine.execMigrationPassEnd n page s
  | .migrationCommit n page => Sys2Proof.Machine.execMigrationCommit n page s
  | .pagerEpochEnd h => Sys2Proof.Machine.execPagerEpochEnd h s
  | .wcAgeFlush line => Sys2Proof.Machine.execWcAgeFlush line s
  | .wcFenceDone e => Sys2Proof.Machine.execWcFenceDone e s
  | .memTempRead m temp => Sys2Proof.Machine.execMemTempRead m temp s
  | .tierOfflineSet f t h => Sys2Proof.Machine.execTierOfflineSet f t h s
  | .tierOfflineClear f t h => Sys2Proof.Machine.execTierOfflineClear f t h s
  | .tierWipeDone t h => Sys2Proof.Machine.execTierWipeDone t h s
  | .marginGo f v => Sys2Proof.Machine.execMarginGo f v s
  | .marginDone => Sys2Proof.Machine.execMarginDone s
  | .bar2Write p off rid data => Sys2Proof.Machine.execBar2Write p off rid data s
  | .bar2Read p off rid len => Sys2Proof.Machine.execBar2Read p off rid len s
  | .sealedFrameTimeout p idx r => Sys2Proof.Machine.execSealedFrameTimeout p idx r s
  | .lateWriteLog idx => Sys2Proof.Machine.execLateWriteLog idx s
  | .spliceExportTake b => Sys2Proof.Machine.execSpliceExportTake b s
  | .spliceTileReduce idx => Sys2Proof.Machine.execSpliceTileReduce idx s
  | .spliceTileDelivery idx => Sys2Proof.Machine.execSpliceTileDelivery idx s
  | .spliceDigestCompareDone idx => Sys2Proof.Machine.execSpliceDigestCompareDone idx s
  | .spliceFailureNotice idx => Sys2Proof.Machine.execSpliceFailureNotice idx s
  | .splicePathFail st => Sys2Proof.Machine.execSplicePathFail st s
  | .interruptClaim t => Sys2Proof.Machine.execInterruptClaim t s
  | .endOfInterrupt t id => Sys2Proof.Machine.execEndOfInterrupt t id s
  | .interruptWithdraw src => Sys2Proof.Machine.execInterruptWithdraw src s
  | .msixMessageSend t => Sys2Proof.Machine.execMsixMessageSend t s
  | .msixTlpAck t => Sys2Proof.Machine.execMsixTlpAck t s
  | .targetLock => Sys2Proof.Machine.execTargetLock s
  | .powerWindowEnd w => Sys2Proof.Machine.execPowerWindowEnd w s
  | .powerTrip => Sys2Proof.Machine.execPowerTrip s
  | .powerTripRelease => Sys2Proof.Machine.execPowerTripRelease s
  | .belayPairing m => Sys2Proof.Machine.execBelayPairing m s
  | .belayPairingRetry => Sys2Proof.Machine.execBelayPairingRetry s
  | .belayLinkDown => Sys2Proof.Machine.execBelayLinkDown s
  | .belayDownTimeout => Sys2Proof.Machine.execBelayDownTimeout s
  | .belayLinkReset => Sys2Proof.Machine.execBelayLinkReset s
  | .commitRecordApply r others => Sys2Proof.Machine.execCommitRecordApply r others s
  | .commitRecordAck n => Sys2Proof.Machine.execCommitRecordAck n s
  | .takeover f n => Sys2Proof.Machine.execTakeover f n s
  | .partnerFatalNotice => Sys2Proof.Machine.execPartnerFatalNotice s
  | .closeNotice n => Sys2Proof.Machine.execCloseNotice n s
  | .resyncStart n peer => Sys2Proof.Machine.execResyncStart n peer s
  | .resyncDone n copy => Sys2Proof.Machine.execResyncDone n copy s
  | .readClear f off => Sys2Proof.Machine.execReadClear f off s
  | .registerWrite f off v => Sys2Proof.Machine.execRegisterWrite f off v s
  | .hawserCleatBistDone u r => Sys2Proof.Machine.execHawserCleatBistDone u r s
  | .memoryTrainingDone m ok => Sys2Proof.Machine.execMemoryTrainingDone m ok s
  | .strandLinkRecovery st => Sys2Proof.Machine.execStrandLinkRecovery st s
  | .splicePathRetrainDone st => Sys2Proof.Machine.execSplicePathRetrainDone st s
  | .braidPllRelock r => Sys2Proof.Machine.execBraidPllRelock r s
  | .fatalNoticeAcknowledged => Sys2Proof.Machine.execFatalNoticeAcknowledged s
  | .managementEventRead => Sys2Proof.Machine.execManagementEventRead s
  | .trngStartupTestDone => Sys2Proof.Machine.execTrngStartupTestDone s
  | .perstRelease p => Sys2Proof.Machine.execPerstRelease p s
  | .pcieLinkUp l => Sys2Proof.Machine.execPcieLinkUp l s
  | .d3hotExit f => Sys2Proof.Machine.execD3hotExit f s

end Sys2Proof.Machine
end

