-- ==== Sys2Proof/WellFormed.lean ====
section
/-! DEFINITION. WellFormed.lean: which commands an outside agent or an inside event can bring: the ranges that the types of their
operands do not hold. A command that is not well formed names a thing the module does not have; its meaning then leaves the state as it
is, or reads as R18 says. -/

namespace Sys2Proof

/-- A strand position's or a register's offset is a multiple of 8 (log 66). -/
def aligned8 (off : Nat) : Bool := off % 8 == 0

/-- A memory set: twelve per ring tier, ten per bulk tier of a hawser (R249). -/
def SetId.wf (m : SetId) : Bool := decide (m.set.toNat < (match m.tier with | .ring => 12 | .bulk => 10))

/-- A margin point: the lanes of the port, up to 32 timing steps and 64 voltage steps from the centre (R352, R355). -/
def MarginPoint.wf (m : MarginPoint) : Bool :=
  (m.port != .control || decide (m.lane.toNat < 4)) && decide (m.step.toNat ≤ (if m.voltage then 64 else 32))

/-- A braid's result names cores 0 to 63, and as many braids as a wave has, once each (R484). -/
def braidsOnce (rs : List BraidResult) : Bool := decide (rs.length ≤ 8) && decide ((rs.map (·.braid)).Nodup)

/-- A granule of a record is 4 KiB (R523). -/
def granuleWf (g : BitVec 36 × List Byte) : Bool := g.2.length == 4096

/-- A record's kind is 1 to 7, its granules whole (R523, R524). -/
def CommitRecord.wf (r : CommitRecord) : Bool := decide (1 ≤ r.kind.toNat) && decide (r.kind.toNat ≤ 7) && r.granules.all granuleWf

/-- A resync copy: granules whole, the queued records well formed and numbered one after the other (R532). -/
def PeerCopy.wf (c : PeerCopy) : Bool :=
  c.granules.all granuleWf && c.late.all CommitRecord.wf &&
    decide (c.late.map (·.mseq) = (List.range c.late.length).map (fun i => c.mseq + 1 + BitVec.ofNat 64 i))

/-- A target of the interrupt controller (R494). -/
def targetWf (t : Byte) : Bool := decide (t.toNat ≤ 66) || (decide (128 ≤ t.toNat) && decide (t.toNat < 192))

/-- The commands that are well formed: a write to a bulk port holds at most 512 bytes (R352), a link has one of six rates, and an FW_DATA message at most 4,160
bytes (R383). -/
def Instr.wf : Instr → Bool
  | .laneMargining m => m.wf
  | .deviceFatalCondition cause _ => decide (1 ≤ cause.toNat) && decide (cause.toNat ≤ 5)
  | .bistWaveDone rs => braidsOnce rs
  | .commandFetch _ _ cmds => decide (1 ≤ cmds.length) && decide (cmds.length ≤ 16)
  | .memTempRead m _ => m.wf
  | .memoryTrainingDone m _ => m.wf
  | .bar2Write _ off _ data => decide (1 ≤ data.length) && decide (data.length ≤ 512) && decide (off.toNat + data.length ≤ 2 ^ 40)
  | .pcieLinkUp l => decide (l.link.rate.toNat ≤ 5) && (decide (l.vfs.toNat ≤ 7) || l.ari)
  | .fwData _ data => decide (data.length ≤ 4152)
  | .bar2Read _ off _ len => decide (1 ≤ len.toNat) && decide (len.toNat ≤ 4096) && decide (off.toNat + len.toNat ≤ 2 ^ 40)
  | .interruptClaim t => targetWf t
  | .endOfInterrupt t _ => targetWf t
  | .hawserCleatBistDone u _ => decide (64 ≤ u.toNat) && decide (u.toNat ≤ 88)
  | .commitRecordApply r _ => r.wf
  | .resyncDone _ copy => copy.wf
  | .readClear _ off => aligned8 off.toNat
  | .registerWrite _ off _ => aligned8 off.toNat
  | _ => true

end Sys2Proof
end

