-- ==== Sys2Proof/Safety.lean ====
section
/-! DEFINITION. Safety.lean: what holds of the block in every state that a run reaches, in the terms of the statements. -/

namespace Sys2Proof.Machine

/-- Device memory is in its canonical form: addresses strictly rising, no byte listed that an unlisted address reads as (log 4). -/
def Mem.wf (m : Mem) : Bool := Sparse.wf (0 : Byte) m.cells

/-- A property that every step keeps. -/
def Kept (p : State → Prop) : Prop := ∀ s s' : State, p s → step s = .next s' → p s'

/-- A command answers a next state that has a property. -/
def Ends (o : Result) (p : State → Prop) : Prop := ∃ t, o = .next t ∧ p t

/-! ## Clauses at issue (R106, R126) -/

/-- Clause `n` of the sentence at PC is the next one braid `i` issues: nothing holds or stops the braid, the clause is one that `ok`
selects, and of the clauses due none fails a check. -/
def State.issues (s : State) (i n : Nat) (ok : BitVec 96 → Bool) : Bool :=
  let b := s.braid i
  s.live && b.canIssue && b.todo.head? == some n && ok (clauseOf b.cur n) && !b.exportHeld && (!b.issued.isEmpty || b.failing.isNone)

/-- The braid as its clause finds it: the first clause of a cycle takes the count of results issued before the cycle (R137). -/
def Braid.opening (b : Braid) : Braid := if b.issued.isEmpty then { b with orderAt := b.order } else b

/-- The state once clause `n` of braid `i` has issued with the effect `f` on the braid: the hazard watch looks first (R137), the clause
is counted, and after the last clause of the cycle the cycle ends. -/
def State.issued (s : State) (i n : Nat) (f : Braid → Braid) : State :=
  let b := s.braid i
  let w := s.watch i n
  w.afterBraid i { (f b.opening).issuedClause n (b.iter == 0 && b.issued.isEmpty) with
    hwCount := (w.braid i).hwCount, hwEpoch := (w.braid i).hwEpoch }

/-- A result of one word per core for a register that lands `lat` cycles after issue: `val` and `sealed` are core by core. -/
def Braid.lands (b : Braid) (lat : Nat) (d : Dest) (val : Nat → Nat) (sealed : Nat → Bool) : Braid :=
  b.send { due := b.issueAt + lat, clause := 1, order := b.order, dest := d, merge := .replace, xport := none
           parts := b.cores.map (fun k => wordPart k (val k) (sealed k)) }

/-- A two-operand scalar operation of R115 as its row gives it. -/
structure AluRow where
  cmd : Bid → Instr
  op  : Nat
  fn  : W64 → W64 → W64

/-- The rows 0x01 to 0x0B of R115's table. -/
def aluRows : List AluRow :=
  [⟨.scalarAdd, 0x01, fun a b => a + b⟩, ⟨.scalarSub, 0x02, fun a b => a - b⟩, ⟨.scalarAnd, 0x03, fun a b => a &&& b⟩,
   ⟨.scalarOr, 0x04, fun a b => a ||| b⟩, ⟨.scalarXor, 0x05, fun a b => a ^^^ b⟩,
   ⟨.scalarShl, 0x06, fun a b => a <<< (b.toNat % 64)⟩, ⟨.scalarShr, 0x07, fun a b => a >>> (b.toNat % 64)⟩,
   ⟨.scalarSar, 0x08, fun a b => a.sshiftRight (b.toNat % 64)⟩, ⟨.scalarMul, 0x09, fun a b => BitVec.ofNat 64 (a.toNat * b.toNat)⟩,
   ⟨.scalarMin, 0x0A, fun a b => if a.toNat < b.toNat then a else b⟩, ⟨.scalarMax, 0x0B, fun a b => if a.toNat < b.toNat then b else a⟩]

/-- Operand B of a core-target clause on core `k`: register B, or IMM sign-extended when IMMF = 1 (R115). -/
def Braid.operandB (b : Braid) (c : BitVec 96) (k : Nat) : SReg :=
  if c.getLsbD 41 then { val := (BitVec.ofNat 24 (fld c 17 24)).signExtend 64, sealed := false } else b.getS k (fld c 42 5)

/-- The scalar clause of the sentence at PC. -/
def Braid.scalar (b : Braid) : BitVec 96 := clauseOf b.cur 1

/-- A three-operand lane operation of the vector engine as its row of R118 gives it: the sources its case and poison follow (R79, R158),
and the result lane from lane width, modulus and the lanes of VA, VB and VC. -/
structure LaneRow where
  cmd  : Bid → Instr
  op   : Nat
  uses : Nat
  fn   : Nat → Option Nat → Nat → Nat → Nat → Nat

/-- The lane operations of R118 and R139: add, subtract, multiply, multiply-add, select, minimum, maximum, reduce. -/
def laneRows : List LaneRow :=
  [⟨.vectorAdd, 1, 2, fun w q a b _ => Arith.addL w q a b⟩, ⟨.vectorSub, 2, 2, fun w q a b _ => Arith.subL w q a b⟩,
   ⟨.vectorMul, 3, 2, fun w q a b _ => Arith.mulL w q a b⟩, ⟨.fma, 4, 3, fun w q a b c => Arith.fmaL w q a b c⟩,
   ⟨.sel, 6, 3, fun _ _ a b c => if c = 0 then b else a⟩, ⟨.vectorMin, 7, 2, fun _ _ a b _ => Nat.min a b⟩,
   ⟨.vectorMax, 8, 2, fun _ _ a b _ => Nat.max a b⟩, ⟨.red, 11, 2, fun w q a b _ => Arith.redL w (q.getD 0) a b⟩]

/-- The modulus a vector clause selects: none in ring form, the limb's prime otherwise (R51, R118). -/
def Braid.vecQ (b : Braid) (c : BitVec 96) : Option Nat :=
  b.modulus (vClause c).ring (b.limbSel (vClause c).limb (vClause c).ladd (vClause c).lloop)

/-- A vector result of a clause `off` registers above its destination, core by core: value, case, poison. -/
def Braid.vecLands (b : Braid) (c : BitVec 96) (it off steps : Nat) (r : Nat → VReg × Bool × Bool) : Braid :=
  b.vResult (vClause c) it off steps (b.cores.map (fun k => b.vPart (vClause c) k (r k).1 (r k).2.1 (r k).2.2))

/-- The sources VA, VB, VC of iteration `it` on core `k`, those of the second operation of a dual form when `second`. -/
def Braid.vecSrc (b : Braid) (c : BitVec 96) (it : Nat) (second : Bool) (k : Nat) : VCell × VCell × VCell :=
  (b.srcA (vClause c) it second k, b.srcV (vClause c) (vClause c).vb it second k, b.srcV (vClause c) (vClause c).vc it second k)

/-- The lane-wise result of a row on core `k`: every lane, and the most sealed case and the poison of the sources it uses. -/
def Braid.laneResult (b : Braid) (row : LaneRow) (c : BitVec 96) (it : Nat) (second : Bool) (k : Nat) : VReg × Bool × Bool :=
  let x := b.vecSrc c it second k
  (Arith.ofLanes b.m32 ((List.range (Arith.laneN b.m32)).map (fun j =>
      row.fn (Arith.laneW b.m32) (b.vecQ c) (Arith.lane b.m32 x.1.val j) (Arith.lane b.m32 x.2.1.val j) (Arith.lane b.m32 x.2.2.val j))),
    x.1.sealed || x.2.1.sealed || (row.uses == 3 && x.2.2.sealed), x.1.poison || x.2.1.poison || (row.uses == 3 && x.2.2.poison))

/-! ## Waits and drains of a braid -/

/-- A clause that has no effect in its own cycle but to count as issued. -/
def Braid.asIs (b : Braid) : Braid := b

/-- The SWAIT first in the sentence at PC issues, with the timeout flag as given; a timeout counts. -/
def Braid.swaitIssues (b : Braid) (timeout : Bool) : Braid :=
  let r := ({ b.opening with tflag := timeout, waitDone := none }).issuedClause 0 (b.iter == 0 && b.issued.isEmpty)
  if timeout then r.countTimeout else r

/-- The state once the SWAIT of braid `i`, now as `b`, has issued. -/
def State.swaitIssues (s : State) (i : Nat) (b : Braid) (timeout : Bool) : State := s.afterBraid i (b.swaitIssues timeout)

/-- SWAIT is due first in the sentence at PC, nothing holds or stops the braid, and no check of the sentence fails. -/
def Braid.swaits (b : Braid) : Bool :=
  b.canIssue && b.todo.head? == some 0 && opIs 0 3 (clauseOf b.cur 0) && !b.exportHeld && (!b.issued.isEmpty || b.failing.isNone)

/-- The braid waits in a SWAIT whose wait may end after `n` cycles: its clock runs and everything due by then has landed. -/
def State.waits (s : State) (i n : Nat) : Bool :=
  let b := s.braid i
  s.live && b.phase == .waiting && b.pllUp && !b.linkDown && decide (b.cycle ≤ b.waitAt + n) && b.landedBy (b.waitAt + n)

/-- A braid whose wait has lasted `n` cycles. Holds that began while it waited count as such and defer its issue (R220); the other cycles
count under the causes that held, `shares` being how those that fell to more than one cause divide (R221, log 28). -/
def Braid.waited (b : Braid) (n : Nat) (timeout : Bool) (shares : List Nat) : Braid :=
  let u := b.waitAt + n
  let t := b.holds.foldl (fun t h => if h.1 ≤ t ∧ t < h.2 then h.2 else t) u
  let h := (b.holds.map (fun x => Nat.min u x.2 - Nat.max b.waitAt x.1)).sum
  { (((b.countRing (fld (clauseOf b.cur 0) 53 5) n).countCauses b.waitFor shares (n - h)).countStall 6 (h + (t - u))).advanceTo t b.dmaUpTo with
    phase := .issuing, waitDone := some timeout, holds := [] }

/-- The bytes of a scratchpad run as one little-endian number: zero while the region is being cleared (R175). -/
def Braid.loadValue (b : Braid) (k a n : Nat) : Nat :=
  if b.clearingAt a then 0 else leNat ((List.range n).map (fun j => b.spByte k (a + j)))

/-- The source of a store on core `k`: a vector register, a row of a tile, or a scalar register; its poison (R120, R158). -/
def Braid.storeSource (b : Braid) (l : LClause) (i k : Nat) : VReg × Bool :=
  if l.op = 1 then ((b.getV k i).val, (b.getV k i).poison)
  else if l.op = 2 then (b.getT k l.td i, (b.getTF k l.td).poison)
  else ((b.getS k i).val.setWidth 1024, false)

/-- The bytes a store puts at address `a` on core `k`: those of the lanes its predicate selects, lowest lane first (R110, R120). -/
def Braid.storeBytes (b : Braid) (l : LClause) (i k : Nat) : List (Nat × Byte) :=
  let a := b.lsAddr l k
  let wb := if l.op = 3 then 8 else Arith.laneW b.m32 / 8
  if b.clearingAt a then []
  else ((List.range l.unit).filter (fun j => bit (b.lsMask l k) (j / wb))).map (fun j =>
    (a + j, BitVec.ofNat 8 (fld (b.storeSource l i k).1 (8 * j) 8)))

/-! ## Commands of the host queues (R319, R324, R365) -/

/-- The command of pool entry `e`, one that `sel` selects, starts and passes the checks common to every command. -/
def State.starts (s : State) (e : Nat) (sel : BitVec 512 → Bool) (t : Token) : Bool :=
  s.tok e == some t && s.canStart t && sel t.cmd && (s.cmdCheck t.fn t.cmd t.badDep t.id).isNone

/-- The entry and the state once the command has started. -/
def Token.begun (t : Token) : Token := { t with started := true }
def State.begun (s : State) (t : Token) : State := s.modTok t.id Token.begun

/-- No weave lands before cycle `d`, and the braid's clock may reach `d` with nothing issued there (R124, R220). -/
def Braid.mayLand (b : Braid) (d : Nat) : Bool :=
  (match b.weave with | none => true | some w => decide (d ≤ w.due)) && b.mayReach d

/-- Commands whose meaning is one issue of one clause: with the number of the clause and the operations it is for. -/
def clauseCmds : List ((Bid → Instr) × Nat × (BitVec 96 → Bool)) :=
  [(.hitch, 0, opIs 0 1), (.bankmap, 0, opIs 0 2), (.srel, 0, opIs 0 4), (.splice, 0, opIs 0 5), (.weave, 0, opIs 0 6), (.seal, 0, opIs 0 7),
   (.idle, 0, opIs 0 8)] ++
  [(.scalarAdd, 1, coreOp 0x01), (.scalarSub, 1, coreOp 0x02), (.scalarAnd, 1, coreOp 0x03), (.scalarOr, 1, coreOp 0x04),
   (.scalarXor, 1, coreOp 0x05), (.scalarShl, 1, coreOp 0x06), (.scalarShr, 1, coreOp 0x07), (.scalarSar, 1, coreOp 0x08),
   (.scalarMul, 1, coreOp 0x09), (.scalarMin, 1, coreOp 0x0A), (.scalarMax, 1, coreOp 0x0B), (.movi, 1, coreOp 0x0C),
   (.orsh, 1, coreOp 0x0D), (.scalarCmp, 1, coreOp 0x0E), (.cid, 1, coreOp 0x0F), (.hget, 1, coreOp 0x10), (.lget, 1, coreOp 0x11)] ++
  [(.seta, 1, coreOp 0x18), (.setstr, 1, coreOp 0x19), (.setwrap, 1, coreOp 0x1A), (.adda, 1, coreOp 0x1B), (.geta, 1, coreOp 0x1C),
   (.loop, 1, seqOp 1), (.setlc, 1, seqOp 2), (.jmp, 1, seqOp 3), (.br, 1, seqOp 4), (.endKernel, 1, seqOp 5)] ++
  [(.vectorAdd, 2, opIs 2 1), (.vectorSub, 2, opIs 2 2), (.vectorMul, 2, opIs 2 3), (.fma, 2, opIs 2 4), (.vectorCmp, 2, opIs 2 5),
   (.sel, 2, opIs 2 6), (.vectorMin, 2, opIs 2 7), (.vectorMax, 2, opIs 2 8), (.bfct, 2, opIs 2 9), (.bfgs, 2, opIs 2 10),
   (.red, 2, opIs 2 11), (.eprog, 2, opIs 2 12), (.mov, 2, opIs 2 14), (.splat, 2, opIs 2 15), (.sgen, 2, opIs 2 16)] ++
  [(.tmac, 3, opIs 3 1), (.tzero, 3, opIs 3 2), (.tred, 3, opIs 3 3), (.bconv, 3, opIs 3 4), (.ldv, 4, opIs 4 1), (.ldt, 4, opIs 4 2),
   (.lds, 4, opIs 4 3), (.stv, 5, opIs 5 1), (.stt, 5, opIs 5 2), (.sts, 5, opIs 5 3)]

/-- What a clause leaves alone outside its braid and the hazard watch: everything but the braids, the multicast groups, the interrupt
sources, the black-box queue and the watch's own counter. -/
def State.sameOutside (s t : State) : Prop :=
  t = { s with braids := t.braids, ic := t.ic, bbx := t.bbx, dbg := t.dbg, draws := t.draws
               sch := { s.sch with groups := t.sch.groups } }

/-! ## Tables -/

/-- Every table of the state that a statement reads through is held in canonical form: keys strictly rising, no entry listed that an unlisted
key reads as. Tables: device memory, frames, tiers, braids, tenancies with their page tables, windows, splices, bulk ports, command rings, interrupt
sources, slots of the public-key engine, the ring of the record die, the braids' frequency steps, the tested units. The form is the model's own (log 4). -/
def State.tablesOk (s : State) : Bool :=
  s.mem.wf && Sparse.wf none s.mem.use && Sparse.wf TierSt.init s.mem.tiers && Sparse.wf Braid.init s.braids && Sparse.wf Ten.init s.tens &&
    s.tens.all (fun e => Sparse.wf none e.2.ptes && e.2.ptes.all (fun g => Sparse.wf Pte.init (g.2.getD []))) && Sparse.wf Win.init s.wins && Sparse.wf Splice.init s.splices &&
    Sparse.wf PortSt.init s.ports && Sparse.wf SqRing.init s.sch.sqs && Sparse.wf SrcSt.init s.ic.srcs && Sparse.wf none s.pke.slots &&
    Sparse.wf none s.die.ring && Sparse.wf PwrBraid.init s.pwr.braids && Sparse.wf UnitSt.init s.bist.units

/-! ## The commands of the pool, and how each is told -/

/-- Commands that an entry of the pool starts, with the words that tell each (R371, R404): the opcode, or the service of opcode 0x40. -/
def poolCmds : List ((Nat → HostBuf → Instr) × (BitVec 512 → Bool)) :=
  [(fun e _ => .barrier e, selOp 0x02), (fun e _ => .tenCreate e, selOp 0x10), (fun e _ => .tenClose e, selOp 0x11),
   (fun e _ => .reattach e, selOp 0x12), (fun e _ => .keyRegister e, selOp 0x13), (fun e _ => .tenSet e, selOp 0x14),
   (fun e b => .primeLoad e b, selOp 0x18), (fun e b => .chainDefine e b, selOp 0x19), (fun e _ => .map e, selOp 0x20),
   (fun e _ => .alloc e, selOp 0x21), (fun e _ => .free e, selOp 0x22), (fun e _ => .unmap e, selOp 0x23), (fun e _ => .pin e, selOp 0x24)] ++
  [(fun e _ => .winOpen e, selOp 0x28), (fun e _ => .winClose e, selOp 0x29), (fun e _ => .winDrain e, selOp 0x2A),
   (fun e _ => .spliceOpen e, selOp 0x30), (fun e _ => .spliceClose e, selOp 0x31), (fun e _ => .spliceCompare e, selOp 0x32),
   (fun e _ => .ctxExport e, selOp 0x38)]

/-- Services of the security core (R404). -/
def secCmds : List ((Nat → HostBuf → Instr) × (BitVec 512 → Bool)) :=
  [(fun e b => .attest e b, selSvc 0x01), (fun e _ => .chainGet e, selSvc 0x02), (fun e b => .chanOpen e b, selSvc 0x10),
   (fun e _ => .chanClose e, selSvc 0x12), (fun e b => .lcAdvance e b, selSvc 0x20), (fun e b => .bbxClear e b, selSvc 0x21),
   (fun e b => .debugUnlock e b, selSvc 0x22), (fun e _ => .bistReq e, selSvc 0x30)]

/-! ## Pages -/

/-- A page command of opcode `o` starts and its range is right (R372). -/
def State.pageCmd (s : State) (e o : Nat) (t : Token) : Bool := s.starts e (selOp o) t && t.pgRange && !t.pgCtx

/-- A migration of the page would not reach four on its pager, and its destination list has more than LOW_WATER frames free. -/
def State.roomFor (s : State) (bulk h : Bool) (p : Pte) : Bool :=
  s.tierOpen bulk && decide ((s.pager h).lowWater.toNat < s.freeFrames bulk h) && decide (s.migsOn p.hawser < 4)

/-! ## Windows and splices -/

/-- The splice a braid's token is a rank of. -/
def State.spliceAt (s : State) (i : Nat) : Option Nat := (s.braid i).tok.bind s.spliceOf

/-- The tiles of a result tile's row `r`: the position-wise sum modulo q, or modulo 2^w where q = 0 (R298, R299). -/
def laneSum (m32 : Bool) (q : Nat) (ts : List (Sparse VReg)) (row l : Nat) : Nat :=
  let x := (ts.map (fun t => if q = 0 then Arith.lane m32 (Sparse.get 0 t row) l else Arith.lane m32 (Sparse.get 0 t row) l % q)).sum
  if q = 0 then x % 2 ^ Arith.laneW m32 else x % q

/-! ## Security core and public-key engine -/

/-- A service of the security core starts (R404). -/
def State.svcStarts (s : State) (e v : Nat) (t : Token) : Bool := s.secUp && s.starts e (selSvc v) t

/-- A completion with a status and nothing else. -/
def Comp.plain (st : Byte) : Comp := { status := st, detail := 0, position := 0, value := 0 }

/-- The commands of the public-key engine that read no host buffer, each with its operation (R430). -/
def pkeRows : List ((Nat → Instr) × Nat) :=
  [(.pkeAlloc, 0x01), (.pkeFree, 0x02), (.pkeRead, 0x04), (.pkeImport, 0x05), (.pkeExport, 0x06), (.rand, 0x07), (.madd, 0x10), (.msub, 0x11),
   (.mmul, 0x12), (.minv, 0x13), (.mexp, 0x14), (.msign, 0x15), (.padd, 0x20), (.pdbl, 0x21), (.pmul, 0x22), (.pcheck, 0x23), (.ecsign, 0x24),
   (.curveFree, 0x31)]

/-- A modular operation: its code and its result from modulus, A and B (R430, R432). -/
def modRows : List (Nat × (Nat → Nat → Nat → Nat)) :=
  [(0x10, fun m a b => (a + b) % m), (0x11, fun m a b => (a + m - b) % m), (0x12, fun m a b => a * b % m)]

/-- The engine is idle: nothing runs, nothing waits. -/
def State.pkeIdle (s : State) : Bool := s.pke.idle && s.pke.entering.isEmpty

/-- The transitions of the life cycle (R389): from, to. -/
def lcMoves : List (Nat × Nat) := [(0, 1), (1, 2), (2, 3), (2, 4), (0, 4), (1, 4), (3, 4)]

/-! ## Registers of BAR0 -/

/-- Registers of a block that come in rows: first offset, stride, rows, and the offsets inside a row (R358, R361). -/
abbrev RegRows := List (Nat × Nat × Nat × List Nat)

def RegRows.has (rs : RegRows) (o : Nat) : Bool :=
  rs.any (fun r => decide (r.1 ≤ o) && decide (o < r.1 + r.2.1 * r.2.2.1) && r.2.2.2.contains ((o - r.1) % r.2.1))

/-- Multiples of 8 below `8 * n`. -/
def every8 (n : Nat) : List Nat := (List.range n).map (8 * ·)

/-- The offsets of a block that define a register which a read shows (R358). -/
def readRows : Blk → RegRows
  | .cap => [(0, 0x38, 1, every8 7)]
  | .rdy => [(0, 0x20, 1, every8 4)]
  | .ic => [(0, 8, 0x1000, [0]), (0x8000, 0x40, 192, [0, 8, 0x18]), (0xF000, 8, 1, [0]), (0x10000, 8, 66, [0]), (0x18000, 8, 1, [0])]
  | .hq => (List.range 32).map (fun f => (0x2000 * f, 0x40, 4, every8 4)) ++ (List.range 32).map (fun f => (0x2000 * f + 0x200, 0x20, 1, every8 4))
  | .ten => [(0, 0x100, 256, every8 4)]
  | .win => [(0, 8, 0x800, [0]), (0x4000, 8, 256, [0]), (0x5000, 8, 2, [0])]
  | .sch => [(0, 0x18, 1, every8 3), (0x1000, 0x40, 32, every8 3)]
  | .mem => [(0, 0x100, 4, every8 6), (0x400, 0x100, 2, every8 3), (0x1000, 8, 0x200, [0]), (0x800, 8, 1, [0]), (0x900, 0x10, 1, [0, 8])]
  | .spl => [(0, 0x40, 64, every8 4), (0x1000, 0x40, 16, every8 2)]
  | .tel => [(0x10000, 0x100, 64, every8 31), (0x20000, 0x20, 0x800, every8 3), (0x30000, 0x100, 2, every8 5)]
  | .pwr => [(0, 0x20, 1, every8 4), (0x100, 8, 64, [0])]
  | .bel => [(0, 0x18, 1, every8 3), (0x1000, 0x20, 256, every8 2), (0x8000, 8, 0x800, [0])]
  | .bst => [(0, 8, 1, [0]), (0x100, 8, 178, [0]), (0x1000, 8, 64, [0])]
  | .lcs => [(0, 0x38, 1, every8 7)]
  | .bbx => [(0, 0x28, 1, every8 5), (0x80000, 8, 0x10000, [0])]
  | .dbg => [(0x2000, 0x18, 1, every8 3)]

/-- The offsets of a block at which a write can change anything: RW and W1C fields, doorbells and heartbeats (R14). -/
def writeRows : Blk → RegRows
  | .rdy => [(0x10, 8, 1, [0])]
  | .ic => [(0, 8, 0x1000, [0]), (0x8000, 0x40, 64, [0, 0x10]), (0x10000, 8, 66, [0])]
  | .hq => (List.range 32).map (fun f => (0x2000 * f, 0x40, 4, every8 3)) ++ (List.range 32).map (fun f => (0x2000 * f + 0x200, 0x18, 1, every8 3))
  | .sch => [(0x1000, 0x40, 32, [8])]
  | .mem => [(0, 0x100, 4, [0]), (0x900, 8, 1, [0])]
  | .pwr => [(0, 8, 1, [0]), (0x100, 8, 64, [0])]
  | .bel => [(0x10, 8, 1, [0]), (0x1000, 0x20, 256, [0])]
  | .bbx => [(0x20, 8, 1, [0])]
  | .dbg => [(0x2000, 8, 2, [0])]
  | .cap | .ten | .win | .spl | .tel | .bst | .lcs => []

/-- Registers with RC fields, by their place in the PF's BAR0: first offset, stride, rows, and the bits that a read clears (R14, R16). -/
def rcRows : List (Nat × Nat × Nat × Nat) :=
  [(0x28018, 0x40, 192, 0xFFFFFFFF), (0xC0008, 16, 0x400, 0xFFFFFFFF00000000), (0xC4000, 8, 256, 0xFFFFFFFF), (0xC5000, 8, 2, 0xFFFFFFFFFFFF),
   (0x100008, 8, 1, 0xFF00000000000000), (0x140020, 0x100, 4, 0xFFFFFFFFFFFF), (0x140408, 0x100, 2, 0xFFFFFFFF),
   (0x181000, 0x40, 16, 0xFFFFFFFF00000000), (0x181008, 0x40, 16, 0xFFFF0000)] ++
  [(0x10, 0xFFFFFFFF), (0x30, 0xFFFF), (0x38, 0xFFFFFF), (0x90, 0xFFFFFFFF), (0xE0, 0xFFFFFFFFFFFF), (0xE8, 0xFFFF0000)].map
    (fun e => (0x1D0000 + e.1, 0x100, 64, e.2)) ++
  (List.range 8).map (fun j => (0x1D0050 + 8 * j, 0x100, 64, 0xFFFFFFFFFFFFFFFF)) ++
  [(0x1F0018, 0x100, 2, 0xFFFFFFFF), (0x200018, 8, 1, 0xFFFFFFFFFFFF), (0x240008, 8, 1, 0xFFFFFFFF), (0x2C0018, 8, 1, 0xFFFFFFFF0000),
   (0x2C0028, 8, 1, 0xFFFFFFFF0000), (0x402010, 8, 1, 0xFFFFFFFF)]

/-- The bits that a read of the PF's BAR0 at an offset clears. -/
def rcBits (off : Nat) : Nat :=
  match rcRows.find? (fun r => decide (r.1 ≤ off) && decide (off < r.1 + r.2.1 * r.2.2.1) && decide ((off - r.1) % r.2.1 = 0)) with
  | some r => r.2.2.2
  | none => 0

/-- RW registers of the PF's BAR0 that hold what is written, with their bits (R14): the power cap, the belay timeout, the record window, the
hazard watch, the MSI-X table, and the limits of present braids. -/
def State.rwRegs (s : State) : List (Nat × Nat) :=
  [(0x200000, 0x7FF), (0x240010, 0xFFFF), (0x300020, 0x1F1), (0x402000, if s.lc = 3 then 0xFF01 else 0xFF00), (0x402008, 0xFFFFFFFFFFFFFFFF)] ++
  (List.range 33).map (fun t => (0x30000 + 16 * t, 0xFFFFFFFFFFFFFFFF)) ++ (List.range 33).map (fun t => (0x30008 + 16 * t, 0x1FFFFFFFF)) ++
  ((List.range 64).filter (fun b => bit s.cap.braids b)).map (fun b => (0x200100 + 8 * b, 0x1F00))

end Sys2Proof.Machine
end

