-- ==== Sys2Proof/Certificates/Slice0/Obligations.lean ====
section
/-! DEFINITION. Obligations.lean: the statements for the provers, by family. Statements of several parts are made of the parts `Says.X`. -/

open Sys2Proof Sys2Proof.Machine

/-! ## The queue -/

/-- STEP RUNS THE FRONT COMMAND. With command `c` at the front of the queue, a step is `exec` of `c` on the state with the queue's
rest. The queue is the model's own (log 1). -/
def Says.StepRunsFront : Prop :=
  ∀ (c : Instr) (rest : List Instr) (s : State), step { s with pending := c :: rest } = exec c { s with pending := rest }

/-- On an empty queue the block idles: the step answers the state it was given (the model's choice, log 1). -/
def Says.StepIdles : Prop :=
 ∀ s : State, s.pending = [] → step s = .next s

/-- A step takes the command at the front of the queue; on an empty queue the block idles. The queue is the model's own (log 1). -/
def Obligations.StepTakesTheFront : Prop :=
  Says.StepRunsFront ∧ Says.StepIdles

/-- Every command has an effect and leaves the queue alone: `exec` answers a next state, and the commands that wait are as they were. The
queue is the model's own (log 1). -/
def Obligations.CommandsKeepQueue : Prop :=
  ∀ (c : Instr) (s : State), ∃ t, exec c s = .next t ∧ t.pending = s.pending

/-! ## Scalar and sequencer clauses -/

/-- R115, R124: ADD, SUB, AND, OR, XOR, SHL, SHR, SAR, MUL, MIN and MAX put SD ← SA op B in flight on every core that executes, B being the
immediate when IMMF = 1. It lands one braid cycle after issue and is sealed when a source register is. Nothing else changes but the
braid's record of issue. -/
def Obligations.AluClauses : Prop :=
  ∀ (s : State) (i : Bid) (r : AluRow), r ∈ aluRows → s.issues i.toNat 1 (coreOp r.op) = true →
    exec (r.cmd i) s = .next (s.issued i.toNat 1 (fun b =>
      b.lands 1 (.s (fld b.scalar 52 5))
        (fun k => (r.fn (b.getS k (fld b.scalar 47 5)).val (b.operandB b.scalar k).val).toNat)
        (fun k => (b.getS k (fld b.scalar 47 5)).sealed || (b.operandB b.scalar k).sealed)))

/-- R115: MOVI, ORSH, CID, HGET, LGET and GETA write SD one cycle later with the immediate, the shifted SA joined with the immediate, the
logical core ID, a header register, a loop index, an effective address; only ORSH's result takes a case, that of SA. CMP writes every
lane bit of a predicate with the comparison's result, open. -/
def Says.MoveClauses : Prop :=
  ∀ (s : State) (i : Bid),
    (s.issues i.toNat 1 (coreOp 0x0C) = true → exec (.movi i) s = .next (s.issued i.toNat 1 (fun b =>
      b.lands 1 (.s (fld b.scalar 52 5)) (fun _ => ((BitVec.ofNat 24 (fld b.scalar 17 24)).signExtend 64).toNat) (fun _ => false)))) ∧
    (s.issues i.toNat 1 (coreOp 0x0D) = true → exec (.orsh i) s = .next (s.issued i.toNat 1 (fun b =>
      b.lands 1 (.s (fld b.scalar 52 5))
        (fun k => ((b.getS k (fld b.scalar 47 5)).val * 2 ^ 24 ||| BitVec.ofNat 64 (fld b.scalar 17 24)).toNat)
        (fun k => (b.getS k (fld b.scalar 47 5)).sealed)))) ∧
    (s.issues i.toNat 1 (coreOp 0x0E) = true → exec (.scalarCmp i) s = .next (s.issued i.toNat 1 (fun b =>
      b.send { due := b.issueAt + 1, clause := 1, order := b.order, dest := .p (fld b.scalar 52 5 % 8), merge := .replace, xport := none
               parts := b.cores.map (fun k =>
                 let t := Arith.condL 64 none (fld b.scalar 14 3) (b.getS k (fld b.scalar 47 5)).val.toNat (b.operandB b.scalar k).val.toNat
                 { wordPart k (if t then (allLanes b.m32).toNat else 0) false with mask := 0xFFFFFFFF }) }))) ∧
    (s.issues i.toNat 1 (coreOp 0x0F) = true → exec (.cid i) s = .next (s.issued i.toNat 1 (fun b =>
      b.lands 1 (.s (fld b.scalar 52 5)) (fun k => b.logical k) (fun _ => false)))) ∧
    (s.issues i.toNat 1 (coreOp 0x10) = true → exec (.hget i) s = .next (s.issued i.toNat 1 (fun b =>
      b.lands 1 (.s (fld b.scalar 52 5)) (fun _ => (b.hdr (fld b.scalar 47 3)).toNat) (fun _ => false)))) ∧
    (s.issues i.toNat 1 (coreOp 0x11) = true → exec (.lget i) s = .next (s.issued i.toNat 1 (fun b =>
      b.lands 1 (.s (fld b.scalar 52 5)) (fun _ => (b.loop (fld b.scalar 47 2)).index.toNat) (fun _ => false)))) ∧
    (s.issues i.toNat 1 (coreOp 0x1C) = true → exec (.geta i) s = .next (s.issued i.toNat 1 (fun b =>
      b.lands 1 (.s (fld b.scalar 52 5)) (fun k => (b.getA k (fld b.scalar 47 4)).ea) (fun _ => false))))

/-- R100, R115: the address operations take SA + B modulo 2^64. SETA writes BASE modulo 2^22 and sets OFFSET to 0; SETSTR writes STRIDE and
SETWRAP writes WRAP modulo 2^23, a WRAP above 2^22 being taken as 2^22; ADDA advances OFFSET by the signed sum, modulo WRAP when it is not
zero and modulo 2^22 otherwise. Each lands one cycle later. -/
def Says.AddressClauses : Prop :=
  ∀ (s : State) (i : Bid),
    let sum := fun (b : Braid) (k : Nat) => (b.getS k (fld b.scalar 47 5)).val + (b.operandB b.scalar k).val
    (s.issues i.toNat 1 (coreOp 0x18) = true → exec (.seta i) s = .next (s.issued i.toNat 1 (fun b =>
      (b.lands 1 (.aBase (fld b.scalar 52 4)) (fun k => (sum b k).toNat % 2 ^ 22) (fun _ => false)).lands 1
        (.aOffset (fld b.scalar 52 4)) (fun _ => 0) (fun _ => false)))) ∧
    (s.issues i.toNat 1 (coreOp 0x19) = true → exec (.setstr i) s = .next (s.issued i.toNat 1 (fun b =>
      b.lands 1 (.aStride (fld b.scalar 52 4)) (fun k => (sum b k).toNat % 2 ^ 23) (fun _ => false)))) ∧
    (s.issues i.toNat 1 (coreOp 0x1A) = true → exec (.setwrap i) s = .next (s.issued i.toNat 1 (fun b =>
      b.lands 1 (.aWrap (fld b.scalar 52 4)) (fun k => Nat.min ((sum b k).toNat % 2 ^ 23) (2 ^ 22)) (fun _ => false)))) ∧
    (s.issues i.toNat 1 (coreOp 0x1B) = true → exec (.adda i) s = .next (s.issued i.toNat 1 (fun b =>
      b.lands 1 (.aOffset (fld b.scalar 52 4)) (fun k =>
        let a := b.getA k (fld b.scalar 52 4)
        let m : Int := if a.wrap = 0 then 2 ^ 22 else Nat.min a.wrap.toNat (2 ^ 22)
        (((a.offset.toNat : Int) + (sum b k).toInt) % m).toNat % 2 ^ 22) (fun _ => false))))

/-- R116, R117, R121–R123: LOOP enters its body with the count latched, or skips it when the count is zero; SETLC sets a loop count to an
immediate, or to a header field plus a signed immediate, clamped to 0 and 65,535; JMP and a taken BR go to their target; END ends issue.
Each decides what the braid does after the sentence and changes no register of a core. -/
def Says.ControlClauses : Prop :=
  ∀ (s : State) (i : Bid),
    (s.issues i.toNat 1 (seqOp 1) = true → exec (.loop i) s = .next (s.issued i.toNat 1 (fun b =>
      let n : BitVec 16 := if b.scalar.getLsbD 54 then b.lcs.getD (fld b.scalar 52 2) 0 else BitVec.ofNat 16 (fld b.scalar 40 12)
      let last : BitVec 12 := BitVec.ofNat 12 (fld b.scalar 28 12)
      { b with ctl := if n = 0 then .skip last else .loopIn (fld b.scalar 55 2) n last }))) ∧
    (s.issues i.toNat 1 (seqOp 2) = true → exec (.setlc i) s = .next (s.issued i.toNat 1 (fun b =>
      let imm : BitVec 16 := BitVec.ofNat 16 (fld b.scalar 24 16)
      let v : Int := (fld (b.hdr (fld b.scalar 51 3)) (fld b.scalar 45 6) (fld b.scalar 40 5 + 1) : Int) + imm.toInt
      { b with lcs := b.lcs.set (fld b.scalar 55 2)
                 (if b.scalar.getLsbD 54 then BitVec.ofInt 16 (max 0 (min v 65535)) else imm) }))) ∧
    (s.issues i.toNat 1 (seqOp 3) = true → exec (.jmp i) s = .next (s.issued i.toNat 1 (fun b =>
      { b with ctl := .goto (BitVec.ofNat 12 (fld b.scalar 28 12)) }))) ∧
    (s.issues i.toNat 1 (seqOp 4) = true → exec (.br i) s = .next (s.issued i.toNat 1 (fun b =>
      if b.brTaken b.scalar then { b with ctl := .goto (BitVec.ofNat 12 (fld b.scalar 28 12)) } else b))) ∧
    (s.issues i.toNat 1 (seqOp 5) = true → exec (.endKernel i) s = .next (s.issued i.toNat 1 (fun b => { b with ctl := .stop })))

/-- Scalar clauses that move, address and control. -/
def Obligations.CoreTargetClauses : Prop :=
  Says.MoveClauses ∧ Says.AddressClauses ∧ Says.ControlClauses

/-- R53–R55: for a prime of k bits, add and subtract of reduced lanes, multiply and multiply-add of lanes below 2^k, and reduce of a value
below 2^(2k) give the exact residue. -/
def Obligations.ResidueLanesExact : Prop :=
  ∀ q : Nat, Nat.Prime q →
    (∀ x, x < 2 ^ (2 * Nat.size q) → Arith.barrett q x = x % q) ∧
    (∀ w a b, q < 2 ^ w → a < q → b < q → Arith.addL w (some q) a b = (a + b) % q ∧ Arith.subL w (some q) a b = (a + q - b) % q) ∧
    (∀ w a b c, a < 2 ^ Nat.size q → b < 2 ^ Nat.size q → c < 2 ^ Nat.size q →
      Arith.mulL w (some q) a b = a * b % q ∧ Arith.fmaL w (some q) a b c = (a * b + c) % q) ∧
    (∀ w a b, a * 2 ^ w + b < 2 ^ (2 * Nat.size q) → Arith.redL w q a b = (a * 2 ^ w + b) % q)

/-! ## Sync clauses -/

/-- R217, R218: SREL on an armed ring hands over the run of ready slots from HEAD, at most N of them, advances HEAD by that many and counts
the shortfall; on a ring that is not armed it only counts. -/
def Obligations.SrelReleases : Prop :=
  ∀ (s : State) (i : Bid), s.issues i.toNat 0 (opIs 0 4) = true →
    exec (.srel i) s = .next (s.issued i.toNat 0 (fun b =>
      let c := clauseOf b.cur 0
      let n := fld c 49 4 + 1
      let r := b.ring (fld c 53 5)
      let k := r.run n
      if r.armed then
        (b.setRing (fld c 53 5) { r with
          head := r.head + BitVec.ofNat 16 k
          slots := r.slots.zipIdx.map (fun x => if (List.range k).any (fun j => (r.head.toNat + j) % r.size == x.2) then
            { x.1 with braid := if r.kind = 1 then .full else .free } else x.1) }).countClamped (n - k)
      else b.countUnarmed))

/-- R111, R129, R167, R174, R114: HITCH, BANKMAP, SPLICE, SEAL and IDLE issue without an effect in their own cycle. At the end of the
cycle BANKMAP sets the bank map, SPLICE = 1 enables export with T3 zero and open and SPLICE = 0 disables it, SEAL changes the regions it
names; at the end of the sentence IDLE holds issue N braid cycles more, and HITCH starts to drain, in the kernel's last sentence too. -/
def Says.SyncClauses : Prop :=
  (∀ (s : State) (i : Bid) (r : (Bid → Instr) × Nat),
    r ∈ ([(.hitch, 1), (.bankmap, 2), (.splice, 5), (.seal, 7), (.idle, 8)] : List ((Bid → Instr) × Nat)) →
    s.issues i.toNat 0 (opIs 0 r.2) = true → exec (r.1 i) s = .next (s.issued i.toNat 0 Braid.asIs)) ∧
  (∀ (b : Braid),
    let c := clauseOf b.cur 0
    (clauseOp 0 c = 2 → b.syncLate = { b with bankMap := if b.fold then BitVec.ofNat 16 (fld c 0 8 * 257) else BitVec.ofNat 16 (fld c 0 16) }) ∧
    (clauseOp 0 c = 5 → c.getLsbD 0 = true → b.syncLate.spliceEn = true ∧
      ∀ k r, k < 64 → r < 16 → b.syncLate.getT k 3 r = 0 ∧ (b.syncLate.getTF k 3).sealed = false) ∧
    (clauseOp 0 c = 5 → c.getLsbD 0 = false → b.syncLate = { b with spliceEn := false }) ∧
    (clauseOp 0 c = 7 → b.fold = false → c.getLsbD 12 = true → ∀ g, fld c 0 6 ≤ g → g ≤ fld c 0 6 + fld c 6 6 → g < 64 →
      b.syncLate.sealMap.getLsbD g = true) ∧
    (clauseOp 0 c = 7 → c.getLsbD 12 = false → b.syncLate.sealMap = b.sealMap) ∧
    (clauseOp 0 c = 8 → b.ctl = .none → b.finishSentence.issueAt = b.issueAt + 1 + fld c 0 12) ∧
    (clauseOp 0 c = 1 → b.finishSentence.phase = .draining ∧ b.finishSentence.hitchReq = true))

/-- R112, R214–R216: SWAIT issues at once with the timeout flag clear when its slots are ready, issues at once as if by timeout on a ring
that is not armed, and otherwise waits from its cycle on; a wait that is over issues as soon as the braid may. A slot count above SIZE counts
as SIZE and is counted as clamped. -/
def Says.SwaitStarts : Prop :=
  ∀ (s : State) (i : Bid), s.live = true → (s.braid i.toNat).swaits = true →
    let b := s.braid i.toNat
    let c := clauseOf b.cur 0
    let r := b.ring (fld c 53 5)
    let n := fld c 49 4 + 1
    let b1 := if r.size < n then b.countClamped 1 else b
    (∀ f, b.waitDone = some f → exec (.swait i) s = .next (s.swaitIssues i.toNat b f)) ∧
    (b.waitDone = none → r.armed = false → exec (.swait i) s = .next (s.swaitIssues i.toNat b.countUnarmed true)) ∧
    (b.waitDone = none → r.armed = true → r.waitOver n = true → exec (.swait i) s = .next (s.swaitIssues i.toNat b1 false)) ∧
    (b.waitDone = none → r.armed = true → r.waitOver n = false → exec (.swait i) s = .next (s.afterBraid i.toNat
      { b1 with phase := .waiting, waitAt := b.issueAt, waitFor := [s.stallCause i.toNat], holds := [], dmaUpTo := 0 }))

/-- R214, R215, R220, R221: a SWAIT that waits ends after `n` cycles with the flag clear when its condition holds and `n` is within TIMEOUT,
and with the flag set when TIMEOUT cycles pass without it; arrival in that cycle wins. The cycles count under the stall's causes, how those
that fell to several causes divide being free (log 28). The sentence issues in the cycle in which the wait ended, or at the end of a hold
then in force; while a result is still due by that cycle it stays as it is. -/
def Says.SwaitEnds : Prop :=
  (∀ (s : State) (i : Bid),
    let b := s.braid i.toNat
    let c := clauseOf b.cur 0
    let r := b.ring (fld c 53 5)
    let n := fld c 49 4 + 1
    let tmo := fld c 32 16
    let x := s.shares i.toNat
    (∀ w : BitVec 32, s.waits i.toNat w.toNat = true → r.waitOver n = true → (tmo = 0 ∨ w.toNat ≤ tmo) →
      exec (.swaitEnd i w) s = .next (x.1.afterBraid i.toNat (b.waited w.toNat false x.2).swaitIssue)) ∧
    (s.waits i.toNat tmo = true → tmo ≠ 0 →
      exec (.swaitTimeout i) s = .next (x.1.afterBraid i.toNat (b.waited tmo (!(r.armed && r.waitOver n)) x.2).swaitIssue))) ∧
  (∀ (b : Braid) (f : Bool), b.waitDone = some f → (b.swaits = true → b.swaitIssue = b.swaitIssues f) ∧ (b.canIssue = false → b.swaitIssue = b))

/-- Sync clauses but SREL and WEAVE. -/
def Obligations.SyncSlotClauses : Prop :=
  Says.SyncClauses ∧ Says.SwaitStarts ∧ Says.SwaitEnds

/-! ## Vector, matrix, load and store clauses -/

/-- R118, R139, R142: ADD, SUB, MUL, FMA, SEL, MIN, MAX and RED work lane by lane on every core that executes, in modular or ring form;
MUL and FMA in dual form work a second time on the next registers. The result takes the most sealed case and the poison of its sources,
and lands after the latency of its operation in the lanes that the predicate selects. -/
def Says.LaneClauses : Prop :=
  ∀ (s : State) (i : Bid) (r : LaneRow), r ∈ laneRows → s.issues i.toNat 2 (opIs 2 r.op) = true →
    exec (r.cmd i) s = .next (s.issued i.toNat 2 (fun b =>
      let c := clauseOf b.cur 2
      let b1 := b.vecLands c b.iter 0 0 (b.laneResult r c b.iter false)
      if (vClause c).dual then b1.vecLands c b.iter 1 0 (b.laneResult r c b.iter true) else b1))

/-- R118, R140: a vector CMP writes all ones or zero in each lane, or, with SUB[3] set, one bit per
lane of an open predicate; the result takes the poison of its sources (R158). -/
def Says.VectorCompare : Prop :=
  ∀ (s : State) (i : Bid), s.issues i.toNat 2 (opIs 2 5) = true →
    exec (.vectorCmp i) s = .next (s.issued i.toNat 2 (fun b =>
      let c := clauseOf b.cur 2
      let v := vClause c
      let test := fun (k j : Nat) => Arith.condL (Arith.laneW b.m32) (b.vecQ c) (v.sub % 8)
        (Arith.lane b.m32 (b.srcA v b.iter false k).val j) (Arith.lane b.m32 (b.srcV v v.vb b.iter false k).val j)
      if v.predCmp then
        b.send { due := b.issueAt + 2, clause := 2, order := b.order, dest := .p ((v.vd + (if v.dstep then b.iter else 0)) % 8)
                 merge := .replace, xport := none
                 parts := b.cores.map (fun k =>
                   { b.vPart v k (BitVec.ofNat 1024 ((List.range (Arith.laneN b.m32)).foldl (fun n j => if test k j then n + 2 ^ j else n) 0))
                       false ((b.srcA v b.iter false k).poison || (b.srcV v v.vb b.iter false k).poison) with
                     mask := if v.pen then b.laneMask v.pen v.pinv v.pred k else 0xFFFFFFFF }) }
      else b.vecLands c b.iter 0 0 (fun k =>
        let x := b.vecSrc c b.iter false k
        (Arith.ofLanes b.m32 ((List.range (Arith.laneN b.m32)).map (fun j => if test k j then 2 ^ Arith.laneW b.m32 - 1 else 0)),
          x.1.sealed || x.2.1.sealed, x.1.poison || x.2.1.poison))))

/-- R88, R90, R118, R145: MOV copies VA, or picks lane VB mod N of VA in each lane, negated where SUB[2] and bit 7 of the pick say so; SPLAT
puts the low bits of a scalar in every lane; REVEAL copies VA as open data and counts once per issue in its tenancy. -/
def Says.MoveLanes : Prop :=
  ∀ (s : State) (i : Bid),
    (s.issues i.toNat 2 (opIs 2 14) = true → exec (.mov i) s = .next (s.issued i.toNat 2 (fun b =>
      let c := clauseOf b.cur 2
      let sub := (vClause c).sub
      b.vecLands c b.iter 0 0 (fun k =>
        let x := b.vecSrc c b.iter false k
        if sub.testBit 1 then
          (Arith.ofLanes b.m32 ((List.range (Arith.laneN b.m32)).map (fun j =>
            let p := Arith.lane b.m32 x.2.1.val j
            let y := Arith.lane b.m32 x.1.val (p % Arith.laneN b.m32)
            if sub.testBit 2 && p.testBit 7 then Arith.negL (Arith.laneW b.m32) (b.vecQ c) y else y)),
            x.1.sealed || x.2.1.sealed, x.1.poison || x.2.1.poison)
        else (x.1.val, x.1.sealed, x.1.poison))))) ∧
    (s.issues i.toNat 2 (opIs 2 15) = true → exec (.splat i) s = .next (s.issued i.toNat 2 (fun b =>
      let c := clauseOf b.cur 2
      let g := (vClause c).va + (if (vClause c).astep then b.iter else 0)
      b.vecLands c b.iter 0 0 (fun k =>
        (Arith.ofLanes b.m32 (List.replicate (Arith.laneN b.m32) ((b.getS k g).val.toNat % 2 ^ Arith.laneW b.m32)),
          (b.getS k g).sealed, false))))) ∧
    (s.issues i.toNat 2 (opIs 2 13) = true →
      let t := s.issued i.toNat 2 (fun b =>
        b.vecLands (clauseOf b.cur 2) b.iter 0 0 (fun k =>
          ((b.vecSrc (clauseOf b.cur 2) b.iter false k).1.val, false, (b.vecSrc (clauseOf b.cur 2) b.iter false k).1.poison)))
      exec (.reveal i) s = .next (match (s.braid i.toNat).iter, (s.braid i.toNat).ten with
        | 0, some n => t.modTen n (fun x => { x with reveals := x.reveals + 1 })
        | _, _ => t))

/-- Vector clauses lane by lane. -/
def Obligations.VectorLaneClauses : Prop :=
  Says.LaneClauses ∧ Says.VectorCompare ∧ Says.MoveLanes

/-- R144: BFCT takes lanes w, a, b to a + w·b and a − w·b, BFGS to a + b and (a − b)·w, in the lane pairs of SPAN, on one register pair or,
in dual form, on two. R149, R150: EPROG runs its program in every lane, E0, E1, E2 being the lanes of VA, VB, VC, and lands 4 + STEPS
cycles later. R454, R455: SGEN makes each lane from seed, stream parameters and the element index, open but for an added sealed VC. -/
def Says.ButterflyAndProgramClauses : Prop :=
  ∀ (s : State) (i : Bid),
    (∀ r ∈ ([(.bfct, 9, fun w q t a x => (Arith.addL w q a (Arith.mulL w q t x), Arith.subL w q a (Arith.mulL w q t x))),
             (.bfgs, 10, fun w q t a x => (Arith.addL w q a x, Arith.mulL w q (Arith.subL w q a x) t))] :
          List ((Bid → Instr) × Nat × (Nat → Option Nat → Nat → Nat → Nat → Nat × Nat))),
      s.issues i.toNat 2 (opIs 2 r.2.1) = true → exec (r.1 i) s = .next (s.issued i.toNat 2 (fun b =>
        let c := clauseOf b.cur 2
        let v := vClause c
        let q := some (b.limbs.getD (b.limbSel v.limb v.ladd v.lloop) 0).toNat
        let pair := fun (second : Bool) (k : Nat) =>
          let x := b.vecSrc c b.iter second k
          (butterfly b.m32 (r.2.2 (Arith.laneW b.m32) q) (v.sub / 2 % 8) x.1.val x.2.1.val x.2.2.val,
            x.1.sealed || x.2.1.sealed || x.2.2.sealed, x.1.poison || x.2.1.poison || x.2.2.poison)
        let one := fun (b : Braid) (off : Nat) (second : Bool) =>
          (b.vecLands c b.iter off 0 (fun k => ((pair second k).1.1, (pair second k).2))).vecLands c b.iter (off + 1) 0
            (fun k => ((pair second k).1.2, (pair second k).2))
        if v.dual then one (one b 0 false) 2 true else one b 0 false))) ∧
    (s.issues i.toNat 2 (opIs 2 12) = true → exec (.eprog i) s = .next (s.issued i.toNat 2 (fun b =>
      let c := clauseOf b.cur 2
      let v := vClause c
      let p := b.progs.getD v.sub { res := 0, consts := [], steps := [] }
      b.vecLands c b.iter 0 p.steps.length (fun k =>
        let x := b.vecSrc c b.iter false k
        (Arith.ofLanes b.m32 ((List.range (Arith.laneN b.m32)).map (fun j =>
          (p.steps.foldl (eStep (Arith.laneW b.m32) (fun o => (b.limbs.getD (b.limbSel v.limb v.ladd v.lloop + o) 0).toNat) p.consts)
            [Arith.lane b.m32 x.1.val j, Arith.lane b.m32 x.2.1.val j, Arith.lane b.m32 x.2.2.val j, 0, 0, 0, 0, 0]).getD p.res.toNat 0)),
          x.1.sealed || x.2.1.sealed || x.2.2.sealed, x.1.poison || x.2.1.poison || x.2.2.poison))))) ∧
    (s.issues i.toNat 2 (opIs 2 16) = true → exec (.sgen i) s = .next (s.issued i.toNat 2 (fun b =>
      let c := clauseOf b.cur 2
      let v := vClause c
      let b1 := b.vecLands c b.iter 0 0 (fun k =>
        let x := b.vecSrc c b.iter false k
        let e := b.srcV v v.va b.iter false k
        let seed := (b.getS k v.vb).val.toNat + 2 ^ 64 * (b.getS k (v.vb + 1)).val.toNat
        let par := (b.getS k (v.vb + 2)).val
        (Arith.ofLanes b.m32 ((List.range (Arith.laneN b.m32)).map (fun j =>
          Arith.sgLane b.m32 (v.sub % 4) seed (fld par 0 32) (Arith.lane b.m32 e.val j) (fld par 32 16) (fld par 48 6)
            (Arith.lane b.m32 x.2.2.val j))),
          v.sub % 4 == 1 && x.2.2.sealed, e.poison || (v.sub % 4 == 1 && x.2.2.poison)))
      { b1 with tel := { b1.tel with sgen := b1.tel.sgen + 1 } })))

/-- R151–R155: TMAC adds the exact products of a column group of VA and a row group of VB to the rows of its block 12 cycles later; TZERO
makes a tile zero and open, TRED sums its columns or rows, 8 cycles later; BCONV, in a unit without fault, writes the sum of its sources
times its constants modulo the prime or 2^w, 16 cycles and one per source later. -/
def Says.MatrixClauses : Prop :=
  ∀ (s : State) (i : Bid),
    (s.issues i.toNat 3 (opIs 3 1) = true → exec (.tmac i) s = .next (s.issued i.toNat 3 (fun b =>
      let m := mClause (clauseOf b.cur 3)
      let w := Arith.laneW b.m32
      let n := if b.m32 then 8 else 4
      let row0 := if b.m32 then 8 * (m.tblk / 8 % 2) else 4 * (m.tblk / 4 % 4)
      let col0 := if b.m32 then 4 * (m.tblk % 8) else 4 * (m.tblk % 4)
      let q := if m.ring then 0 else (b.limbs.getD (b.limbSel m.limb m.ladd m.lloop) 0).toNat
      (List.range n).foldl (fun (bb : Braid) g => bb.send
        { due := b.issueAt + 12, clause := 3, order := bb.order, dest := .row m.td (row0 + g), merge := .mac q
          xport := if m.spl == 2 && g + 1 == n then some q else none
          parts := b.cores.map (fun k =>
            let ps := (List.range (Arith.laneN b.m32)).map (fun j => if col0 ≤ j ∧ j < col0 + 4 then
              Arith.lane b.m32 (b.getV k m.va).val (n * m.qa + g) * Arith.lane b.m32 (b.getV k m.vb).val (4 * m.qb + (j - col0)) else 0)
            { core := k, val := Arith.ofLanes b.m32 (ps.map (· % 2 ^ w)), hi := Arith.ofLanes b.m32 (ps.map (· / 2 ^ w))
              mask := BitVec.ofNat 32 (15 * 2 ^ col0), full := false, sealed := (b.getV k m.va).sealed || (b.getV k m.vb).sealed
              poison := (b.getV k m.va).poison || (b.getV k m.vb).poison, addr := 0, bytes := [] }) }) b))) ∧
    (s.issues i.toNat 3 (opIs 3 2) = true → exec (.tzero i) s = .next (s.issued i.toNat 3 (fun b =>
      b.result 3 8 (.tile (mClause (clauseOf b.cur 3)).td) (b.cores.map (fun k => { wordPart k 0 false with mask := allLanes b.m32 }))))) ∧
    (s.issues i.toNat 3 (opIs 3 3) = true → exec (.tred i) s = .next (s.issued i.toNat 3 (fun b =>
      let m := mClause (clauseOf b.cur 3)
      let md := if m.ring then 2 ^ Arith.laneW b.m32 else (b.limbs.getD (b.limbSel m.limb m.ladd m.lloop) 0).toNat
      b.result 3 8 (.v m.vd) (b.cores.map (fun k =>
        { wordPart k 0 false with
          val := Arith.ofLanes b.m32 ((List.range (Arith.laneN b.m32)).map (fun j =>
            if m.axis then
              (if j < 16 then ((List.range (Arith.laneN b.m32)).map (fun x => Arith.lane b.m32 (b.getT k m.td j) x)).sum % md else 0)
            else ((List.range 16).map (fun x => Arith.lane b.m32 (b.getT k m.td x) j)).sum % md))
          mask := allLanes b.m32, sealed := (b.getTF k m.td).sealed, poison := (b.getTF k m.td).poison }))))) ∧
    (s.issues i.toNat 3 (opIs 3 4) = true → (s.braid i.toNat).bcuFlip = [] → exec (.bconv i) s = .next (s.issued i.toNat 3 (fun b =>
      let m := mClause (clauseOf b.cur 3)
      let low := if b.m32 then 2 ^ 30 else 2 ^ 60
      let md := if m.ring then 2 ^ Arith.laneW b.m32 else (b.limbs.getD (b.limbSel m.limb m.ladd m.lloop) 0).toNat
      let srcs := fun (k : Nat) => (List.range (m.scnt + 1)).map (fun x => b.getV k (m.va + x))
      let b1 := b.result 3 (17 + m.scnt) (.v m.vd) (b.cores.map (fun k =>
        { wordPart k 0 false with
          val := Arith.ofLanes b.m32 ((List.range (Arith.laneN b.m32)).map (fun j =>
            (((List.range (m.scnt + 1)).map (fun x => (Arith.lane b.m32 (b.getV k (m.va + x)).val j % low) *
                ((Sparse.get 0 b.consts ((m.cset + x / 8) * 8 + x % 8)).toNat % low))).sum +
              (if m.acc then Arith.lane b.m32 (b.getV k m.vd).val j % low else 0)) % md))
          mask := allLanes b.m32, sealed := (srcs k).any (·.sealed) || (m.acc && (b.getV k m.vd).sealed)
          poison := (srcs k).any (·.poison) || (m.acc && (b.getV k m.vd).poison) }))
      { b1 with tel := { b1.tel with bcuConv := b1.tel.bcuConv + 1 } })))

/-- Butterfly, program, generator, matrix and conversion clauses. -/
def Obligations.ButterflyMatrixClauses : Prop :=
  Says.ButterflyAndProgramClauses ∧ Says.MatrixClauses

/-- R109, R110, R120, R124: LDV, LDT and LDS read, on every core, the bytes at the effective address and put them in flight for 8 cycles
with the case of the region; with INC = 1 the address register advances by its stride. No register and no byte changes in the issue cycle;
an uncorrectable word stops the kernel from the next cycle (R171). -/
def Says.LoadClauses : Prop :=
  ∀ (s : State) (i : Bid) (r : (Bid → Instr) × Nat), r ∈ ([(.ldv, 1), (.ldt, 2), (.lds, 3)] : List ((Bid → Instr) × Nat)) →
    s.issues i.toNat 4 (opIs 4 r.2) = true →
    ∃ f : Braid → Braid, exec (r.1 i) s = .next (s.issued i.toNat 4 f) ∧
      let b := (s.braid i.toNat).opening
      let b' := f b
      let l := lClause (clauseOf b.cur 4)
      let d := l.d + (if l.dstep then b.iter else 0)
      b'.flights = b.flights ++
        [{ due := b.issueAt + 8, clause := 4, order := b.order, merge := .replace, xport := none
           dest := if r.2 = 1 then .v (d % 32) else if r.2 = 2 then .row l.td (d % 16) else .s (d % 32)
           parts := b.cores.map (fun k =>
             { core := k, val := BitVec.ofNat 1024 (b.loadValue k (b.lsAddr l k) l.unit), hi := 0, mask := b.lsMask l k
               full := r.2 == 1 && b.lsMask l k == allLanes b.m32 || r.2 == 3 && b.lsMask l k == 1
               sealed := b.sealedAt (b.lsAddr l k), poison := false, addr := b.lsAddr l k, bytes := [] }) }] ++
        (if l.inc then
          [{ due := b.issueAt + 1, clause := 4, order := b.order + 1, dest := .aOffset l.areg, merge := .replace, xport := none
             parts := b.cores.map (fun k => wordPart k ((b.getA k l.areg).adv (b.getA k l.areg).step).toNat false) }] else []) ∧
      b'.s = b.s ∧ b'.a = b.a ∧ b'.v = b.v ∧ b'.t = b.t ∧ b'.p = b.p ∧ b'.sp = b.sp ∧ b'.sealMap = b.sealMap ∧
      (b.ecc2 = [] → b'.stop = b.stop) ∧
      ((∃ k ∈ b.cores, ∃ w ∈ wordsOf k (b.lsAddr l k) l.unit, w ∈ b.ecc2) → b.stop = none →
        b'.stop = some { status := 0x50, pc := b.pc, clause := 4 })

/-- R110, R120, R124, R170: STV, STT and STS put the bytes of the selected lanes of their source in flight for 8 cycles on every core; the
scratchpad itself does not change in the issue cycle, and neither does a register but by a later advance of the address register. Said for
scratchpads without an uncorrectable word. -/
def Says.StoreClauses : Prop :=
  ∀ (s : State) (i : Bid) (r : (Bid → Instr) × Nat), r ∈ ([(.stv, 1), (.stt, 2), (.sts, 3)] : List ((Bid → Instr) × Nat)) →
    s.issues i.toNat 5 (opIs 5 r.2) = true → (s.braid i.toNat).ecc2 = [] →
    ∃ f : Braid → Braid, exec (r.1 i) s = .next (s.issued i.toNat 5 f) ∧
      let b := (s.braid i.toNat).opening
      let b' := f b
      let l := lClause (clauseOf b.cur 5)
      let d := l.d + (if l.dstep then b.iter else 0)
      b'.flights = b.flights ++
        [{ due := b.issueAt + 8, clause := 5, order := b.order, dest := .mem, merge := .replace, xport := none
           parts := b.cores.map (fun k =>
             { wordPart k 0 false with addr := b.lsAddr l k, poison := (b.storeSource l d k).2 && !(b.storeBytes l d k).isEmpty, bytes := b.storeBytes l d k }) }] ++
        (if l.inc then
          [{ due := b.issueAt + 1, clause := 5, order := b.order + 1, dest := .aOffset l.areg, merge := .replace, xport := none
             parts := b.cores.map (fun k => wordPart k ((b.getA k l.areg).adv (b.getA k l.areg).step).toNat false) }] else []) ∧
      b'.s = b.s ∧ b'.a = b.a ∧ b'.v = b.v ∧ b'.t = b.t ∧ b'.p = b.p ∧ b'.sp = b.sp ∧ b'.sealMap = b.sealMap ∧ b'.stop = b.stop

/-- Load and store clauses. -/
def Obligations.MemoryClauses : Prop :=
  Says.LoadClauses ∧ Says.StoreClauses

/-- FRAME OF A CLAUSE (R106). Whatever comes of a clause, no other braid changes, and outside the braids nothing changes but multicast groups,
interrupt sources, what the hazard watch logs and, for REVEAL, the count of reveals of one tenancy: device memory, tenancies, windows, splices and the fuses are as they were. -/
def Obligations.ClauseFrame : Prop :=
  ∀ (s t : State) (i : Bid), s.tablesOk = true →
    (∀ c : Instr, c ∈ clauseCmds.map (fun r => r.1 i) ∨ c = .swait i → exec c s = .next t →
      s.sameOutside t ∧ ∀ j, j ≠ i.toNat → t.braid j = s.braid j) ∧
    (exec (.reveal i) s = .next t →
      (t.tens = s.tens ∨ ∃ n : Tid, t.tens = (s.modTen n (fun x => { x with reveals := x.reveals + 1 })).tens) ∧
        s.sameOutside { t with tens := s.tens } ∧ ∀ j, j ≠ i.toNat → t.braid j = s.braid j)

/-- R126, R127: when a clause due in a braid cycle fails a check, none of that cycle issues. The kernel stops with the status of the first
failing clause, and SEQ_FAULT records that status, the PC and the clause number. -/
def Obligations.FailedCheckStops : Prop :=
  ∀ (s : State) (i : Bid) (r : (Bid → Instr) × Nat × (BitVec 96 → Bool)) (st : Byte) (m : Nat), r ∈ clauseCmds →
    let b := s.braid i.toNat
    s.live = true → b.canIssue = true → b.todo.head? = some r.2.1 → r.2.2 (clauseOf b.cur r.2.1) = true → b.exportHeld = false →
    b.issued = [] → b.failing = some (st, m) →
    exec (r.1 i) s = .next (s.afterBraid i.toNat
      { b with phase := .stopped, stop := some { status := st, pc := b.pc, clause := BitVec.ofNat 3 m }, faultAt := b.faultPlace m st
               tel := { b.tel with fault := { status := st, pc := b.pc, clause := BitVec.ofNat 3 m } } })

/-! ## Landings, drains and wipes -/

/-- R124, R220: RESULT_LANDING lands everything due in the earliest due cycle, once the braid's clock may reach it; issue that waits for the
landing waits until then. A scalar result that lands alone is its register's value and case on every core. -/
def Says.ResultLands : Prop :=
  (∀ (s : State) (i : Bid) (d : Nat), s.live = true →
    let b := s.braid i.toNat
    b.nextDue = some d → b.mayLand d = true →
    exec (.resultLanding i) s = .next (s.afterBraid i.toNat ((b.land i.toNat d).holdTo d))) ∧
  (∀ (b : Braid) (i d r n o : Nat) (val : Nat → Nat) (sealed : Nat → Bool), r < 32 → b.weave = none →
    b.flights = [{ due := d, clause := n, order := o, dest := .s r, merge := .replace, xport := none
                   parts := b.cores.map (fun k => wordPart k (val k) (sealed k)) }] →
    (b.land i d).flights = [] ∧
    (b.land i d).s = b.cores.foldl (fun m k => Sparse.set SReg.init m (k * 32 + r) { val := BitVec.ofNat 64 (val k), sealed := sealed k }) b.s)

/-- R177–R179: a WEAVE that meets no uncorrectable word reads its source runs in its cycle and puts the exchange in flight for 24 + B cycles, 24 + 2B in fold
mode; WEAVE_LANDING writes every byte of it. -/
def Says.WeaveExchanges : Prop :=
  (∀ (s : State) (i : Bid), s.issues i.toNat 0 (opIs 0 6) = true → (s.braid i.toNat).ecc2 = [] →
    ∃ f : Braid → Braid, exec (.weave i) s = .next (s.issued i.toNat 0 f) ∧
      let b := (s.braid i.toNat).opening
      let c := clauseOf b.cur 0
      let n := fld c 40 10 + 1
      (f b).weave = some
        { due := b.issueAt + 24 + (if b.fold then 2 * n else n), issuedAt := b.issueAt, pc := b.pc
          runs := (b.weavePlan c).map (fun x =>
            { core := x.dst, addr := x.da, step := weaveStepOf b.m32 c
              data := chunks (if b.m32 then 4 else 8) x.n ((List.range x.n).map (fun k => b.weaveByte x.src (x.sa + k))) }) } ∧
      (f b).sp = b.sp ∧ (f b).flights = b.flights ∧ (f b).s = b.s ∧ (f b).v = b.v ∧ (f b).stop = b.stop) ∧
  (∀ (s : State) (i : Bid) (w : WeaveFlight), s.live = true →
    let b := s.braid i.toNat
    b.weave = some w → b.flights = [] → b.clear = [] → b.ecc2 = [] → b.mayReach w.due = true →
    ∃ b' : Braid, exec (.weaveLanding i) s = .next (s.afterBraid i.toNat b') ∧ b'.weave = none ∧
      b'.sp = ((b.weaveBytes w).foldl (fun (x : Braid) y => x.putByte y.1 y.2.1 y.2.2) b).sp ∧ b'.s = b.s ∧ b'.v = b.v ∧ b'.sealMap = b.sealMap)

/-- Results in flight land. -/
def Obligations.ResultsLand : Prop :=
  Says.ResultLands ∧ Says.WeaveExchanges

/-- R129, R132, R175, R176, R80: the drain at a hitch point ends with the braid issuing again, or its issue ended where the kernel ends there, and
the hitch point and its drain counted; a finished
clearing leaves its region zero with fresh ECC and, unless a SEAL asked to keep it sealed, open; the context-switch wipe leaves every
scratchpad zero and open and every register zero and open. -/
def Obligations.DrainsAndWipesEnd : Prop :=
  ∀ (s : State) (i : Bid),
    let b := s.braid i.toNat
    (s.live = true → b.drained = true → b.pllUp = true → b.linkDown = false → b.passDue = false → b.preempt = none →
      exec (.hitchDrainEnd i) s = .next (s.afterBraid i.toNat (
        let x := b.advanceTo b.drainEnd
        let y := { x with cycle := b.drainEnd
                          tel := { x.tel with hitch := b.tel.hitch + ((if b.hitchReq then 1 else 0) + (if b.atEnd then 1 else 0))
                                              drain := b.tel.drain + BitVec.ofNat 32 (b.drainEnd - b.drainAt) } }
        if b.atEnd then { y with phase := .ended }
        else Braid.settle settleFuel
          { y with phase := .issuing, hitchReq := false, pass := false, mark := { pc := b.pc, loops := b.loops, lcs := b.lcs } }))) ∧
    (∀ (k : BitVec 4) (c : Clearing) (q : List Clearing), s.live = true → Sparse.get [] b.clear k.toNat = c :: q →
      ∃ b' : Braid, exec (.sealClearingDone i k) s = .next ((s.afterBraid i.toNat b').noteStalls) ∧
        b'.sp = b.sp.filter (fun e => e.1 % 2 ^ 18 / 4096 != c.region) ∧
        b'.sealMap = (if c.keep then b.sealMap else b.sealMap &&& ~~~(BitVec.ofNat 64 (2 ^ c.region))) ∧
        b'.clear = Sparse.set [] b.clear k.toNat q ∧ b'.s = b.s ∧ b'.v = b.v ∧ b'.t = b.t) ∧
    (s.live = true → b.phase = .wiping → b.pllUp = true →
      exec (.scratchpadWipeDone i) s = .next (s.setBraid i.toNat
        { b with s := [], a := [], v := [], t := [], tf := [], p := [], pp := [], sp := [], spPoison := [], written := [], ecc1 := [], ecc2 := []
                 sealMap := 0, clear := [], phase := .loading }))

/-! ## Stream rings and key pages -/

/-- R206–R209, R212, R242: a transfer begins by taking the slot at TAIL, which is then in flight, and TAIL advances; its last byte moves the slot, on
the engine's side, to full, or to free on a drain; a crossing carries the change to the other side; a waiting key ring is disarmed when its
hold ends. -/
def Says.SlotsChangeHands : Prop :=
  ∀ (s : State) (i : Bid) (r : Rid), s.live = true →
    let b := s.braid i.toNat
    let q := b.ring r.toNat
    (∀ c : List (BitVec 512) × Bool, b.mayStart r.toNat = true → (q.kind = 0 ∨ q.kind = 1 ∨ q.kind = 5) → q.collect 17 q.next = some c →
      s.checkXfer b (b.ten.getD 0) q (c.1.map (q.slice (q.tail.toNat % q.size))) c.2 = none →
      exec (.slotTransferStart i r) s = .next ((s.setBraid i.toNat (b.setRing r.toNat
        { q with slots := q.slots.set (q.tail.toNat % q.size) { braid := .inflight, engine := .inflight }, tail := q.tail + 1
                 xfer := some { slot := q.tail.toNat % q.size, descs := c.1, first := q.next, data := c.1.any (fun d => d.getLsbD 14), slice := 0
                                elem := 0, wait := .run, cover := [], banks := [] } })).moveOn i.toNat r.toNat)) ∧
    (∀ x : Xfer, q.xfer = some x → x.wait = .done →
      exec (.slotTransferDone i r) s = .next (s.afterBraid i.toNat (b.setRing r.toNat (
        let y := { q with xfer := none
                          slots := q.slots.set x.slot ⟨.inflight, if q.kind = 1 ∨ q.rearm ∨ b.phase = SeqPhase.ended then .free else .full⟩ }
        if q.rearm then y else y.advance (if q.kind = 3 then 1 else x.descs.length))))) ∧
    (q.armed = true → exec (.slotCrossing i r) s = .next (s.afterBraid i.toNat (b.setRing r.toNat
      { q with slots := q.slots.map (fun k =>
          if k.braid = .inflight then { k with braid := k.engine } else { k with engine := k.braid }) }))) ∧
    (q.armed = true → q.rearm = true → q.kind = 2 → exec (.affinityHoldExpiry i r) s =
      .next (s.afterBraid i.toNat (b.setRing r.toNat { Ring.init with stall := q.stall })))

/-- R168, R169, R212, R223: an access that waits for a bank takes place once no clause of the cycle in issue touches the bank and it is the engine's
with no clearing in it, and waits on otherwise; a burst
reads up to 16 descriptors of an open, mapped program into the ring's cache; a halted stream goes on from the element that faulted once
its pages take writes. -/
def Says.StreamsGoOn : Prop :=
  ∀ (s : State) (i : Bid) (r : Rid), s.live = true →
    let b := s.braid i.toNat
    let q := b.ring r.toNat
    let n := b.ten.getD 0
    (∀ x : Xfer, q.xfer = some x → q.kind ≠ 2 → b.dmaWait? (b.waitAddrs r.toNat x) = none →
      let t := s.setBraid i.toNat (b.setRing r.toNat { q with xfer := some { x with wait := .run } })
      (x.wait = .deferred → exec (.deferredDmaAccess i r) s = .next (t.moveOn i.toNat r.toNat).noteStalls) ∧
      (x.wait = .owner → b.phase = .issuing → exec (.deferredDmaAccess i r) s = .next (t.moveOn i.toNat r.toNat).noteStalls)) ∧
    (∀ (x : Xfer) (w : XferWait), q.xfer = some x → q.kind ≠ 2 → (x.wait = .deferred ∨ x.wait = .owner) →
      b.dmaWait? (b.waitAddrs r.toNat x) = some w →
      exec (.deferredDmaAccess i r) s = .next (s.holdXfer i.toNat r.toNat w (b.waitAddrs r.toNat x))) ∧
    (∀ (b : Braid) (addrs : List Nat), b.dmaWait? addrs = none →
      ∀ a ∈ addrs, b.bankMap.getLsbD (a / 2 ^ 18 % 16) = true → a < 2 ^ 22 → a / 2 ^ 18 ∉ b.busyBanks ∧ Sparse.get [] b.clear (a / 2 ^ 18) = []) ∧
    (∀ k : Nat, q.armed = true → q.rearm = false → (q.kind = 0 ∨ q.kind = 1 ∨ q.kind = 5) → b.phase ≠ .stopped → q.burst = some k →
      let len := Nat.min 16 (q.progLen - k)
      s.anyUnmapped n (q.prog + 64 * k) (64 * len) = false → s.anySealedPage n (q.prog + 64 * k) (64 * len) = false →
      (s.readMem n (q.prog + 64 * k) (64 * len)).2.2 = false →
      let t := (s.readMem n (q.prog + 64 * k) (64 * len)).1
      let ds := (chunks 64 len (s.readMem n (q.prog + 64 * k) (64 * len)).2.1).map (fun l => BitVec.ofNat 512 (leNat l))
      exec (.descriptorBurstFetch i r) s = .next (t.modBraid i.toNat (fun b' =>
        let y := b'.ring r.toNat
        b'.setRing r.toNat (if (y.desc y.next).isNone then { y with cache := ds, cacheAt := k }
          else { y with cache := y.cache.drop (y.next - y.cacheAt) ++ ds, cacheAt := y.next })))) ∧
    (q.armed = true → q.halted = true → q.xfer.isSome = true →
      (∀ p ∈ q.haltPages, s.mem.backing.any (fun x => x.ten == n && x.page == p) = false ∧ s.migBlocked n p = false) →
      exec (.streamResume i r) s = .next ((s.setBraid i.toNat (b.setRing r.toNat { q with halted := false })).moveOn i.toNat r.toNat))

/-- Stream rings. -/
def Obligations.RingsMoveOn : Prop :=
  Says.SlotsChangeHands ∧ Says.StreamsGoOn

/-- R231–R237, R239, R240: a group starts once every member has armed its ring; the read of its next page takes each member's slot at TAIL and, where
object header and page header pass their checks, holds the page's digit, position and address; the page's end, with every bank the engine's and the
checksum right, delivers its halves to every member, the second half expanded from the seed in a seeded page. -/
def Obligations.KeyPagesAreDelivered : Prop :=
  ∀ (s : State) (id : Nat) (g : Group), s.live = true → s.group id = some g →
    let c := ((s.ten g.ten).chain g.chain.toNat).getD ringChain
    (g.started = false → (∀ m ∈ g.members, m.armed = true) →
      exec (.multicastGroupStart id) s = .next (s.modGroup id (fun g => { g with started := true })).noteStalls) ∧
    (∀ kt : Nat, s.groupReady g = true → s.keyTva g = some kt → (s.takeSlots g).anyUnmapped g.ten kt 64 = false →
      let dj := pageAt c g.level g.order g.page
      let o := (s.takeSlots g).readMem g.ten kt 64
      let oh : BitVec 512 := BitVec.ofNat 512 (leNat o.2.1)
      let tva := keyPageTva oh c dj.1 dj.2
      let h := o.1.readMem g.ten tva 128
      o.2.2 = false → o.1.anyUnmapped g.ten tva 128 = false → h.2.2 = false → h.1.keyCheck g oh h.2.1 dj.1 dj.2 = none →
      (h.1.anySealedPage g.ten tva (4096 + 2 ^ c.log2n * c.w8 * (if hSeeded oh then 1 else 2)) = true → ∀ m ∈ g.members, h.1.slotOpen m = false) →
      exec (.keyPageReadStart id) s = .next (h.1.modGroup id (fun g =>
        { g with read := some { digit := dj.1, pos := dj.2, tva := BitVec.ofNat 48 tva, hdr := h.2.1 } }))) ∧
    (∀ k : KeyRead, g.read = some k → (∀ m ∈ g.members, s.memberWait m = none) →
      let half := 2 ^ c.log2n * c.w8
      let seeded := kp k.hdr 0 63 1 == 1
      let len := half * (if kp k.hdr 0 63 1 = 1 then 1 else 2)
      let r := s.readMem g.ten (k.tva.toNat + 4096) len
      let ex := if seeded then expandSeed k.hdr c else ([], 0)
      s.anyUnmapped g.ten (k.tva.toNat + 4096) len = false → r.2.2 = false → cksumOk k.hdr r.2.1 = true →
      exec (.keyPageDone id) s = .next ((r.1.modLan g.hw (fun l => { l with reads := l.reads + 1 })).keyDeliver id g seeded ex.2
        (r.2.1.take half) (if seeded then ex.1.flatMap (leBytes c.w8) else r.2.1.drop half) (passLen c g.level)))

/-! ## Host queues -/

/-- R323, R369, R370: a command of the pool that fails a check common to every command is refused whole with ABORTED and the detail of the lowest
failing check, and has none of its effect; an authenticated one draws a fresh nonce (R406). -/
def Says.RefusedWhole : Prop :=
  ∀ (s : State) (e d : Nat) (buf : HostBuf) (t : Token) (r : (Nat → HostBuf → Instr) × (BitVec 512 → Bool)),
    (r ∈ poolCmds ∨ (r ∈ secCmds ∧ s.secUp = true ∧ (cmdAuth t.cmd = true → s.lcs.wait = none))) →
    s.tok e = some t → s.canStart t = true → r.2 t.cmd = true → s.cmdCheck t.fn t.cmd t.badDep t.id = some d →
    exec (r.1 e buf) s = .next ((s.afterAuth t.cmd).finishAt e { status := 0x40, detail := BitVec.ofNat 8 d, position := 0, value := 0 } [] 0 0)

/-- R35, R319, R366, R501: an entry that ends is RETIRING with its completion, and its completion joins those that may be written, in the order in
which they reach that state; a failing status is logged as TOKEN_FAIL. Tokens that become READY by it note the braid their keys favour (R42).
Said of a tenancy that is not mirrored, orphaned or wiped; nothing else changes. -/
def Says.EntryRetires : Prop :=
  ∀ (s : State) (e : Nat) (t : Token) (c : Comp), s.tok e = some t → t.st ≠ .retiring →
    (s.ten t.ten).mirrored = false → (s.ten t.ten).st ≠ .orphaned → (s.ten t.ten).closing = none →
    let s1 := s.modTok e (fun _ => { t with st := .retiring, comp := c, held := false })
    s.finish e c = State.noteReady (
      if c.status = 0x00 ∨ c.status = 0x01 then { s1 with sch := { s1.sch with order := s1.sch.order ++ [e] } }
      else
        let s2 := s1.log Dom.sched 2 cleatDie 0x10 c.status (some t.ten)
          [t.fn.setWidth 64, put 0 2 t.ring.toNat ||| put 32 32 t.seq.toNat, t.set.setWidth 64, 0, 0]
        { s2 with sch := { s2.sch with order := s2.sch.order ++ [e] } })

/-- R365: BARRIER completes with OK when its dependencies are satisfied. -/
def Says.BarrierCompletes : Prop :=
  ∀ (s : State) (e : Nat) (t : Token), s.starts e (selOp 0x02) t = true →
    exec (.barrier e) s = .next ((s.begun t).finish e { status := 0, detail := 0, position := 0, value := 0 })

/-- How commands of the host end. -/
def Obligations.CommandsEndOrRefuse : Prop :=
  Says.RefusedWhole ∧ Says.EntryRetires ∧ Says.BarrierCompletes

/-- R363, R367, R368: a doorbell write sets TAIL, and sets ERR when the value is at or above the ring's size; enabling a command
ring sets HEAD and TAIL to 0 and clears ERR; enabling the completion ring starts it empty with PHASE 1; a write of the completion
ring's HEAD frees the entries up to it. Only the registers of that ring change. -/
def Obligations.RingRegisterWrites : Prop :=
  ∀ (s : State) (f : Fn) (q : BitVec 2) (v : W64), s.hqUp = true →
    let r := s.sq f q
    let x := s.fn f
    let c := x.cq
    exec (.sqTailWrite f q v) s = .next (s.setSq f q
      { r with tail := BitVec.ofNat 16 (fld v 0 16), err := r.err || decide (2 ^ r.log2size.toNat ≤ fld v 0 16) }) ∧
    (v.getLsbD 0 = true → r.en = false → exec (.sqCfgWrite f q v) s = .next (s.setSq f q
      { r with en := true, log2size := BitVec.ofNat 5 (fld v 8 5), head := 0, tail := 0, err := false })) ∧
    (r.en = true → exec (.sqCfgWrite f q v) s = .next (s.setSq f q { r with en := v.getLsbD 0 })) ∧
    (v.getLsbD 0 = false → r.en = false → exec (.sqCfgWrite f q v) s = .next (s.setSq f q { r with log2size := BitVec.ofNat 5 (fld v 8 5) })) ∧
    (v.getLsbD 0 = true → c.en = false → exec (.cqCfgWrite f v) s = .next (s.setFn f { x with cq :=
      { c with en := true, log2size := BitVec.ofNat 5 (fld v 8 5), coalesce := BitVec.ofNat 8 (fld v 16 8)
               delay := BitVec.ofNat 16 (fld v 24 16), head := 0, tail := 0, phase := true, used := 0 } })) ∧
    (v.getLsbD 0 = false → c.en = false → exec (.cqCfgWrite f v) s = .next (s.setFn f { x with cq :=
      { c with log2size := BitVec.ofNat 5 (fld v 8 5), coalesce := BitVec.ofNat 8 (fld v 16 8), delay := BitVec.ofNat 16 (fld v 24 16) } })) ∧
    (c.en = true → exec (.cqCfgWrite f v) s = .next (s.setFn f { x with cq :=
      { c with en := v.getLsbD 0, coalesce := BitVec.ofNat 8 (fld v 16 8), delay := BitVec.ofNat 16 (fld v 24 16) } })) ∧
    (exec (.cqHeadWrite f v) s = .next (s.setFn f { x with cq :=
      { c with head := BitVec.ofNat 16 (fld v 0 16)
               used := c.used - Nat.min ((fld v 0 16 + c.size - c.head.toNat % c.size) % c.size) c.used } }))

/-- R321, R324, R363–R365: a fetch serves the ring whose turn it is and takes the commands in their order. Each takes the next SEQ of its ring, moves
HEAD on, and joins the ring's history; a KERNEL command waits to become tokens, another known command that is no security service takes an entry of
the pool. -/
def Says.FetchTakesCommands : Prop :=
  (∀ (s : State) (f : Fn) (q : BitVec 2) (cs : List (BitVec 512)), s.canFetch f q cs.length = true →
    exec (.commandFetch f q cs) s = .next (cs.foldl (fun t c => t.arrive f q c)
      { s with sch := { s.sch with rr := (4 * f.toNat + q.toNat + 1) % 128 } })) ∧
  (∀ (s : State) (f : Fn) (q : BitVec 2) (c : BitVec 512),
    let r := s.sq f q
    let id := s.sch.nextCmd
    let s1 := s.setSq f q { r with seq := r.seq + 1, hist := ((id, cmdTen c) :: r.hist).take 4095
                                   head := BitVec.ofNat 16 ((r.head.toNat + 1) % r.size) }
    (cmdOpcode c = 0x01 → s.arrive f q c = { s1 with sch := { s1.sch with
      nextCmd := id + 1
      fetched := s1.sch.fetched ++ [{ cmdId := id, fn := f, ring := q, seq := r.seq, seqgen := r.seqgen, cmd := c
                                      deps := (resolveDeps r.hist c).1, badDep := (resolveDeps r.hist c).2 }] } }) ∧
    (cmdOpcode c ≠ 0x01 → cmdOpcode c ≠ 0x40 → cmdKnown c = true → s.arrive f q c = { s1 with sch := { s1.sch with
      nextCmd := id + 1, nextId := s.sch.nextId + 1
      pool := s1.sch.pool ++ [entryOf s.sch.nextId id f q r c (resolveDeps r.hist c)] } }))

/-- R366, R367: with the completion ring enabled and room in it, COMPLETION_WRITE sends the 32 bytes of the function's next completion to its
place in the ring, advances TAIL, turns PHASE at the end of the ring, and frees the entry, kept until the host acknowledges it (R476); the ring's interrupt is raised after COALESCE completions.
COMPLETION_DELAY_EXPIRY raises it for those not counted yet. -/
def Says.CompletionsAreWritten : Prop :=
  ∀ (s : State) (f : Fn),
    let x := s.fn f
    let q := x.cq
    (∀ t : Token, q.en = true → q.used < q.size →
      (s.sch.order.filterMap s.tok).find? (fun t => t.cfn == f && s.mayWrite t && !s.closeWaits t) = some t →
      let last := decide (q.size ≤ q.tail.toNat + 1)
      exec (.completionWrite f) s = .next
        (((((s.emit (.completion f (BitVec.ofNat 64 (q.base.toNat * 4096 + 32 * q.tail.toNat)) (completionBytes t q.phase))).setFn f
          { x with cq := { q with tail := if last then 0 else q.tail + 1, phase := if last then !q.phase else q.phase
                                  used := q.used + 1, since := q.since + 1 } }).keepUnacked f (s.unackedOf f ++ [t])).freeEntry t.id).coalesce f)) ∧
    (s.hqUp = true → q.delay ≠ 0 → 0 < q.since → exec (.completionDelayExpiry f) s =
      .next ((s.setFn f { x with cq := { q with since := 0 } }).raise (0x100 + f.toNat)))

/-- Fetches and completions. -/
def Obligations.QueueTraffic : Prop :=
  Says.FetchTakesCommands ∧ Says.CompletionsAreWritten

/-- R353, R355: entering and leaving D3hot stops and allows the fetching of a function's commands and changes nothing else, and of a bulk port its own mode; an
AtomicOp or I/O request is answered with Unsupported Request, and whether it raises the port's error source (R493) is free (log 105); a margin request on a lane of a link that is up returns a report, or an error count, a free
value (log 7), and leaves the link as it is. -/
def Obligations.PortEvents : Prop :=
  ∀ (s : State), s.pins.powered = true →
    (∀ f : Fn, exec (.d3hotEntry (.ctrl f)) s = .next (s.setFn f { s.fn f with d3hot := true }) ∧
      exec (.d3hotExit (.ctrl f)) s = .next (s.setFn f { s.fn f with d3hot := false })) ∧
    (∀ p : Port, exec (.d3hotEntry (.bulk p)) s = .next (s.setPort p { s.port p with d3hot := true }) ∧
      exec (.d3hotExit (.bulk p)) s = .next (s.setPort p { s.port p with d3hot := false })) ∧
    (∀ p : PcieFn, ∃ t, exec (.unsupportedRequest p) s = .next t ∧ t.out = s.out ++ [Out.unsupported] ∧
      (t = { s with out := s.out ++ [Out.unsupported], draws := s.draws + 1 } ∨
        t = { s with out := s.out ++ [Out.unsupported], draws := s.draws + 1 }.raise (0x340 + pcieNum p.port))) ∧
    (∀ m : MarginPoint, s.linkUp m.port = true → m.lane.toNat < s.lanes m.port →
      (∀ r, m.report = some r → exec (.laneMargining m) s = .next { s with out := s.out ++ [.readData (marginReport r)] }) ∧
      (m.report = none → m.step.toNat ≤ (if m.voltage then 64 else 32) →
        exec (.laneMargining m) s = .next { s with draws := s.draws + 1, out := s.out ++ [.readData (Config.free s.draws)] })) ∧
    marginReport .timingSteps = 32 ∧ marginReport .timingRange = 40 ∧ marginReport .voltageSteps = 64 ∧ marginReport .voltageRange = 30

/-! ## Interrupts -/

/-- R495, R496, R498: a claim takes, of the deliverable sources of the target, the one of highest PRIO and among those of lowest identity, makes it ACTIVE and puts
it on the target's stack; with none deliverable it reads 0x7FF and counts as spurious. A withdrawal clears PENDING of an event source. -/
def Says.Claims : Prop :=
  ∀ (s : State) (t : BitVec 8), s.live = true → isTarget t.toNat = true → s.tablesOk = true →
    let g := s.tgt t.toNat
    (s.deliverables t.toNat ≠ [] → ∃ i ∈ s.deliverables t.toNat,
      (∀ j ∈ s.deliverables t.toNat, (s.srcCfg j).prio.toNat < (s.srcCfg i).prio.toNat ∨ ((s.srcCfg j).prio = (s.srcCfg i).prio ∧ i ≤ j)) ∧
      exec (.interruptClaim t) s = .next
        ((((s.setSrc i { s.src i with pending := false, active := true }).setTgt t.toNat
          { g with stack := ((s.srcCfg i).prio, BitVec.ofNat 11 i) :: g.stack, claims := g.claims + 1, sent := false }).emit
            (.readData (BitVec.ofNat 64 i))))) ∧
    (s.deliverables t.toNat = [] → exec (.interruptClaim t) s = .next
      ((s.setTgt t.toNat { g with spurious := BitVec.ofNat 16 (min (g.spurious.toNat + 1) 65535), sent := false }).emit (.readData 0x7FF))) ∧
    (∀ (i : BitVec 11), isLevel i.toNat = false → (s.src i.toNat).pending = true →
      exec (.interruptWithdraw i) s = .next (s.setSrc i.toNat { s.src i.toNat with pending := false }))

/-- R493, R500: in automatic mode an MSI-X message claims before it goes, one outstanding at most, and its acknowledgement ends that interrupt; in
manual mode one message goes and the claim is left to software. A target lock locks every TARGET. -/
def Says.MessagesClaim : Prop :=
  ∀ (s : State) (t : BitVec 6), s.live = true →
    let g := s.tgt t.toNat
    (s.ready .ctrl = true → g.masked = false → s.deliverables t.toNat ≠ [] → s.autoMode t.toNat = true → g.claimed = none →
      let r := s.claim t.toNat
      exec (.msixMessageSend t) s = .next
        ((r.2.setTgt t.toNat { r.2.tgt t.toNat with claimed := some (BitVec.ofNat 11 r.1) }).emit (.msix t.toNat))) ∧
    (s.ready .ctrl = true → g.masked = false → s.deliverables t.toNat ≠ [] → s.autoMode t.toNat = false → g.sent = false →
      exec (.msixMessageSend t) s = .next ((s.setTgt t.toNat { g with sent := true }).emit (.msix t.toNat))) ∧
    (∀ id : BitVec 11, g.claimed = some id →
      exec (.msixTlpAck t) s = .next ((s.setTgt t.toNat { g with claimed := none }).eoi t.toNat id.toNat)) ∧
    exec .targetLock s = .next { s with ic := { s.ic with lock := true } }

/-- Claims, withdrawals and messages. -/
def Obligations.ClaimsAndMessages : Prop :=
  Says.Claims ∧ Says.MessagesClaim

/-- R497: an end of interrupt that names the identity at the top of the target's stack pops it and clears the source's ACTIVE bit. Any other,
and one on an empty stack, is ignored, and BADEOI counts it. -/
def Obligations.EndOfInterrupt : Prop :=
  ∀ (s : State) (t : BitVec 8) (id : BitVec 11), s.live = true →
    let g := s.tgt t.toNat
    (∀ (p : BitVec 4) (rest : List (BitVec 4 × BitVec 11)), g.stack = (p, id) :: rest →
      exec (.endOfInterrupt t id) s = .next
        ((s.setTgt t.toNat { g with stack := rest }).setSrc id.toNat { s.src id.toNat with active := false })) ∧
    ((g.stack.head?).map Prod.snd ≠ some id →
      exec (.endOfInterrupt t id) s = .next (s.setTgt t.toNat { g with badEoi := BitVec.ofNat 16 (min (g.badEoi.toNat + 1) 65535) }))

/-! ## Device memory -/

/-- R254, R266, R372: MAP maps an unmapped range whole, refused with 0x0A when a page of it is mapped; UNMAP makes a mapped range that no window lies over
UNMAPPED, and an ALLOC that waits for one of them goes on; FREE frees the backed pages and counts them; PIN changes the pages whose PIN differs; each completes with the number of
pages it changed. -/
def Says.PageCommands : Prop :=
  ∀ (s : State) (e : Nat) (t : Token),
    let n := t.ten
    let u := t.begun
    let b := s.begun t
    (s.pageCmd e 0x20 t = true → (∀ k ∈ t.pgList, (b.pte n k).state = .unmapped) →
      exec (.map e) s = .next ((t.pgList.foldl (fun s k => s.setPte n k { Pte.init with
        state := .mapped, sealed := t.bodyBit 12 0, pref := t.bodyBit 12 1, home := t.bodyBit 12 2, pin := t.bodyBit 12 3
        homeft := t.bodyBit 12 4 }) b).pgEnd u 0x00 0 t.pgCount)) ∧
    (s.pageCmd e 0x20 t = true → (∃ k ∈ t.pgList, (b.pte n k).state ≠ .unmapped) → exec (.map e) s = .next (b.pgEnd u 0x40 0x0A 0)) ∧
    (s.pageCmd e 0x22 t = true → (∀ k ∈ t.pgList, (b.pte n k).state ≠ .unmapped) →
      let ps := t.pgList.filter (fun k => (b.pte n k).backed)
      exec (.free e) s = .next (((ps.foldl (fun s k => s.freePage n k) b).pgEnd u 0x00 0 ps.length).runHeld)) ∧
    (s.pageCmd e 0x23 t = true → (∀ k ∈ t.pgList, (b.pte n k).state ≠ .unmapped) →
      b.windowOver n t.pgTva (2 ^ 21 * t.pgCount) = false →
      exec (.unmap e) s = .next (((t.pgList.foldl (fun s k => s.unmapPage n k) b).pgEnd u 0x00 0 t.pgCount).allocAll n)) ∧
    (∀ k : Nat, s.pageCmd e 0x24 t = true → t.pgList = [k] → (b.pte n k).state ≠ .unmapped → (b.pte n k).pin ≠ t.bodyBit 12 0 →
      (t.bodyBit 12 0 = true → (b.pte n k).backed = true → (b.pte n k).bulk = true → ((b.ten n).book false).avail ≠ 0) →
      exec (.pin e) s = .next ((b.setPte n k { b.pte n k with pin := t.bodyBit 12 0 }).pgEnd u 0x00 0 1))

/-- R257, R372: ALLOC of one mapped page with quota and a frame charges the quota and starts its backing in the tier named, with the home hawser
named; the command waits for it, no page being counted before it is backed. With every page of the range backed it completes at once. With no quota it ends with 0x22. -/
def Says.AllocBacksPages : Prop :=
  ∀ (s : State) (e k : Nat) (t : Token),
    let n := t.ten
    let u := t.begun
    let b := s.begun t
    let bulk := t.bodyBit 12 0
    let home := t.bodyBit 12 1
    let p := b.pte n k
    s.pageCmd e 0x21 t = true → t.pgList = [k] → b.tierFitted bulk = true → b.tierOpen bulk = true →
    (p.state = .mapped → b.mem.backing = [] → ((b.ten n).book bulk).avail ≠ 0 → b.tierHasFrame bulk = true →
      exec (.alloc e) s = .next ((b.startBacking n k home bulk home (some t.id)).modTok
        t.id (fun x => { x with comp := { x.comp with detail := 1, position := 0, value := 0 } }))) ∧
    (p.backed = true → exec (.alloc e) s = .next (b.pgEnd u 0x00 0 0)) ∧
    (p.state = .mapped → b.mem.backing = [] → ((b.ten n).book bulk).avail = 0 → exec (.alloc e) s = .next (b.pgEnd u 0x22 0 0))

/-- Page commands. -/
def Obligations.PagesChange : Prop :=
  Says.PageCommands ∧ Says.AllocBacksPages

/-- R39, R256, R260: a backing with a frame ends with the page BACKED in that frame, its HOME the hawser that ALLOC named or, with HOMEFT set,
the one that touched it, and HOMEFT clear; a
scrub ends with the frame's bytes zero, every other byte as it was, and the frame free. R249: chunk k of 256 bytes of frame F lies in channel (k + F) mod 4. -/
def Obligations.BackingsAndScrubsEnd : Prop :=
  (∀ (s : State) (n : Tid) (page : BitVec 27) (b : Backing) (h : Bool) (set frame : Nat), s.live = true → s.tablesOk = true →
    s.mem.backing.find? (fun b => b.ten == n && b.page == page.toNat && b.place.isSome) = some b → b.place = some (h, set, frame) →
    let p := s.pte n page.toNat
    exec (.pageBackingDone n page) s = .next (((s.finishBacking b).allocAll n).pageReady n page.toNat) ∧
    (s.finishBacking b).pte n page.toNat = { p with
      state := .backed, bulk := b.bulk, hawser := h, set := BitVec.ofNat 4 set, frame := BitVec.ofNat 16 frame
      home := if b.cmd.isSome ∨ p.homeft then b.hawser else p.home, homeft := false, poison := false, ref := false }) ∧
  (∀ (s : State) (id : Nat) (n : Tid), s.live = true → s.tablesOk = true → s.frameUse id = some (.scrubbing n) →
    s.mem.backing.find? (fun b => b.bulk == idBulk id && b.place.isNone) = none → (∀ x ∈ s.tens, x.2.mir.inbox = []) →
    ∃ t, exec (.frameScrubDone id) s = .next t ∧ t.frameUse id = none ∧
      ∀ a, t.mem.byte a = if a / 2 ^ 21 = id then 0 else s.mem.byte a) ∧
  (∀ (bulk hawser : Bool) (set frame k o : Nat), set < 16 → frame < 65536 → k < 8192 → o < 256 →
    channelOf (frameBase (frameId bulk hawser set frame) + 256 * k + o) = (k + frame) % 4)

/-- R271–R273: bytes written to a backed page whose lines no other tenancy has open read back as written, and every byte of device memory
outside them reads as before: always where its controller has room for their lines, when nothing is flushed, and on open pages whatever is flushed. -/
def Obligations.WritesAreReadBack : Prop :=
  ∀ (s : State) (n : Tid) (tva : Nat) (data : List Byte), s.tablesOk = true →
    let p := s.pte n (pageOf tva)
    let mine := fun (w : WcEntry) => lineSet w.line == lineSet (p.id * 2 ^ 15)
    p.backed = true → tva < 2 ^ 48 → tva % 2 ^ 21 + data.length ≤ 2 ^ 21 → (∀ w ∈ s.mem.wc, w.line / 2 ^ 15 = p.id → w.ten = n) →
    let t := s.writeBacked n tva data
    let kept := t.peek n tva data.length = data ∧
      ∀ a, a < s.devAddr n tva ∨ s.devAddr n tva + data.length ≤ a → t.mem.byte a = s.mem.byte a
    ((s.mem.wc.filter mine).length + data.length / 64 + 2 ≤ 256 → kept ∧ t.mem.cells = s.mem.cells) ∧
    (p.sealed = false → s.frameUse p.id = some (.allocated n (pageOf tva)) →
      (∀ w ∈ s.mem.wc, mine w = true → ∀ m k, s.frameUse (w.line / 2 ^ 15) = some (.allocated m k) → (s.pte m k).sealed = false) → kept)

/-- R264–R267, R270: a promotion, a page's way home, and the demotion of a frame whose REF is clear start a migration into the tier and hawser that the rule
names; a frame the sweep finds with REF set loses REF. -/
def Says.MigrationsStart : Prop :=
  ∀ (s : State), s.live = true →
    (∀ (n : Tid) (page : BitVec 27),
      let k := page.toNat
      let p := s.pte n k
      (s.migrates = true → s.promotable n k = true → 1 ≤ ((s.ten n).book false).avail →
        s.roomFor false (s.destHawser false p.home) p = true →
        exec (.promotionStart n page) s = .next (s.startMig n k .promote false (s.destHawser false p.home))) ∧
      (p.state = .backed → p.hawser ≠ p.home → p.homeft = false → s.roomFor p.bulk p.home p = true →
        exec (.homeMigrationStart n page) s = .next (s.startMig n k .home p.bulk p.home))) ∧
    (∀ (h : Hawser) (id k : Nat) (n : Tid),
      let p := s.pte n k
      let c := s.modPager (hawserNo h) (fun q => { q with sweep := id + 1 })
      s.migrates = true → s.tablesOk = true →
      s.mem.use.filter (fun x => x.1 / 2 ^ 20 == tierKey false (hawserNo h)) = [(id, some (.allocated n k))] →
      s.frameUse id = some (.allocated n k) → p.state = .backed → s.freeFrames false (hawserNo h) < (s.pager (hawserNo h)).lowWater.toNat →
      s.migsOn (hawserNo h) < 4 →
      (p.ref = true → exec (.demotionSweep h) s = .next (c.setPte n k { p with ref := false })) ∧
      (p.ref = false → p.pin = false → ((s.ten n).book true).avail ≠ 0 → s.tierOpen true = true →
        exec (.demotionSweep h) s = .next (c.startMig n k .demote true (s.destHawser true p.home))))

/-- R266: the sweep looks at the ring-tier frames in use one after another, from the one its pointer names and around, as long as free frames are
below LOWWATER and fewer than four migrations run. Each moves the pointer past it; a page found with REF set loses it, one that is pinned or finds no room
stays, any other starts its demotion. -/
def Says.SweepGoesRound : Prop :=
  (∀ (s : State) (h : Hawser), s.live = true → s.migrates = true →
    let hw := hawserNo h
    let ids := (s.mem.use.filter (fun x => x.1 / 2 ^ 20 == tierKey false hw)).map Prod.fst
    let round := ids.filter (fun i => decide ((s.pager hw).sweep ≤ i)) ++ ids.filter (fun i => decide (i < (s.pager hw).sweep))
    let upTo := fun (j : Nat) => (round.take j).foldl (fun (u : State) id => u.sweepFrame hw id) s
    let ends := fun (u : State) => (u.pager hw).lowWater.toNat ≤ u.freeFrames false hw ∨ 4 ≤ u.migsOn hw
    ∃ k, k ≤ round.length ∧ exec (.demotionSweep h) s = .next (upTo k) ∧ (∀ j, j < k → ¬ ends (upTo j)) ∧ (k = round.length ∨ ends (upTo k))) ∧
  (∀ (s : State) (hw : Bool) (id k : Nat) (n : Tid), s.frameUse id = some (.allocated n k) →
    let p := s.pte n k
    let c := s.modPager hw (fun q => { q with sweep := id + 1 })
    (p.state ≠ .backed → s.sweepFrame hw id = c) ∧
    (p.state = .backed → p.ref = true → s.sweepFrame hw id = c.setPte n k { p with ref := false }) ∧
    (p.state = .backed → p.ref = false → (p.pin = true ∨ ((s.ten n).book true).avail = 0 ∨ s.tierOpen true = false) → s.sweepFrame hw id = c) ∧
    (p.state = .backed → p.ref = false → p.pin = false → ((s.ten n).book true).avail ≠ 0 → s.tierOpen true = true →
      s.sweepFrame hw id = c.startMig n k .demote true (s.destHawser true p.home)))

/-- R267–R269: the first pass reads the whole frame, so a granule that fails to be read becomes poisoned; a pass that leaves dirty granules is followed by one that copies them; one that leaves none is fenced; then the migration commits, or
aborts where the destination's quota has no room or its tier takes no page. The fifth pass that leaves dirty granules blocks writes; a fence that
finds new ones is followed by a pass that is not counted. An epoch's end halves the counts and drops the candidates (R263, R264). -/
def Says.MigrationsGoOn : Prop :=
  (∀ (s : State) (n : Tid) (page : BitVec 27) (m : Mig), s.live = true →
    let k := page.toNat
    let p := s.pte n k
    s.mig n k = some m →
    (m.clean = false → m.passes = 0 →
      let r := s.readPage n k
      exec (.migrationPassEnd n page) s = .next (if m.dirty = []
        then (r.flushWhere (fun w => w.line / 2 ^ 15 == (r.pte n k).id)).modMig n k (fun m' =>
          { m' with clean := true, work := [], passes := Nat.max 1 m'.passes })
        else r.modMig n k (fun m' => { m' with passes := 1, work := m'.dirty, dirty := [], clean := false }))) ∧
    ((∀ g ∈ s.mem.bad ++ s.mem.soft.map Prod.fst, g / 512 ≠ p.id) → s.readPage n k = s) ∧
    (∀ g, (s.mem.bad ++ s.mem.soft.map Prod.fst).filter (fun x => x / 512 == p.id) = [g] →
      s.readPage n k = s.poisonRead n (k * 2 ^ 21 + g % 512 * 4096)) ∧
    (m.dirty ≠ [] → m.clean = false → m.passes ≠ 0 → m.passes < 4 → exec (.migrationPassEnd n page) s = .next (s.modMig n k (fun m' =>
      { m' with passes := m.passes + 1, work := m'.dirty, dirty := [], clean := false }))) ∧
    (m.dirty ≠ [] → m.clean = false → 4 ≤ m.passes → m.blocked = false → exec (.migrationPassEnd n page) s = .next ((s.modMig n k (fun m' =>
      { m' with passes := m.passes + 1, work := m'.dirty, dirty := [], clean := false, blocked := true })).modPager (m.pager != 0) (fun q =>
        { q with blocked := BitVec.ofNat 16 (satAdd 16 q.blocked.toNat 1) }))) ∧
    (m.dirty ≠ [] → m.clean = true → exec (.migrationPassEnd n page) s = .next (s.modMig n k (fun m' =>
      { m' with work := m'.dirty, dirty := [], clean := false }))) ∧
    (m.dirty = [] → m.clean = false → m.passes ≠ 0 → exec (.migrationPassEnd n page) s =
      .next ((s.flushWhere (fun w => w.line / 2 ^ 15 == p.id)).modMig n k (fun m' =>
        { m' with clean := true, work := [], passes := Nat.max 1 m'.passes }))) ∧
    (m.clean = true → m.dirty = [] → s.tierOpen p.dbulk = true → (p.dbulk = p.bulk ∨ 1 ≤ ((s.ten n).book p.dbulk).avail) →
      exec (.migrationCommit n page) s = .next ((s.commitMig n k m).pageReady n k)) ∧
    (m.clean = true → m.dirty = [] → (s.tierOpen p.dbulk = false ∨ (p.dbulk ≠ p.bulk ∧ ((s.ten n).book p.dbulk).avail = 0)) →
      exec (.migrationCommit n page) s = .next (((s.dropMig n k).modPager (m.pager != 0) (fun q =>
        { q with aborted := BitVec.ofNat 16 (satAdd 16 q.aborted.toNat 1) })).pageReady n k))) ∧
  (∀ (s : State) (h : Hawser), s.live = true → exec (.pagerEpochEnd h) s = .next (s.setPager (hawserNo h)
    { s.pager (hawserNo h) with
      counts := Sparse.mapAll (0, 0) (s.pager (hawserNo h)).counts (fun _ x => (x.1, x.2 / 2)), cand := [] }))

/-- Migrations. -/
def Obligations.MigrationsRun : Prop :=
  Says.MigrationsStart ∧ Says.SweepGoesRound ∧ Says.MigrationsGoOn

/-- MAP, ALLOC AND PIN LEAVE MEMORY ALONE: every byte of device memory, as a read sees it, is what it was. -/
def Says.PageCommandsKeepBytes : Prop :=
  ∀ (s t : State) (e : Nat), (exec (.map e) s = .next t ∨ exec (.alloc e) s = .next t ∨ exec (.pin e) s = .next t) →
    ∀ a, t.mem.byte a = s.mem.byte a

/-- R272–R274, R281, R282: the age limit flushes the oldest entry of a line and counts it, and for an open page that changes no byte a read sees; for a
sealed page the line is stored as its AES-256-XTS ciphertext under the tenancy's key, other bytes staying as they were, and reads back through that key as
before. The fence of a token whose issue has ended flushes the controllers that took its writes, and every byte of every page, read through its table
entry, is what it was: for a sealed line said where one entry of it at most is open. A sealed line whose ciphertext is all zero is left out (log 18). -/
def Says.FlushesShowNothing : Prop :=
  (∀ (s : State) (line : Nat) (w : WcEntry), s.live = true → s.mem.wc.find? (fun x => x.line == line) = some w → s.tablesOk = true →
    let bulk := idBulk (line / 2 ^ 15)
    let h := idHawser (line / 2 ^ 15)
    ∃ t, exec (.wcAgeFlush line) s = .next t ∧ t.mem.wc = s.mem.wc.erase w ∧ (t.tier bulk h).aged = (s.tier bulk h).aged + 1 ∧
      ((∀ n k, s.frameUse (line / 2 ^ 15) = some (.allocated n k) → (s.pte n k).sealed = false) → ∀ a, t.mem.byte a = s.mem.byte a) ∧
      (∀ n k, s.frameUse (line / 2 ^ 15) = some (.allocated n k) → (s.pte n k).sealed = true → (s.ten n).xts.isSome = true →
        let tva := k * 2 ^ 21 + line % 2 ^ 15 * 64
        let plain := (List.range 64).map (fun j => if w.mask.getLsbD j then w.byte j else s.storedByte n (tva + j))
        (∀ j, j < 64 → Sparse.get 0 t.mem.cells (line * 64 + j) =
          (Crypto.xts false ((s.ten n).xts.getD 0) (tva % 2 ^ 48 / 4096) (tva % 4096 / 16) plain).getD j 0) ∧
        (∀ a, a / 64 ≠ line → t.mem.byte a = s.mem.byte a) ∧
        ((s.pte n k).backed = true → (s.pte n k).id = line / 2 ^ 15 → t.mem.blank line = false →
          ∀ j, j < 64 → t.peekByte n (tva + j) = s.peekByte n (tva + j)))) ∧
  (∀ (s : State) (e i : Nat) (t : Token), s.live = true → s.tok e = some t → t.braid = some i → t.st = .running →
    (s.braid i).phase = .ended → (s.braid i).tok = some e → s.tablesOk = true →
    let u := s.flushWhere (fun w => t.ctls.has (lineSet w.line))
    exec (.wcFenceDone e) s = .next u ∧
    (∀ w, w ∈ u.mem.wc ↔ w ∈ s.mem.wc ∧ t.ctls.has (lineSet w.line) = false) ∧
    ∀ (n : Tid) (k j : Nat),
      let p := s.pte n k
      let line := p.id * 2 ^ 15 + j / 64
      j < 2 ^ 21 → p.backed = true → s.frameUse p.id = some (.allocated n k) →
      (p.sealed = true → (s.ten n).xts.isSome = true ∧ (s.mem.wc.filter (fun w => w.line == line)).length ≤ 1 ∧
        (u.mem.blank line = false ∨ ∀ w ∈ s.mem.wc, w.line ≠ line)) →
      u.peekByte n (k * 2 ^ 21 + j) = s.peekByte n (k * 2 ^ 21 + j))

/-- What changes no byte of memory. -/
def Obligations.BytesStayAsRead : Prop :=
  Says.PageCommandsKeepBytes ∧ Says.FlushesShowNothing

/-- R277, R545: a temperature reading sets the set's refresh rate by the table's thresholds and the tier's hottest temperature; one of 105 °C or more drives
the safe state (R501). That its cause is 5 and its unit the set's place is the model's reading of R501 and R509 (log 85). -/
def Says.TemperatureSetsRefresh : Prop :=
  ∀ (s : State) (m : SetId) (c : Byte), s.live = true →
    let bulk := tierBulk m.tier
    let h := hawserNo m.hawser
    let k := m.set.toNat
    let x := s.tier bulk h
    let temps := Sparse.set 0 x.temps k c
    let rate := (Sparse.get 0 x.rates k).toNat
    let r : BitVec 2 := if 95 ≤ c.toNat ∨ (rate = 2 ∧ 92 ≤ c.toNat) then 2
      else if 85 ≤ c.toNat ∨ (1 ≤ rate ∧ 82 ≤ c.toNat) then 1 else 0
    let s1 := s.setTier bulk h { x with temps := temps, temp := temps.foldl (fun a y => if a.toNat < y.2.toNat then y.2 else a) 0
                                        rates := Sparse.set 0 x.rates k r }
    let s2 := { s1 with pwr := { s1.pwr with mem := BitVec.ofNat 8 s1.memTemp } }.thermal
    (s.setsOf bulk h).contains k = true →
    exec (.memTempRead m c) s = .next (if 105 ≤ c.toNat then s2.enterSafe 5 (setPlace bulk h k) else s2)

/-- R278, R279, R284, R286: the PF's write sets OFFLINE only where no tenancy has a backed page in the tier, and ends the migrations into it; clearing it has the margined sets trained and
the tier wiped before it is ready again; GO starts a measurement in an offline tier, and is refused, DONE, in another; a measurement
ends with DONE and a free count of errors. -/
def Says.TiersAreMargined : Prop :=
  ∀ (s : State) (t : Tier) (h : Hawser), s.live = true →
    let bulk := tierBulk t
    let hw := hawserNo h
    let x := s.tier bulk hw
    (s.tierFitted bulk = true → s.tierUsed bulk = false →
      exec (.tierOfflineSet 0 t h) s = .next (((s.setTier bulk hw { x with offline := true }).abortInto bulk).serveWaiting bulk)) ∧
    (s.tierUsed bulk = true → exec (.tierOfflineSet 0 t h) s = .next s) ∧
    (x.offline = true → exec (.tierOfflineClear 0 t h) s = .next ((s.setTier bulk hw
      ({ x with offline := false, ready := false, trained := x.trained &&& ~~~x.margined, sets := x.sets &&& ~~~x.margined
                margined := 0 }.wipeIfTrained (fittedSets s.fuses.part bulk))).setReady (State.tierBit bulk hw) false)) ∧
    (∀ v : W64, v.getLsbD 63 = true → s.mem.margin.getLsbD 63 = false →
      let keep : W64 := BitVec.ofNat 64 (fld v 0 20)
      let y := s.tier (v.getLsbD 0) (v.getLsbD 1)
      let on := y.offline && (s.setsOf (v.getLsbD 0) (v.getLsbD 1)).contains (fld v 2 4)
      exec (.marginGo 0 v) s = .next (if on then
          { s with mem := { s.mem with margin := keep ||| 0x8000000000000000, mDone := false, mRefuse := false } }.setTier (v.getLsbD 0) (v.getLsbD 1)
            { y with margined := y.margined ||| BitVec.ofNat 12 (2 ^ fld v 2 4) }
        else { s with mem := { s.mem with margin := keep, mDone := true, mRefuse := true } })) ∧
    (s.mem.margin.getLsbD 63 = true → exec .marginDone s = .next { s with
      draws := s.draws + 1
      mem := { s.mem with margin := BitVec.ofNat 64 (fld s.mem.margin 0 20), mErrors := (Config.free s.draws).setWidth 32, mDone := true } })

/-- R248, R250, R284, R487: a set that passes training is in service, one that fails stays out and raises source 0x300 + its place; said where a ring-tier set is in service or yet
to be trained (with none the module is unserviceable, R487). A finished wipe leaves the tier READY, its frames free, and every byte of it zero. -/
def Says.TiersComeUp : Prop :=
  (∀ (s : State) (m : SetId) (ok : Bool), s.live = true → s.sys.unserv = false → s.unitsTested = true →
    let bulk := tierBulk m.tier
    let h := hawserNo m.hawser
    let k := m.set.toNat
    let x := s.tier bulk h
    let bitK : BitVec 12 := BitVec.ofNat 12 (2 ^ k)
    let s1 := s.setTier bulk h ({ x with trained := x.trained ||| bitK, sets := if ok then x.sets ||| bitK else x.sets }.wipeIfTrained
      (fittedSets s.fuses.part bulk))
    let s2 := if ok then s1 else s1.raise (0x300 + setPlace bulk h k)
    k < fittedSets s.fuses.part bulk → bit x.trained k = false → s2.noRing = false →
    exec (.memoryTrainingDone m ok) s = .next s2) ∧
  (∀ (s : State) (t : Tier) (h : Hawser), s.live = true → s.sys.unserv = false → s.tablesOk = true →
    (s.tier (tierBulk t) (hawserNo h)).wiping = true →
    ∃ u, exec (.tierWipeDone t h) s = .next u ∧ u.mem.use = s.mem.use.filter (fun x => x.1 / 2 ^ 20 != tierKey (tierBulk t) (hawserNo h)) ∧
      u.ready (State.tierBit (tierBulk t) (hawserNo h)) = true ∧
      ∀ a, u.mem.byte a = if a / 2 ^ 41 = tierKey (tierBulk t) (hawserNo h) then 0 else s.mem.byte a)

/-- The memory tiers. -/
def Obligations.TiersServe : Prop :=
  Says.TemperatureSetsRefresh ∧ Says.TiersAreMargined ∧ Says.TiersComeUp

/-! ## Windows -/

/-- R373: WIN_OPEN of a FREE slot over mapped pages of one case, with the key it names for a sealed one, takes the next OPENSEQ, keeps the slot's
generation, and completes with both. R376, R378: WIN_CLOSE of an open slot closes it under the next generation, WIN_DRAIN starts its drain, and the
drain's end, the accepted writes being made, passes the fence of the controllers that took them and frees the slot with the late writes of the closed
generation in VALUE. -/
def Obligations.WindowsOpenAndClose : Prop :=
  ∀ (s : State) (e : Nat) (t : Token),
    let n := t.ten
    let b := s.begun t
    let i := t.body 0 2
    let w := b.win i
    let len := t.body 16 4
    let tva := t.body 8 8
    let sealed := t.bodyBit 2 1
    (s.starts e (selOp 0x28) t = true → i < 1024 → w.st = .free → (t.bodyBit 2 2 = true ∨ t.bodyBit 2 3 = true) →
      (t.bodyBit 2 2 = true → b.cap.bulkA = true) → (t.bodyBit 2 3 = true → b.cap.bulkB = true) →
      tva % 4096 = 0 → 0 < len → len ≤ 262144 → tva + 4096 * len ≤ 2 ^ 48 →
      (sealed = true → tva % 131072 = 0 ∧ len % 32 = 0 ∧ len ≤ 131072 ∧ t.body 6 1 < 16 ∧
        Sparse.get none (b.ten n).winKeys (t.body 6 1) ≠ none) →
      inCtx tva (4096 * len) = false → b.anyUnmapped n tva (4096 * len) = false →
      (∀ p ∈ pagesOf tva (4096 * len), (b.pte n p).sealed = sealed) →
      exec (.winOpen e) s = .next (({ b with openseq := b.openseq + 1 }.setWin i
        { w with st := .open_, dir := t.bodyBit 2 0, sealed := sealed, portA := t.bodyBit 2 2, portB := t.bodyBit 2 3, riden := t.bodyBit 2 4
                 rid := BitVec.ofNat 16 (t.body 4 2), keyref := BitVec.ofNat 8 (t.body 6 1), ten := n, tva := BitVec.ofNat 48 tva
                 length := BitVec.ofNat 32 len, openseq := b.openseq + 1, enc := 0, last := 0, wrote := [], ctls := [], drainTok := none
                 key := if sealed then windowKey ((Sparse.get none (b.ten n).winKeys (t.body 6 1)).getD 0) (b.openseq + 1) else 0 }).finish
          t.id (Comp.okv w.gen.toNat (b.openseq + 1).toNat))) ∧
    (s.starts e (selOp 0x29) t = true → i < 1024 → w.st = .open_ → w.ten = n →
      let c := b.closeWin i
      exec (.winClose e) s = .next (c.finish t.id (Comp.okv (c.win i).gen.toNat 0)) ∧
      ((b.port .a).bufs = [] → (b.port .b).bufs = [] → b.tablesOk = true →
        c = b.setWin i { w with st := .closed, gen := w.gen + 1, key := 0, lateGen := 0 })) ∧
    (s.starts e (selOp 0x2A) t = true → i < 1024 → w.st = .closed → w.ten = n →
      exec (.winDrain e) s = .next (b.setWin i { w with st := .draining, drainTok := some t.id })) ∧
    (∀ (k : BitVec 10) (d : Nat), s.live = true →
      let x := s.win k.toNat
      x.st = .draining → (∀ h ∈ s.held, h.slot ≠ k.toNat) → x.drainTok = some d →
      exec (.winDrainDone k) s = .next ((((s.fence x.ctls).setWin k.toNat
        { Win.init with gen := x.gen, records := x.records, authFail := x.authFail, rejected := x.rejected, last := x.last, lateLog := x.lateLog
                        ten := x.ten }).modTok d (fun t => { t with wrote := x.wrote, ctls := x.ctls })).finish d (Comp.okv 0 x.lateGen.toNat)))

/-- R374, R375, R377: a write through an open window of the device direction lands at the window's TVA plus the offset; one that the window does not take
counts in REJECTED; one of a closed slot counts as late, and of a free one as stray; none of these changes memory. A read through an open
window of the host direction returns the bytes there, and counts a poisoned completion; any other read ends in Completer Abort, and whether that raises
the port's error source is free (log 105). -/
def Says.WindowAccesses : Prop :=
  ∀ (s : State) (p : Port) (off : BitVec 40) (rid : BitVec 16), s.portServes p = true →
    let i := off.toNat / 2 ^ 30
    let o := off.toNat % 2 ^ 30
    let w := s.win i
    (∀ data : List Byte, data ≠ [] → data.length ≤ 512 →
      (w.st = .open_ → w.takes p false o data.length rid = true → w.sealed = false →
        exec (.bar2Write p off rid data) s = .next (s.winWrite i (portHawser p) w.ten (w.tva.toNat + o) data)) ∧
      (w.st = .open_ → w.takes p false o data.length rid = false →
        exec (.bar2Write p off rid data) s = .next (s.setWin i { w with rejected := BitVec.ofNat 16 (satAdd 16 w.rejected.toNat 1) })) ∧
      (w.st = .free → exec (.bar2Write p off rid data) s = .next (s.setPort p
        { s.port p with stray := BitVec.ofNat 32 (satAdd 32 (s.port p).stray.toNat 1) })) ∧
      (w.st = .closed ∨ w.st = .draining → exec (.bar2Write p off rid data) s = .next
        ((s.setWin i { w with lateGen := w.lateGen + 1, lateLog := lateCount w.lateLog w.ten w.gen (portHawser p) }).setTen w.ten
          { s.ten w.ten with late := BitVec.ofNat 32 (satAdd 32 (s.ten w.ten).late.toNat 1) }))) ∧
    (∀ len : BitVec 13, len ≠ 0 →
      (w.st = .open_ → w.takes p true o len.toNat rid = true → w.sealed = false →
        let r := s.readMem w.ten (w.tva.toNat + o) len.toNat
        exec (.bar2Read p off rid len) s = .next (if r.2.2 then
            (r.1.emit (.barData r.2.1 true)).setPort p
              { r.1.port p with poisoned := BitVec.ofNat 16 (satAdd 16 (r.1.port p).poisoned.toNat 1) }
          else r.1.emit (.barData r.2.1 false))) ∧
      (w.st = .open_ → w.takes p true o len.toNat rid = false → let t := { s with draws := s.draws + 1, out := s.out ++ [.barAbort] }
        exec (.bar2Read p off rid len) s = .next t ∨ exec (.bar2Read p off rid len) s = .next (t.raise (0x340 + pcieNum (pciePort p)))) ∧
      (w.st ≠ .open_ →
        let t := { s with draws := s.draws + 1, out := s.out ++ [.barAbort] }
        exec (.bar2Read p off rid len) s = .next t ∨ exec (.bar2Read p off rid len) s = .next (t.raise (0x340 + pcieNum (pciePort p)))))

/-- R378–R381: writes into a frame of an open sealed window gather in the port's buffer of that frame, and wait for one where 128 are in use; the write that
completes the frame frees the buffer, and the frame that opens under the window's key lands as plaintext at its place, counted, while one that does not is
discarded, counted, logged and raised. A read of a frame with no buffer seals its 131,072 bytes under the next record counter of the window, counts the
record, and returns the bytes asked for, marked poisoned where a granule under them is; the frame stays buffered until its last byte is read, and a read
of a buffered frame comes from the buffer. -/
def Says.SealedFramesPass : Prop :=
  ∀ (s : State) (p : Port) (off : BitVec 40) (rid : BitVec 16), s.portServes p = true →
    let i := off.toNat / 2 ^ 30
    let o := off.toNat % 2 ^ 30
    let r := o / 2 ^ 18
    let w := s.win i
    let q := s.port p
    w.st = .open_ → w.sealed = true →
    (∀ data : List Byte, data ≠ [] → data.length ≤ 512 → w.takes p false o data.length rid = true →
      let mine := fun (b : RecBuf) => b.slot == i && b.frame == r && !b.out
      let rest := q.bufs.filter (fun b => !mine b)
      let got := (data.zipIdx).foldl (fun m x => Sparse.set none m (o % 2 ^ 18 + x.2) (some x.1)) (((q.bufs.find? mine).map (·.bytes)).getD [])
      let free := s.setPort p { q with bufs := rest }
      (q.bufs.find? mine = none → 128 ≤ q.bufs.length → exec (.bar2Write p off rid data) s = .next s) ∧
      ((q.bufs.find? mine ≠ none ∨ q.bufs.length < 128) →
        (got.length ≠ 131136 → exec (.bar2Write p off rid data) s = .next (s.setPort p
          { q with bufs := rest ++ [{ slot := i, frame := r, out := false, bytes := got, image := [], poison := [] }] })) ∧
        (∀ pt, got.length = 131136 → w.openFrame i r got = some pt → exec (.bar2Write p off rid data) s = .next
          ((free.setWin i { w with records := w.records + 1 }).winWrite i (portHawser p) w.ten (w.tva.toNat + 131072 * r) pt)) ∧
        (got.length = 131136 → w.openFrame i r got = none → exec (.bar2Write p off rid data) s = .next
          (((free.setWin i { w with authFail := BitVec.ofNat 16 (satAdd 16 w.authFail.toNat 1), last := 0x24 }).log Dom.fabric 2
            (hNum (portHawser p)) 0x41 0x24 (some w.ten) [BitVec.ofNat 64 i, BitVec.ofNat 64 r, 0]).raise (0x120 + (s.ten w.ten).fn.toNat))))) ∧
    (∀ len : BitVec 13, len ≠ 0 → w.takes p true o len.toNat rid = true →
      let a := o % 2 ^ 18
      let mine := fun (b : RecBuf) => b.slot == i && b.frame == r && b.out
      let kept := fun (bufs : List RecBuf) (b : RecBuf) => if a + len.toNat = 131136 then bufs else bufs ++ [b]
      (∀ b : RecBuf, q.bufs.find? mine = some b → exec (.bar2Read p off rid len) s = .next
        ((s.setPort p { q with bufs := kept (q.bufs.filter (fun b => !mine b)) b }).readDone p (slice b.image a len.toNat)
          (frameBad b.poison a len.toNat))) ∧
      (q.bufs.find? mine = none → q.bufs.length < 128 →
        let rd := s.readMem w.ten (w.tva.toNat + 131072 * r) 131072
        let bad := (List.range 32).filter (fun k => rd.1.poisonedTva w.ten (w.tva.toNat + 131072 * r + 4096 * k))
        let image := w.encrypt i r rd.2.1
        exec (.bar2Read p off rid len) s = .next
          (((rd.1.setWin i { w with enc := w.enc + 1, records := w.records + 1 }).setPort p
            { q with bufs := kept q.bufs { slot := i, frame := r, out := true, bytes := [], image := image, poison := bad } }).readDone p
            (slice image a len.toNat) (frameBad bad a len.toNat))))

/-- R377, R380: an incomplete inbound frame whose time is up is discarded: its buffer is free, and the discard is counted, logged and raised to the
owning function. The late writes of a slot are logged with the tenancy and the generation they were late for and the count since the last entry of theirs. -/
def Says.FramesExpire : Prop :=
  ∀ (s : State) (i : BitVec 10), s.live = true →
    let w := s.win i.toNat
    (∀ (p : Port) (r : BitVec 12) (b : RecBuf), (s.port p).bufs = [b] → b.slot = i.toNat → b.frame = r.toNat → b.out = false →
      exec (.sealedFrameTimeout p i r) s = .next
        ((((s.setPort p { s.port p with bufs := [] }).setWin i.toNat
          { w with authFail := BitVec.ofNat 16 (satAdd 16 w.authFail.toNat 1), last := 0x24 }).log Dom.fabric 2 (hNum (portHawser p)) 0x41 0x24 (some w.ten)
            [BitVec.ofNat 64 i.toNat, BitVec.ofNat 64 r.toNat, 1]).raise (0x120 + (s.ten w.ten).fn.toNat))) ∧
    (∀ (l : LateLog) (ls : List LateLog), w.lateLog = l :: ls →
      exec (.lateWriteLog i) s = .next ((s.setWin i.toNat { w with lateLog := ls }).log Dom.fabric 0 (hNum l.hawser) 0x40 0x23 (some l.ten)
        [BitVec.ofNat 64 i.toNat, l.gen.setWidth 64, l.count.setWidth 64]))

/-- Traffic of the windows. -/
def Obligations.WindowTraffic : Prop :=
  Says.WindowAccesses ∧ Says.SealedFramesPass ∧ Says.FramesExpire

/-- R379: a record sealed for an outbound window opens, byte for byte, to what was sealed, under the same key, slot, generation, tenancy,
direction, address and record number. -/
def Obligations.SealedRecordsOpen : Prop :=
  ∀ (w : Win) (i r : Nat) (pt : List Byte), pt.length = 131072 → r < 2 ^ 32 →
    (w.encrypt i r pt).length = 131136 ∧
      w.openFrame i r ((w.encrypt i r pt).zipIdx.map (fun x => (x.2, some x.1))) = some pt

/-! ## Splices -/

/-- R287, R288, R306: SPLICE_OPEN of a free identifier for 2 to 64 braids that the tenancy may use draws a digest key and opens it. R313: SPLICE_CLOSE
of one that has ended frees it and zeroes the key. R308: SPLICE_COMPARE of one whose last tile has been delivered, failed since or not, starts the
comparison and waits for it, after one in progress. -/
def Says.SplicesOpenAndClose : Prop :=
  ∀ (s : State) (e : Nat) (t : Token),
    let b := s.begun t
    let i := t.body 0 1
    let x := b.splice i
    (s.starts e (selOp 0x30) t = true → i < 64 → 2 ≤ t.body 1 1 → t.body 1 1 ≤ 64 → 0 < t.body 2 2 → t.body 1 1 ≤ b.spliceBraids t.ten →
      x.st = .free → b.secUp = true → b.drbgOk = true →
      ∃ k : W64 × State, k = State.drawKey 64 b ∧ k.1 ≠ 0 ∧ exec (.spliceOpen e) s = .next ((k.2.setSplice i
        { Splice.init with st := .open_, ten := t.ten, p := BitVec.ofNat 7 (t.body 1 1), form := t.bodyBit 4 0, m32 := t.bodyBit 4 1
                           tiles := BitVec.ofNat 16 (t.body 2 2), key := k.1, compares := x.compares }).finish t.id (Comp.okv 0 0))) ∧
    (s.starts e (selOp 0x31) t = true → i < 64 → x.st = .ended → x.ten = t.ten → x.notice = false → x.trigger = none → x.asked = [] →
      exec (.spliceClose e) s = .next ((b.setSplice i
        { x with st := .free, key := 0, ranks := [], trigger := none, asked := [], staged := [], sums := [], notice := false }).finish t.id
          (Comp.okv 0 0))) ∧
    (s.starts e (selOp 0x32) t = true → i < 64 → x.over = true → x.ten = t.ten →
      exec (.spliceCompare e) s = .next (b.setSplice i
        (if x.st = .comparing then { x with asked := x.asked ++ [t.id] } else { x with st := .comparing, trigger := some t.id })))

/-- R308, R311, R312, R501: a path that fails fails every running splice on its strand, and retrains; retrained it carries again; a link that recovers makes the
splices on its strand suspect; the notice of a failed splice reaches its ranks; a strand link that fails takes its four braids away and
raises the strand's source. -/
def Says.LinksFail : Prop :=
  ∀ (s : State) (k : BitVec 4), s.live = true →
    let st := k.toNat
    let r := s.router st
    (r.up = true → s.splicesOn st = [] → exec (.splicePathFail k) s = .next ((s.setRouter st
      { r with up := false, retrain := true, fails := BitVec.ofNat 16 (satAdd 16 r.fails.toNat 1), retryDue := 0 }).raise (0x330 + st))) ∧
    (∀ i : Nat, r.up = true → s.splicesOn st = [i] →
      let f := s.failSplice i 0x52
      exec (.splicePathFail k) s = .next ((f.setRouter st
        { f.router st with up := false, retrain := true, fails := BitVec.ofNat 16 (satAdd 16 r.fails.toNat 1), retryDue := 0 }).raise (0x330 + st))) ∧
    (r.retrain = true → exec (.splicePathRetrainDone k) s = .next (s.setRouter st { r with up := true, retrain := false })) ∧
    (∀ i : Nat, s.splicesOn st = [i] → exec (.strandLinkRecovery k) s = .next (s.setSplice i { s.splice i with suspect := true })) ∧
    (∀ i : BitVec 6, (s.splice i.toNat).notice = true → (s.splice i.toNat).ranks = [] →
      exec (.spliceFailureNotice i) s = .next ((s.discardStaged i.toNat).modSplice i.toNat (fun x => { x with notice := false }))) ∧
    (s.fitted st = true → ∃ t, exec (.strandLinkFail k) s = .next t ∧
      t.cap.braids = s.cap.braids &&& ~~~(BitVec.ofNat 64 (0xF * 2 ^ (4 * st))) ∧
      ∀ j : Nat, j < 4 → s.tablesOk = true → (t.braid (4 * st + j)).linkDown = true)

/-- Splices and their links. -/
def Obligations.SplicesRun : Prop :=
  Says.SplicesOpenAndClose ∧ Says.LinksFail

/-- R294, R299: the router takes a rank's front export while its tile index is less than four past the lowest not yet delivered; the queue has an
entry less, and SENT counts it. R301, R306: with every rank's contribution of a tile staged and their headers agreeing, the tile is reduced and
RECEIVED counts the contributions. R302, R304: the next result goes to every rank that can take it; after the last the splice has ended. R308, R315,
R356: a transfer whose retries succeeded, at most eight, counts one and makes the splice suspect (`State.carry`). -/
def Says.TilesPass : Prop :=
  (∀ (s : State) (i : Bid) (c : Contrib) (rest : List Contrib) (k : Nat),
    let b := s.braid i.toNat
    let x := s.splice k
    s.live = true → b.queue = c :: rest → s.spliceAt i.toNat = some k → x.st = .running → (s.router (i.toNat / 4)).carries = true →
    c.tile < x.delivered.toNat + 4 → (b.phase == .issuing && b.exportHeld) = false →
    exec (.spliceExportTake i) s = .next (((s.setSplice k { x with staged := x.staged ++ [c], sent := x.sent + 1 }).carry k (i.toNat / 4)).setBraid i.toNat
      { b with queue := rest, reserved := b.reserved - 1 })) ∧
  (∀ (s : State) (i : BitVec 6),
    let x := s.splice i.toNat
    let k := x.reduced.toNat
    let cs := x.tileOf k
    s.live = true → x.st = .running → cs.length = x.p.toNat → (∀ t ∈ x.strands, (s.router t).carries = true) →
    (headersAgree x cs = true →
      let q := (cs.head?.map (·.q)).getD 0
      let parts := x.strands.map (fun st => sumTiles x.m32 q ((cs.filter (fun c => c.braid / 4 == st)).map (·.words)))
      let full := sumTiles x.m32 q parts
      let sealed := cs.any (·.sealed)
      exec (.spliceTileReduce i) s = .next ((s.crossTile i.toNat k x.m32 q parts full).modSplice i.toNat (fun y =>
        { y with reduced := y.reduced + 1, received := y.received + BitVec.ofNat 22 cs.length, sealed := y.sealed || sealed
                 staged := y.staged.filter (fun c => c.tile != k)
                 sums := y.sums ++ [{ braid := 0, tile := k, form := y.form, mode := y.m32, q := q, sealed := sealed, words := full }] }))) ∧
    (headersAgree x cs = false → exec (.spliceTileReduce i) s = .next (s.failSplice i.toNat 0x14))) ∧
  (∀ (s : State) (i : BitVec 6) (c : Contrib) (rest : List Contrib),
    let x := s.splice i.toNat
    s.live = true → x.st = .running → x.sums = c :: rest → (∀ r ∈ x.ranks, s.rankReady r.2.2 = true) →
    (∀ t ∈ x.strands, (s.router t).carries = true) → (c.sealed = true → ∀ r ∈ x.ranks, s.rankOpen r.2.2 = false) →
    let d := x.strands.foldl (fun s t => s.carry i.toNat t) ((x.ranks.foldl (fun s r => s.takeTile r.2.2 c.words) s).setSplice i.toNat
      { x with sums := rest, delivered := x.delivered + 1 })
    exec (.spliceTileDelivery i) s = .next (if x.delivered.toNat + 1 = x.tiles.toNat then d.spliceEnd i.toNat else d).noteStalls)

/-- R308, R309: a comparison that finds every pair of digests equal passes; one that does not records the lowest link that differs, logs it, and ends
the command with 0x53 and that link in POSITION, or, where the splice itself was suspect, fails every rank that had not failed. A compare command that
waits starts the next comparison. -/
def Says.DigestsAreCompared : Prop :=
  ∀ (s : State) (i : BitVec 6), s.schedUp = true →
    let x := s.splice i.toNat
    let y : Splice := { x with compares := x.compares + 1, trigger := none, st := if x.status ≠ 0 then .failed else .ended }
    let next : State → State := fun s => s.modSplice i.toNat Splice.nextCompare
    x.st = .comparing →
    (∀ e : Nat, x.trigger = some e → (∀ j < x.strands.length, Sparse.get 0 x.send j = Sparse.get 0 x.recv j) →
      exec (.spliceDigestCompareDone i) s = .next (next ((s.setSplice i.toNat { y with result := 1, link := 0, passed := true }).finish e
        (Comp.okv 0 0)))) ∧
    (∀ j : Nat, 2 ≤ x.strands.length → j < x.strands.length → Sparse.get 0 x.send j ≠ Sparse.get 0 x.recv j →
      (∀ m < j, Sparse.get 0 x.send m = Sparse.get 0 x.recv m) →
      let l := (s.setSplice i.toNat { y with result := 2, link := BitVec.ofNat 4 j }).log Dom.splice 2
        (if x.strands.getD j 0 < 8 then 0 else 1) 0x50 Status.digestMismatch (some x.ten) [BitVec.ofNat 64 i.toNat, BitVec.ofNat 64 j]
      exec (.spliceDigestCompareDone i) s = .next (next (match x.trigger with
        | some e => l.finish e { status := Status.digestMismatch, detail := 0, position := BitVec.ofNat 32 j, value := 0 }
        | none => if x.status = 0 then l.failSplice i.toNat Status.digestMismatch else l)))

/-- Tiles and digests. -/
def Obligations.TilesPass : Prop :=
  Says.TilesPass ∧ Says.DigestsAreCompared

/-- R298, R300, R305: what the network sums strand by strand and then around the ring is, word for word, the position-wise sum of all contributions, modulo the
prime or modulo 2^w; the split over strands does not show in it. -/
def Obligations.SpliceSumIsExact : Prop :=
  ∀ (m32 : Bool) (q : Nat) (strands : List Nat) (cs : List Contrib) (row l : Nat), strands.Nodup → (∀ c ∈ cs, c.braid / 4 ∈ strands) →
    q ≤ 2 ^ Arith.laneW m32 → row < 1024 → l < Arith.laneN m32 →
    Arith.lane m32 (Sparse.get 0 (sumTiles m32 q (strands.map (fun st =>
        sumTiles m32 q ((cs.filter (fun c => c.braid / 4 == st)).map (·.words))))) row) l =
      laneSum m32 q (cs.map (·.words)) row l

/-! ## Scheduling and contexts -/

/-- R322, R323, R372: a KERNEL command whose turn it is and whose sets are readable and clean becomes one token a set, in set order, each with its
slots, its rank and its timeout; one that fails a common check is refused whole with one completion. -/
def Says.KernelsBecomeTokens : Prop :=
  ∀ (s : State) (c : Nat) (x : Fetched), s.schedUp = true → s.kernelDue c = some x →
    let t := entryOf 0 x.cmdId x.fn x.ring (s.sq x.fn x.ring) x.cmd (x.deps, x.badDep)
    let r := s.readItem t.ten t.kSets (128 * kernelSets x.cmd)
    (∀ bs, s.cmdCheck x.fn x.cmd x.badDep s.sch.nextId = none → t.kTvas = true → s.kernelPages t = true → r.2 = .ok bs →
      (∀ y ∈ opSets x.cmd bs, setClean y = true) →
      exec (.kernel c) s = .next (r.1.makeTokens x (opSets x.cmd bs)) ∧
      (r.1.makeTokens x (opSets x.cmd bs)).sch.pool.length = r.1.sch.pool.length + (opSets x.cmd bs).length) ∧
    (∀ d, s.cmdCheck x.fn x.cmd x.badDep s.sch.nextId = some d → x.badDep.toNat ≠ d →
      exec (.kernel c) s = .next (s.refuseKernel x 0x40 d (fun s _ => s)))

/-- R42, R325–R327: a decision with no token to take changes nothing but the count of free values. R338, R343: a SAVED token whose image can be
restored is READY again (`State.wakeSaved`; log 96 names the moment). With one token, no rank and with no image, that passes its checks and finds a
braid, the token is placed on the braid that R42 chooses. -/
def Says.DecisionPlacesAToken : Prop :=
  (∀ (s : State), s.schedUp = true → s.lcs.pending = none → s.wakeSaved.candidates = [] →
    exec .dispatchDecision s = .next { s.wakeSaved with draws := s.draws + 2048 }) ∧
  (∀ (s : State) (t : Token) (i : Nat), s.schedUp = true → s.lcs.pending = none → s.wakeSaved.candidates = [t] → (s.ten t.ten).prio = 7 →
    let g := s.wakeSaved.modTen t.ten (fun x => { x with deficit := x.deficit + x.weight.toNat })
    let d : State := { g with draws := g.draws + 256 }
    let p := d.plan t
    let st := p.1.tokStatus t p.2
    t.ctx = none → d.isRank t = false →
    (Status.good st = true →
      p.1.chooseBraid t (p.1.sigs t p.2.desc p.2.srcs) (p.2.srcs ++ p.2.dests) (p.1.freeBraids t.ten (kFoldSafe p.2.desc)) = some i →
      exec .dispatchDecision s = .next (p.1.place t p.2 st i [t])) ∧
    (Status.good st = false → exec .dispatchDecision s = .next (p.1.refuse t p.2 st)))

/-- R42: the braid chosen is one that is free and that policy permits the tenancy, a folded one only for a fold-safe kernel; of those it is the best by key
affinity, then by the home of the keys' pages, then by the home of the operands, then by the current tenancy, then by number, a token without an evaluation
key skipping the first two; and where one can run the token, one is chosen. R326, R290: the ranks of a splice are placed in one decision, on braids all
different, each permitted; the splice then runs, or, where a rank fails its checks, fails. R338, R343: a token with an image goes to the braid R42
chooses, to be restored there, and fails where no braid of its tenancy can ever take it. -/
def Says.BraidsAreChosen : Prop :=
  (∀ (s : State) (t : Token) (gs : List KeySig) (hs : List (Nat × BitVec 512)) (bs : List Nat) (i : Nat), bs.Pairwise (· < ·) →
    s.chooseBraid t gs hs bs = some i →
    let key := !gs.isEmpty
    let near := fun (h : Option Bool) (j : Nat) => match h with | some h => braidHawser j == h | none => false
    let one := fun (b : Bool) => if b then 1 else 0
    let score := fun (j : Nat) => 8 * one (key && (s.braid j).holdsKey t.ten gs) + 4 * one (key && near (t.keyHome.getD none) j) +
      2 * one (near (s.operandHome t.ten hs) j) + one ((s.braid j).ten == some t.ten)
    i ∈ bs ∧ ∀ j ∈ bs, score j ≤ score i ∧ (score j = score i → i ≤ j)) ∧
  (∀ (s : State) (t : Token) (gs : List KeySig) (hs : List (Nat × BitVec 512)) (bs : List Nat), s.chooseBraid t gs hs bs = none → bs = []) ∧
  (∀ (s : State) (n : Tid) (safe : Bool), (s.freeBraids n safe).Pairwise (· < ·) ∧
    ∀ i, i ∈ s.freeBraids n safe ↔ i < 64 ∧ s.cap.braids.getLsbD i = true ∧ s.rdy.braids.getLsbD i = true ∧ (s.braid i).phase = .idle ∧
      (s.braid i).tok = none ∧ (s.braid i).pllUp = true ∧ (s.braid i).held = false ∧ (s.braid i).linkDown = false ∧
      s.bist.infield ≠ some (BitVec.ofNat 6 i) ∧ (s.ten n).braids.getLsbD i = true ∧ (s.cap.fold.getLsbD i = true → safe = true)) ∧
  (∀ (s : State) (ts : List Token) (bs out : List Nat), bs.Nodup → s.rankBraids ts bs = some out →
    out.length = ts.length ∧ out.Nodup ∧ (∀ i ∈ out, i ∈ bs) ∧
      ∀ x ∈ ts.zip out, s.permits x.1.ten (kFoldSafe (s.peekDesc x.1)) x.2 = true) ∧
  (∀ (s : State) (c c' : List Token) (t : Token) (n : Tid), s.schedUp = true → s.lcs.pending = none → s.wakeSaved.candidates = c →
    (∀ u ∈ c, u.ten = n) → (s.ten n).prio = 7 →
    let g := s.wakeSaved.modTen n (fun x => { x with deficit := x.deficit + x.weight.toNat })
    let d : State := { g with draws := g.draws + 256 }
    sortBy g.before c = t :: c' →
    (t.ctx = none → d.isRank t = true → d.rankOk t = true → ∀ ts bs, d.ranksReady t.kSplice n (t :: c') = some ts →
      d.rankBraids ts (d.freeBraids n true) = some bs → exec .dispatchDecision s = .next (d.dispatchRanks t.kSplice ts bs (t :: c'))) ∧
    (t.ctx ≠ none → (d.imageFold t = true ∨ d.allFold n = false) → ∀ i,
      d.chooseBraid t (d.tokSigs t) (t.srcs ++ t.dests) (d.freeBraids n (d.imageFold t)) = some i →
      exec .dispatchDecision s = .next (d.placeSaved t i) ∧ (s.tablesOk = true →
        ((d.placeSaved t i).braid i).tok = some t.id ∧ ((d.placeSaved t i).braid i).restore = true ∧
          ((d.placeSaved t i).braid i).phase = .wiping)) ∧
    (t.ctx ≠ none → d.imageFold t = false → d.allFold n = true → exec .dispatchDecision s = .next (d.failSaved t 0x1A))) ∧
  (∀ (s : State) (k : Nat) (ts : List Token) (bs : List Nat) (others : List Token), s.tablesOk = true → ts ≠ [] → bs.length = ts.length →
    let u := s.dispatchRanks k ts bs others
    ((u.splice k).st = .running ∧ (u.splice k).ranks = (ts.zip bs).map (fun y => (y.1.rank.toNat, y.1.id, y.2))) ∨ (u.splice k).st = .failed)

/-- Tokens and their placing. -/
def Obligations.TokensArePlaced : Prop :=
  Says.KernelsBecomeTokens ∧ Says.DecisionPlacesAToken ∧ Says.BraidsAreChosen

/-- R325: at one priority the tokens are considered in a total order: those of the tenancy of the higher deficit first, those of one tenancy in the
order of their entries; no token is lost or made. -/
def Obligations.DecisionOrder : Prop :=
  ∀ (s : State) (l : List Token), (l.map (·.id)).Nodup →
    (sortBy s.before l).Perm l ∧ (sortBy s.before l).Pairwise (fun t u => s.before t u = true) ∧
    (∀ t u : Token, s.before t u = true →
      (s.ten u.ten).deficit < (s.ten t.ten).deficit ∨ (t.ten = u.ten ∧ t.id < u.id) ∨
        (t.ten ≠ u.ten ∧ (s.ten t.ten).deficit = (s.ten u.ten).deficit))

/-- R104, R105, R147, R148, R204: a kernel start whose checks pass loads the kernel, arms the rings of its table and begins issue; the next braid
phase is issue from the entry sentence. The list of present units goes to every core where the kernel asks for it, refused with ABORTED over a sealed
region; the braid's members of multicast groups are armed. One whose checks fail stops the braid with the status before any sentence issues. -/
def Says.KernelStarts : Prop :=
  ∀ (s : State) (i : Bid) (t : Token),
    let b := s.braid i.toNat
    let r := s.startChecks i.toNat t 0
    s.live = true → b.tok.bind s.tok = some t → b.phase = .loading → b.pllUp = true → b.linkDown = false → b.restore = false →
    (∀ x, r.2 = .ok x →
      let b1 := r.1.braid i.toNat
      let listOpen := ∀ g ∈ b1.regionsOf x.aux.addr (4 * x.aux.max), b1.sealMap.getLsbD g = false
      let k := ((b1.putList x.aux x.present).loadKernel t x ((r.1.ten t.ten).limbPrimes x.chain)).armAll x.table (t.srcs ++ t.dests)
      ((x.aux.listen = true → listOpen) →
        exec (.kernelStart i) s = .next ((r.1.armMembers i.toNat x.present).afterBraid i.toNat k.begin)) ∧
      (x.aux.listen = true → ¬ listOpen → exec (.kernelStart i) s = .next (r.1.startFail i.toNat 0x40 none)) ∧
      (x.aux.listen = false → b1.putList x.aux x.present = b1) ∧
      (x.aux.listen = true → b1.putList x.aux x.present = (List.range 64).foldl (fun y c =>
        y.fillAt c x.aux.addr (x.present.flatMap (fun p => leBytes 4 p.toNat))) b1) ∧
      ((b1.putList x.aux x.present).loadKernel t x ((r.1.ten t.ten).limbPrimes x.chain)).pc = BitVec.ofNat 12 (kEntry x.desc) ∧
      ((b1.putList x.aux x.present).loadKernel t x ((r.1.ten t.ten).limbPrimes x.chain)).s = [] ∧
      (∀ g ∈ (r.1.armMembers i.toNat x.present).sch.groups, ∀ m ∈ g.members, m.braid = i.toNat → m.armed = true)) ∧
    (∀ st, r.2 = .error st → exec (.kernelStart i) s = .next (r.1.startFail i.toNat st (r.1.startFault t st)))

/-- R337–R343: a save that is ready puts the image into the slot and leaves the token SAVED with its slot named and the braid without a token, which
goes to the token that asked for it; what is left of its time is a free value, at least one unit and at most what it had (log 7); a saved token of a closing
tenancy ends with PREEMPTED. A stop notice that meets a save before issue has ended takes its place: the kernel stops with CLAUSE 6 (log 97, R329). -/
def Says.SavesEnd : Prop :=
  ∀ (s : State) (i : Bid) (t : Token),
    let b := s.braid i.toNat
    s.tablesOk = true → s.live = true → b.saveReady = true → b.tok.bind s.tok = some t →
    (b.notice = none ∨ b.issueOver = true →
      let left : W64 := if t.remain = 0 then 0 else BitVec.ofNat 64 ((Config.free s.draws).toNat % t.remain.toNat + 1)
      let w := ((({ s with draws := s.draws + 1 } : State).writeImage i.toNat b.saveSlot
        { t with remain := left, ctx := some b.saveSlot, st := .saved, braid := none, keyHome := none }).modTok t.id (fun u =>
          { u with remain := left, ctx := some b.saveSlot, st := .saved, braid := none, keyHome := none })).modBraid i.toNat
        (fun b => { b.disarmAll.rest with keySigs := [] })
      ((s.ten t.ten).st ≠ .closing → exec (.contextSaveDone i) s = .next (match b.preempt with | some q => w.dispatchOn q i.toNat | none => w)) ∧
      ((s.ten t.ten).st = .closing → exec (.contextSaveDone i) s = .next (((w.freeCtx t.ten t.id).finish t.id
        { status := 0x42, detail := 0, position := 0, value := 0 }).closeStep t.ten))) ∧
    (∀ st, b.notice = some st → b.issueOver = false → exec (.contextSaveDone i) s = .next
      ((s.freeCtx t.ten t.id).afterBraid i.toNat { b.stopNow st 6 with notice := none }))

/-- R344, R371: an export of a saved token writes its image as records under the migration key named, frees its slot, ends the token with PREEMPTED,
contained (R504), and completes with the count of records, or, as the model reads R344's silence (log 45), with 0x16 where it read a poisoned granule. An import whose records authenticate goes on to check
and place the image; one whose records do not ends with 0x24. -/
def Says.ContextsMove : Prop :=
  (∀ (s : State) (e : Nat) (t u : Token) (key : BitVec 256), s.starts e (selOp 0x38) t = true →
    let b := s.begun t
    let v := t.begun
    let dest := t.body 8 8
    let n := imageRecords (b.imageFold u)
    let r := b.exportImage t.ten (u.ctx.getD 0) dest n key
    t.body 16 1 < 4 → dest + frameLen * n ≤ 2 ^ 48 → b.migKey t.ten (t.body 16 1) = some key →
    b.sch.pool.find? (fun u => v.exTok u && u.st == .saved) = some u → inCtx dest (frameLen * n) = false →
    b.anyUnmapped t.ten dest (frameLen * n) = false → b.anySealedPage t.ten dest (frameLen * n) = false →
    b.needPages t.ten dest (frameLen * n) ≤ b.tierRoom t.ten false + b.tierRoom t.ten true →
    exec (.ctxExport e) s = .next (if r.2 then r.1.finish t.id (Comp.plain Status.poisonedOperand)
      else ((((r.1.freeCtx u.ten u.id).contain u 0x42).finish u.id { status := 0x42, detail := 0, position := 0, value := 0 }).tokWrote t.id t.ten
        ((granulesOf dest (frameLen * n)).map (· / 4096))).finish t.id (Comp.okv 0 n))) ∧
  (∀ (s : State) (e k : Nat) (t : Token) (key : BitVec 256), s.starts e (selOp 0x39) t = true → s.room t.fn ≠ 0 →
    let b := s.begun t
    let src := t.body 0 8
    let n := t.body 8 4
    let r := b.openRecords t.ten src n key
    t.body 12 1 < 4 → src + frameLen * n ≤ 2 ^ 48 → (n = imageRecords true ∨ n = imageRecords false) →
    b.migKey t.ten (t.body 12 1) = some key → b.freeSlotOf t.ten = some k → inCtx src (frameLen * n) = false →
    b.anyUnmapped t.ten src (frameLen * n) = false → b.anySealedPage t.ten src (frameLen * n) = false →
    exec (.ctxImport e) s = .next (match r.2 with
      | some ps => r.1.importImage t.begun k ps
      | none => r.1.finish t.id { status := 0x24, detail := 0, position := 0, value := 0 }))

/-- Kernels and contexts. -/
def Obligations.KernelsStartSaveAndMove : Prop :=
  Says.KernelStarts ∧ Says.SavesEnd ∧ Says.ContextsMove

/-- R34, R69, R157, R274, R328, R329, R504: a token whose kernel has ended commits: its headers are written, its writes pass the fence, and it ends
with OK, or OK_FLAGGED; a token whose kernel has stopped fails with that status; a notice stops the kernel with CLAUSE 6, after the rest of a cycle that is in issue,
and once issue has ended stops nothing; a count that ends sends a
notice of TIMEOUT. -/
def Obligations.TokensEnd : Prop :=
  ∀ (s : State) (i : Bid) (e : Nat) (t : Token), s.live = true → s.tok e = some t →
    let b := s.braid i.toNat
    (b.tok = some e → s.mayRetire i.toNat e = true →
      let w := if b.dmaWaits then s.endDmaWait i.toNat .ended else s
      let f := (w.modBraid i.toNat (fun b => b.endDrain.retireRings.rest)).leaveGroups i.toNat
      exec (.tokenRetire i) s = .next ((((f.writeHeaders t t.dests).fenceTok e).rankCommitted e).finish e
        { status := if t.flagged then 0x01 else 0x00, detail := 0, position := 0, value := 0 } |>.closeStep t.ten)) ∧
    (∀ r, b.tok = some e → s.failure i.toNat = some r → exec (.tokenFail i) s = .next (s.failTok i.toNat e r)) ∧
    (∀ st, b.notice = some st → (b.phase = .loading ∨ b.phase = .issuing ∧ b.issued = []) →
      exec (.stopNoticeArrival i) s = .next (s.afterBraid i.toNat ({ b with notice := none }.stopNow st 6))) ∧
    (∀ st, b.notice = some st → b.phase = .issuing → b.issued ≠ [] → b.stop = none →
      exec (.stopNoticeArrival i) s = .next (s.setBraid i.toNat
        { b with notice := none, stop := some { status := st, pc := b.pc, clause := 6 } })) ∧
    (∀ st, b.notice = some st → b.issueOver = true → exec (.stopNoticeArrival i) s = .next (s.setBraid i.toNat { b with notice := none })) ∧
    (s.schedUp = true → t.braid = some i.toNat → t.st = .running → t.remain ≠ 0 → b.tok = some e →
      exec (.tokenTimeoutExpiry e) s = .next ((s.modTok e (fun t => { t with remain := 0 })).sendNotice i.toNat 0x41))

/-! ## Tenancies -/

/-- R331, R371, R280: TEN_CREATE of a FREE tenancy with its fields in range makes it ACTIVE with the fields named, a drawn XTS key, its context area
mapped and sealed, and a credential, returned in the host buffer, of which it keeps the digest. TEN_SET changes priority, weight, REVEAL_OK, the
braids and the quotas, and nothing else of the tenancy. -/
def Says.TenanciesAreMade : Prop :=
  ∀ (s : State) (e : Nat) (t : Token),
    let n := t.ten
    let b := s.begun t
    let x := b.ten n
    let rq : BitVec 24 := BitVec.ofNat 24 (t.tcQuota false)
    let bq : BitVec 24 := BitVec.ofNat 24 (t.tcQuota true)
    (s.starts e (selOp 0x10) t = true → b.tcRange t = false → x.st = .free → b.tiersReady = true → b.lc = 2 → b.secUp = true → b.drbgOk = true → b.reseed.drbgOk = true →
      (t.tcMirror ≠ 0 → b.cap.belay = true) →
      let d := (b.reseed.giveTen t.tcFn).drbg
      exec (.tenCreate e) s = .next (((d.2.setTen n
        { Ten.init with st := .active, fn := t.tcFn, prio := t.tcPrio, weight := t.tcWeight, revealOk := t.tcReveal, mirror := t.tcMirror
                        ctxslots := BitVec.ofNat 7 t.tcSlots, braids := t.tcBraids, xts := some d.1
                        ring := { quota := rq, alloc := 0 }, bulk := { quota := bq, alloc := 0 }
                        ptes := ctxPages t.tcSlots (b.tierFitted true)
                        mir := { Mirror.init with standby := t.tcMirror == 3, applied := x.mir.applied } }).newCred t.begun).finish t.id
          { status := 0, detail := 0, position := 0, value := 0 })) ∧
    (s.starts e (selOp 0x14) t = true → b.tcRange t = false → t.tcFn = x.fn → t.tcMirror = x.mirror → t.tcSlots = x.ctxslots.toNat →
      exec (.tenSet e) s = .next ((b.setTen n
        { x with prio := t.tcPrio, weight := t.tcWeight, revealOk := t.tcReveal, braids := t.tcBraids
                 ring := { x.ring with quota := rq }, bulk := { x.bulk with quota := bq } }).finishWith t.id
          { status := 0, detail := 0, position := 0, value := 0 } [.tenSet t.tcPrio t.tcWeight t.tcReveal t.tcBraids rq bq]))

/-- R333, R371: KEY_REGISTER adds a key whose keyset, purpose and rotation are new, and completes with the count of keys; a 4,097th or a double is
refused with 0x0A. PRIME_LOAD adds primes that pass their checks; the first record that fails ends it with 0x35 and its index, and adds none.
CHAIN_DEFINE stores a chain that passes its checks. -/
def Says.TenancyTablesFill : Prop :=
  ∀ (s : State) (e : Nat) (t : Token) (bs : List Byte),
    let b := s.begun t
    let x := b.ten t.ten
    let ks : BitVec 16 := BitVec.ofNat 16 (t.body 0 2)
    let pu : BitVec 4 := BitVec.ofNat 4 (t.body 2 1)
    let ro : BitVec 24 := BitVec.ofNat 24 (t.body 4 3)
    let dup := x.keys.any (fun k => k.keyset == ks && k.purpose == pu && k.rotation == ro)
    (s.starts e (selOp 0x13) t = true → t.body 8 8 < 2 ^ 48 →
      exec (.keyRegister e) s = .next (if 4096 ≤ x.keys.length ∨ dup = true then b.finish t.id { status := 0x40, detail := 0x0A, position := 0, value := 0 }
        else (b.setTen t.ten { x with keys := x.keys ++ [{ keyset := ks, purpose := pu, rotation := ro, tva := BitVec.ofNat 48 (t.body 8 8) }] }).finishWith
          t.id (Comp.okv 0 (x.keys.length + 1)) [.key ks pu ro (BitVec.ofNat 48 (t.body 8 8))])) ∧
    (s.starts e (selOp 0x18) t = true → cmdHlen t.cmd % 32 = 0 → 0 < cmdHlen t.cmd → cmdHlen t.cmd ≤ 4096 →
      let rs := chunks 32 128 (slice bs 0 (cmdHlen t.cmd))
      (∀ ps, primesOf x.primes 0 rs = .ok ps → exec (.primeLoad e (some bs)) s = .next
        ((b.setTen t.ten { x with primes := ps }).finishWith t.id (Comp.okv 0 x.primes.length) [.prime rs])) ∧
      (∀ k d, primesOf x.primes 0 rs = .error (k, d) → exec (.primeLoad e (some bs)) s = .next (b.finish t.id
        { status := 0x35, detail := BitVec.ofNat 8 d, position := BitVec.ofNat 32 k, value := 0 }))) ∧
    (s.starts e (selOp 0x19) t = true →
      let r := slice bs 0 (cmdHlen t.cmd)
      (chainCheck x r = none → exec (.chainDefine e (some bs)) s = .next ((b.setTen t.ten
        { x with chains := Sparse.set [] x.chains (leAt r 0 1) r }).finishWith t.id (Comp.okv 0 0) [.chain r])) ∧
      (∀ d, chainCheck x r = some d → exec (.chainDefine e (some bs)) s = .next (b.finish t.id
        { status := 0x35, detail := BitVec.ofNat 8 d, position := 0, value := 0 })))

/-- Tenancies and their tables. -/
def Obligations.TenanciesAreMade : Prop :=
  Says.TenanciesAreMade ∧ Says.TenancyTablesFill

/-- R58–R60: what PRIME_LOAD adds are odd numbers of 3 to 2^60 - 1 that the primality test of R60 passes, no two alike, at most 128 in all; a failed
record is the first that fails. R63: the root of a limb whose entry serves a chain of lower LOG2N is PSI^(2^(entry LOG2N - chain LOG2N)) mod q, and
raised to N it gives q - 1. -/
def Obligations.PrimesAreChecked : Prop :=
  (∀ (ps qs : List Prime) (rs : List (List Byte)) (k : Nat), primesOf ps k rs = .ok qs →
    (∃ l, qs = ps ++ l ∧ l = rs.map primeOf ∧
      ∀ p ∈ l, p.q.toNat % 2 = 1 ∧ 3 ≤ p.q.toNat ∧ p.q.toNat < 2 ^ 60 ∧ Arith.mrPrime p.q.toNat = true) ∧
    ((ps.map (·.q)).Nodup → (qs.map (·.q)).Nodup) ∧ (ps.length ≤ 128 → qs.length ≤ 128)) ∧
  (∀ (ps : List Prime) (rs : List (List Byte)) (k n d : Nat), primesOf ps k rs = .error (n, d) →
    ∃ i r qs, rs[i]? = some r ∧ n = k + i ∧ primesOf ps k (rs.take i) = .ok qs ∧ primeCheck qs r = some d) ∧
  (∀ (x : Ten) (c : ChainD) (j i : Nat) (p : Prime), c.limbs[j]? = some i → x.primes[i]? = some p → c.log2n ≤ p.log2n.toNat →
    p.log2n.toNat ≤ 17 → 1 < p.q.toNat → Arith.powMod p.psi.toNat (2 ^ p.log2n.toNat) p.q.toNat = p.q.toNat - 1 →
    x.rootAt c j = p.psi.toNat ^ (2 ^ (p.log2n.toNat - c.log2n)) % p.q.toNat ∧ x.rootAt c j ^ (2 ^ c.log2n) % p.q.toNat = p.q.toNat - 1)

/-- R335, R285: TEN_CLOSE begins the close; once its pages are freed, no token of it is in work and no frame of it is left to scrub,
TENANCY_CLOSE_COMPLETE makes the tenancy FREE, has its braids forget it, raises the owner's source and completes the command, whose completion comes after those of the
tenancy's tokens. R391: a life-cycle advance that waits for closes goes on. -/
def Says.TenanciesClose : Prop :=
  (∀ (s : State) (e : Nat) (t : Token), s.starts e (selOp 0x11) t = true →
    exec (.tenClose e) s = .next ((s.begun t).beginClose t.ten (t.bodyBit 0 0) 0x40 (some t.id) none)) ∧
  (∀ (s : State) (n : Tid) (c : Closing) (e : Nat), s.schedUp = true →
    let t := s.ten n
    t.closing = some c → c.freed = true → s.tenBusy n = false → s.scrubsOf n = false → c.wiped = none → c.tok = some e →
    s.slotsOf n = [] →
    let a := (s.setTen n t.freed).raise (0x120 + t.fn.toNat)
    let b := (a.braids.filter (fun x => x.2.ten == some n || x.2.storeTen == some n)).foldl (fun u x => u.modBraid x.1 (fun y =>
      { y with ten := if y.ten = some n then none else y.ten, storeTen := if y.storeTen = some n then none else y.storeTen })) a
    let q : State := { b with bist := { b.bist with saved := b.bist.saved.filter (fun x => x.ten != n) } }
    let own := (s.sch.pool.filter (fun u => u.kernel && u.ten == n)).map (·.cmdId)
    let r := (q.modTok e (fun u => { u with deps := own })).finish e
          { status := 0, detail := 0, position := 0, value := 0 }
    exec (.tenancyCloseComplete n) s = .next (match s.lcs.wait with | none => r | some w => r.lcStep w))

/-- R345–R349: a heartbeat makes the function current; an interval that passes loses it, once, raises its source, queues the PF's event where it is the PF (R386), and
orphans its ACTIVE tenancies, holding the completions of their tokens not yet written;
REATTACH by a current function with the credential makes the tenancy ACTIVE under that function, with a new credential and the completions held for
it; a wrong credential is refused and counted, and the eighth closes the tenancy; the end of the grace window closes it too, as does an error in its
tables, which is logged as fatal to it; one found while the tenancy closes stops what still runs. -/
def Says.HostsAreLost : Prop :=
  ∀ (s : State), s.hqUp = true →
    (∀ f : Fn, exec (.heartbeat f) s = .next (s.setFn f { s.fn f with current := true })) ∧
    (∀ f : Fn, (s.fn f).hbInt ≠ 0 → (s.fn f).current = true →
      let a := s.setFn f { s.fn f with lost := true, current := false }
      let b := if (s.fn f).lost = true then a else a.raise (0x140 + f.toNat)
      let c := if (s.fn f).lost = false ∧ f = 0 then b.pfEvent else b
      exec (.heartbeatExpiry f) s = .next ((c.tens.filter (fun x => x.2.st == .active && x.2.fn == f)).foldl (fun u x =>
        u.orphan (BitVec.ofNat 8 x.1)) c)) ∧
    (∀ n : Tid, s.tablesOk = true →
      let u := s.orphan n
      u.ten n = { s.ten n with st := .orphaned, grace := false, lostAt := s.sch.nextId } ∧ (∀ m, m ≠ n → u.ten m = s.ten m) ∧
        (∀ k t, s.tok k = some t → k ∈ s.sch.order →
          (k ∈ u.sch.order ↔ ¬ (t.ten = n ∧ t.holds = true)) ∧ (t.ten = n → t.holds = true → k ∈ u.sch.heldQ))) ∧
    (∃ q : W64, s.events.length < 64 → s.pfEvent.events = s.events ++ [{ event := 1, ten := 0xFF, fn := 0, seq := q }]) ∧
    (∀ n : Tid, (s.ten n).st = .orphaned →
      exec (.graceExpiry n) s = .next ((s.setTen n { s.ten n with grace := true }).beginClose n true 0x40 none (some 0))) ∧
    (∀ (n : Tid) (table : Byte) (ecc : Bool), (s.ten n).st ≠ .free →
      let st : Byte := if ecc then 0x50 else 0x7F
      let a := (s.log Dom.sched 3 cleatDie 0x32 st (some n) [table.setWidth 64]).raise (0x200 + n.toNat)
      ((s.ten n).st ≠ .closing → (s.ten n).closing = none →
        exec (.tenancyFatalError n table ecc) s = .next (a.beginClose n true st none (some 1))) ∧
      (∀ c, (s.ten n).st = .closing → (s.ten n).closing = some c → c.wiped = none → exec (.tenancyFatalError n table ecc) s = .next
        ((a.setTen n { s.ten n with closing := some { c with force := true, status := st, wiped := some 1 } }).stopRunning n st))) ∧
    (∀ (e : Nat) (t : Token), s.starts e (selOp 0x12) t = true →
      let b := s.begun t
      let x := b.ten t.ten
      let v := t.begun
      (b.fn t.fn).current = true → x.st = .orphaned → b.secUp = true → b.drbgOk = true →
      let right := leNat (Crypto.sha512 (leBytes 32 (t.body 0 32))) = x.cred.toNat
      (right →
        let a := ((b.setTen t.ten { x with st := .active, fn := t.fn }).newCred v).modFn t.fn (fun y => { y with lost := false, current := true })
        exec (.reattach e) s = .next (((a.giveHeld t.ten t.fn).1.finish t.id (Comp.okv 0 (a.giveHeld t.ten t.fn).2)).wmRestarts t.ten)) ∧
      (¬ right →
        let a := (b.setTen t.ten { x with fails := x.fails + 1 }).finish t.id { status := 0x40, detail := 0, position := 0, value := 0 }
        exec (.reattach e) s = .next (if x.fails.toNat = 7 then a.graceEnd t.ten else a)))

/-- The ends of tenancies. -/
def Obligations.TenanciesEnd : Prop :=
  Says.TenanciesClose ∧ Says.HostsAreLost

/-! ## The security core -/

/-- R401–R404: ATTEST writes the report over the nonce it was given, signed by the identity key, and CHAIN_GET the certificate chain, with its length
in VALUE. R445: an ATTEST that finds the public-key engine at work waits in its queue, and is served when its turn ends. -/
def Says.ReportsAreSigned : Prop :=
  (∀ (s : State) (e : Nat) (t : Token) (bs : List Byte),
    let b := s.begun t
    let d := slice bs 0 (cmdHlen t.cmd)
    (s.svcStarts e 0x01 t = true → exec (.attest e (some bs)) s = .next (if s.pke.idle = true then (b.attestCmd t.begun d).raise 0x361
      else b.pkeRequest { tok := some t.id, buf := d })) ∧
    (s.svcStarts e 0x02 t = true → exec (.chainGet e) s = .next ((b.emit (.hostWrite t.fn (cmdHbuf t.cmd) b.chain)).finish t.id
      (Comp.okv 0 b.chain.length)))) ∧
  (∀ (s : State) (t : Token) (d : List Byte),
    let m := s.report (cmdActsOn t.cmd) (slice d 512 32)
    s.attestCmd t d = ((s.idSign m).2.emit (.hostWrite t.fn (cmdHbuf t.cmd) (m ++ (s.idSign m).1))).finish t.id (Comp.plain 0x00)) ∧
  (∀ (s : State) (r : PkeReq) (e : Nat) (t : Token), s.secUp = true → s.pke.running = some r → r.tok = some e → s.tok e = some t →
    t.isPke = false → svcOf t.cmd = 0x01 →
    exec .pkeOperationDone s = .next (((State.attestCmd { s with pke := { s.pke with running := none } } t r.buf).raise 0x361).pkeGo))

/-- R407–R409: CHAN_OPEN on a loaded curve whose keys are points of it and whose signature and pin hold derives the channel and answers; a signature
or pin that fails ends it with 0x34 and no channel. R445: with the public-key engine at work it waits in the engine's queue. CHAN_CLOSE of an open
channel zeroes its keys. -/
def Says.ChannelsOpenAndClose : Prop :=
  ∀ (s : State) (e : Nat) (t : Token) (c : Curve) (bs : List Byte),
    let b := s.begun t
    let k := t.body 2 1
    let d := slice bs 0 (cmdHlen t.cmd)
    (s.svcStarts e 0x10 t = true → k < 8 → b.curve k = some c → cmdHlen t.cmd = 6 * c.chanF + 2 * c.chanG + 576 → b.drbgOk = true →
      c.good (chanPoint d 0 c.chanF) = true → c.good (chanPoint d (2 * c.chanF) c.chanF) = true →
      let right := State.chanSigned t.ten c d = true ∧ ∀ p, (b.ten t.ten).pin = some p → p = pinOf d c.chanF k
      (s.pke.idle = true → right → exec (.chanOpen e (some bs)) s = .next ((b.chanAnswer t.begun k c d).raise 0x361)) ∧
      (s.pke.idle = true → ¬ right → exec (.chanOpen e (some bs)) s = .next ((b.finish t.id (Comp.plain 0x34)).raise 0x361)) ∧
      (s.pke.idle = false → exec (.chanOpen e (some bs)) s = .next (b.pkeRequest { tok := some t.id, buf := d }))) ∧
    (s.svcStarts e 0x12 t = true → (b.ten t.ten).chan ≠ none → exec (.chanClose e) s =
      .next (((b.setTen t.ten { b.ten t.ten with chan := none }).keyRecord t.begun [.noChannel]).finish t.id (Comp.plain 0x00)))

/-- R408–R410: a channel record whose tag holds and whose SEQ is above the last has its effect on the tenancy's keys, advances both sequences, and is
acknowledged; one whose tag fails, or whose SEQ is not above, ends with 0x24 and changes no key. The record's type tells WINDOW_KEY, MIGRATION_KEY and
ERASE apart. -/
def Says.ChannelRecordsAct : Prop :=
  ∀ (s : State) (e : Nat) (t : Token) (bs : List Byte) (c : Chan) (r : (Nat → HostBuf → Instr) × (Nat → Bool)),
    r ∈ [(Instr.chanMsg, fun _ => true), (Instr.windowKey, (· == 1)), (Instr.migrationKey, (· == 2)), (Instr.erase, (· == 3))] →
    let b := s.begun t
    let d := slice bs 0 (cmdHlen t.cmd)
    let x := b.ten t.ten
    let seq := leAt d 0 8
    let len := leAt d 10 2
    let p := Crypto.gcmOpen (leBytes 32 c.kc.toNat) (chanIv seq) (d.take 32) (slice d 32 len) (slice d (32 + len) 16)
    s.svcStarts e 0x11 t = true → r.2 (leAt bs 8 2) = true → 48 ≤ cmdHlen t.cmd → cmdHlen t.cmd ≤ 4096 → cmdHlen t.cmd = 48 + len →
    x.chan = some c → c.seqD.toNat < 2 ^ 32 →
    (∀ q, p = some q → c.seqC.toNat < seq →
      let f := x.chanEffect (leAt d 8 2) q
      let a := b.setTen t.ten { f.1 with chan := some { c with seqC := BitVec.ofNat 64 seq, seqD := c.seqD + 1 } }
      exec (r.1 e (some bs)) s = .next (((if f.2.2 = [] then a else a.keyRecord t.begun f.2.2).emit (.hostWrite t.fn (cmdHbuf t.cmd)
        (ackRecord c.kd (c.seqD + 1).toNat seq f.2.1))).finish t.id (Comp.plain 0x00))) ∧
    (p = none ∨ seq ≤ c.seqC.toNat → exec (r.1 e (some bs)) s = .next (b.finish t.id (Comp.plain 0x24)))

/-- Services of the security core. -/
def Obligations.SecurityServices : Prop :=
  Says.ReportsAreSigned ∧ Says.ChannelsOpenAndClose ∧ Says.ChannelRecordsAct

/-- R389–R393: LC_ADVANCE with a certificate for a legal transition, signed as that transition asks, begins the transition where every tenancy is
FREE; with FORCE it closes the tenancies that are not first, and waits for their closes; without it, it ends with 0x0A. One not so authorised ends
with 0x34; one that finds a transition in work waits. R445: the signatures are checked at the public-key engine, at once where it is idle and else in
their turn. Whatever a request holds, only the transitions of R389 are authorised. -/
def Says.LifeCycleAdvances : Prop :=
  let serve : State → Token → List Byte → State := fun b t d =>
    let w : LcWait := { target := leAt d 4 1, opKey := Crypto.digest (slice d 64 516) }
    let idle := fun (u : State) => u.tens.all (fun x => x.2.st == .free)
    if b.lcAuthorised d w.target = false then b.newNonce.finish t.id (Comp.plain 0x34)
    else if idle b = true then b.lcGo w.target w.opKey
    else if t.bodyBit 2 0 = false then b.newNonce.finish t.id { status := 0x40, detail := 0x0A, position := 0, value := 0 }
    else if idle b.forceAll = true then b.forceAll.lcGo w.target w.opKey
    else { b.forceAll with lcs := { b.forceAll.lcs with wait := some w } }
  (∀ (s : State) (e : Nat) (t : Token) (bs : List Byte),
    let b := s.begun t
    let d := slice bs 0 (cmdHlen t.cmd)
    (s.lcs.wait ≠ none → exec (.lcAdvance e (some bs)) s = .next s) ∧
    (s.svcStarts e 0x20 t = true → b.drbgOk = true → s.lcs.wait = none →
      (b.pke.idle = true → exec (.lcAdvance e (some bs)) s = .next ((serve b t d).raise 0x361)) ∧
      (b.pke.idle = false → exec (.lcAdvance e (some bs)) s = .next (b.pkeRequest { tok := some t.id, buf := d })))) ∧
  (∀ (s : State) (r : PkeReq) (e : Nat) (t : Token), s.secUp = true → s.pke.running = some r → r.tok = some e → s.tok e = some t →
    t.isPke = false → svcOf t.cmd = 0x20 →
    let z : State := { s with pke := { s.pke with running := none } }
    z.drbgOk = true →
    (s.lcs.wait = none → exec .pkeOperationDone s = .next ((serve z t r.buf).raise 0x361).pkeGo) ∧
    (s.lcs.wait ≠ none → exec .pkeOperationDone s = .next ((z.newNonce.finish t.id (Comp.plain 0x34)).raise 0x361).pkeGo)) ∧
  (∀ (s : State) (d : List Byte) (target : Nat), s.lcAuthorised d target = true →
    (s.lc, target) ∈ lcMoves ∧ leAt d 16 8 = s.lcs.nonce.toNat ∧ leAt d 8 8 = s.fuses.serial.toNat)

/-- R404, R406, R419, R511: BBX_CLEAR under the operator's signature empties the first-fault area and logs the clear; DEBUG_UNLOCK under the
designer's wipes scratchpads, sentence stores and operand memory before it unlocks; each then draws a fresh nonce, and without its signature changes
nothing else. R445: their signatures too take their turn at the public-key engine. -/
def Says.SignedCommands : Prop :=
  let clear : State → Token → List Byte → State := fun b t d =>
    if b.certOk d 0xFF = true ∧ b.opSigned d = true then
      ((({ b with die := { b.die with ffa := [] } } : State).log Dom.security 0 cleatDie 0x0081 0 none [b.lcs.nonce]).newNonce).finish t.id (Comp.plain 0x00)
    else b.newNonce.finish t.id (Comp.plain 0x34)
  let unlock : State → Token → List Byte → State := fun b t d =>
    if b.certOk d 0xFE = true ∧ noOp d = true ∧ b.dlSigned d = true then
      ({ b with braids := Sparse.mapAll Braid.init b.braids (fun _ x => x.wipeStores), pke := { b.pke with slots := [] }
                lcs := { b.lcs with unlocked := true } } : State).newNonce.finish t.id (Comp.plain 0x00)
    else b.newNonce.finish t.id (Comp.plain 0x34)
  ∀ (r : (Nat → HostBuf → Instr) × Nat × (State → Token → List Byte → State)), r ∈ [(Instr.bbxClear, 0x21, clear), (Instr.debugUnlock, 0x22, unlock)] →
    (∀ (s : State) (e : Nat) (t : Token) (bs : List Byte), s.svcStarts e r.2.1 t = true → (s.begun t).drbgOk = true → s.lcs.wait = none →
      let b := s.begun t
      let d := slice bs 0 (cmdHlen t.cmd)
      exec (r.1 e (some bs)) s = .next (if b.pke.idle = true then (r.2.2 b t d).raise 0x361 else b.pkeRequest { tok := some t.id, buf := d })) ∧
    (∀ (s : State) (q : PkeReq) (e : Nat) (t : Token), s.secUp = true → s.pke.running = some q → q.tok = some e → s.tok e = some t →
      t.isPke = false → svcOf t.cmd = r.2.1 → s.lcs.wait = none →
      let z : State := { s with pke := { s.pke with running := none } }
      z.drbgOk = true → exec .pkeOperationDone s = .next ((r.2.2 z t q.buf).raise 0x361).pkeGo)

/-- Signed commands. -/
def Obligations.LifeCycleCommands : Prop :=
  Says.LifeCycleAdvances ∧ Says.SignedCommands

/-- R421, R488, R489: BIST_REQ of a braid that runs nothing takes it off the candidate lists, saves what it holds in reserved frames of the ring tier
under a drawn key, resets it and tests it at 0.8 GHz (step 16); the end of the test gives the contents back only where the braid passed
whole, and completes the command. -/
def Says.FieldTests : Prop :=
  (∀ (s : State) (e : Nat) (t : Token), s.svcStarts e 0x30 t = true →
    let b := s.begun t
    let i := t.body 2 1
    let x := b.braid i
    let k := b.drbg
    let d := if x.ten.isSome then k.2.saveWords (k.2.saveBase i) k.1 x.sp else b
    let a := (((d.setBraidReady i false).resetBraid i).setPwrBraid i
      { ((d.setBraidReady i false).resetBraid i).pwrBraid i with step := 16 })
    i < 64 → b.fitted (i / 4) = true → b.bistBusy i = false → (x.ten ≠ none → b.drbgOk = true) →
    exec (.bistReq e) s = .next { a with bist := { a.bist with
      infield := some (BitVec.ofNat 6 i), tok := some t.id
      saved := x.ten.map (fun n => { key := k.1, spPoison := x.spPoison, sealMap := x.sealMap, ten := n }) } }) ∧
  (∀ (s : State) (r : BraidResult) (e : Nat) (x : SavedSp), s.secUp = true → s.bist.infield = some r.braid → s.bist.tok = some e →
    s.bist.saved = some x →
    let a := ({ s with bist := { s.bist with infield := none, tok := none, saved := none } } : State).braidTested r false
    exec (.infieldBistDone r) s = .next ((if s.outcomeOf r = .full then a.modBraid r.braid.toNat (fun b =>
      { b with sp := a.savedWords (a.saveBase r.braid.toNat) x.key, spPoison := x.spPoison, sealMap := x.sealMap, ten := some x.ten }) else a).finish e (Comp.plain 0x00)))

/-- R412, R413, R415, R406: a window of noise fails the health tests when 41 samples in a row are alike, the row going on from window to window, or when the
first sample's value comes 800 times in it; a failing window is discarded and counted by test, and the third in a row fails the source. Once the start-up
test has passed, the DRBG is instantiated from conditioned noise that passed and SERIAL, is ready, and a nonce is drawn. A source that fails makes it not
ready, and is logged and raised as source 0x360. The windows that no row brings are free values; how a window is conditioned is log 100's. -/
def Says.EntropySource : Prop :=
  (∀ (l : Lcs) (w : BitVec 1024),
    let runs := repCount (l.trng.last, l.trng.run, false) (samples w)
    let a := decide (800 ≤ ((samples w).filter (· == w.getLsbD 0)).length)
    (l.window w).1 = !(runs.2.2 || a) ∧
    (l.window w).2.rct = (if runs.2.2 = true then BitVec.ofNat 16 (satAdd 16 l.rct.toNat 1) else l.rct) ∧
    (l.window w).2.apt = (if a = true then BitVec.ofNat 16 (satAdd 16 l.apt.toNat 1) else l.apt) ∧
    (l.window w).2.trng.bad = (if (l.window w).1 = true then 0 else l.trng.bad + 1)) ∧
  (∀ (last : Option Bool) (run : Nat) (bs : List Bool), (repCount (last, run, false) bs).2.2 = true ↔
    ∃ k n, n ≤ bs.length ∧ k < n ∧ (∀ j, k ≤ j → j < n → bs[j]? = bs[k]?) ∧
      41 ≤ n - k + (if k = 0 ∧ last = bs[0]? then run else 0)) ∧
  (∀ (s : State), s.secUp = true → s.sys.unserv = false → s.lcs.failed = false → s.ready .drbg = false →
    let x := State.entropy { s with lcs := s.lcs.startup (Config.startup s.draws) }
    (x.2.lcs.trng.bad < 3 →
      x.1.length = 48 ∧
      exec .trngStartupTestDone s = .next ((({ x.2 with lcs := { x.2.lcs with
        ok := true, gens := 0, drbg := Crypto.Drbg.instantiate x.1 (leBytes 8 s.fuses.serial.toNat) } } : State).setReady .drbg true).newNonce)) ∧
    (3 ≤ x.2.lcs.trng.bad → exec .trngStartupTestDone s = .next (({ x.2 with lcs := { x.2.lcs with
      failed := true, ok := false, trng := { x.2.lcs.trng with due := true } } } : State).setReady .drbg false))) ∧
  (∀ (s : State) (ws : List (BitVec 1024)), s.secUp = true → s.waitingDraws = [] →
    let report : State → State := fun u =>
      (({ u with lcs := { u.lcs with trng := { u.lcs.trng with due := false } } } : State).log Dom.security 2 cleatDie 0x0060 0 none
        [if u.lcs.trng.apt = true then 1 else 0]).raise 0x360
    (s.lcs.trng.due = true → exec (.entropySourceFail ws) s = .next (report s)) ∧
    (s.lcs.trng.due = false → s.lcs.failed = false → (s.lcs.windows ws).trng.bad = 3 → (s.lcs.windows ws.dropLast).trng.bad = 2 →
      let l := s.lcs.windows ws
      exec (.entropySourceFail ws) s = .next (report (({ s with lcs := { l with
        failed := true, ok := false, trng := { l.trng with due := true } } } : State).setReady .drbg false))))

/-- Tests in the field and the entropy source. -/
def Obligations.TestsAndEntropy : Prop :=
  Says.FieldTests ∧ Says.EntropySource

/-! ## The public-key engine -/

/-- R429–R431, R445: a command of the engine that starts while the engine is idle runs at once when it passes its checks; one that fails one ends at
once with that check's status, and writes no slot. -/
def Says.EngineTakesCommands : Prop :=
  ∀ (s : State) (e : Nat) (t : Token), s.ready .pke = true → s.pkeIdle = true →
    let b := s.begun t
    (∀ r ∈ pkeRows, s.starts e (selPke r.2) t = true → b.pkeCheck t = none →
      exec (r.1 e) s = .next { b with pke := { b.pke with queue := [], running := some { tok := some t.id, buf := [] } } }) ∧
    (∀ r ∈ pkeRows, ∀ st d, s.starts e (selPke r.2) t = true → b.pkeCheck t = some (st, d) →
      exec (r.1 e) s = .next ((({ b with pke := { b.pke with queue := [], last := st } } : State).finish t.id
        { status := st, detail := BitVec.ofNat 8 d, position := 0, value := 0 }).raise 0x361)) ∧
    (∀ bs : List Byte, b.pkeCheck t = none →
      let d := slice bs 0 (cmdHlen t.cmd)
      let run : State := { b with pke := { b.pke with queue := [], running := some { tok := some t.id, buf := d } } }
      (s.starts e (selPke 0x03) t = true → exec (.pkeWrite e (some bs)) s = .next run) ∧
      (s.starts e (selPke 0x30) t = true → cmdHlen t.cmd = 16 + 40 * leAt d 1 1 + 8 * leAt d 2 1 →
        exec (.curveLoad e (some bs)) s = .next run))

/-- R430, R432, R444: the running operation ends with its result in DST, its status, and the time of R444, or of its early end, in VALUE, raises
source 0x361 and the engine takes the next request. MADD, MSUB and MMUL of sources below an odd modulus of at least 3 give the exact residue; MINV the
inverse; MEXP the power. -/
def Says.EngineResults : Prop :=
  (∀ (s : State) (r : PkeReq) (e : Nat) (t : Token), s.secUp = true → s.pke.running = some r → r.tok = some e → s.tok e = some t → t.isPke = true →
    let s0 : State := { s with pke := { s.pke with running := none } }
    let x := s0.pkeRun t r.buf
    ∀ n : Nat, (x.2.early = some n ∨ x.2.early = none ∧ s0.pkeTime t = some n) →
    exec .pkeOperationDone s = .next ((({ x.1 with pke := { x.1.pke with last := x.2.status } } : State).finish t.id
      { status := x.2.status, detail := BitVec.ofNat 8 x.2.detail, position := 0, value := BitVec.ofNat 64 n }).raise 0x361).pkeGo) ∧
  (∀ (s : State) (t : Token) (bs : List Byte), 
    let m := s.val t.pM
    let a := s.val t.pA
    let b := s.val t.pB
    let sealed := (pkeSrc t).any s.slotSealed
    m % 2 = 1 → 3 ≤ m → a < m →
    (∀ y ∈ modRows, t.pOp = y.1 → b < m → s.pkeRun t bs = (s.putSlot t.pDst (y.2 m a b) sealed false, .ok)) ∧
    (∀ v, t.pOp = 0x13 → Arith.invMod a m = some v → s.pkeRun t bs = (s.putSlot t.pDst (v % m) sealed false, .ok)) ∧
    (t.pOp = 0x14 → s.pkeRun t bs = (s.putSlot t.pDst (Arith.powMod a (s.val t.pE) m % m) sealed false, .ok))) ∧
  (∀ (s : State) (i v : Nat) (sealed inf : Bool) (x : PkeSlot), s.slot i = some x → x.bound = none → s.tablesOk = true →
    (s.putSlot i v sealed inf).slot i = some { x with val := BitVec.ofNat 8192 (v % 2 ^ (64 * x.width)), sealed := sealed, inf := inf })

/-- The public-key engine. -/
def Obligations.EngineRuns : Prop :=
  Says.EngineTakesCommands ∧ Says.EngineResults

/-- R432: a modular operation whose modulus is even or below 3, or a source of which other than an exponent is not below the modulus, runs for its
full time, writes zero to DST and ends with OPERAND_RANGE. MINV of an A without an inverse modulo M writes zero and ends with NO_INVERSE in the full time. An
exponent of zero gives 1, and every result lies below M. DST may be any slot, a source too. -/
def Says.ModularRange : Prop :=
  ∀ (s : State) (r : PkeReq) (e : Nat) (t : Token) (n : Nat), s.secUp = true → s.pke.running = some r → s.pke.queue = [] → s.pke.entering = [] → r.tok = some e →
    s.tok e = some t → t.isPke = true →
    let z : State := { s with pke := { s.pke with running := none } }
    z.pkeTime t = some n → t.pOp ∈ [0x10, 0x11, 0x12, 0x13, 0x14] →
    let m := s.val t.pM
    let srcs := if t.pOp < 0x13 then [t.pA, t.pB] else [t.pA]
    let sealed := (pkeSrc t).any s.slotSealed
    let ends := fun (v : Nat) (st : Byte) =>
      let u := z.putSlot t.pDst v sealed false
      (({ u with pke := { u.pke with last := st } } : State).finish t.id { status := st, detail := 0, position := 0, value := BitVec.ofNat 64 n }).raise 0x361
    ((m % 2 = 0 ∨ m < 3 ∨ ∃ i ∈ srcs, m ≤ s.val i) → exec .pkeOperationDone s = .next (ends 0 0x30)) ∧
    (m % 2 = 1 → 3 ≤ m → (∀ i ∈ srcs, s.val i < m) →
      (t.pOp = 0x13 → (∀ v, s.val t.pA * v % m ≠ 1) → exec .pkeOperationDone s = .next (ends 0 0x31)) ∧
      (t.pOp = 0x14 → s.val t.pE = 0 → exec .pkeOperationDone s = .next (ends 1 0x00)) ∧
      ∃ v < m, exec .pkeOperationDone s = .next (ends v 0x00) ∨ exec .pkeOperationDone s = .next (ends v 0x31))

/-- R430: the modular power of the engine is the power, and its inverse is an inverse. -/
def Says.PowersAndInverses : Prop :=
  (∀ a e m : Nat, 0 < m → e < 2 ^ 8192 → Arith.powMod a e m = a ^ e % m) ∧
  (∀ a m v : Nat, 1 < m → a < m → Arith.invMod a m = some v → a * v % m = 1 ∧ v < m)

/-- Modular operations in and out of range. -/
def Obligations.ModularRange : Prop :=
  Says.ModularRange ∧ Says.PowersAndInverses

/-- R438: MSIGN of an A that is not below n, or with an n that is no odd modulus of at least 3, ends with OPERAND_RANGE and a zero DST. Else the
engine computes v = A^d mod n and raises it to e: when that gives A, v goes to DST open; when not, DST is zero, of the most sealed case of the
sources, the status is SIGN_CHECK_FAIL and SIGNFAIL counts. The time does not depend on which. -/
def Says.SignaturesAreChecked : Prop :=
  ∀ (s : State) (t : Token) (bs : List Byte), t.pOp = 0x15 →
    let w := s.width t.pB
    let pub := s.val (match s.bindOf t.pB with | some b => b.peer | none => 0)
    let n := pub % 2 ^ (64 * w)
    let e := pub / 2 ^ (64 * w) % 2 ^ 64
    let a := s.val t.pA
    let v := a ^ (s.val t.pB) % n
    let zero := s.putSlot t.pDst 0 ((pkeSrc t).any s.slotSealed) false
    ((n % 2 = 0 ∨ n < 3 ∨ n ≤ a) → s.pkeRun t bs = (zero, { status := 0x30, detail := 0, early := none })) ∧
    (n % 2 = 1 → 3 ≤ n → a < n →
      (v ^ e % n = a → s.pkeRun t bs = ((s.putSlot t.pDst v false false).modTen t.ten (fun x => { x with reveals := x.reveals + 1 }), .ok)) ∧
      (v ^ e % n ≠ a → s.pkeRun t bs = ({ zero with pke := { zero.pke with
        signFail := BitVec.ofNat 16 (min (zero.pke.signFail.toNat + 1) 65535) } }, { status := 0x34, detail := 0, early := none }))) ∧
    (∀ u : State, u.width t.pB = w → u.pkeTime t = s.pkeTime t)

/-- R425, R427, R431: a sealed slot leaves the engine by no READ, and by EXPORT to no page but a sealed one; a slot of another tenancy, or one of the
first four, is named by no command. -/
def Says.SealedSlotsStay : Prop :=
  ∀ (s : State) (t : Token), s.pkeCheck t = none →
    (∀ i ∈ pkeDst t ++ pkeSrc t, 4 ≤ i ∧ ∃ x, s.slot i = some x ∧ x.ten = t.ten) ∧
    (t.pOp = 0x04 → s.slotSealed t.pA = false) ∧
    (t.pOp = 0x06 → s.slotSealed t.pA = true → s.allSealedPage t.ten t.pTva (s.pkeLen t) = true)

/-- Signatures are checked before release, and sealed slots stay in. -/
def Obligations.SlotsAndSignatures : Prop :=
  Says.SignaturesAreChecked ∧ Says.SealedSlotsStay

/-! ## Power, resets and bring-up -/

/-- R473, R480, R536, R537: input applied brings up the management port and nothing of what stood in memory, tenancies, windows or the kept images.
Input lost leaves only fuses and record die. -/
def Says.PowerComesAndGoes : Prop :=
  (∀ (s : State) (straps : BitVec 4), s.pins.powered = false →
    Ends (exec (.powerOn straps) s) (fun t => t.pins.powered = true ∧ t.ready .mgmt = true ∧ t.ready .sec = false ∧ t.mem = Mem.init ∧
      t.tens = [] ∧ t.wins = [] ∧ t.braids = [] ∧ t.fuses = s.fuses ∧ t.sys.resetReq = none ∧ t.boot = Boot.init ∧ t.pending = s.pending)) ∧
  (∀ (s : State), s.pins.powered = true → exec .inputLoss s =
    .next { State.reset with pending := s.pending, out := s.out, draws := s.draws, fuses := s.fuses, die := s.die })

/-- R391, R471, R480, R505: a package reset runs once it is asked for, that of a life-cycle transition after its entry is stored; every tenancy, window and braid is at its reset, device memory stands until its wipe, the kept
image set is verified again, and fuses keep what they hold. A security-domain reset leaves the engine and its slots at reset and its units not ready. -/
def Says.ResetsReach : Prop :=
  (∀ (s : State) (k : BitVec 3), s.sys.resetReq = some k → s.pins.powered = true → (k = 1 → s.allFree = true) →
    (k = 2 → s.transitionQueued = false) →
    Ends (exec .packageReset s) (fun t => t.tens = [] ∧ t.wins = [] ∧ t.braids = [] ∧ t.splices = [] ∧ t.mem.cells = s.mem.cells ∧
      t.mem.wc = [] ∧ t.fuses = s.fuses ∧ t.lcs = { Lcs.init with keys := true, cause := if k = 2 then 2 else 1, wipes := s.lcs.wipes + 1 } ∧ t.boot = s.boot.again ∧ t.sys.resetReq = none ∧ t.sys.safe = none ∧ t.ready .sec = false ∧
      t.ready .mgmt = true ∧ t.pending = s.pending)) ∧
  (∀ (s : State), s.sys.resetReq = some 2 → s.transitionQueued = true → exec .packageReset s = .next s) ∧
  (∀ (s : State), s.secDomainReset.pke = Pke.init ∧ s.secDomainReset.lcs = { Lcs.init with keys := true } ∧ s.secDomainReset.ready .sec = false ∧ s.secDomainReset.ready .pke = false ∧
    s.secDomainReset.ready .drbg = false ∧ s.secDomainReset.ready .fw = false ∧ s.secDomainReset.fuses = s.fuses)

/-- Power and resets. -/
def Obligations.ResetsReach : Prop :=
  Says.PowerComesAndGoes ∧ Says.ResetsReach

/-- R392: LCS.STATE.STATE is the highest state whose fuse word has at least 24 bits programmed. A word that the security core finds, at its start,
with 1 to 23 bits programmed has the rest of it programmed before anything else, and the package reset that ends a transition (R391 step 5) is asked
for: a transition cut short is complete after the next start, and the state is never lower than it was. -/
def Obligations.CutTransitions : Prop :=
  (∀ (s : State), (∀ j w, s.fuses.words[j]? = some w → 24 ≤ popcount (w.setWidth 64) → j + 1 ≤ s.lc) ∧
    (s.lc = 0 ∨ ∃ w, s.fuses.words[s.lc - 1]? = some w ∧ 24 ≤ popcount (w.setWidth 64))) ∧
  (∀ (s : State) (r : BootConfirm) (v : Verified), s.pins.powered = true → s.sys.safe = none → s.boot.state = 2 → s.ready .sec = false →
    s.sys.resetReq ≠ some 2 → s.boot.digests = [] → s.verifyFirst = .ok v →
    let cut := fun (w : BitVec 32) => decide (1 ≤ popcount (w.setWidth 64) ∧ popcount (w.setWidth 64) ≤ 23)
    s.fuses.words.any cut = true →
    Ends (exec (.fwVerifyDone r) s) (fun t =>
      t.fuses.words = s.fuses.words.map (fun w => if cut w then 0xFFFFFFFF else w) ∧ t.sys.resetReq = some 2 ∧ t.ready .sec = false ∧
      (∀ j w, s.fuses.words[j]? = some w → cut w = true → j + 1 ≤ t.lc) ∧ s.lc ≤ t.lc))

/-- R472: RDY.CTL.PKG_RESET and SEC_RESET take effect only when every tenancy is FREE; otherwise the write is ignored and REFUSED is set, also
where a tenancy was made before the reset took effect. A package reset keeps the delivered image set, which then waits to be verified again as if just delivered; a power-on discards it. -/
def Obligations.ResetRequests : Prop :=
  (∀ (s : State), s.rdyCtl 0 = true →
    (s.allFree = true → exec (.pkgReset 0) s = .next { s with sys := { s.sys with resetReq := some 1 } }) ∧
    (s.allFree = false → exec (.pkgReset 0) s = .next { s with rdy := { s.rdy with refused := true } }) ∧
    (s.allFree = true → exec (.secReset 0) s = .next s.secDomainReset) ∧
    (s.allFree = false → exec (.secReset 0) s = .next { s with rdy := { s.rdy with refused := true } })) ∧
  (∀ (s : State) (k : BitVec 3), s.sys.resetReq = some k → s.pins.powered = true → s.boot.kept = true → (k = 1 → s.allFree = true) →
    (k = 2 → s.transitionQueued = false) →
    Ends (exec .packageReset s) (fun t => t.boot.kept = true ∧ t.boot.image = s.boot.image ∧ t.boot.total = s.boot.total ∧
      t.boot.received = s.boot.received ∧ t.boot.state = 2)) ∧
  (∀ (s : State), s.sys.resetReq = some 1 → s.pins.powered = true → s.allFree = false → exec .packageReset s =
    .next { s with sys := { s.sys with resetReq := none }, rdy := { s.rdy with refused := true } }) ∧
  (∀ (s : State) (straps : BitVec 4), s.pins.powered = false → Ends (exec (.powerOn straps) s) (fun t => t.boot = Boot.init))

/-- R354, R364, R476: a reset of the control port, of a function or of the VFs leaves memory, windows, splices and braids as they are; the control
port is not ready and takes its VFs with it, a bulk port is not ready; a function's rings count again from SEQ 0 under the next SEQGEN. -/
def Says.PortResets : Prop :=
  (∀ (s : State), s.pins.powered = true →
    Ends (exec .controlPortReset s) (fun t => t.sys.ctrlUp = false ∧ t.sys.vfs = 0 ∧ t.ready .ctrl = false ∧
      t.die.ctrlResets = s.die.ctrlResets + 1 ∧ t.mem = s.mem ∧ t.wins = s.wins ∧ t.splices = s.splices ∧ t.braids = s.braids)) ∧
  (∀ (s : State) (f : Fn) (q : BitVec 2), s.pins.powered = true → s.tablesOk = true →
    Ends (exec (.functionLevelReset f) s) (fun t => (t.sq f q).seq = 0 ∧ (t.sq f q).seqgen = (s.sq f q).seqgen + 1 ∧ (t.sq f q).en = false ∧
      t.mem = s.mem ∧ t.wins = s.wins ∧ t.splices = s.splices ∧ t.braids = s.braids)) ∧
  (∀ (s : State), s.pins.powered = true →
    Ends (exec .vfEnableClear s) (fun t => t.sys.vfs = 0 ∧ t.mem = s.mem ∧ t.wins = s.wins ∧ t.splices = s.splices ∧ t.braids = s.braids)) ∧
  (∀ (s : State) (p : Port), s.pins.powered = true → (∀ w ∈ s.wins, w.2.st = .open_ → w.2.onPort p = false) →
    let q := (s.setPort p { s.port p with up := false, bufs := [], d3hot := false }).setLink (match p with | .a => .bulkA | .b => .bulkB) none
    let d := ({ q with sys := { q.sys with cfgLoaded := q.sys.cfgLoaded &&& ~~~(BitVec.ofNat 3 (2 ^ (portNum p + 1))) } } : State).setReady
      (match p with | .a => .bulkA | .b => .bulkB) false
    exec (.bulkPortReset p) s = .next (if p = .b ∧ s.cap.belay = true then s.belayReset
      else if (s.port p).up then d.raise (0x341 + portNum p) else d))

/-- R352, R357, R387, R480, R481: PERST# released lets a PHY train; a port whose PERST# is released comes up with a link of its widths; the host
enables its VFs, those above 7 under ARI; loaded configuration spaces, those of the ports whose PERST# is
released, make the control port ready on a serviceable module, and a bulk port that is there and has passed its test. -/
def Says.PortsComeUp : Prop :=
  ∀ (s : State), s.pins.powered = true →
    (∀ p : PciePort, exec (.perstRelease p) s = .next { s with pins := { s.pins with perst := s.pins.perst ||| BitVec.ofNat 3 (2 ^ pcieNum p) } }) ∧
    (∀ (l : PcieLink) (v : Fn) (ari : Bool),
      (s.pins.perst.getLsbD 0 = true → s.linkLegal .control l = true →
        (7 < v.toNat → ari = true) →
        exec (.pcieLinkUp ⟨.control, l, v, ari⟩) s = .next (({ s with sys := { s.sys with ctrlUp := true, vfs := v } } : State).setLink .control (some l))) ∧
      (s.pins.perst.getLsbD 1 = true → s.linkLegal .bulkA l = true → s.cap.bulkA = true →
        exec (.pcieLinkUp ⟨.bulkA, l, v, ari⟩) s = .next ((s.setPort .a { s.port .a with up := true }).setLink .bulkA (some l))) ∧
      (s.pins.perst.getLsbD 2 = true → s.linkLegal .bulkB l = true → s.cap.bulkB = true →
        exec (.pcieLinkUp ⟨.bulkB, l, v, ari⟩) s = .next ((s.setPort .b { s.port .b with up := true }).setLink .bulkB (some l)))) ∧
    (s.ready .mgmt = true → s.sys.unserv = false →
      let tested := fun (u : Nat) => (s.unit u).result = 1 ∨ (s.unit u).result = 2
      Ends (exec .configSpaceLoadDone s) (fun t => t.sys.cfgLoaded = s.sys.cfgLoaded ||| s.pins.perst ∧
        (t.ready .ctrl = true ↔ s.ready .ctrl = true ∨ s.pins.perst.getLsbD 0 = true) ∧
        (t.ready .bulkA = true ↔ s.ready .bulkA = true ∨ (s.pins.perst.getLsbD 1 = true ∧ s.portAvail .a = true ∧ tested 70)) ∧
        (t.ready .bulkB = true ↔ s.ready .bulkB = true ∨ (s.pins.perst.getLsbD 2 = true ∧ s.portAvail .b = true ∧ tested 78)) ∧
        t.mem = s.mem ∧ t.braids = s.braids)) ∧
    (∀ f : Fn, s.fnEnabled f = true ↔ f.toNat ≤ s.sys.vfs.toNat)

/-- Ports. -/
def Obligations.PortsResetAndRise : Prop :=
  Says.PortResets ∧ Says.PortsComeUp

/-- R385, R394–R398: an image set is begun, delivered in order and ended, each message answered; data out of order is answered with 0x02 and changes
nothing; image 0 starts the security core when it verifies; once the DRBG is up, the rest of the set is verified and the tests begin, and a set that does not
verify runs no image. R392: with image 0 verified, a fuse word cut short is
completed first, and asks for the reset that the transition did not reach. FW_STATUS and GET_RDY report and change nothing. -/
def Says.ImagesAreDelivered : Prop :=
  ∀ (s : State), s.mgmtUp = true →
    let b := s.boot
    (∀ len : BitVec 32, b.state = 0 → len.toNat ≤ 4202496 → exec (.fwBegin len) s =
      .next (({ s with boot := { Boot.init with state := 1, total := len, held := b.held } } : State).respond 0x01 [0x00])) ∧
    (∀ (off : BitVec 32) (d : List Byte), b.state = 1 → off = b.received → 0 < d.length → d.length ≤ 4096 → off.toNat + d.length ≤ b.total.toNat →
      exec (.fwData off d) s = .next (({ s with boot := { b with
        received := BitVec.ofNat 32 (off.toNat + d.length), image := b.image ++ d } } : State).respond 0x02 [0x00])) ∧
    (∀ (off : BitVec 32) (d : List Byte), d.length ≤ 4152 → b.state = 1 → off ≠ b.received → exec (.fwData off d) s =
      .next (s.respond 0x02 [0x02])) ∧
    (b.state = 1 → exec .fwEnd s = .next (({ s with boot := { b with state := 2, kept := true } } : State).respond 0x03 [0x00])) ∧
    exec .fwStatus s = .next (s.respond 0x04 ([0x00, BitVec.ofNat 8 b.state.toNat, b.fail] ++ leBytes 4 b.received.toNat)) ∧
    exec .getRdy s = .next (s.respond 0x05 ([0x00] ++ leBytes 4 (fld s.rdySummary 0 32))) ∧
    (∀ r : BootConfirm, s.sys.safe = none → b.state = 2 → s.ready .sec = false → s.sys.resetReq ≠ some 2 →
      exec (.fwVerifyDone r) s = .next (if b.digests ≠ [] then s.secAgain else match s.verifyFirst with
        | .error c => s.fwFail c
        | .ok _ => if s.fuses.words.map completeWord ≠ s.fuses.words then
            { s with fuses := { s.fuses with words := s.fuses.words.map completeWord }, sys := { s.sys with resetReq := some 2 } }
          else s.setReady .sec true)) ∧
    (∀ r : BootConfirm, s.sys.safe = none → b.state = 2 → s.ready .sec = true → s.sys.resetReq ≠ some 2 → b.digests = [] →
      (s.drbgOk = true → exec (.fwVerifyDone r) s = .next (match s.verifyFirst with
        | .error c => s.fwFail c
        | .ok v => match s.verifyRest v with | .error c => s.fwFail c | .ok v => s.fwPass v r)) ∧
      (s.drbgOk = false → exec (.fwVerifyDone r) s = .next s)) ∧
    (∀ v r, (s.fwPass v r).bist.running = true ∧ (s.fwPass v r).bist.left = (List.range 25).map (· + 64) ∧ (s.fwPass v r).boot.rest = some r ∧
      ∀ x, (s.fwPass v r).ready x = s.ready x) ∧
    s.secAgain.ready .sec = true ∧
    (∀ c, (s.fwFail c).boot.state = 4 ∧ (s.fwFail c).boot.fail = c ∧ (s.fwFail c).ready .sec = false ∧ (s.fwFail c).ready .fw = false)

/-- R131, R466, R480, R483–R485, R491, R501: the test of a unit is entered in BST: it passes where its spares sufficed and its signature is the fused golden
one, with its repairs and runs counted; the units of cores are tested first. Waves of at most eight braids, in ascending order, run at 0.8 GHz as far as the
cap admits; the end of one releases the braids that pass, and the last sets BIST_DONE. A braid that loses lock is reset and not ready; relocked, it is ready
when the security core has sent its image and the copy was confirmed. -/
def Says.UnitsAreTested : Prop :=
  (∀ (s : State) (u : BitVec 7) (r : UnitResult), s.secUp = true → s.sys.unserv = false → s.bist.left.contains u.toNat = true → s.tablesOk = true →
    (s.boot.rest = none ∨ u.toNat ∈ [81, 82, 83]) →
    let passes := r.spared && r.sig == s.golden u.toNat
    Ends (exec (.hawserCleatBistDone u r) s) (fun t => t.bist.left = s.bist.left.filter (· != u.toNat) ∧
      t.unit u.toNat = { result := if passes then (if r.repaired then 2 else 1) else 3, held := !passes, fold := false, rows := r.rows, cols := r.cols
                         runs := (s.unit u.toNat).runs + (if r.repaired then 2 else 1), sig := r.sig })) ∧
  (∀ (s : State) (rs : List BraidResult), s.secUp = true → s.sys.unserv = false → s.bist.running = true → s.bist.wave ≠ [] →
    rs.map (fun r => r.braid.toNat) = s.bist.wave →
    let d := rs.foldl (fun u r => u.braidTested r true) s
    let todo := d.bist.todo.drop rs.length
    let w : State := { d with bist := { d.bist with todo := todo, wave := [], waves := d.bist.waves + 1 } }
    exec (.bistWaveDone rs) s = .next (if todo = [] then
      ({ w with bist := { w.bist with running := false, done := true }, sys := { w.sys with lastFatal := none }
                lcs := { w.lcs with sp := true } } : State).setReady .bistDone true else w.admitWave)) ∧
  (∀ (s : State), s.bist.running = true → s.ready .power = true → s.bist.left = [] → s.bist.wave = [] → s.tablesOk = true →
    (∀ i ∈ s.bist.todo, i < 64) →
    let t := s.admitWave
    ∃ k, t.bist.wave = s.bist.todo.take k ∧ k ≤ 8 ∧ (∀ i ∈ t.bist.wave, (t.pwrBraid i).step = 16) ∧
      (s.fuses.bistWatts = 0 ∨ k * s.fuses.bistWatts ≤ capWatts s.pwr.cap - s.pwr.est.toNat)) ∧
  (∀ (s : State) (i : Bid), s.live = true →
    (∀ e, (s.braid i.toNat).pllUp = true → (s.braid i.toNat).tok = some e →
      ∃ t, exec (.braidPllLoss i) s = .next t ∧ t.die.pllLoss = s.die.pllLoss + 1) ∧
    ((s.braid i.toNat).pllUp = true → (s.braid i.toNat).tok = none →
      let d := (s.resetBraid i.toNat).modBraid i.toNat (fun b => { b with pllUp := false })
      exec (.braidPllLoss i) s = .next (({ d with die := { d.die with pllLoss := d.die.pllLoss + 1 }, bist := { d.bist with
        relocks := d.bist.relocks.filter (fun r => r.braid.toNat != i.toNat) } } : State).setBraidReady i.toNat false)) ∧
    (∀ c : Bool, s.tablesOk = true → (s.braid i.toNat).pllUp = false → s.cap.braids.getLsbD i.toNat = true → s.cap.fold.getLsbD i.toNat = false →
      let a := s.setBraid i.toNat { s.braid i.toNat with pllUp := true, fold := false, foldHigh := 0 }
      (s.secUp = false → exec (.braidPllRelock ⟨i, c⟩) s = .next { a with bist := { a.bist with relocks := a.bist.relocks ++ [⟨i, c⟩] } }) ∧
      (s.secUp = true → c = true → exec (.braidPllRelock ⟨i, c⟩) s = .next (a.setBraidReady i.toNat
        (!s.boot.held.getLsbD i.toNat && s.bist.infield != some i))) ∧
      (s.secUp = true → c = false → exec (.braidPllRelock ⟨i, c⟩) s = .next
        (({ a with boot := { a.boot with held := a.boot.held ||| BitVec.ofNat 64 (2 ^ i.toNat) } } : State).setBraidReady i.toNat false))))

/-- Bring-up. -/
def Obligations.ModuleComesUp : Prop :=
  Says.ImagesAreDelivered ∧ Says.UnitsAreTested

/-- R505, R547: a device-fatal condition asserts FAULT#, zeroes every inline-encryption key and the keys of tenancies and windows, and enters the safe
state; a second condition changes nothing; the timeout asks for the package reset; so does the acknowledgement of the partner once the entry is
stored. -/
def Says.FatalConditions : Prop :=
  (∀ (s : State) (cause : Byte) (unit : BitVec 16), s.pins.powered = true → s.sys.safe = none → s.sys.unserv = false → 1 ≤ cause.toNat →
    cause.toNat ≤ 5 → s.sys.lastFatal ≠ some cause → s.bel.state ≠ 3 → s.tablesOk = true →
    Ends (exec (.deviceFatalCondition cause unit) s) (fun t => t.pins.fault = true ∧ (∀ n, (t.ten n).xts = none ∧ (t.ten n).winKeys = [] ∧
      (t.ten n).migKeys = [] ∧ (t.ten n).chan = none) ∧ (∀ i, (t.win i).key = 0) ∧
      t.sys.safe = some { cause := cause, unit := unit, entry := !s.bbxAvail, acked := true } ∧ t.mem = s.mem ∧ t.braids = s.braids)) ∧
  (∀ (s : State) (cause : Byte) (unit : BitVec 16), s.sys.safe ≠ none → exec (.deviceFatalCondition cause unit) s = .next s) ∧
  (∀ (s : State), s.pins.powered = true → s.sys.safe ≠ none →
    exec .safeStateTimeout s = .next { s with sys := { s.sys with resetReq := some 3 } }) ∧
  (∀ (s : State) (f : Safe), s.pins.powered = true → s.sys.safe = some f → f.entry = true →
    exec .fatalNoticeAcknowledged s = .next { s with sys := { s.sys with safe := some { f with acked := true }, resetReq := some 3 } })

/-- R506, R510, R511: the writer stores the front entry under the next SEQ at its place in the ring, and an entry that waited for the queue moves up; an entry of class 3 or 4 is copied to the
first-fault area while that has room. The watchdog stores the entry that the writer had begun. -/
def Says.EntriesAreStored : Prop :=
  ∀ (s : State) (e : BbxEntry) (rest : List BbxEntry), s.bbxAvail = true → s.bbx.queue = e :: rest → s.bbx.late = 0 → e.event ≠ 0x70 → s.sys.safe = none →
    let d := s.die.store e
    let t := ({ s with die := d, bbx := { s.bbx with queue := rest ++ s.bbx.held.take 1, held := s.bbx.held.drop 1 } } : State).bbxLevel
    exec .blackBoxStore s = .next t ∧ exec .recordWriterWatchdog s = .next t ∧ d.nextSeq = s.die.nextSeq + 1 ∧
    (s.tablesOk = true → Sparse.get none d.ring (s.die.nextSeq.toNat % 131072) = some { seq := s.die.nextSeq, entry := e }) ∧
    d.ffa = (if e.fatal ∧ s.die.ffa.length < 256 then s.die.ffa ++ [{ seq := s.die.nextSeq, entry := e }] else s.die.ffa)

/-- Fatal conditions and the record. -/
def Obligations.FatalAndRecord : Prop :=
  Says.FatalConditions ∧ Says.EntriesAreStored

/-! ## Management, power, belay and registers -/

/-- R382–R386: the port sends its provisional ID and takes its address and endpoint, answers each MCTP control request, and delivers the oldest
management event with the count of those dropped. The layouts are log 58's. -/
def Says.ManagementAnswers : Prop :=
  ∀ (s : State), s.mgmtUp = true →
    let say : State → Byte → List Byte → State := fun t cmd bs =>
      ({ t with draws := t.draws + 1 } : State).message ([0x00, BitVec.ofNat 8 (fld (Config.free t.draws) 0 5), cmd] ++ bs)
    (∀ a : BitVec 7, exec (.entdaa a) s =
      .next ({ s.emit (.provId (s.fuses.pid ++ s.pins.modId)) with mgmt := { s.mgmt with addr := some a } } : State).signalEvent) ∧
    (∀ e snd : Byte, eidOk e = true → exec (.setEndpointId e snd) s =
      .next (say ({ s with mgmt := { s.mgmt with eid := some e, target := some snd } } : State).signalEvent 0x01 [0, 0, e, 0])) ∧
    exec .getEndpointId s = .next (say s 0x02 [0, s.mgmt.eid.getD 0, 0, 0]) ∧
    exec .getEndpointUuid s = .next (say s 0x03 (0 :: leBytes 16 s.fuses.uuid.toNat)) ∧
    exec (.getMctpVersionSupport 0xFF) s = .next (say s 0x04 [0, 1, 0xF1, 0xF3, 0xF0, 0]) ∧
    exec .getMessageTypeSupport s = .next (say s 0x05 [0, 3, 0x00, 0x05, 0x7E]) ∧
    exec (.getVendorDefinedMessageSupport 0) s = .next (say ({ s with draws := s.draws + 1 } : State) 0x06
      ([0, 0xFF, 0] ++ beBytes 2 Config.vendorId.toNat ++ leBytes 2 (fld (Config.free s.draws) 0 16))) ∧
    (∀ (e : MgmtEvent) (rest : List MgmtEvent), s.events = e :: rest → s.ready .sched = true → s.mgmt.target ≠ none →
      exec .managementEventRead s = .next (({ s with events := rest, evDrop := 0 } : State).emit (.packet true true 0 (vendorMessage 0x80
        (leBytes 2 e.event.toNat ++ [e.ten, e.fn] ++ leBytes 8 e.seq.toNat ++ leBytes 4 s.evDrop.toNat)))).signalEvent)

/-- R384, R388, R399–R403: SPDM requests in their order are answered, an offer is answered by what is offered and supported, and what passes enters
the transcript that a signature covers; a deferred answer is given for its token once it is signed; a module in SCRAPPED signs nothing. The layouts
are log 58's. -/
def Says.SpdmAnswers : Prop :=
  ∀ (s : State), s.spdmUp = true →
    let m := s.mgmt
    let vca : List Byte := [0x10, 0x84, 0, 0, 0x10, 0x04, 0, 0, 0, 1, 0x00, 0x12]
    exec .getVersion s = .next (({ s with mgmt := { m with
      version := true, caps := false, algs := false, deferred := none, vca := vca, msgB := [], msgL := [] } } : State).spdmSend (vca.drop 4)) ∧
    (m.version = true →
      let a : List Byte := [0x12, 0x61, 0, 0, 0, (Config.free s.draws).setWidth 8, 0, 0] ++ leBytes 4 0x36 ++ leBytes 4 4160 ++ leBytes 4 4160
      let req := capsRequest (Config.free (s.draws + 1)) (Config.free (s.draws + 2))
      exec .getCapabilities s = .next (({ s with
        draws := s.draws + 3, mgmt := { m with caps := true, vca := m.vca ++ req ++ a } } : State).spdmSend a)) ∧
    (∀ o : SpdmOffer, m.caps = true → ∃ a, exec (.negotiateAlgorithms o) s =
      .next (({ s with mgmt := { m with algs := o.rsaPss4096 && o.sha512, vca := m.vca ++ o.req ++ a } } : State).spdmSend a)) ∧
    (m.algs = true →
      let a : List Byte := [0x12, 0x01, 0, 1] ++ Crypto.sha512 s.spdmChain
      exec .getDigests s = .next (({ s with mgmt := { m with msgB := m.msgB ++ [0x12, 0x81, 0, 0] ++ a } } : State).spdmSend a)) ∧
    (∀ off len : BitVec 16, m.algs = true → off.toNat < s.spdmChain.length →
      let k := Nat.min (Nat.min len.toNat 4151) (s.spdmChain.length - off.toNat)
      let a := [0x12, 0x02, 0, 0] ++ leBytes 2 k ++ leBytes 2 (s.spdmChain.length - off.toNat - k) ++ slice s.spdmChain off.toNat k
      exec (.getCertificate 0 off len) s = .next (({ s with mgmt := { m with
        msgB := m.msgB ++ ([0x12, 0x82, 0, 0] ++ leBytes 2 off.toNat ++ leBytes 2 len.toNat) ++ a } } : State).spdmSend a)) ∧
    (∀ n : BitVec 256, m.algs = true → 1 ≤ s.lc → s.lc ≤ 3 →
      let x := s.nonce32
      let a := [0x12, 0x03, 0, 1] ++ Crypto.sha512 s.spdmChain ++ x.1 ++ [0, 0]
      let r := ({ x.2 with mgmt := { x.2.mgmt with msgB := [] } } : State).signedAnswer 0x83 challengeContext
        (m.vca ++ m.msgB ++ [0x12, 0x83, 0, 0] ++ leBytes 32 n.toNat ++ a) a
      exec (.challenge 0 n) s = .next (r.1.spdmSend r.2)) ∧
    (∀ n : BitVec 256, s.lc = 4 → exec (.challenge 0 n) s = .next (s.spdmSend [0x12, 0x7F, 0x05, 0])) ∧
    (∀ n : BitVec 256, m.algs = true → s.lc ≠ 4 →
      let x := s.nonce32
      let a := [0x12, 0x60, 7, 0, 0, 0, 0, 0] ++ x.1 ++ [0, 0]
      exec (.getMeasurements 0 false n) s = .next (({ x.2 with mgmt := { x.2.mgmt with
        msgL := m.msgL ++ [0x12, 0xE0, 0, 0] ++ a } } : State).spdmSend a)) ∧
    (∀ (c t : Byte) (a : List Byte), m.deferred = some (c, t, a) → s.signing = false →
      exec (.respondIfReady t) s = .next (({ s with mgmt := { m with deferred := none } } : State).spdmSend a)) ∧
    (∀ (c : Byte) (ctx tr a : List Byte), s.pke.idle = true →
      let sig := s.idSign (spdmSigned ctx tr)
      (Config.free sig.2.draws).getLsbD 0 = false → (s.signedAnswer c ctx tr a).2 = a ++ sig.1)

/-- The management port. -/
def Obligations.ManagementPort : Prop :=
  Says.ManagementAnswers ∧ Says.SpdmAnswers

/-- R465, R539–R545, R550: at a window's end every sensor is read and the estimate taken. A present braid's cap step falls by one where the estimate is
above the cap, rises by one where it is more than 40 W below, and is held between, and while a trip holds issue or its release was in this window; the thermal
limit falls by four, not below 0, where a braid of the strand reads 95 °C or more, and rises by one, to 28, where all read below 90 °C; a braid runs at the lowest of
its three limits, unless it is in a test. A reading of 110 °C enters the safe state (its cause by log 85, its unit a free value). A trip holds issue on every fitted
braid, sets its cap step four lower and counts; its release ends the hold. -/
def Obligations.PowerIsHeld : Prop :=
  ∀ (s : State), s.live = true → s.ready .power = true → s.tablesOk = true →
    (∀ w : PowerWindow,
      let r := (s.readings w).thermal
      let e := s.estimate.toNat
      let cap := Nat.max 300 (Nat.min 1000 s.pwr.cap.toNat)
      let temp := fun (i : Nat) => (w.temps.toList.getD i 0).toNat
      let strand := fun (i : Nat) => (List.range 4).map (fun k => 4 * (i / 4) + k)
      r.pwr.est = s.estimate ∧ (∀ i ∈ s.fittedBraids, temp i ≤ r.pwr.die.toNat) ∧
      (r.pwr.die.toNat < 110 → r.memTemp < 105 → Ends (exec (.powerWindowEnd w) s) (fun t => ∀ i ∈ s.fittedBraids,
        let p := s.pwrBraid i
        let q := t.pwrBraid i
        q.temp.toNat = temp i ∧ q.limit = p.limit ∧
        (s.cap.braids.getLsbD i = true → s.pwr.hold = false → s.pwr.skip = false → q.cap.toNat =
          if cap < e then p.cap.toNat - 1 else if e + 40 < cap ∧ p.cap.toNat < 28 then p.cap.toNat + 1 else p.cap.toNat) ∧
        (s.cap.braids.getLsbD i = false ∨ s.pwr.hold = true ∨ s.pwr.skip = true → q.cap = p.cap) ∧
        (q.therm.toNat = if (strand i).any (fun k => decide (95 ≤ temp k)) then p.therm.toNat - 4
          else if (strand i).all (fun k => decide (temp k < 90)) = true ∧ p.therm.toNat < 28 then p.therm.toNat + 1 else p.therm.toNat) ∧
        (s.cap.braids.getLsbD i = true → t.inTest i = false → q.step = q.lowest) ∧ t.pwr.skip = false)) ∧
      (110 ≤ r.pwr.die.toNat → exec (.powerWindowEnd w) s = .next (({ r with draws := r.draws + 1 } : State).enterSafe 5
        (fld (Config.free r.draws) 0 16)))) ∧
    (s.pwr.hold = false → Ends (exec .powerTrip s) (fun t => t.pwr.hold = true ∧ t.pwr.alert = true ∧
      t.pwr.trips = BitVec.ofNat 16 (satAdd 16 s.pwr.trips.toNat 1) ∧
      (∀ i ∈ s.fittedBraids, (t.braid i).held = true ∧ (t.pwrBraid i).cap.toNat = (s.pwrBraid i).cap.toNat - 4) ∧ t.mem = s.mem)) ∧
    (s.pwr.hold = true → Ends (exec .powerTripRelease s) (fun t => t.pwr.hold = false ∧ t.pwr.skip = true ∧
      (∀ i ∈ s.fittedBraids, (t.braid i).held = false) ∧ t.mem = s.mem ∧ t.pwr.trips = s.pwr.trips))

/-- R445, R479, R518, R522, R529, R530: pairing first exchanges MOD_IDs, and equal ones end it; then, in its turn at the public-key engine, it sends this
module's offer, refuses the partner's by the first check it fails and else comes up with the keys that both derive and fresh counts; a refused link is tried
again; a link that goes down freezes the standbys, raises source 0x343 and counts; before a count reaches 2^32 the link is left to pair again, and what was to be
sent is kept; the timeout leaves the primaries unpaired; a takeover, asked for or on the partner's fatal notice, makes a standby a primary of the next
epoch; a close notice is acknowledged and closes the standby or unpairs the primary. -/
def Says.BelayLink : Prop :=
  ∀ (s : State), s.belayUp = true →
    let no : State → Nat → State := fun w c => { w with bel := { w.bel with state := 5, refusal := BitVec.ofNat 4 c, keys := none } }
    let authenticate : State → PairOffer → State := fun u m =>
      let d := u.randBelow p384.nw p384.n
      let n := d.2.drbg
      let nonce : BitVec 256 := n.1.setWidth 256
      let w := n.2.sendOffer nonce (pointBytes 48 (p384.mul d.1 p384.g))
      let z := w.sharedX (p384.mul d.1 (some (m.keyX.toNat, m.keyY.toNat)))
      match w.pairRefusal m with
      | some c => no w c
      | none => ({ z.2 with bel := { z.2.bel with state := 3, refusal := 0, tx := 0, rx := 0, keys := some (linkKeys (linkOkm nonce m.nonce
          (w.pins.modId.toNat < m.modId.toNat) z.1)) } } : State).relink
    let quiet := s.bel.retryDue = 0 ∧ s.bel.rx + 2 < 2 ^ 32 ∧ s.bel.tx + 1 < 2 ^ 32
    let answered : Out → State := fun o => ({ s with bel := { s.bel with rx := s.bel.rx + 1, tx := s.bel.tx + 1 } } : State).emit o
    (∀ m : PairOffer, (s.bel.state = 1 ∨ s.bel.state = 4) → s.drbgOk = true → m.trained = true →
      let u : State := ({ s with bel := { s.bel with state := 2, width := if m.x16 then 2 else 1, partner := m.modId } } : State).emit (.modId s.pins.modId)
      (m.modId = s.pins.modId → exec (.belayPairing m) s = .next (no u 1)) ∧
      (m.modId ≠ s.pins.modId → s.pke.idle = true → exec (.belayPairing m) s = .next ((authenticate u m).raise 0x361)) ∧
      (m.modId ≠ s.pins.modId → s.pke.idle = false → exec (.belayPairing m) s = .next (u.pkeRequest { tok := none, buf := [], pair := some m }))) ∧
    (∀ (q : PkeReq) (m : PairOffer), s.pke.running = some q → q.tok = none → q.pair = some m → s.bel.state = 2 → s.drbgOk = true →
      exec .pkeOperationDone s = .next (((authenticate { s with pke := { s.pke with running := none } } m).raise 0x361).pkeGo)) ∧
    (s.bel.state = 5 → exec .belayPairingRetry s = .next { s with bel := { s.bel with state := 1, refusal := 0 } }) ∧
    (s.bel.state = 3 → s.tens = [] →
      let b : Belay := { s.bel with width := 0, keys := none, down := true, downs := BitVec.ofNat 16 (satAdd 16 s.bel.downs.toNat 1) }
      let d := fun (k : BitVec 3) => (({ s with bel := { b with state := k }, draws := s.draws + 1 } : State).log Dom.fabric 2 1
        ((Config.free s.draws).toNat % 2 ^ 16) 0x52 none []).raise 0x343
      exec .belayLinkDown s = .next (d 4) ∧ exec .belayLinkReset s = .next (d 1)) ∧
    (∀ (k : Nat) (o : Out), s.bel.state = 3 → 2 ^ 32 ≤ s.bel.tx + k → s.sendItem k o = (s.leaveUp 1, false)) ∧
    (∀ (n : Tid) (k : BitVec 3), s.tablesOk = true → (s.ten n).standby = true → ((s.ten n).mir.pstate = 1 ∨ (s.ten n).mir.pstate = 2) →
      ((s.leaveUp k).ten n).mir = { (s.ten n).mir with pstate := 3, cut := true }) ∧
    (∀ (n : Nat) (x : Ten), s.bel.state ≠ 3 → s.bel.down = true → s.bel.timeout ≠ 0 → s.tens = [(n, x)] → x.primary = true → n < 256 →
      let u := (s.unpair (BitVec.ofNat 8 n)).modMir (BitVec.ofNat 8 n) (fun m => { m with copying := false })
      exec .belayDownTimeout s = .next { u with bel := { u.bel with down := false } }) ∧
    (∀ n : Tid, s.bel.state ≠ 3 → (s.ten n).standby = true → (s.ten n).st ≠ .closing → exec (.takeover 0 n) s = .next (s.takeOver n)) ∧
    (s.bel.state = 3 → s.tens = [] → quiet → exec .partnerFatalNotice s = .next (answered (.notice 0 3))) ∧
    (∀ n : Tid, s.bel.state = 3 → quiet → (s.ten n).standby = true →
      exec (.closeNotice n) s = .next ((answered (.notice n 4)).beginClose n true 0x40 none none)) ∧
    (∀ n : Tid, s.bel.state = 3 → quiet → (s.ten n).primary = true →
      exec (.closeNotice n) s = .next (((answered (.notice n 4)).unpair n).modMir n (fun m => { m with copying := false })))

/-- R479, R523, R526–R530, R532, R533: a paired standby keeps the next record of its epoch, applies what it can, one whose page waits for a scrub staying, and
acknowledges what it has applied, again where it comes a second time; a paired primary's acknowledgement releases the completion of the oldest record, or
ends a close notice. A pair resynchronises from the primary's copy, or the side of the lower epoch closes; the copy's end sends the records queued, each to be
acknowledged. A takeover changes the mode to the primary's and counts the epoch. -/
def Says.RecordsPass : Prop :=
  ∀ (s : State) (n : Tid), s.linked = true → s.bel.retryDue = 0 →
    let x := s.ten n
    (∀ (r : CommitRecord) (o : W64), r.tenancy = n → x.standby = true → x.st ≠ .closing → x.mir.pstate = 2 → r.epoch = x.mir.epoch →
      let k := gcmRecords (64 + recBody r)
      s.bel.rx + k + 1 < 2 ^ 32 →
      let h : State := { s with bel := { s.bel with rx := s.bel.rx + k, records := s.bel.records + 1 } }
      let q := h.modMir n (fun m => { m with inbox := [(r, o)] })
      (r.mseq.toNat ≤ x.mir.mseq.toNat → exec (.commitRecordApply r o) s = .next (h.sendAck n)) ∧
      (x.mir.inbox = [] → r.mseq = x.mir.mseq + 1 → x.mir.mseq.toNat + 1 < 2 ^ 64 → s.tablesOk = true →
        (∀ t, q.applyBody n r.changes r.granules = .ok t →
          exec (.commitRecordApply r o) s = .next (((t.recordDone n r o).modMir n (fun m => { m with inbox := [] })).sendAck n)) ∧
        (q.applyBody n r.changes r.granules = .full → exec (.commitRecordApply r o) s = .next (q.standbyFull n)) ∧
        (q.applyBody n r.changes r.granules = .wait → exec (.commitRecordApply r o) s = .next q))) ∧
    (s.bel.tx + 1 < 2 ^ 32 → s.sendAck n = ({ s with bel := { s.bel with tx := s.bel.tx + 1 } } : State).emit (.notice n 2)) ∧
    (∀ (r : CommitRecord) (rs : List CommitRecord), s.bel.notices.contains n = false → x.mir.sent = r :: rs → x.primary = true → x.mir.pstate = 2 →
      exec (.commitRecordAck n) s = .next (((((s.modMir n (fun m => { m with
        sent := rs, reads := m.reads.filter (fun g => !r.granules.any (fun y => y.1.toNat == g)) })).releaseRec r).ackWm n r).wmRestarts n).heard 1).runHeld) ∧
    (s.bel.notices.contains n = true → s.bel.rx + 2 < 2 ^ 32 → exec (.commitRecordAck n) s = .next { s with bel := { s.bel with
      notices := s.bel.notices.filter (· != n), rx := s.bel.rx + 1 } }) ∧
    (∀ p : PeerTen, x.st ≠ .closing →
      (x.primary = true → p.primary = true → x.mir.epoch.toNat < p.epoch.toNat → exec (.resyncStart n p) s =
        .next (({ s with draws := s.draws + 1 } : State).beginClose n true 0x40 none (some (Config.free s.draws)))) ∧
      (x.primary = true → p.primary = true → x.mir.epoch = p.epoch → exec (.resyncStart n p) s = .next (s.raise 0x343)) ∧
      (x.mir.pstate = 0 ∨ x.mir.pstate = 3 →
        (x.primary = true → p.primary = false → p.epoch.toNat ≤ x.mir.epoch.toNat →
          let w := s.modMir n (fun m => { m with pstate := 1, copying := true })
          let c := w.copyOf n
          s.bel.tx + copyRecords c < 2 ^ 32 → exec (.resyncStart n p) s =
            .next (({ w with bel := { w.bel with tx := w.bel.tx + copyRecords c } } : State).emit (.resync n c))) ∧
        (x.primary = true → p.primary = false → x.mir.epoch.toNat < p.epoch.toNat → exec (.resyncStart n p) s =
          .next (({ s with draws := s.draws + 1 } : State).beginClose n true 0x40 none (some (Config.free s.draws)))) ∧
        (x.standby = true → x.primary = false → p.primary = true → x.mir.epoch.toNat ≤ p.epoch.toNat → s.drbgOk = true →
          exec (.resyncStart n p) s = .next (s.clearStandby n)))) ∧
    (∀ c : PeerCopy, x.st ≠ .closing → x.mir.pstate = 1 → x.mir.copying = true →
      (x.primary = true → exec (.resyncDone n c) s =
        .next ((s.modMir n (fun m => { m with unsent := m.unsent ++ m.late, late := [], pstate := 2, copying := false
                                              wms := wmsOf x.fn (s.ringMarks n x.fn) })).sendUnsent n)) ∧
      (∀ t, x.primary = false → x.standby = true → s.applyCopy n c = .ok t → exec (.resyncDone n c) s = .next (t.modTen n (fun t =>
        { t with cred := c.cred
                 mir := { t.mir with epoch := c.epoch, sync := c.sync, pstate := 2, copying := false, wms := wmsOf c.fn c.rings } })))) ∧
    (x.standby = true → x.st ≠ .closing → x.mir.inbox = [] → s.tablesOk = true →
      ((s.takeOver n).ten n).mir.epoch = x.mir.epoch + 1 ∧ ((s.takeOver n).ten n).mir.standby = false ∧
        ((s.takeOver n).ten n).mirror = (if x.mir.sync then 2 else 1))

/-- The belay pair. -/
def Obligations.BelayPair : Prop :=
  Says.BelayLink ∧ Says.RecordsPass

/-- R14–R18, R359, R360: a write by the PF acts on the block whose owner is ready and on no other; every field of CAP, TEN, WIN, SPL, TEL, BST and LCS
is read-only; a write to a block whose owner is not ready changes nothing. A read returns the register to the reader and clears the fields that a read
clears; BAR0 of a bulk port holds the copy of CAP.IDENT at 0 and reads zero elsewhere. -/
def Says.BlocksTakeAccesses : Prop :=
  ∀ (s : State) (off : BitVec 26), s.barUp = true →
    let x := blkOf off.toNat
    (∀ v : W64, s.blkUp x.1 = true → exec (.registerWrite 0 off v) s = .next (s.writeBlk x.1 x.2 v)) ∧
    (∀ v : W64, x.1 ∈ [Blk.cap, .ten, .win, .spl, .tel, .bst, .lcs] → exec (.registerWrite 0 off v) s = .next s) ∧
    (∀ v : W64, s.blkUp x.1 = false → exec (.registerWrite 0 off v) s = .next s) ∧
    (∀ (f : Fn) (v : W64), f ≠ 0 → s.sys.vfs.toNat < f.toNat → exec (.registerWrite f off v) s = .next s) ∧
    (s.blkUp x.1 = true → exec (.readClear (.ctrl 0) off) s = .next ((s.clearBlk x.1 x.2).emit (.readData (s.regRead 0 off.toNat)))) ∧
    (x.1 ∈ [Blk.cap, .rdy, .hq, .ten, .bst, .bbx] → exec (.readClear (.ctrl 0) off) s = .next (s.emit (.readData (s.regRead 0 off.toNat)))) ∧
    (∀ f : Fn, f ≠ 0 → exec (.readClear (.ctrl f) off) s = .next (s.emit (.readData (s.regRead f off.toNat)))) ∧
    (∀ p : Port, s.pins.powered = true → (s.port p).up = true →
      exec (.readClear (.bulk p) off) s = .next (s.emit (.readData (if off = 0 then s.ident else 0))))

/-- R14, R17: a register that software may write takes the bits it has and keeps the others, whatever is written to them: the power cap, the belay
timeout, the record window, the hazard watch, the MSI-X table, the limits of braids, the base of a ring that is not enabled, and a source's TARGET
until the lock, its PRIO and EN where the target is a host vector (R493). -/
def Says.WrittenFieldsReadBack : Prop :=
  ∀ (s : State) (v : W64), s.barUp = true →
    (∀ r ∈ s.rwRegs, s.blkUp (blkOf r.1).1 = true → ∃ t, exec (.registerWrite 0 (BitVec.ofNat 26 r.1) v) s = .next t ∧
      t.regRead 0 r.1 = (s.regRead 0 r.1 &&& ~~~(BitVec.ofNat 64 r.2)) ||| (v &&& BitVec.ofNat 64 r.2)) ∧
    (∀ (f : Fn) (q : BitVec 2), s.hqUp = true → (s.sq f q).en = false →
      let o := 0x40000 + 0x2000 * f.toNat + 0x40 * q.toNat
      ∃ t, exec (.registerWrite 0 (BitVec.ofNat 26 o) v) s = .next t ∧ t.regRead 0 o = v &&& BitVec.ofNat 64 0xFFFFFFFFFFFFF000) ∧
    (∀ i : Nat, (srcDefault i).isSome = true → s.blkUp .ic = true →
      let o := 0x20000 + 16 * i
      let tgt := if s.ic.lock then (s.srcCfg i).target.toNat else fld v 0 8
      let m : W64 := BitVec.ofNat 64 ((if s.ic.lock then 0 else 0xFF) + if tgt < 64 then 0x1F00 else 0)
      ∃ t, exec (.registerWrite 0 (BitVec.ofNat 26 o) v) s = .next t ∧ t.regRead 0 o = (s.regRead 0 o &&& ~~~m) ||| (v &&& m))

/-- R14, R16: a read of a register with RC fields returns what they held and leaves them zero, the other bits as they were; of a register without
any, but IC.CLAIM, it changes nothing. A read of IC.CLAIM claims, and returns the identity taken (R496). -/
def Says.ReadsClear : Prop :=
  ∀ (s : State) (off : BitVec 26), s.barUp = true → s.pins.powered = true → s.blkUp (blkOf off.toNat).1 = true →
    (rcBits off.toNat ≠ 0 → ∃ t : State, exec (.readClear (.ctrl 0) off) s = .next (t.emit (.readData (s.regRead 0 off.toNat))) ∧
      t.regRead 0 off.toNat = s.regRead 0 off.toNat &&& ~~~(BitVec.ofNat 64 (rcBits off.toNat))) ∧
    (rcBits off.toNat = 0 → (∀ t : BitVec 6, off.toNat ≠ 0x28008 + 0x40 * t.toNat) →
      exec (.readClear (.ctrl 0) off) s = .next (s.emit (.readData (s.regRead 0 off.toNat)))) ∧
    (∀ t : BitVec 6, off.toNat = 0x28008 + 0x40 * t.toNat →
      exec (.readClear (.ctrl 0) off) s = .next ((s.claim t.toNat).2.emit (.readData (BitVec.ofNat 64 ((s.bestSource t.toNat).getD 0x7FF % 2048)))))

/-- R14, R15, R490, R498: a 1 written to RDY.CTL.REFUSED clears it, and a request in the same write that is refused sets it again; a 1 written to
PENDING of an event source whose target is a host vector withdraws it. -/
def Says.OnesClear : Prop :=
  ∀ (s : State) (v : W64), s.barUp = true →
    (bit v 8 = true → bit v 0 = false → bit v 1 = false →
      exec (.registerWrite 0 0x10010 v) s = .next { s with rdy := { s.rdy with refused := false } }) ∧
    (bit v 0 = true → bit v 1 = false → s.rdyCtl 0 = true → s.allFree = false →
      exec (.registerWrite 0 0x10010 v) s = .next { s with rdy := { s.rdy with refused := true } }) ∧
    (bit v 8 = false → bit v 0 = false → bit v 1 = false → exec (.registerWrite 0 0x10010 v) s = .next s) ∧
    (∀ i : Nat, i < 0x800 → s.blkUp .ic = true →
      exec (.registerWrite 0 (BitVec.ofNat 26 (0x20008 + 16 * i)) v) s = .next
        (if bit v 0 ∧ (s.srcCfg i).target.toNat < 64 ∧ isLevel i = false ∧ (s.src i).pending = true then
          s.setSrc i { s.src i with pending := false } else s))

/-- R17, R18: an offset that defines no register reads as zero, and one that takes no writes ignores them; neither raises an error. -/
def Says.OtherOffsetsAreInert : Prop :=
  ∀ (s : State) (off : BitVec 26),
    let x := blkOf off.toNat
    ((readRows x.1).has x.2 = false → s.regRead 0 off.toNat = 0 ∧
      (s.pins.powered = true → exec (.readClear (.ctrl 0) off) s = .next (s.emit (.readData 0)))) ∧
    ((writeRows x.1).has x.2 = false → ∀ v : W64, exec (.registerWrite 0 off v) s = .next s)

/-- Accesses to BAR0. -/
def Obligations.RegisterAccesses : Prop :=
  Says.BlocksTakeAccesses ∧ Says.WrittenFieldsReadBack ∧ Says.ReadsClear ∧ Says.OnesClear ∧ Says.OtherOffsetsAreInert

/-! ## The whole block -/

/-- R389, R392: no step takes the life cycle back. Whatever a run does, from any state, LCS.STATE.STATE is never lower than it was; fuses change by a
transition, whose command is served at once or by the engine and ends with the last tenancy's close, and at the verification of an image set, which completes a cut word or raises the minimum SVN,
and by nothing else. -/
def Obligations.LifeCycleNeverFalls : Prop :=
  (∀ k : Nat, Kept (fun s => k ≤ s.lc)) ∧
  (∀ (c : Instr) (s t : State), (∀ n, c ≠ .tenancyCloseComplete n) → (∀ r, c ≠ .fwVerifyDone r) → (∀ e b, c ≠ .lcAdvance e b) →
    c ≠ .pkeOperationDone → exec c s = .next t →
    t.fuses = s.fuses)

/-- Every step keeps the tables of the state in canonical form (log 4). -/
def Obligations.TablesStayCanonical : Prop :=
 Kept (fun s => s.tablesOk = true)

/-- The state after reset: the tables are canonical and empty, no unit is ready, every tenancy, window and splice is FREE, every braid is idle with
nothing written, the pager's fields have their reset values (R286), no command waits, and memory reads zero (log 4). -/
def Obligations.ResetLeaves : Prop :=
  State.reset.tablesOk = true ∧ State.reset.pending = [] ∧ State.reset.rdy.bits = 0 ∧ State.reset.rdy.braids = 0 ∧
    State.reset.pins.powered = false ∧ State.reset.boot.state = 0 ∧
    (∀ n, (State.reset.ten n).st = .free) ∧ (∀ i, (State.reset.win i).st = .free) ∧ (∀ i, (State.reset.splice i).st = .free) ∧
    (∀ i, (State.reset.braid i).phase = .idle ∧ (State.reset.braid i).s = [] ∧ (State.reset.braid i).sealMap = 0) ∧
    (∀ h, (State.reset.pager h).promote = 0x40 ∧ (State.reset.pager h).lowWater = 0x800) ∧ (∀ a, State.reset.mem.byte a = 0)
end

