-- ==== Sys2Proof/Laws/State.lean ====
section
/-! SUPPORT. Laws/State.lean: each update of one table leaves every other field of the state alone. -/

namespace Sys2Proof.Machine
variable (s : State)

/-! ## setBraid -/
@[simp] theorem State.setBraid_pending (i : Nat) (x : Braid) : (s.setBraid i x).pending = s.pending := rfl
@[simp] theorem State.setBraid_out (i : Nat) (x : Braid) : (s.setBraid i x).out = s.out := rfl
@[simp] theorem State.setBraid_draws (i : Nat) (x : Braid) : (s.setBraid i x).draws = s.draws := rfl
@[simp] theorem State.setBraid_fuses (i : Nat) (x : Braid) : (s.setBraid i x).fuses = s.fuses := rfl
@[simp] theorem State.setBraid_pins (i : Nat) (x : Braid) : (s.setBraid i x).pins = s.pins := rfl
@[simp] theorem State.setBraid_die (i : Nat) (x : Braid) : (s.setBraid i x).die = s.die := rfl
@[simp] theorem State.setBraid_rdy (i : Nat) (x : Braid) : (s.setBraid i x).rdy = s.rdy := rfl
@[simp] theorem State.setBraid_boot (i : Nat) (x : Braid) : (s.setBraid i x).boot = s.boot := rfl
@[simp] theorem State.setBraid_cap (i : Nat) (x : Braid) : (s.setBraid i x).cap = s.cap := rfl
@[simp] theorem State.setBraid_bist (i : Nat) (x : Braid) : (s.setBraid i x).bist = s.bist := rfl
@[simp] theorem State.setBraid_sys (i : Nat) (x : Braid) : (s.setBraid i x).sys = s.sys := rfl
@[simp] theorem State.setBraid_lcs (i : Nat) (x : Braid) : (s.setBraid i x).lcs = s.lcs := rfl
@[simp] theorem State.setBraid_pke (i : Nat) (x : Braid) : (s.setBraid i x).pke = s.pke := rfl
@[simp] theorem State.setBraid_pwr (i : Nat) (x : Braid) : (s.setBraid i x).pwr = s.pwr := rfl
@[simp] theorem State.setBraid_mgmt (i : Nat) (x : Braid) : (s.setBraid i x).mgmt = s.mgmt := rfl
@[simp] theorem State.setBraid_dbg (i : Nat) (x : Braid) : (s.setBraid i x).dbg = s.dbg := rfl
@[simp] theorem State.setBraid_bel (i : Nat) (x : Braid) : (s.setBraid i x).bel = s.bel := rfl
@[simp] theorem State.setBraid_lans (i : Nat) (x : Braid) : (s.setBraid i x).lans = s.lans := rfl
@[simp] theorem State.setBraid_mem (i : Nat) (x : Braid) : (s.setBraid i x).mem = s.mem := rfl
@[simp] theorem State.setBraid_held (i : Nat) (x : Braid) : (s.setBraid i x).held = s.held := rfl
@[simp] theorem State.setBraid_splices (i : Nat) (x : Braid) : (s.setBraid i x).splices = s.splices := rfl
@[simp] theorem State.setBraid_routers (i : Nat) (x : Braid) : (s.setBraid i x).routers = s.routers := rfl
@[simp] theorem State.setBraid_wins (i : Nat) (x : Braid) : (s.setBraid i x).wins = s.wins := rfl
@[simp] theorem State.setBraid_ports (i : Nat) (x : Braid) : (s.setBraid i x).ports = s.ports := rfl
@[simp] theorem State.setBraid_openseq (i : Nat) (x : Braid) : (s.setBraid i x).openseq = s.openseq := rfl
@[simp] theorem State.setBraid_tens (i : Nat) (x : Braid) : (s.setBraid i x).tens = s.tens := rfl
@[simp] theorem State.setBraid_sch (i : Nat) (x : Braid) : (s.setBraid i x).sch = s.sch := rfl
@[simp] theorem State.setBraid_bbx (i : Nat) (x : Braid) : (s.setBraid i x).bbx = s.bbx := rfl
@[simp] theorem State.setBraid_ic (i : Nat) (x : Braid) : (s.setBraid i x).ic = s.ic := rfl
@[simp] theorem State.setBraid_events (i : Nat) (x : Braid) : (s.setBraid i x).events = s.events := rfl
@[simp] theorem State.setBraid_evDrop (i : Nat) (x : Braid) : (s.setBraid i x).evDrop = s.evDrop := rfl

/-! ## setTen -/
@[simp] theorem State.setTen_pending (n : Tid) (x : Ten) : (s.setTen n x).pending = s.pending := rfl
@[simp] theorem State.setTen_out (n : Tid) (x : Ten) : (s.setTen n x).out = s.out := rfl
@[simp] theorem State.setTen_draws (n : Tid) (x : Ten) : (s.setTen n x).draws = s.draws := rfl
@[simp] theorem State.setTen_fuses (n : Tid) (x : Ten) : (s.setTen n x).fuses = s.fuses := rfl
@[simp] theorem State.setTen_pins (n : Tid) (x : Ten) : (s.setTen n x).pins = s.pins := rfl
@[simp] theorem State.setTen_die (n : Tid) (x : Ten) : (s.setTen n x).die = s.die := rfl
@[simp] theorem State.setTen_rdy (n : Tid) (x : Ten) : (s.setTen n x).rdy = s.rdy := rfl
@[simp] theorem State.setTen_boot (n : Tid) (x : Ten) : (s.setTen n x).boot = s.boot := rfl
@[simp] theorem State.setTen_cap (n : Tid) (x : Ten) : (s.setTen n x).cap = s.cap := rfl
@[simp] theorem State.setTen_bist (n : Tid) (x : Ten) : (s.setTen n x).bist = s.bist := rfl
@[simp] theorem State.setTen_sys (n : Tid) (x : Ten) : (s.setTen n x).sys = s.sys := rfl
@[simp] theorem State.setTen_lcs (n : Tid) (x : Ten) : (s.setTen n x).lcs = s.lcs := rfl
@[simp] theorem State.setTen_pke (n : Tid) (x : Ten) : (s.setTen n x).pke = s.pke := rfl
@[simp] theorem State.setTen_pwr (n : Tid) (x : Ten) : (s.setTen n x).pwr = s.pwr := rfl
@[simp] theorem State.setTen_mgmt (n : Tid) (x : Ten) : (s.setTen n x).mgmt = s.mgmt := rfl
@[simp] theorem State.setTen_dbg (n : Tid) (x : Ten) : (s.setTen n x).dbg = s.dbg := rfl
@[simp] theorem State.setTen_bel (n : Tid) (x : Ten) : (s.setTen n x).bel = s.bel := rfl
@[simp] theorem State.setTen_braids (n : Tid) (x : Ten) : (s.setTen n x).braids = s.braids := rfl
@[simp] theorem State.setTen_lans (n : Tid) (x : Ten) : (s.setTen n x).lans = s.lans := rfl
@[simp] theorem State.setTen_mem (n : Tid) (x : Ten) : (s.setTen n x).mem = s.mem := rfl
@[simp] theorem State.setTen_held (n : Tid) (x : Ten) : (s.setTen n x).held = s.held := rfl
@[simp] theorem State.setTen_splices (n : Tid) (x : Ten) : (s.setTen n x).splices = s.splices := rfl
@[simp] theorem State.setTen_routers (n : Tid) (x : Ten) : (s.setTen n x).routers = s.routers := rfl
@[simp] theorem State.setTen_wins (n : Tid) (x : Ten) : (s.setTen n x).wins = s.wins := rfl
@[simp] theorem State.setTen_ports (n : Tid) (x : Ten) : (s.setTen n x).ports = s.ports := rfl
@[simp] theorem State.setTen_openseq (n : Tid) (x : Ten) : (s.setTen n x).openseq = s.openseq := rfl
@[simp] theorem State.setTen_sch (n : Tid) (x : Ten) : (s.setTen n x).sch = s.sch := rfl
@[simp] theorem State.setTen_bbx (n : Tid) (x : Ten) : (s.setTen n x).bbx = s.bbx := rfl
@[simp] theorem State.setTen_ic (n : Tid) (x : Ten) : (s.setTen n x).ic = s.ic := rfl
@[simp] theorem State.setTen_events (n : Tid) (x : Ten) : (s.setTen n x).events = s.events := rfl
@[simp] theorem State.setTen_evDrop (n : Tid) (x : Ten) : (s.setTen n x).evDrop = s.evDrop := rfl

/-! ## setFn -/
@[simp] theorem State.setFn_pending (f : Fn) (x : FnSt) : (s.setFn f x).pending = s.pending := rfl
@[simp] theorem State.setFn_out (f : Fn) (x : FnSt) : (s.setFn f x).out = s.out := rfl
@[simp] theorem State.setFn_draws (f : Fn) (x : FnSt) : (s.setFn f x).draws = s.draws := rfl
@[simp] theorem State.setFn_fuses (f : Fn) (x : FnSt) : (s.setFn f x).fuses = s.fuses := rfl
@[simp] theorem State.setFn_pins (f : Fn) (x : FnSt) : (s.setFn f x).pins = s.pins := rfl
@[simp] theorem State.setFn_die (f : Fn) (x : FnSt) : (s.setFn f x).die = s.die := rfl
@[simp] theorem State.setFn_rdy (f : Fn) (x : FnSt) : (s.setFn f x).rdy = s.rdy := rfl
@[simp] theorem State.setFn_boot (f : Fn) (x : FnSt) : (s.setFn f x).boot = s.boot := rfl
@[simp] theorem State.setFn_cap (f : Fn) (x : FnSt) : (s.setFn f x).cap = s.cap := rfl
@[simp] theorem State.setFn_bist (f : Fn) (x : FnSt) : (s.setFn f x).bist = s.bist := rfl
@[simp] theorem State.setFn_sys (f : Fn) (x : FnSt) : (s.setFn f x).sys = s.sys := rfl
@[simp] theorem State.setFn_lcs (f : Fn) (x : FnSt) : (s.setFn f x).lcs = s.lcs := rfl
@[simp] theorem State.setFn_pke (f : Fn) (x : FnSt) : (s.setFn f x).pke = s.pke := rfl
@[simp] theorem State.setFn_pwr (f : Fn) (x : FnSt) : (s.setFn f x).pwr = s.pwr := rfl
@[simp] theorem State.setFn_mgmt (f : Fn) (x : FnSt) : (s.setFn f x).mgmt = s.mgmt := rfl
@[simp] theorem State.setFn_dbg (f : Fn) (x : FnSt) : (s.setFn f x).dbg = s.dbg := rfl
@[simp] theorem State.setFn_bel (f : Fn) (x : FnSt) : (s.setFn f x).bel = s.bel := rfl
@[simp] theorem State.setFn_braids (f : Fn) (x : FnSt) : (s.setFn f x).braids = s.braids := rfl
@[simp] theorem State.setFn_lans (f : Fn) (x : FnSt) : (s.setFn f x).lans = s.lans := rfl
@[simp] theorem State.setFn_mem (f : Fn) (x : FnSt) : (s.setFn f x).mem = s.mem := rfl
@[simp] theorem State.setFn_held (f : Fn) (x : FnSt) : (s.setFn f x).held = s.held := rfl
@[simp] theorem State.setFn_splices (f : Fn) (x : FnSt) : (s.setFn f x).splices = s.splices := rfl
@[simp] theorem State.setFn_routers (f : Fn) (x : FnSt) : (s.setFn f x).routers = s.routers := rfl
@[simp] theorem State.setFn_wins (f : Fn) (x : FnSt) : (s.setFn f x).wins = s.wins := rfl
@[simp] theorem State.setFn_ports (f : Fn) (x : FnSt) : (s.setFn f x).ports = s.ports := rfl
@[simp] theorem State.setFn_openseq (f : Fn) (x : FnSt) : (s.setFn f x).openseq = s.openseq := rfl
@[simp] theorem State.setFn_tens (f : Fn) (x : FnSt) : (s.setFn f x).tens = s.tens := rfl
@[simp] theorem State.setFn_bbx (f : Fn) (x : FnSt) : (s.setFn f x).bbx = s.bbx := rfl
@[simp] theorem State.setFn_ic (f : Fn) (x : FnSt) : (s.setFn f x).ic = s.ic := rfl
@[simp] theorem State.setFn_events (f : Fn) (x : FnSt) : (s.setFn f x).events = s.events := rfl
@[simp] theorem State.setFn_evDrop (f : Fn) (x : FnSt) : (s.setFn f x).evDrop = s.evDrop := rfl

/-! ## setSq -/
@[simp] theorem State.setSq_pending (f : Fn) (q : BitVec 2) (x : SqRing) : (s.setSq f q x).pending = s.pending := rfl
@[simp] theorem State.setSq_out (f : Fn) (q : BitVec 2) (x : SqRing) : (s.setSq f q x).out = s.out := rfl
@[simp] theorem State.setSq_draws (f : Fn) (q : BitVec 2) (x : SqRing) : (s.setSq f q x).draws = s.draws := rfl
@[simp] theorem State.setSq_fuses (f : Fn) (q : BitVec 2) (x : SqRing) : (s.setSq f q x).fuses = s.fuses := rfl
@[simp] theorem State.setSq_pins (f : Fn) (q : BitVec 2) (x : SqRing) : (s.setSq f q x).pins = s.pins := rfl
@[simp] theorem State.setSq_die (f : Fn) (q : BitVec 2) (x : SqRing) : (s.setSq f q x).die = s.die := rfl
@[simp] theorem State.setSq_rdy (f : Fn) (q : BitVec 2) (x : SqRing) : (s.setSq f q x).rdy = s.rdy := rfl
@[simp] theorem State.setSq_boot (f : Fn) (q : BitVec 2) (x : SqRing) : (s.setSq f q x).boot = s.boot := rfl
@[simp] theorem State.setSq_cap (f : Fn) (q : BitVec 2) (x : SqRing) : (s.setSq f q x).cap = s.cap := rfl
@[simp] theorem State.setSq_bist (f : Fn) (q : BitVec 2) (x : SqRing) : (s.setSq f q x).bist = s.bist := rfl
@[simp] theorem State.setSq_sys (f : Fn) (q : BitVec 2) (x : SqRing) : (s.setSq f q x).sys = s.sys := rfl
@[simp] theorem State.setSq_lcs (f : Fn) (q : BitVec 2) (x : SqRing) : (s.setSq f q x).lcs = s.lcs := rfl
@[simp] theorem State.setSq_pke (f : Fn) (q : BitVec 2) (x : SqRing) : (s.setSq f q x).pke = s.pke := rfl
@[simp] theorem State.setSq_pwr (f : Fn) (q : BitVec 2) (x : SqRing) : (s.setSq f q x).pwr = s.pwr := rfl
@[simp] theorem State.setSq_mgmt (f : Fn) (q : BitVec 2) (x : SqRing) : (s.setSq f q x).mgmt = s.mgmt := rfl
@[simp] theorem State.setSq_dbg (f : Fn) (q : BitVec 2) (x : SqRing) : (s.setSq f q x).dbg = s.dbg := rfl
@[simp] theorem State.setSq_bel (f : Fn) (q : BitVec 2) (x : SqRing) : (s.setSq f q x).bel = s.bel := rfl
@[simp] theorem State.setSq_braids (f : Fn) (q : BitVec 2) (x : SqRing) : (s.setSq f q x).braids = s.braids := rfl
@[simp] theorem State.setSq_lans (f : Fn) (q : BitVec 2) (x : SqRing) : (s.setSq f q x).lans = s.lans := rfl
@[simp] theorem State.setSq_mem (f : Fn) (q : BitVec 2) (x : SqRing) : (s.setSq f q x).mem = s.mem := rfl
@[simp] theorem State.setSq_held (f : Fn) (q : BitVec 2) (x : SqRing) : (s.setSq f q x).held = s.held := rfl
@[simp] theorem State.setSq_splices (f : Fn) (q : BitVec 2) (x : SqRing) : (s.setSq f q x).splices = s.splices := rfl
@[simp] theorem State.setSq_routers (f : Fn) (q : BitVec 2) (x : SqRing) : (s.setSq f q x).routers = s.routers := rfl
@[simp] theorem State.setSq_wins (f : Fn) (q : BitVec 2) (x : SqRing) : (s.setSq f q x).wins = s.wins := rfl
@[simp] theorem State.setSq_ports (f : Fn) (q : BitVec 2) (x : SqRing) : (s.setSq f q x).ports = s.ports := rfl
@[simp] theorem State.setSq_openseq (f : Fn) (q : BitVec 2) (x : SqRing) : (s.setSq f q x).openseq = s.openseq := rfl
@[simp] theorem State.setSq_tens (f : Fn) (q : BitVec 2) (x : SqRing) : (s.setSq f q x).tens = s.tens := rfl
@[simp] theorem State.setSq_bbx (f : Fn) (q : BitVec 2) (x : SqRing) : (s.setSq f q x).bbx = s.bbx := rfl
@[simp] theorem State.setSq_ic (f : Fn) (q : BitVec 2) (x : SqRing) : (s.setSq f q x).ic = s.ic := rfl
@[simp] theorem State.setSq_events (f : Fn) (q : BitVec 2) (x : SqRing) : (s.setSq f q x).events = s.events := rfl
@[simp] theorem State.setSq_evDrop (f : Fn) (q : BitVec 2) (x : SqRing) : (s.setSq f q x).evDrop = s.evDrop := rfl

/-! ## setTier -/
@[simp] theorem State.setTier_pending (b h : Bool) (x : TierSt) : (s.setTier b h x).pending = s.pending := rfl
@[simp] theorem State.setTier_out (b h : Bool) (x : TierSt) : (s.setTier b h x).out = s.out := rfl
@[simp] theorem State.setTier_draws (b h : Bool) (x : TierSt) : (s.setTier b h x).draws = s.draws := rfl
@[simp] theorem State.setTier_fuses (b h : Bool) (x : TierSt) : (s.setTier b h x).fuses = s.fuses := rfl
@[simp] theorem State.setTier_pins (b h : Bool) (x : TierSt) : (s.setTier b h x).pins = s.pins := rfl
@[simp] theorem State.setTier_die (b h : Bool) (x : TierSt) : (s.setTier b h x).die = s.die := rfl
@[simp] theorem State.setTier_rdy (b h : Bool) (x : TierSt) : (s.setTier b h x).rdy = s.rdy := rfl
@[simp] theorem State.setTier_boot (b h : Bool) (x : TierSt) : (s.setTier b h x).boot = s.boot := rfl
@[simp] theorem State.setTier_cap (b h : Bool) (x : TierSt) : (s.setTier b h x).cap = s.cap := rfl
@[simp] theorem State.setTier_bist (b h : Bool) (x : TierSt) : (s.setTier b h x).bist = s.bist := rfl
@[simp] theorem State.setTier_sys (b h : Bool) (x : TierSt) : (s.setTier b h x).sys = s.sys := rfl
@[simp] theorem State.setTier_lcs (b h : Bool) (x : TierSt) : (s.setTier b h x).lcs = s.lcs := rfl
@[simp] theorem State.setTier_pke (b h : Bool) (x : TierSt) : (s.setTier b h x).pke = s.pke := rfl
@[simp] theorem State.setTier_pwr (b h : Bool) (x : TierSt) : (s.setTier b h x).pwr = s.pwr := rfl
@[simp] theorem State.setTier_mgmt (b h : Bool) (x : TierSt) : (s.setTier b h x).mgmt = s.mgmt := rfl
@[simp] theorem State.setTier_dbg (b h : Bool) (x : TierSt) : (s.setTier b h x).dbg = s.dbg := rfl
@[simp] theorem State.setTier_bel (b h : Bool) (x : TierSt) : (s.setTier b h x).bel = s.bel := rfl
@[simp] theorem State.setTier_braids (b h : Bool) (x : TierSt) : (s.setTier b h x).braids = s.braids := rfl
@[simp] theorem State.setTier_lans (b h : Bool) (x : TierSt) : (s.setTier b h x).lans = s.lans := rfl
@[simp] theorem State.setTier_held (b h : Bool) (x : TierSt) : (s.setTier b h x).held = s.held := rfl
@[simp] theorem State.setTier_splices (b h : Bool) (x : TierSt) : (s.setTier b h x).splices = s.splices := rfl
@[simp] theorem State.setTier_routers (b h : Bool) (x : TierSt) : (s.setTier b h x).routers = s.routers := rfl
@[simp] theorem State.setTier_wins (b h : Bool) (x : TierSt) : (s.setTier b h x).wins = s.wins := rfl
@[simp] theorem State.setTier_ports (b h : Bool) (x : TierSt) : (s.setTier b h x).ports = s.ports := rfl
@[simp] theorem State.setTier_openseq (b h : Bool) (x : TierSt) : (s.setTier b h x).openseq = s.openseq := rfl
@[simp] theorem State.setTier_tens (b h : Bool) (x : TierSt) : (s.setTier b h x).tens = s.tens := rfl
@[simp] theorem State.setTier_sch (b h : Bool) (x : TierSt) : (s.setTier b h x).sch = s.sch := rfl
@[simp] theorem State.setTier_bbx (b h : Bool) (x : TierSt) : (s.setTier b h x).bbx = s.bbx := rfl
@[simp] theorem State.setTier_ic (b h : Bool) (x : TierSt) : (s.setTier b h x).ic = s.ic := rfl
@[simp] theorem State.setTier_events (b h : Bool) (x : TierSt) : (s.setTier b h x).events = s.events := rfl
@[simp] theorem State.setTier_evDrop (b h : Bool) (x : TierSt) : (s.setTier b h x).evDrop = s.evDrop := rfl

/-! ## setPager -/
@[simp] theorem State.setPager_pending (h : Bool) (x : Pager) : (s.setPager h x).pending = s.pending := rfl
@[simp] theorem State.setPager_out (h : Bool) (x : Pager) : (s.setPager h x).out = s.out := rfl
@[simp] theorem State.setPager_draws (h : Bool) (x : Pager) : (s.setPager h x).draws = s.draws := rfl
@[simp] theorem State.setPager_fuses (h : Bool) (x : Pager) : (s.setPager h x).fuses = s.fuses := rfl
@[simp] theorem State.setPager_pins (h : Bool) (x : Pager) : (s.setPager h x).pins = s.pins := rfl
@[simp] theorem State.setPager_die (h : Bool) (x : Pager) : (s.setPager h x).die = s.die := rfl
@[simp] theorem State.setPager_rdy (h : Bool) (x : Pager) : (s.setPager h x).rdy = s.rdy := rfl
@[simp] theorem State.setPager_boot (h : Bool) (x : Pager) : (s.setPager h x).boot = s.boot := rfl
@[simp] theorem State.setPager_cap (h : Bool) (x : Pager) : (s.setPager h x).cap = s.cap := rfl
@[simp] theorem State.setPager_bist (h : Bool) (x : Pager) : (s.setPager h x).bist = s.bist := rfl
@[simp] theorem State.setPager_sys (h : Bool) (x : Pager) : (s.setPager h x).sys = s.sys := rfl
@[simp] theorem State.setPager_lcs (h : Bool) (x : Pager) : (s.setPager h x).lcs = s.lcs := rfl
@[simp] theorem State.setPager_pke (h : Bool) (x : Pager) : (s.setPager h x).pke = s.pke := rfl
@[simp] theorem State.setPager_pwr (h : Bool) (x : Pager) : (s.setPager h x).pwr = s.pwr := rfl
@[simp] theorem State.setPager_mgmt (h : Bool) (x : Pager) : (s.setPager h x).mgmt = s.mgmt := rfl
@[simp] theorem State.setPager_dbg (h : Bool) (x : Pager) : (s.setPager h x).dbg = s.dbg := rfl
@[simp] theorem State.setPager_bel (h : Bool) (x : Pager) : (s.setPager h x).bel = s.bel := rfl
@[simp] theorem State.setPager_braids (h : Bool) (x : Pager) : (s.setPager h x).braids = s.braids := rfl
@[simp] theorem State.setPager_lans (h : Bool) (x : Pager) : (s.setPager h x).lans = s.lans := rfl
@[simp] theorem State.setPager_held (h : Bool) (x : Pager) : (s.setPager h x).held = s.held := rfl
@[simp] theorem State.setPager_splices (h : Bool) (x : Pager) : (s.setPager h x).splices = s.splices := rfl
@[simp] theorem State.setPager_routers (h : Bool) (x : Pager) : (s.setPager h x).routers = s.routers := rfl
@[simp] theorem State.setPager_wins (h : Bool) (x : Pager) : (s.setPager h x).wins = s.wins := rfl
@[simp] theorem State.setPager_ports (h : Bool) (x : Pager) : (s.setPager h x).ports = s.ports := rfl
@[simp] theorem State.setPager_openseq (h : Bool) (x : Pager) : (s.setPager h x).openseq = s.openseq := rfl
@[simp] theorem State.setPager_tens (h : Bool) (x : Pager) : (s.setPager h x).tens = s.tens := rfl
@[simp] theorem State.setPager_sch (h : Bool) (x : Pager) : (s.setPager h x).sch = s.sch := rfl
@[simp] theorem State.setPager_bbx (h : Bool) (x : Pager) : (s.setPager h x).bbx = s.bbx := rfl
@[simp] theorem State.setPager_ic (h : Bool) (x : Pager) : (s.setPager h x).ic = s.ic := rfl
@[simp] theorem State.setPager_events (h : Bool) (x : Pager) : (s.setPager h x).events = s.events := rfl
@[simp] theorem State.setPager_evDrop (h : Bool) (x : Pager) : (s.setPager h x).evDrop = s.evDrop := rfl

/-! ## setLan -/
@[simp] theorem State.setLan_pending (h : Bool) (x : Lanyard) : (s.setLan h x).pending = s.pending := rfl
@[simp] theorem State.setLan_out (h : Bool) (x : Lanyard) : (s.setLan h x).out = s.out := rfl
@[simp] theorem State.setLan_draws (h : Bool) (x : Lanyard) : (s.setLan h x).draws = s.draws := rfl
@[simp] theorem State.setLan_fuses (h : Bool) (x : Lanyard) : (s.setLan h x).fuses = s.fuses := rfl
@[simp] theorem State.setLan_pins (h : Bool) (x : Lanyard) : (s.setLan h x).pins = s.pins := rfl
@[simp] theorem State.setLan_die (h : Bool) (x : Lanyard) : (s.setLan h x).die = s.die := rfl
@[simp] theorem State.setLan_rdy (h : Bool) (x : Lanyard) : (s.setLan h x).rdy = s.rdy := rfl
@[simp] theorem State.setLan_boot (h : Bool) (x : Lanyard) : (s.setLan h x).boot = s.boot := rfl
@[simp] theorem State.setLan_cap (h : Bool) (x : Lanyard) : (s.setLan h x).cap = s.cap := rfl
@[simp] theorem State.setLan_bist (h : Bool) (x : Lanyard) : (s.setLan h x).bist = s.bist := rfl
@[simp] theorem State.setLan_sys (h : Bool) (x : Lanyard) : (s.setLan h x).sys = s.sys := rfl
@[simp] theorem State.setLan_lcs (h : Bool) (x : Lanyard) : (s.setLan h x).lcs = s.lcs := rfl
@[simp] theorem State.setLan_pke (h : Bool) (x : Lanyard) : (s.setLan h x).pke = s.pke := rfl
@[simp] theorem State.setLan_pwr (h : Bool) (x : Lanyard) : (s.setLan h x).pwr = s.pwr := rfl
@[simp] theorem State.setLan_mgmt (h : Bool) (x : Lanyard) : (s.setLan h x).mgmt = s.mgmt := rfl
@[simp] theorem State.setLan_dbg (h : Bool) (x : Lanyard) : (s.setLan h x).dbg = s.dbg := rfl
@[simp] theorem State.setLan_bel (h : Bool) (x : Lanyard) : (s.setLan h x).bel = s.bel := rfl
@[simp] theorem State.setLan_braids (h : Bool) (x : Lanyard) : (s.setLan h x).braids = s.braids := rfl
@[simp] theorem State.setLan_mem (h : Bool) (x : Lanyard) : (s.setLan h x).mem = s.mem := rfl
@[simp] theorem State.setLan_held (h : Bool) (x : Lanyard) : (s.setLan h x).held = s.held := rfl
@[simp] theorem State.setLan_splices (h : Bool) (x : Lanyard) : (s.setLan h x).splices = s.splices := rfl
@[simp] theorem State.setLan_routers (h : Bool) (x : Lanyard) : (s.setLan h x).routers = s.routers := rfl
@[simp] theorem State.setLan_wins (h : Bool) (x : Lanyard) : (s.setLan h x).wins = s.wins := rfl
@[simp] theorem State.setLan_ports (h : Bool) (x : Lanyard) : (s.setLan h x).ports = s.ports := rfl
@[simp] theorem State.setLan_openseq (h : Bool) (x : Lanyard) : (s.setLan h x).openseq = s.openseq := rfl
@[simp] theorem State.setLan_tens (h : Bool) (x : Lanyard) : (s.setLan h x).tens = s.tens := rfl
@[simp] theorem State.setLan_sch (h : Bool) (x : Lanyard) : (s.setLan h x).sch = s.sch := rfl
@[simp] theorem State.setLan_bbx (h : Bool) (x : Lanyard) : (s.setLan h x).bbx = s.bbx := rfl
@[simp] theorem State.setLan_ic (h : Bool) (x : Lanyard) : (s.setLan h x).ic = s.ic := rfl
@[simp] theorem State.setLan_events (h : Bool) (x : Lanyard) : (s.setLan h x).events = s.events := rfl
@[simp] theorem State.setLan_evDrop (h : Bool) (x : Lanyard) : (s.setLan h x).evDrop = s.evDrop := rfl

/-! ## setSplice -/
@[simp] theorem State.setSplice_pending (i : Nat) (x : Splice) : (s.setSplice i x).pending = s.pending := rfl
@[simp] theorem State.setSplice_out (i : Nat) (x : Splice) : (s.setSplice i x).out = s.out := rfl
@[simp] theorem State.setSplice_draws (i : Nat) (x : Splice) : (s.setSplice i x).draws = s.draws := rfl
@[simp] theorem State.setSplice_fuses (i : Nat) (x : Splice) : (s.setSplice i x).fuses = s.fuses := rfl
@[simp] theorem State.setSplice_pins (i : Nat) (x : Splice) : (s.setSplice i x).pins = s.pins := rfl
@[simp] theorem State.setSplice_die (i : Nat) (x : Splice) : (s.setSplice i x).die = s.die := rfl
@[simp] theorem State.setSplice_rdy (i : Nat) (x : Splice) : (s.setSplice i x).rdy = s.rdy := rfl
@[simp] theorem State.setSplice_boot (i : Nat) (x : Splice) : (s.setSplice i x).boot = s.boot := rfl
@[simp] theorem State.setSplice_cap (i : Nat) (x : Splice) : (s.setSplice i x).cap = s.cap := rfl
@[simp] theorem State.setSplice_bist (i : Nat) (x : Splice) : (s.setSplice i x).bist = s.bist := rfl
@[simp] theorem State.setSplice_sys (i : Nat) (x : Splice) : (s.setSplice i x).sys = s.sys := rfl
@[simp] theorem State.setSplice_lcs (i : Nat) (x : Splice) : (s.setSplice i x).lcs = s.lcs := rfl
@[simp] theorem State.setSplice_pke (i : Nat) (x : Splice) : (s.setSplice i x).pke = s.pke := rfl
@[simp] theorem State.setSplice_pwr (i : Nat) (x : Splice) : (s.setSplice i x).pwr = s.pwr := rfl
@[simp] theorem State.setSplice_mgmt (i : Nat) (x : Splice) : (s.setSplice i x).mgmt = s.mgmt := rfl
@[simp] theorem State.setSplice_dbg (i : Nat) (x : Splice) : (s.setSplice i x).dbg = s.dbg := rfl
@[simp] theorem State.setSplice_bel (i : Nat) (x : Splice) : (s.setSplice i x).bel = s.bel := rfl
@[simp] theorem State.setSplice_braids (i : Nat) (x : Splice) : (s.setSplice i x).braids = s.braids := rfl
@[simp] theorem State.setSplice_lans (i : Nat) (x : Splice) : (s.setSplice i x).lans = s.lans := rfl
@[simp] theorem State.setSplice_mem (i : Nat) (x : Splice) : (s.setSplice i x).mem = s.mem := rfl
@[simp] theorem State.setSplice_held (i : Nat) (x : Splice) : (s.setSplice i x).held = s.held := rfl
@[simp] theorem State.setSplice_routers (i : Nat) (x : Splice) : (s.setSplice i x).routers = s.routers := rfl
@[simp] theorem State.setSplice_wins (i : Nat) (x : Splice) : (s.setSplice i x).wins = s.wins := rfl
@[simp] theorem State.setSplice_ports (i : Nat) (x : Splice) : (s.setSplice i x).ports = s.ports := rfl
@[simp] theorem State.setSplice_openseq (i : Nat) (x : Splice) : (s.setSplice i x).openseq = s.openseq := rfl
@[simp] theorem State.setSplice_tens (i : Nat) (x : Splice) : (s.setSplice i x).tens = s.tens := rfl
@[simp] theorem State.setSplice_sch (i : Nat) (x : Splice) : (s.setSplice i x).sch = s.sch := rfl
@[simp] theorem State.setSplice_bbx (i : Nat) (x : Splice) : (s.setSplice i x).bbx = s.bbx := rfl
@[simp] theorem State.setSplice_ic (i : Nat) (x : Splice) : (s.setSplice i x).ic = s.ic := rfl
@[simp] theorem State.setSplice_events (i : Nat) (x : Splice) : (s.setSplice i x).events = s.events := rfl
@[simp] theorem State.setSplice_evDrop (i : Nat) (x : Splice) : (s.setSplice i x).evDrop = s.evDrop := rfl

/-! ## setRouter -/
@[simp] theorem State.setRouter_pending (i : Nat) (x : Router) : (s.setRouter i x).pending = s.pending := rfl
@[simp] theorem State.setRouter_out (i : Nat) (x : Router) : (s.setRouter i x).out = s.out := rfl
@[simp] theorem State.setRouter_draws (i : Nat) (x : Router) : (s.setRouter i x).draws = s.draws := rfl
@[simp] theorem State.setRouter_fuses (i : Nat) (x : Router) : (s.setRouter i x).fuses = s.fuses := rfl
@[simp] theorem State.setRouter_pins (i : Nat) (x : Router) : (s.setRouter i x).pins = s.pins := rfl
@[simp] theorem State.setRouter_die (i : Nat) (x : Router) : (s.setRouter i x).die = s.die := rfl
@[simp] theorem State.setRouter_rdy (i : Nat) (x : Router) : (s.setRouter i x).rdy = s.rdy := rfl
@[simp] theorem State.setRouter_boot (i : Nat) (x : Router) : (s.setRouter i x).boot = s.boot := rfl
@[simp] theorem State.setRouter_cap (i : Nat) (x : Router) : (s.setRouter i x).cap = s.cap := rfl
@[simp] theorem State.setRouter_bist (i : Nat) (x : Router) : (s.setRouter i x).bist = s.bist := rfl
@[simp] theorem State.setRouter_sys (i : Nat) (x : Router) : (s.setRouter i x).sys = s.sys := rfl
@[simp] theorem State.setRouter_lcs (i : Nat) (x : Router) : (s.setRouter i x).lcs = s.lcs := rfl
@[simp] theorem State.setRouter_pke (i : Nat) (x : Router) : (s.setRouter i x).pke = s.pke := rfl
@[simp] theorem State.setRouter_pwr (i : Nat) (x : Router) : (s.setRouter i x).pwr = s.pwr := rfl
@[simp] theorem State.setRouter_mgmt (i : Nat) (x : Router) : (s.setRouter i x).mgmt = s.mgmt := rfl
@[simp] theorem State.setRouter_dbg (i : Nat) (x : Router) : (s.setRouter i x).dbg = s.dbg := rfl
@[simp] theorem State.setRouter_bel (i : Nat) (x : Router) : (s.setRouter i x).bel = s.bel := rfl
@[simp] theorem State.setRouter_braids (i : Nat) (x : Router) : (s.setRouter i x).braids = s.braids := rfl
@[simp] theorem State.setRouter_lans (i : Nat) (x : Router) : (s.setRouter i x).lans = s.lans := rfl
@[simp] theorem State.setRouter_mem (i : Nat) (x : Router) : (s.setRouter i x).mem = s.mem := rfl
@[simp] theorem State.setRouter_held (i : Nat) (x : Router) : (s.setRouter i x).held = s.held := rfl
@[simp] theorem State.setRouter_splices (i : Nat) (x : Router) : (s.setRouter i x).splices = s.splices := rfl
@[simp] theorem State.setRouter_wins (i : Nat) (x : Router) : (s.setRouter i x).wins = s.wins := rfl
@[simp] theorem State.setRouter_ports (i : Nat) (x : Router) : (s.setRouter i x).ports = s.ports := rfl
@[simp] theorem State.setRouter_openseq (i : Nat) (x : Router) : (s.setRouter i x).openseq = s.openseq := rfl
@[simp] theorem State.setRouter_tens (i : Nat) (x : Router) : (s.setRouter i x).tens = s.tens := rfl
@[simp] theorem State.setRouter_sch (i : Nat) (x : Router) : (s.setRouter i x).sch = s.sch := rfl
@[simp] theorem State.setRouter_bbx (i : Nat) (x : Router) : (s.setRouter i x).bbx = s.bbx := rfl
@[simp] theorem State.setRouter_ic (i : Nat) (x : Router) : (s.setRouter i x).ic = s.ic := rfl
@[simp] theorem State.setRouter_events (i : Nat) (x : Router) : (s.setRouter i x).events = s.events := rfl
@[simp] theorem State.setRouter_evDrop (i : Nat) (x : Router) : (s.setRouter i x).evDrop = s.evDrop := rfl

/-! ## setWin -/
@[simp] theorem State.setWin_pending (i : Nat) (x : Win) : (s.setWin i x).pending = s.pending := rfl
@[simp] theorem State.setWin_out (i : Nat) (x : Win) : (s.setWin i x).out = s.out := rfl
@[simp] theorem State.setWin_draws (i : Nat) (x : Win) : (s.setWin i x).draws = s.draws := rfl
@[simp] theorem State.setWin_fuses (i : Nat) (x : Win) : (s.setWin i x).fuses = s.fuses := rfl
@[simp] theorem State.setWin_pins (i : Nat) (x : Win) : (s.setWin i x).pins = s.pins := rfl
@[simp] theorem State.setWin_die (i : Nat) (x : Win) : (s.setWin i x).die = s.die := rfl
@[simp] theorem State.setWin_rdy (i : Nat) (x : Win) : (s.setWin i x).rdy = s.rdy := rfl
@[simp] theorem State.setWin_boot (i : Nat) (x : Win) : (s.setWin i x).boot = s.boot := rfl
@[simp] theorem State.setWin_cap (i : Nat) (x : Win) : (s.setWin i x).cap = s.cap := rfl
@[simp] theorem State.setWin_bist (i : Nat) (x : Win) : (s.setWin i x).bist = s.bist := rfl
@[simp] theorem State.setWin_sys (i : Nat) (x : Win) : (s.setWin i x).sys = s.sys := rfl
@[simp] theorem State.setWin_lcs (i : Nat) (x : Win) : (s.setWin i x).lcs = s.lcs := rfl
@[simp] theorem State.setWin_pke (i : Nat) (x : Win) : (s.setWin i x).pke = s.pke := rfl
@[simp] theorem State.setWin_pwr (i : Nat) (x : Win) : (s.setWin i x).pwr = s.pwr := rfl
@[simp] theorem State.setWin_mgmt (i : Nat) (x : Win) : (s.setWin i x).mgmt = s.mgmt := rfl
@[simp] theorem State.setWin_dbg (i : Nat) (x : Win) : (s.setWin i x).dbg = s.dbg := rfl
@[simp] theorem State.setWin_bel (i : Nat) (x : Win) : (s.setWin i x).bel = s.bel := rfl
@[simp] theorem State.setWin_braids (i : Nat) (x : Win) : (s.setWin i x).braids = s.braids := rfl
@[simp] theorem State.setWin_lans (i : Nat) (x : Win) : (s.setWin i x).lans = s.lans := rfl
@[simp] theorem State.setWin_mem (i : Nat) (x : Win) : (s.setWin i x).mem = s.mem := rfl
@[simp] theorem State.setWin_held (i : Nat) (x : Win) : (s.setWin i x).held = s.held := rfl
@[simp] theorem State.setWin_splices (i : Nat) (x : Win) : (s.setWin i x).splices = s.splices := rfl
@[simp] theorem State.setWin_routers (i : Nat) (x : Win) : (s.setWin i x).routers = s.routers := rfl
@[simp] theorem State.setWin_ports (i : Nat) (x : Win) : (s.setWin i x).ports = s.ports := rfl
@[simp] theorem State.setWin_openseq (i : Nat) (x : Win) : (s.setWin i x).openseq = s.openseq := rfl
@[simp] theorem State.setWin_tens (i : Nat) (x : Win) : (s.setWin i x).tens = s.tens := rfl
@[simp] theorem State.setWin_sch (i : Nat) (x : Win) : (s.setWin i x).sch = s.sch := rfl
@[simp] theorem State.setWin_bbx (i : Nat) (x : Win) : (s.setWin i x).bbx = s.bbx := rfl
@[simp] theorem State.setWin_ic (i : Nat) (x : Win) : (s.setWin i x).ic = s.ic := rfl
@[simp] theorem State.setWin_events (i : Nat) (x : Win) : (s.setWin i x).events = s.events := rfl
@[simp] theorem State.setWin_evDrop (i : Nat) (x : Win) : (s.setWin i x).evDrop = s.evDrop := rfl

/-! ## setPort -/
@[simp] theorem State.setPort_pending (p : Port) (x : PortSt) : (s.setPort p x).pending = s.pending := rfl
@[simp] theorem State.setPort_out (p : Port) (x : PortSt) : (s.setPort p x).out = s.out := rfl
@[simp] theorem State.setPort_draws (p : Port) (x : PortSt) : (s.setPort p x).draws = s.draws := rfl
@[simp] theorem State.setPort_fuses (p : Port) (x : PortSt) : (s.setPort p x).fuses = s.fuses := rfl
@[simp] theorem State.setPort_pins (p : Port) (x : PortSt) : (s.setPort p x).pins = s.pins := rfl
@[simp] theorem State.setPort_die (p : Port) (x : PortSt) : (s.setPort p x).die = s.die := rfl
@[simp] theorem State.setPort_rdy (p : Port) (x : PortSt) : (s.setPort p x).rdy = s.rdy := rfl
@[simp] theorem State.setPort_boot (p : Port) (x : PortSt) : (s.setPort p x).boot = s.boot := rfl
@[simp] theorem State.setPort_cap (p : Port) (x : PortSt) : (s.setPort p x).cap = s.cap := rfl
@[simp] theorem State.setPort_bist (p : Port) (x : PortSt) : (s.setPort p x).bist = s.bist := rfl
@[simp] theorem State.setPort_sys (p : Port) (x : PortSt) : (s.setPort p x).sys = s.sys := rfl
@[simp] theorem State.setPort_lcs (p : Port) (x : PortSt) : (s.setPort p x).lcs = s.lcs := rfl
@[simp] theorem State.setPort_pke (p : Port) (x : PortSt) : (s.setPort p x).pke = s.pke := rfl
@[simp] theorem State.setPort_pwr (p : Port) (x : PortSt) : (s.setPort p x).pwr = s.pwr := rfl
@[simp] theorem State.setPort_mgmt (p : Port) (x : PortSt) : (s.setPort p x).mgmt = s.mgmt := rfl
@[simp] theorem State.setPort_dbg (p : Port) (x : PortSt) : (s.setPort p x).dbg = s.dbg := rfl
@[simp] theorem State.setPort_bel (p : Port) (x : PortSt) : (s.setPort p x).bel = s.bel := rfl
@[simp] theorem State.setPort_braids (p : Port) (x : PortSt) : (s.setPort p x).braids = s.braids := rfl
@[simp] theorem State.setPort_lans (p : Port) (x : PortSt) : (s.setPort p x).lans = s.lans := rfl
@[simp] theorem State.setPort_mem (p : Port) (x : PortSt) : (s.setPort p x).mem = s.mem := rfl
@[simp] theorem State.setPort_held (p : Port) (x : PortSt) : (s.setPort p x).held = s.held := rfl
@[simp] theorem State.setPort_splices (p : Port) (x : PortSt) : (s.setPort p x).splices = s.splices := rfl
@[simp] theorem State.setPort_routers (p : Port) (x : PortSt) : (s.setPort p x).routers = s.routers := rfl
@[simp] theorem State.setPort_wins (p : Port) (x : PortSt) : (s.setPort p x).wins = s.wins := rfl
@[simp] theorem State.setPort_openseq (p : Port) (x : PortSt) : (s.setPort p x).openseq = s.openseq := rfl
@[simp] theorem State.setPort_tens (p : Port) (x : PortSt) : (s.setPort p x).tens = s.tens := rfl
@[simp] theorem State.setPort_sch (p : Port) (x : PortSt) : (s.setPort p x).sch = s.sch := rfl
@[simp] theorem State.setPort_bbx (p : Port) (x : PortSt) : (s.setPort p x).bbx = s.bbx := rfl
@[simp] theorem State.setPort_ic (p : Port) (x : PortSt) : (s.setPort p x).ic = s.ic := rfl
@[simp] theorem State.setPort_events (p : Port) (x : PortSt) : (s.setPort p x).events = s.events := rfl
@[simp] theorem State.setPort_evDrop (p : Port) (x : PortSt) : (s.setPort p x).evDrop = s.evDrop := rfl

/-! ## setPwrBraid -/
@[simp] theorem State.setPwrBraid_pending (i : Nat) (x : PwrBraid) : (s.setPwrBraid i x).pending = s.pending := rfl
@[simp] theorem State.setPwrBraid_out (i : Nat) (x : PwrBraid) : (s.setPwrBraid i x).out = s.out := rfl
@[simp] theorem State.setPwrBraid_draws (i : Nat) (x : PwrBraid) : (s.setPwrBraid i x).draws = s.draws := rfl
@[simp] theorem State.setPwrBraid_fuses (i : Nat) (x : PwrBraid) : (s.setPwrBraid i x).fuses = s.fuses := rfl
@[simp] theorem State.setPwrBraid_pins (i : Nat) (x : PwrBraid) : (s.setPwrBraid i x).pins = s.pins := rfl
@[simp] theorem State.setPwrBraid_die (i : Nat) (x : PwrBraid) : (s.setPwrBraid i x).die = s.die := rfl
@[simp] theorem State.setPwrBraid_rdy (i : Nat) (x : PwrBraid) : (s.setPwrBraid i x).rdy = s.rdy := rfl
@[simp] theorem State.setPwrBraid_boot (i : Nat) (x : PwrBraid) : (s.setPwrBraid i x).boot = s.boot := rfl
@[simp] theorem State.setPwrBraid_cap (i : Nat) (x : PwrBraid) : (s.setPwrBraid i x).cap = s.cap := rfl
@[simp] theorem State.setPwrBraid_bist (i : Nat) (x : PwrBraid) : (s.setPwrBraid i x).bist = s.bist := rfl
@[simp] theorem State.setPwrBraid_sys (i : Nat) (x : PwrBraid) : (s.setPwrBraid i x).sys = s.sys := rfl
@[simp] theorem State.setPwrBraid_lcs (i : Nat) (x : PwrBraid) : (s.setPwrBraid i x).lcs = s.lcs := rfl
@[simp] theorem State.setPwrBraid_pke (i : Nat) (x : PwrBraid) : (s.setPwrBraid i x).pke = s.pke := rfl
@[simp] theorem State.setPwrBraid_mgmt (i : Nat) (x : PwrBraid) : (s.setPwrBraid i x).mgmt = s.mgmt := rfl
@[simp] theorem State.setPwrBraid_dbg (i : Nat) (x : PwrBraid) : (s.setPwrBraid i x).dbg = s.dbg := rfl
@[simp] theorem State.setPwrBraid_bel (i : Nat) (x : PwrBraid) : (s.setPwrBraid i x).bel = s.bel := rfl
@[simp] theorem State.setPwrBraid_braids (i : Nat) (x : PwrBraid) : (s.setPwrBraid i x).braids = s.braids := rfl
@[simp] theorem State.setPwrBraid_lans (i : Nat) (x : PwrBraid) : (s.setPwrBraid i x).lans = s.lans := rfl
@[simp] theorem State.setPwrBraid_mem (i : Nat) (x : PwrBraid) : (s.setPwrBraid i x).mem = s.mem := rfl
@[simp] theorem State.setPwrBraid_held (i : Nat) (x : PwrBraid) : (s.setPwrBraid i x).held = s.held := rfl
@[simp] theorem State.setPwrBraid_splices (i : Nat) (x : PwrBraid) : (s.setPwrBraid i x).splices = s.splices := rfl
@[simp] theorem State.setPwrBraid_routers (i : Nat) (x : PwrBraid) : (s.setPwrBraid i x).routers = s.routers := rfl
@[simp] theorem State.setPwrBraid_wins (i : Nat) (x : PwrBraid) : (s.setPwrBraid i x).wins = s.wins := rfl
@[simp] theorem State.setPwrBraid_ports (i : Nat) (x : PwrBraid) : (s.setPwrBraid i x).ports = s.ports := rfl
@[simp] theorem State.setPwrBraid_openseq (i : Nat) (x : PwrBraid) : (s.setPwrBraid i x).openseq = s.openseq := rfl
@[simp] theorem State.setPwrBraid_tens (i : Nat) (x : PwrBraid) : (s.setPwrBraid i x).tens = s.tens := rfl
@[simp] theorem State.setPwrBraid_sch (i : Nat) (x : PwrBraid) : (s.setPwrBraid i x).sch = s.sch := rfl
@[simp] theorem State.setPwrBraid_bbx (i : Nat) (x : PwrBraid) : (s.setPwrBraid i x).bbx = s.bbx := rfl
@[simp] theorem State.setPwrBraid_ic (i : Nat) (x : PwrBraid) : (s.setPwrBraid i x).ic = s.ic := rfl
@[simp] theorem State.setPwrBraid_events (i : Nat) (x : PwrBraid) : (s.setPwrBraid i x).events = s.events := rfl
@[simp] theorem State.setPwrBraid_evDrop (i : Nat) (x : PwrBraid) : (s.setPwrBraid i x).evDrop = s.evDrop := rfl

/-! ## setUnit -/
@[simp] theorem State.setUnit_pending (u : Nat) (x : UnitSt) : (s.setUnit u x).pending = s.pending := rfl
@[simp] theorem State.setUnit_out (u : Nat) (x : UnitSt) : (s.setUnit u x).out = s.out := rfl
@[simp] theorem State.setUnit_draws (u : Nat) (x : UnitSt) : (s.setUnit u x).draws = s.draws := rfl
@[simp] theorem State.setUnit_fuses (u : Nat) (x : UnitSt) : (s.setUnit u x).fuses = s.fuses := rfl
@[simp] theorem State.setUnit_pins (u : Nat) (x : UnitSt) : (s.setUnit u x).pins = s.pins := rfl
@[simp] theorem State.setUnit_die (u : Nat) (x : UnitSt) : (s.setUnit u x).die = s.die := rfl
@[simp] theorem State.setUnit_rdy (u : Nat) (x : UnitSt) : (s.setUnit u x).rdy = s.rdy := rfl
@[simp] theorem State.setUnit_boot (u : Nat) (x : UnitSt) : (s.setUnit u x).boot = s.boot := rfl
@[simp] theorem State.setUnit_cap (u : Nat) (x : UnitSt) : (s.setUnit u x).cap = s.cap := rfl
@[simp] theorem State.setUnit_sys (u : Nat) (x : UnitSt) : (s.setUnit u x).sys = s.sys := rfl
@[simp] theorem State.setUnit_lcs (u : Nat) (x : UnitSt) : (s.setUnit u x).lcs = s.lcs := rfl
@[simp] theorem State.setUnit_pke (u : Nat) (x : UnitSt) : (s.setUnit u x).pke = s.pke := rfl
@[simp] theorem State.setUnit_pwr (u : Nat) (x : UnitSt) : (s.setUnit u x).pwr = s.pwr := rfl
@[simp] theorem State.setUnit_mgmt (u : Nat) (x : UnitSt) : (s.setUnit u x).mgmt = s.mgmt := rfl
@[simp] theorem State.setUnit_dbg (u : Nat) (x : UnitSt) : (s.setUnit u x).dbg = s.dbg := rfl
@[simp] theorem State.setUnit_bel (u : Nat) (x : UnitSt) : (s.setUnit u x).bel = s.bel := rfl
@[simp] theorem State.setUnit_braids (u : Nat) (x : UnitSt) : (s.setUnit u x).braids = s.braids := rfl
@[simp] theorem State.setUnit_lans (u : Nat) (x : UnitSt) : (s.setUnit u x).lans = s.lans := rfl
@[simp] theorem State.setUnit_mem (u : Nat) (x : UnitSt) : (s.setUnit u x).mem = s.mem := rfl
@[simp] theorem State.setUnit_held (u : Nat) (x : UnitSt) : (s.setUnit u x).held = s.held := rfl
@[simp] theorem State.setUnit_splices (u : Nat) (x : UnitSt) : (s.setUnit u x).splices = s.splices := rfl
@[simp] theorem State.setUnit_routers (u : Nat) (x : UnitSt) : (s.setUnit u x).routers = s.routers := rfl
@[simp] theorem State.setUnit_wins (u : Nat) (x : UnitSt) : (s.setUnit u x).wins = s.wins := rfl
@[simp] theorem State.setUnit_ports (u : Nat) (x : UnitSt) : (s.setUnit u x).ports = s.ports := rfl
@[simp] theorem State.setUnit_openseq (u : Nat) (x : UnitSt) : (s.setUnit u x).openseq = s.openseq := rfl
@[simp] theorem State.setUnit_tens (u : Nat) (x : UnitSt) : (s.setUnit u x).tens = s.tens := rfl
@[simp] theorem State.setUnit_sch (u : Nat) (x : UnitSt) : (s.setUnit u x).sch = s.sch := rfl
@[simp] theorem State.setUnit_bbx (u : Nat) (x : UnitSt) : (s.setUnit u x).bbx = s.bbx := rfl
@[simp] theorem State.setUnit_ic (u : Nat) (x : UnitSt) : (s.setUnit u x).ic = s.ic := rfl
@[simp] theorem State.setUnit_events (u : Nat) (x : UnitSt) : (s.setUnit u x).events = s.events := rfl
@[simp] theorem State.setUnit_evDrop (u : Nat) (x : UnitSt) : (s.setUnit u x).evDrop = s.evDrop := rfl

/-! ## emit -/
@[simp] theorem State.emit_pending (o : Out) : (s.emit o).pending = s.pending := rfl
@[simp] theorem State.emit_draws (o : Out) : (s.emit o).draws = s.draws := rfl
@[simp] theorem State.emit_fuses (o : Out) : (s.emit o).fuses = s.fuses := rfl
@[simp] theorem State.emit_pins (o : Out) : (s.emit o).pins = s.pins := rfl
@[simp] theorem State.emit_die (o : Out) : (s.emit o).die = s.die := rfl
@[simp] theorem State.emit_rdy (o : Out) : (s.emit o).rdy = s.rdy := rfl
@[simp] theorem State.emit_boot (o : Out) : (s.emit o).boot = s.boot := rfl
@[simp] theorem State.emit_cap (o : Out) : (s.emit o).cap = s.cap := rfl
@[simp] theorem State.emit_bist (o : Out) : (s.emit o).bist = s.bist := rfl
@[simp] theorem State.emit_sys (o : Out) : (s.emit o).sys = s.sys := rfl
@[simp] theorem State.emit_lcs (o : Out) : (s.emit o).lcs = s.lcs := rfl
@[simp] theorem State.emit_pke (o : Out) : (s.emit o).pke = s.pke := rfl
@[simp] theorem State.emit_pwr (o : Out) : (s.emit o).pwr = s.pwr := rfl
@[simp] theorem State.emit_mgmt (o : Out) : (s.emit o).mgmt = s.mgmt := rfl
@[simp] theorem State.emit_dbg (o : Out) : (s.emit o).dbg = s.dbg := rfl
@[simp] theorem State.emit_bel (o : Out) : (s.emit o).bel = s.bel := rfl
@[simp] theorem State.emit_braids (o : Out) : (s.emit o).braids = s.braids := rfl
@[simp] theorem State.emit_lans (o : Out) : (s.emit o).lans = s.lans := rfl
@[simp] theorem State.emit_mem (o : Out) : (s.emit o).mem = s.mem := rfl
@[simp] theorem State.emit_held (o : Out) : (s.emit o).held = s.held := rfl
@[simp] theorem State.emit_splices (o : Out) : (s.emit o).splices = s.splices := rfl
@[simp] theorem State.emit_routers (o : Out) : (s.emit o).routers = s.routers := rfl
@[simp] theorem State.emit_wins (o : Out) : (s.emit o).wins = s.wins := rfl
@[simp] theorem State.emit_ports (o : Out) : (s.emit o).ports = s.ports := rfl
@[simp] theorem State.emit_openseq (o : Out) : (s.emit o).openseq = s.openseq := rfl
@[simp] theorem State.emit_tens (o : Out) : (s.emit o).tens = s.tens := rfl
@[simp] theorem State.emit_sch (o : Out) : (s.emit o).sch = s.sch := rfl
@[simp] theorem State.emit_bbx (o : Out) : (s.emit o).bbx = s.bbx := rfl
@[simp] theorem State.emit_ic (o : Out) : (s.emit o).ic = s.ic := rfl
@[simp] theorem State.emit_events (o : Out) : (s.emit o).events = s.events := rfl
@[simp] theorem State.emit_evDrop (o : Out) : (s.emit o).evDrop = s.evDrop := rfl

/-! ## setReady -/
@[simp] theorem State.setReady_pending (r : Rdy.B) (on : Bool) : (s.setReady r on).pending = s.pending := rfl
@[simp] theorem State.setReady_out (r : Rdy.B) (on : Bool) : (s.setReady r on).out = s.out := rfl
@[simp] theorem State.setReady_draws (r : Rdy.B) (on : Bool) : (s.setReady r on).draws = s.draws := rfl
@[simp] theorem State.setReady_fuses (r : Rdy.B) (on : Bool) : (s.setReady r on).fuses = s.fuses := rfl
@[simp] theorem State.setReady_pins (r : Rdy.B) (on : Bool) : (s.setReady r on).pins = s.pins := rfl
@[simp] theorem State.setReady_die (r : Rdy.B) (on : Bool) : (s.setReady r on).die = s.die := rfl
@[simp] theorem State.setReady_boot (r : Rdy.B) (on : Bool) : (s.setReady r on).boot = s.boot := rfl
@[simp] theorem State.setReady_cap (r : Rdy.B) (on : Bool) : (s.setReady r on).cap = s.cap := rfl
@[simp] theorem State.setReady_bist (r : Rdy.B) (on : Bool) : (s.setReady r on).bist = s.bist := rfl
@[simp] theorem State.setReady_sys (r : Rdy.B) (on : Bool) : (s.setReady r on).sys = s.sys := rfl
@[simp] theorem State.setReady_lcs (r : Rdy.B) (on : Bool) : (s.setReady r on).lcs = s.lcs := rfl
@[simp] theorem State.setReady_pke (r : Rdy.B) (on : Bool) : (s.setReady r on).pke = s.pke := rfl
@[simp] theorem State.setReady_pwr (r : Rdy.B) (on : Bool) : (s.setReady r on).pwr = s.pwr := rfl
@[simp] theorem State.setReady_mgmt (r : Rdy.B) (on : Bool) : (s.setReady r on).mgmt = s.mgmt := rfl
@[simp] theorem State.setReady_dbg (r : Rdy.B) (on : Bool) : (s.setReady r on).dbg = s.dbg := rfl
@[simp] theorem State.setReady_bel (r : Rdy.B) (on : Bool) : (s.setReady r on).bel = s.bel := rfl
@[simp] theorem State.setReady_braids (r : Rdy.B) (on : Bool) : (s.setReady r on).braids = s.braids := rfl
@[simp] theorem State.setReady_lans (r : Rdy.B) (on : Bool) : (s.setReady r on).lans = s.lans := rfl
@[simp] theorem State.setReady_mem (r : Rdy.B) (on : Bool) : (s.setReady r on).mem = s.mem := rfl
@[simp] theorem State.setReady_held (r : Rdy.B) (on : Bool) : (s.setReady r on).held = s.held := rfl
@[simp] theorem State.setReady_splices (r : Rdy.B) (on : Bool) : (s.setReady r on).splices = s.splices := rfl
@[simp] theorem State.setReady_routers (r : Rdy.B) (on : Bool) : (s.setReady r on).routers = s.routers := rfl
@[simp] theorem State.setReady_wins (r : Rdy.B) (on : Bool) : (s.setReady r on).wins = s.wins := rfl
@[simp] theorem State.setReady_ports (r : Rdy.B) (on : Bool) : (s.setReady r on).ports = s.ports := rfl
@[simp] theorem State.setReady_openseq (r : Rdy.B) (on : Bool) : (s.setReady r on).openseq = s.openseq := rfl
@[simp] theorem State.setReady_tens (r : Rdy.B) (on : Bool) : (s.setReady r on).tens = s.tens := rfl
@[simp] theorem State.setReady_sch (r : Rdy.B) (on : Bool) : (s.setReady r on).sch = s.sch := rfl
@[simp] theorem State.setReady_bbx (r : Rdy.B) (on : Bool) : (s.setReady r on).bbx = s.bbx := rfl
@[simp] theorem State.setReady_ic (r : Rdy.B) (on : Bool) : (s.setReady r on).ic = s.ic := rfl
@[simp] theorem State.setReady_events (r : Rdy.B) (on : Bool) : (s.setReady r on).events = s.events := rfl
@[simp] theorem State.setReady_evDrop (r : Rdy.B) (on : Bool) : (s.setReady r on).evDrop = s.evDrop := rfl

/-! ## setBraidReady -/
@[simp] theorem State.setBraidReady_pending (i : Nat) (on : Bool) : (s.setBraidReady i on).pending = s.pending := rfl
@[simp] theorem State.setBraidReady_out (i : Nat) (on : Bool) : (s.setBraidReady i on).out = s.out := rfl
@[simp] theorem State.setBraidReady_draws (i : Nat) (on : Bool) : (s.setBraidReady i on).draws = s.draws := rfl
@[simp] theorem State.setBraidReady_fuses (i : Nat) (on : Bool) : (s.setBraidReady i on).fuses = s.fuses := rfl
@[simp] theorem State.setBraidReady_pins (i : Nat) (on : Bool) : (s.setBraidReady i on).pins = s.pins := rfl
@[simp] theorem State.setBraidReady_die (i : Nat) (on : Bool) : (s.setBraidReady i on).die = s.die := rfl
@[simp] theorem State.setBraidReady_boot (i : Nat) (on : Bool) : (s.setBraidReady i on).boot = s.boot := rfl
@[simp] theorem State.setBraidReady_cap (i : Nat) (on : Bool) : (s.setBraidReady i on).cap = s.cap := rfl
@[simp] theorem State.setBraidReady_bist (i : Nat) (on : Bool) : (s.setBraidReady i on).bist = s.bist := rfl
@[simp] theorem State.setBraidReady_sys (i : Nat) (on : Bool) : (s.setBraidReady i on).sys = s.sys := rfl
@[simp] theorem State.setBraidReady_lcs (i : Nat) (on : Bool) : (s.setBraidReady i on).lcs = s.lcs := rfl
@[simp] theorem State.setBraidReady_pke (i : Nat) (on : Bool) : (s.setBraidReady i on).pke = s.pke := rfl
@[simp] theorem State.setBraidReady_pwr (i : Nat) (on : Bool) : (s.setBraidReady i on).pwr = s.pwr := rfl
@[simp] theorem State.setBraidReady_mgmt (i : Nat) (on : Bool) : (s.setBraidReady i on).mgmt = s.mgmt := rfl
@[simp] theorem State.setBraidReady_dbg (i : Nat) (on : Bool) : (s.setBraidReady i on).dbg = s.dbg := rfl
@[simp] theorem State.setBraidReady_bel (i : Nat) (on : Bool) : (s.setBraidReady i on).bel = s.bel := rfl
@[simp] theorem State.setBraidReady_braids (i : Nat) (on : Bool) : (s.setBraidReady i on).braids = s.braids := rfl
@[simp] theorem State.setBraidReady_lans (i : Nat) (on : Bool) : (s.setBraidReady i on).lans = s.lans := rfl
@[simp] theorem State.setBraidReady_mem (i : Nat) (on : Bool) : (s.setBraidReady i on).mem = s.mem := rfl
@[simp] theorem State.setBraidReady_held (i : Nat) (on : Bool) : (s.setBraidReady i on).held = s.held := rfl
@[simp] theorem State.setBraidReady_splices (i : Nat) (on : Bool) : (s.setBraidReady i on).splices = s.splices := rfl
@[simp] theorem State.setBraidReady_routers (i : Nat) (on : Bool) : (s.setBraidReady i on).routers = s.routers := rfl
@[simp] theorem State.setBraidReady_wins (i : Nat) (on : Bool) : (s.setBraidReady i on).wins = s.wins := rfl
@[simp] theorem State.setBraidReady_ports (i : Nat) (on : Bool) : (s.setBraidReady i on).ports = s.ports := rfl
@[simp] theorem State.setBraidReady_openseq (i : Nat) (on : Bool) : (s.setBraidReady i on).openseq = s.openseq := rfl
@[simp] theorem State.setBraidReady_tens (i : Nat) (on : Bool) : (s.setBraidReady i on).tens = s.tens := rfl
@[simp] theorem State.setBraidReady_sch (i : Nat) (on : Bool) : (s.setBraidReady i on).sch = s.sch := rfl
@[simp] theorem State.setBraidReady_bbx (i : Nat) (on : Bool) : (s.setBraidReady i on).bbx = s.bbx := rfl
@[simp] theorem State.setBraidReady_ic (i : Nat) (on : Bool) : (s.setBraidReady i on).ic = s.ic := rfl
@[simp] theorem State.setBraidReady_events (i : Nat) (on : Bool) : (s.setBraidReady i on).events = s.events := rfl
@[simp] theorem State.setBraidReady_evDrop (i : Nat) (on : Bool) : (s.setBraidReady i on).evDrop = s.evDrop := rfl

/-! ## setSrc -/
@[simp] theorem State.setSrc_pending (i : Nat) (x : SrcSt) : (s.setSrc i x).pending = s.pending := rfl
@[simp] theorem State.setSrc_out (i : Nat) (x : SrcSt) : (s.setSrc i x).out = s.out := rfl
@[simp] theorem State.setSrc_draws (i : Nat) (x : SrcSt) : (s.setSrc i x).draws = s.draws := rfl
@[simp] theorem State.setSrc_fuses (i : Nat) (x : SrcSt) : (s.setSrc i x).fuses = s.fuses := rfl
@[simp] theorem State.setSrc_pins (i : Nat) (x : SrcSt) : (s.setSrc i x).pins = s.pins := rfl
@[simp] theorem State.setSrc_die (i : Nat) (x : SrcSt) : (s.setSrc i x).die = s.die := rfl
@[simp] theorem State.setSrc_rdy (i : Nat) (x : SrcSt) : (s.setSrc i x).rdy = s.rdy := rfl
@[simp] theorem State.setSrc_boot (i : Nat) (x : SrcSt) : (s.setSrc i x).boot = s.boot := rfl
@[simp] theorem State.setSrc_cap (i : Nat) (x : SrcSt) : (s.setSrc i x).cap = s.cap := rfl
@[simp] theorem State.setSrc_bist (i : Nat) (x : SrcSt) : (s.setSrc i x).bist = s.bist := rfl
@[simp] theorem State.setSrc_sys (i : Nat) (x : SrcSt) : (s.setSrc i x).sys = s.sys := rfl
@[simp] theorem State.setSrc_lcs (i : Nat) (x : SrcSt) : (s.setSrc i x).lcs = s.lcs := rfl
@[simp] theorem State.setSrc_pke (i : Nat) (x : SrcSt) : (s.setSrc i x).pke = s.pke := rfl
@[simp] theorem State.setSrc_pwr (i : Nat) (x : SrcSt) : (s.setSrc i x).pwr = s.pwr := rfl
@[simp] theorem State.setSrc_mgmt (i : Nat) (x : SrcSt) : (s.setSrc i x).mgmt = s.mgmt := rfl
@[simp] theorem State.setSrc_dbg (i : Nat) (x : SrcSt) : (s.setSrc i x).dbg = s.dbg := rfl
@[simp] theorem State.setSrc_bel (i : Nat) (x : SrcSt) : (s.setSrc i x).bel = s.bel := rfl
@[simp] theorem State.setSrc_braids (i : Nat) (x : SrcSt) : (s.setSrc i x).braids = s.braids := rfl
@[simp] theorem State.setSrc_lans (i : Nat) (x : SrcSt) : (s.setSrc i x).lans = s.lans := rfl
@[simp] theorem State.setSrc_mem (i : Nat) (x : SrcSt) : (s.setSrc i x).mem = s.mem := rfl
@[simp] theorem State.setSrc_held (i : Nat) (x : SrcSt) : (s.setSrc i x).held = s.held := rfl
@[simp] theorem State.setSrc_splices (i : Nat) (x : SrcSt) : (s.setSrc i x).splices = s.splices := rfl
@[simp] theorem State.setSrc_routers (i : Nat) (x : SrcSt) : (s.setSrc i x).routers = s.routers := rfl
@[simp] theorem State.setSrc_wins (i : Nat) (x : SrcSt) : (s.setSrc i x).wins = s.wins := rfl
@[simp] theorem State.setSrc_ports (i : Nat) (x : SrcSt) : (s.setSrc i x).ports = s.ports := rfl
@[simp] theorem State.setSrc_openseq (i : Nat) (x : SrcSt) : (s.setSrc i x).openseq = s.openseq := rfl
@[simp] theorem State.setSrc_tens (i : Nat) (x : SrcSt) : (s.setSrc i x).tens = s.tens := rfl
@[simp] theorem State.setSrc_sch (i : Nat) (x : SrcSt) : (s.setSrc i x).sch = s.sch := rfl
@[simp] theorem State.setSrc_bbx (i : Nat) (x : SrcSt) : (s.setSrc i x).bbx = s.bbx := rfl
@[simp] theorem State.setSrc_events (i : Nat) (x : SrcSt) : (s.setSrc i x).events = s.events := rfl
@[simp] theorem State.setSrc_evDrop (i : Nat) (x : SrcSt) : (s.setSrc i x).evDrop = s.evDrop := rfl

/-! ## setTgt -/
@[simp] theorem State.setTgt_pending (i : Nat) (x : Tgt) : (s.setTgt i x).pending = s.pending := rfl
@[simp] theorem State.setTgt_out (i : Nat) (x : Tgt) : (s.setTgt i x).out = s.out := rfl
@[simp] theorem State.setTgt_draws (i : Nat) (x : Tgt) : (s.setTgt i x).draws = s.draws := rfl
@[simp] theorem State.setTgt_fuses (i : Nat) (x : Tgt) : (s.setTgt i x).fuses = s.fuses := rfl
@[simp] theorem State.setTgt_pins (i : Nat) (x : Tgt) : (s.setTgt i x).pins = s.pins := rfl
@[simp] theorem State.setTgt_die (i : Nat) (x : Tgt) : (s.setTgt i x).die = s.die := rfl
@[simp] theorem State.setTgt_rdy (i : Nat) (x : Tgt) : (s.setTgt i x).rdy = s.rdy := rfl
@[simp] theorem State.setTgt_boot (i : Nat) (x : Tgt) : (s.setTgt i x).boot = s.boot := rfl
@[simp] theorem State.setTgt_cap (i : Nat) (x : Tgt) : (s.setTgt i x).cap = s.cap := rfl
@[simp] theorem State.setTgt_bist (i : Nat) (x : Tgt) : (s.setTgt i x).bist = s.bist := rfl
@[simp] theorem State.setTgt_sys (i : Nat) (x : Tgt) : (s.setTgt i x).sys = s.sys := rfl
@[simp] theorem State.setTgt_lcs (i : Nat) (x : Tgt) : (s.setTgt i x).lcs = s.lcs := rfl
@[simp] theorem State.setTgt_pke (i : Nat) (x : Tgt) : (s.setTgt i x).pke = s.pke := rfl
@[simp] theorem State.setTgt_pwr (i : Nat) (x : Tgt) : (s.setTgt i x).pwr = s.pwr := rfl
@[simp] theorem State.setTgt_mgmt (i : Nat) (x : Tgt) : (s.setTgt i x).mgmt = s.mgmt := rfl
@[simp] theorem State.setTgt_dbg (i : Nat) (x : Tgt) : (s.setTgt i x).dbg = s.dbg := rfl
@[simp] theorem State.setTgt_bel (i : Nat) (x : Tgt) : (s.setTgt i x).bel = s.bel := rfl
@[simp] theorem State.setTgt_braids (i : Nat) (x : Tgt) : (s.setTgt i x).braids = s.braids := rfl
@[simp] theorem State.setTgt_lans (i : Nat) (x : Tgt) : (s.setTgt i x).lans = s.lans := rfl
@[simp] theorem State.setTgt_mem (i : Nat) (x : Tgt) : (s.setTgt i x).mem = s.mem := rfl
@[simp] theorem State.setTgt_held (i : Nat) (x : Tgt) : (s.setTgt i x).held = s.held := rfl
@[simp] theorem State.setTgt_splices (i : Nat) (x : Tgt) : (s.setTgt i x).splices = s.splices := rfl
@[simp] theorem State.setTgt_routers (i : Nat) (x : Tgt) : (s.setTgt i x).routers = s.routers := rfl
@[simp] theorem State.setTgt_wins (i : Nat) (x : Tgt) : (s.setTgt i x).wins = s.wins := rfl
@[simp] theorem State.setTgt_ports (i : Nat) (x : Tgt) : (s.setTgt i x).ports = s.ports := rfl
@[simp] theorem State.setTgt_openseq (i : Nat) (x : Tgt) : (s.setTgt i x).openseq = s.openseq := rfl
@[simp] theorem State.setTgt_tens (i : Nat) (x : Tgt) : (s.setTgt i x).tens = s.tens := rfl
@[simp] theorem State.setTgt_sch (i : Nat) (x : Tgt) : (s.setTgt i x).sch = s.sch := rfl
@[simp] theorem State.setTgt_bbx (i : Nat) (x : Tgt) : (s.setTgt i x).bbx = s.bbx := rfl
@[simp] theorem State.setTgt_events (i : Nat) (x : Tgt) : (s.setTgt i x).events = s.events := rfl
@[simp] theorem State.setTgt_evDrop (i : Nat) (x : Tgt) : (s.setTgt i x).evDrop = s.evDrop := rfl

/-! ## setPool -/
@[simp] theorem State.setPool_pending (p : List Token) : (s.setPool p).pending = s.pending := rfl
@[simp] theorem State.setPool_out (p : List Token) : (s.setPool p).out = s.out := rfl
@[simp] theorem State.setPool_draws (p : List Token) : (s.setPool p).draws = s.draws := rfl
@[simp] theorem State.setPool_fuses (p : List Token) : (s.setPool p).fuses = s.fuses := rfl
@[simp] theorem State.setPool_pins (p : List Token) : (s.setPool p).pins = s.pins := rfl
@[simp] theorem State.setPool_die (p : List Token) : (s.setPool p).die = s.die := rfl
@[simp] theorem State.setPool_rdy (p : List Token) : (s.setPool p).rdy = s.rdy := rfl
@[simp] theorem State.setPool_boot (p : List Token) : (s.setPool p).boot = s.boot := rfl
@[simp] theorem State.setPool_cap (p : List Token) : (s.setPool p).cap = s.cap := rfl
@[simp] theorem State.setPool_bist (p : List Token) : (s.setPool p).bist = s.bist := rfl
@[simp] theorem State.setPool_sys (p : List Token) : (s.setPool p).sys = s.sys := rfl
@[simp] theorem State.setPool_lcs (p : List Token) : (s.setPool p).lcs = s.lcs := rfl
@[simp] theorem State.setPool_pke (p : List Token) : (s.setPool p).pke = s.pke := rfl
@[simp] theorem State.setPool_pwr (p : List Token) : (s.setPool p).pwr = s.pwr := rfl
@[simp] theorem State.setPool_mgmt (p : List Token) : (s.setPool p).mgmt = s.mgmt := rfl
@[simp] theorem State.setPool_dbg (p : List Token) : (s.setPool p).dbg = s.dbg := rfl
@[simp] theorem State.setPool_bel (p : List Token) : (s.setPool p).bel = s.bel := rfl
@[simp] theorem State.setPool_braids (p : List Token) : (s.setPool p).braids = s.braids := rfl
@[simp] theorem State.setPool_lans (p : List Token) : (s.setPool p).lans = s.lans := rfl
@[simp] theorem State.setPool_mem (p : List Token) : (s.setPool p).mem = s.mem := rfl
@[simp] theorem State.setPool_held (p : List Token) : (s.setPool p).held = s.held := rfl
@[simp] theorem State.setPool_splices (p : List Token) : (s.setPool p).splices = s.splices := rfl
@[simp] theorem State.setPool_routers (p : List Token) : (s.setPool p).routers = s.routers := rfl
@[simp] theorem State.setPool_wins (p : List Token) : (s.setPool p).wins = s.wins := rfl
@[simp] theorem State.setPool_ports (p : List Token) : (s.setPool p).ports = s.ports := rfl
@[simp] theorem State.setPool_openseq (p : List Token) : (s.setPool p).openseq = s.openseq := rfl
@[simp] theorem State.setPool_tens (p : List Token) : (s.setPool p).tens = s.tens := rfl
@[simp] theorem State.setPool_bbx (p : List Token) : (s.setPool p).bbx = s.bbx := rfl
@[simp] theorem State.setPool_ic (p : List Token) : (s.setPool p).ic = s.ic := rfl
@[simp] theorem State.setPool_events (p : List Token) : (s.setPool p).events = s.events := rfl
@[simp] theorem State.setPool_evDrop (p : List Token) : (s.setPool p).evDrop = s.evDrop := rfl

/-! ## modTok -/
@[simp] theorem State.modTok_pending (e : Nat) (g : Token → Token) : (s.modTok e g).pending = s.pending := rfl
@[simp] theorem State.modTok_out (e : Nat) (g : Token → Token) : (s.modTok e g).out = s.out := rfl
@[simp] theorem State.modTok_draws (e : Nat) (g : Token → Token) : (s.modTok e g).draws = s.draws := rfl
@[simp] theorem State.modTok_fuses (e : Nat) (g : Token → Token) : (s.modTok e g).fuses = s.fuses := rfl
@[simp] theorem State.modTok_pins (e : Nat) (g : Token → Token) : (s.modTok e g).pins = s.pins := rfl
@[simp] theorem State.modTok_die (e : Nat) (g : Token → Token) : (s.modTok e g).die = s.die := rfl
@[simp] theorem State.modTok_rdy (e : Nat) (g : Token → Token) : (s.modTok e g).rdy = s.rdy := rfl
@[simp] theorem State.modTok_boot (e : Nat) (g : Token → Token) : (s.modTok e g).boot = s.boot := rfl
@[simp] theorem State.modTok_cap (e : Nat) (g : Token → Token) : (s.modTok e g).cap = s.cap := rfl
@[simp] theorem State.modTok_bist (e : Nat) (g : Token → Token) : (s.modTok e g).bist = s.bist := rfl
@[simp] theorem State.modTok_sys (e : Nat) (g : Token → Token) : (s.modTok e g).sys = s.sys := rfl
@[simp] theorem State.modTok_lcs (e : Nat) (g : Token → Token) : (s.modTok e g).lcs = s.lcs := rfl
@[simp] theorem State.modTok_pke (e : Nat) (g : Token → Token) : (s.modTok e g).pke = s.pke := rfl
@[simp] theorem State.modTok_pwr (e : Nat) (g : Token → Token) : (s.modTok e g).pwr = s.pwr := rfl
@[simp] theorem State.modTok_mgmt (e : Nat) (g : Token → Token) : (s.modTok e g).mgmt = s.mgmt := rfl
@[simp] theorem State.modTok_dbg (e : Nat) (g : Token → Token) : (s.modTok e g).dbg = s.dbg := rfl
@[simp] theorem State.modTok_bel (e : Nat) (g : Token → Token) : (s.modTok e g).bel = s.bel := rfl
@[simp] theorem State.modTok_braids (e : Nat) (g : Token → Token) : (s.modTok e g).braids = s.braids := rfl
@[simp] theorem State.modTok_lans (e : Nat) (g : Token → Token) : (s.modTok e g).lans = s.lans := rfl
@[simp] theorem State.modTok_mem (e : Nat) (g : Token → Token) : (s.modTok e g).mem = s.mem := rfl
@[simp] theorem State.modTok_held (e : Nat) (g : Token → Token) : (s.modTok e g).held = s.held := rfl
@[simp] theorem State.modTok_splices (e : Nat) (g : Token → Token) : (s.modTok e g).splices = s.splices := rfl
@[simp] theorem State.modTok_routers (e : Nat) (g : Token → Token) : (s.modTok e g).routers = s.routers := rfl
@[simp] theorem State.modTok_wins (e : Nat) (g : Token → Token) : (s.modTok e g).wins = s.wins := rfl
@[simp] theorem State.modTok_ports (e : Nat) (g : Token → Token) : (s.modTok e g).ports = s.ports := rfl
@[simp] theorem State.modTok_openseq (e : Nat) (g : Token → Token) : (s.modTok e g).openseq = s.openseq := rfl
@[simp] theorem State.modTok_tens (e : Nat) (g : Token → Token) : (s.modTok e g).tens = s.tens := rfl
@[simp] theorem State.modTok_bbx (e : Nat) (g : Token → Token) : (s.modTok e g).bbx = s.bbx := rfl
@[simp] theorem State.modTok_ic (e : Nat) (g : Token → Token) : (s.modTok e g).ic = s.ic := rfl
@[simp] theorem State.modTok_events (e : Nat) (g : Token → Token) : (s.modTok e g).events = s.events := rfl
@[simp] theorem State.modTok_evDrop (e : Nat) (g : Token → Token) : (s.modTok e g).evDrop = s.evDrop := rfl

/-! ## dropTok -/
@[simp] theorem State.dropTok_pending (e : Nat) : (s.dropTok e).pending = s.pending := rfl
@[simp] theorem State.dropTok_out (e : Nat) : (s.dropTok e).out = s.out := rfl
@[simp] theorem State.dropTok_draws (e : Nat) : (s.dropTok e).draws = s.draws := rfl
@[simp] theorem State.dropTok_fuses (e : Nat) : (s.dropTok e).fuses = s.fuses := rfl
@[simp] theorem State.dropTok_pins (e : Nat) : (s.dropTok e).pins = s.pins := rfl
@[simp] theorem State.dropTok_die (e : Nat) : (s.dropTok e).die = s.die := rfl
@[simp] theorem State.dropTok_rdy (e : Nat) : (s.dropTok e).rdy = s.rdy := rfl
@[simp] theorem State.dropTok_boot (e : Nat) : (s.dropTok e).boot = s.boot := rfl
@[simp] theorem State.dropTok_cap (e : Nat) : (s.dropTok e).cap = s.cap := rfl
@[simp] theorem State.dropTok_bist (e : Nat) : (s.dropTok e).bist = s.bist := rfl
@[simp] theorem State.dropTok_sys (e : Nat) : (s.dropTok e).sys = s.sys := rfl
@[simp] theorem State.dropTok_lcs (e : Nat) : (s.dropTok e).lcs = s.lcs := rfl
@[simp] theorem State.dropTok_pke (e : Nat) : (s.dropTok e).pke = s.pke := rfl
@[simp] theorem State.dropTok_pwr (e : Nat) : (s.dropTok e).pwr = s.pwr := rfl
@[simp] theorem State.dropTok_mgmt (e : Nat) : (s.dropTok e).mgmt = s.mgmt := rfl
@[simp] theorem State.dropTok_dbg (e : Nat) : (s.dropTok e).dbg = s.dbg := rfl
@[simp] theorem State.dropTok_bel (e : Nat) : (s.dropTok e).bel = s.bel := rfl
@[simp] theorem State.dropTok_braids (e : Nat) : (s.dropTok e).braids = s.braids := rfl
@[simp] theorem State.dropTok_lans (e : Nat) : (s.dropTok e).lans = s.lans := rfl
@[simp] theorem State.dropTok_mem (e : Nat) : (s.dropTok e).mem = s.mem := rfl
@[simp] theorem State.dropTok_held (e : Nat) : (s.dropTok e).held = s.held := rfl
@[simp] theorem State.dropTok_splices (e : Nat) : (s.dropTok e).splices = s.splices := rfl
@[simp] theorem State.dropTok_routers (e : Nat) : (s.dropTok e).routers = s.routers := rfl
@[simp] theorem State.dropTok_wins (e : Nat) : (s.dropTok e).wins = s.wins := rfl
@[simp] theorem State.dropTok_ports (e : Nat) : (s.dropTok e).ports = s.ports := rfl
@[simp] theorem State.dropTok_openseq (e : Nat) : (s.dropTok e).openseq = s.openseq := rfl
@[simp] theorem State.dropTok_tens (e : Nat) : (s.dropTok e).tens = s.tens := rfl
@[simp] theorem State.dropTok_bbx (e : Nat) : (s.dropTok e).bbx = s.bbx := rfl
@[simp] theorem State.dropTok_ic (e : Nat) : (s.dropTok e).ic = s.ic := rfl
@[simp] theorem State.dropTok_events (e : Nat) : (s.dropTok e).events = s.events := rfl
@[simp] theorem State.dropTok_evDrop (e : Nat) : (s.dropTok e).evDrop = s.evDrop := rfl

/-! ## setBel -/
@[simp] theorem State.setBel_pending (b : Belay) : (s.setBel b).pending = s.pending := rfl
@[simp] theorem State.setBel_out (b : Belay) : (s.setBel b).out = s.out := rfl
@[simp] theorem State.setBel_draws (b : Belay) : (s.setBel b).draws = s.draws := rfl
@[simp] theorem State.setBel_fuses (b : Belay) : (s.setBel b).fuses = s.fuses := rfl
@[simp] theorem State.setBel_pins (b : Belay) : (s.setBel b).pins = s.pins := rfl
@[simp] theorem State.setBel_die (b : Belay) : (s.setBel b).die = s.die := rfl
@[simp] theorem State.setBel_rdy (b : Belay) : (s.setBel b).rdy = s.rdy := rfl
@[simp] theorem State.setBel_boot (b : Belay) : (s.setBel b).boot = s.boot := rfl
@[simp] theorem State.setBel_cap (b : Belay) : (s.setBel b).cap = s.cap := rfl
@[simp] theorem State.setBel_bist (b : Belay) : (s.setBel b).bist = s.bist := rfl
@[simp] theorem State.setBel_sys (b : Belay) : (s.setBel b).sys = s.sys := rfl
@[simp] theorem State.setBel_lcs (b : Belay) : (s.setBel b).lcs = s.lcs := rfl
@[simp] theorem State.setBel_pke (b : Belay) : (s.setBel b).pke = s.pke := rfl
@[simp] theorem State.setBel_pwr (b : Belay) : (s.setBel b).pwr = s.pwr := rfl
@[simp] theorem State.setBel_mgmt (b : Belay) : (s.setBel b).mgmt = s.mgmt := rfl
@[simp] theorem State.setBel_dbg (b : Belay) : (s.setBel b).dbg = s.dbg := rfl
@[simp] theorem State.setBel_braids (b : Belay) : (s.setBel b).braids = s.braids := rfl
@[simp] theorem State.setBel_lans (b : Belay) : (s.setBel b).lans = s.lans := rfl
@[simp] theorem State.setBel_mem (b : Belay) : (s.setBel b).mem = s.mem := rfl
@[simp] theorem State.setBel_held (b : Belay) : (s.setBel b).held = s.held := rfl
@[simp] theorem State.setBel_splices (b : Belay) : (s.setBel b).splices = s.splices := rfl
@[simp] theorem State.setBel_routers (b : Belay) : (s.setBel b).routers = s.routers := rfl
@[simp] theorem State.setBel_wins (b : Belay) : (s.setBel b).wins = s.wins := rfl
@[simp] theorem State.setBel_ports (b : Belay) : (s.setBel b).ports = s.ports := rfl
@[simp] theorem State.setBel_openseq (b : Belay) : (s.setBel b).openseq = s.openseq := rfl
@[simp] theorem State.setBel_tens (b : Belay) : (s.setBel b).tens = s.tens := rfl
@[simp] theorem State.setBel_sch (b : Belay) : (s.setBel b).sch = s.sch := rfl
@[simp] theorem State.setBel_bbx (b : Belay) : (s.setBel b).bbx = s.bbx := rfl
@[simp] theorem State.setBel_ic (b : Belay) : (s.setBel b).ic = s.ic := rfl
@[simp] theorem State.setBel_events (b : Belay) : (s.setBel b).events = s.events := rfl
@[simp] theorem State.setBel_evDrop (b : Belay) : (s.setBel b).evDrop = s.evDrop := rfl

/-! ## setLink -/
@[simp] theorem State.setLink_pending (p : PciePort) (l : Option PcieLink) : (s.setLink p l).pending = s.pending := rfl
@[simp] theorem State.setLink_out (p : PciePort) (l : Option PcieLink) : (s.setLink p l).out = s.out := rfl
@[simp] theorem State.setLink_draws (p : PciePort) (l : Option PcieLink) : (s.setLink p l).draws = s.draws := rfl
@[simp] theorem State.setLink_fuses (p : PciePort) (l : Option PcieLink) : (s.setLink p l).fuses = s.fuses := rfl
@[simp] theorem State.setLink_pins (p : PciePort) (l : Option PcieLink) : (s.setLink p l).pins = s.pins := rfl
@[simp] theorem State.setLink_die (p : PciePort) (l : Option PcieLink) : (s.setLink p l).die = s.die := rfl
@[simp] theorem State.setLink_rdy (p : PciePort) (l : Option PcieLink) : (s.setLink p l).rdy = s.rdy := rfl
@[simp] theorem State.setLink_boot (p : PciePort) (l : Option PcieLink) : (s.setLink p l).boot = s.boot := rfl
@[simp] theorem State.setLink_cap (p : PciePort) (l : Option PcieLink) : (s.setLink p l).cap = s.cap := rfl
@[simp] theorem State.setLink_bist (p : PciePort) (l : Option PcieLink) : (s.setLink p l).bist = s.bist := rfl
@[simp] theorem State.setLink_lcs (p : PciePort) (l : Option PcieLink) : (s.setLink p l).lcs = s.lcs := rfl
@[simp] theorem State.setLink_pke (p : PciePort) (l : Option PcieLink) : (s.setLink p l).pke = s.pke := rfl
@[simp] theorem State.setLink_pwr (p : PciePort) (l : Option PcieLink) : (s.setLink p l).pwr = s.pwr := rfl
@[simp] theorem State.setLink_mgmt (p : PciePort) (l : Option PcieLink) : (s.setLink p l).mgmt = s.mgmt := rfl
@[simp] theorem State.setLink_dbg (p : PciePort) (l : Option PcieLink) : (s.setLink p l).dbg = s.dbg := rfl
@[simp] theorem State.setLink_bel (p : PciePort) (l : Option PcieLink) : (s.setLink p l).bel = s.bel := rfl
@[simp] theorem State.setLink_braids (p : PciePort) (l : Option PcieLink) : (s.setLink p l).braids = s.braids := rfl
@[simp] theorem State.setLink_lans (p : PciePort) (l : Option PcieLink) : (s.setLink p l).lans = s.lans := rfl
@[simp] theorem State.setLink_mem (p : PciePort) (l : Option PcieLink) : (s.setLink p l).mem = s.mem := rfl
@[simp] theorem State.setLink_held (p : PciePort) (l : Option PcieLink) : (s.setLink p l).held = s.held := rfl
@[simp] theorem State.setLink_splices (p : PciePort) (l : Option PcieLink) : (s.setLink p l).splices = s.splices := rfl
@[simp] theorem State.setLink_routers (p : PciePort) (l : Option PcieLink) : (s.setLink p l).routers = s.routers := rfl
@[simp] theorem State.setLink_wins (p : PciePort) (l : Option PcieLink) : (s.setLink p l).wins = s.wins := rfl
@[simp] theorem State.setLink_ports (p : PciePort) (l : Option PcieLink) : (s.setLink p l).ports = s.ports := rfl
@[simp] theorem State.setLink_openseq (p : PciePort) (l : Option PcieLink) : (s.setLink p l).openseq = s.openseq := rfl
@[simp] theorem State.setLink_tens (p : PciePort) (l : Option PcieLink) : (s.setLink p l).tens = s.tens := rfl
@[simp] theorem State.setLink_sch (p : PciePort) (l : Option PcieLink) : (s.setLink p l).sch = s.sch := rfl
@[simp] theorem State.setLink_bbx (p : PciePort) (l : Option PcieLink) : (s.setLink p l).bbx = s.bbx := rfl
@[simp] theorem State.setLink_ic (p : PciePort) (l : Option PcieLink) : (s.setLink p l).ic = s.ic := rfl
@[simp] theorem State.setLink_events (p : PciePort) (l : Option PcieLink) : (s.setLink p l).events = s.events := rfl
@[simp] theorem State.setLink_evDrop (p : PciePort) (l : Option PcieLink) : (s.setLink p l).evDrop = s.evDrop := rfl

/-! ## setPte -/
@[simp] theorem State.setPte_pending (n : Tid) (page : Nat) (p : Pte) : (s.setPte n page p).pending = s.pending := rfl
@[simp] theorem State.setPte_out (n : Tid) (page : Nat) (p : Pte) : (s.setPte n page p).out = s.out := rfl
@[simp] theorem State.setPte_draws (n : Tid) (page : Nat) (p : Pte) : (s.setPte n page p).draws = s.draws := rfl
@[simp] theorem State.setPte_fuses (n : Tid) (page : Nat) (p : Pte) : (s.setPte n page p).fuses = s.fuses := rfl
@[simp] theorem State.setPte_pins (n : Tid) (page : Nat) (p : Pte) : (s.setPte n page p).pins = s.pins := rfl
@[simp] theorem State.setPte_die (n : Tid) (page : Nat) (p : Pte) : (s.setPte n page p).die = s.die := rfl
@[simp] theorem State.setPte_rdy (n : Tid) (page : Nat) (p : Pte) : (s.setPte n page p).rdy = s.rdy := rfl
@[simp] theorem State.setPte_boot (n : Tid) (page : Nat) (p : Pte) : (s.setPte n page p).boot = s.boot := rfl
@[simp] theorem State.setPte_cap (n : Tid) (page : Nat) (p : Pte) : (s.setPte n page p).cap = s.cap := rfl
@[simp] theorem State.setPte_bist (n : Tid) (page : Nat) (p : Pte) : (s.setPte n page p).bist = s.bist := rfl
@[simp] theorem State.setPte_sys (n : Tid) (page : Nat) (p : Pte) : (s.setPte n page p).sys = s.sys := rfl
@[simp] theorem State.setPte_lcs (n : Tid) (page : Nat) (p : Pte) : (s.setPte n page p).lcs = s.lcs := rfl
@[simp] theorem State.setPte_pke (n : Tid) (page : Nat) (p : Pte) : (s.setPte n page p).pke = s.pke := rfl
@[simp] theorem State.setPte_pwr (n : Tid) (page : Nat) (p : Pte) : (s.setPte n page p).pwr = s.pwr := rfl
@[simp] theorem State.setPte_mgmt (n : Tid) (page : Nat) (p : Pte) : (s.setPte n page p).mgmt = s.mgmt := rfl
@[simp] theorem State.setPte_dbg (n : Tid) (page : Nat) (p : Pte) : (s.setPte n page p).dbg = s.dbg := rfl
@[simp] theorem State.setPte_bel (n : Tid) (page : Nat) (p : Pte) : (s.setPte n page p).bel = s.bel := rfl
@[simp] theorem State.setPte_braids (n : Tid) (page : Nat) (p : Pte) : (s.setPte n page p).braids = s.braids := rfl
@[simp] theorem State.setPte_lans (n : Tid) (page : Nat) (p : Pte) : (s.setPte n page p).lans = s.lans := rfl
@[simp] theorem State.setPte_mem (n : Tid) (page : Nat) (p : Pte) : (s.setPte n page p).mem = s.mem := rfl
@[simp] theorem State.setPte_held (n : Tid) (page : Nat) (p : Pte) : (s.setPte n page p).held = s.held := rfl
@[simp] theorem State.setPte_splices (n : Tid) (page : Nat) (p : Pte) : (s.setPte n page p).splices = s.splices := rfl
@[simp] theorem State.setPte_routers (n : Tid) (page : Nat) (p : Pte) : (s.setPte n page p).routers = s.routers := rfl
@[simp] theorem State.setPte_wins (n : Tid) (page : Nat) (p : Pte) : (s.setPte n page p).wins = s.wins := rfl
@[simp] theorem State.setPte_ports (n : Tid) (page : Nat) (p : Pte) : (s.setPte n page p).ports = s.ports := rfl
@[simp] theorem State.setPte_openseq (n : Tid) (page : Nat) (p : Pte) : (s.setPte n page p).openseq = s.openseq := rfl
@[simp] theorem State.setPte_sch (n : Tid) (page : Nat) (p : Pte) : (s.setPte n page p).sch = s.sch := rfl
@[simp] theorem State.setPte_bbx (n : Tid) (page : Nat) (p : Pte) : (s.setPte n page p).bbx = s.bbx := rfl
@[simp] theorem State.setPte_ic (n : Tid) (page : Nat) (p : Pte) : (s.setPte n page p).ic = s.ic := rfl
@[simp] theorem State.setPte_events (n : Tid) (page : Nat) (p : Pte) : (s.setPte n page p).events = s.events := rfl
@[simp] theorem State.setPte_evDrop (n : Tid) (page : Nat) (p : Pte) : (s.setPte n page p).evDrop = s.evDrop := rfl

/-! ## setUse -/
@[simp] theorem State.setUse_pending (i : Nat) (u : Option FrameUse) : (s.setUse i u).pending = s.pending := rfl
@[simp] theorem State.setUse_out (i : Nat) (u : Option FrameUse) : (s.setUse i u).out = s.out := rfl
@[simp] theorem State.setUse_draws (i : Nat) (u : Option FrameUse) : (s.setUse i u).draws = s.draws := rfl
@[simp] theorem State.setUse_fuses (i : Nat) (u : Option FrameUse) : (s.setUse i u).fuses = s.fuses := rfl
@[simp] theorem State.setUse_pins (i : Nat) (u : Option FrameUse) : (s.setUse i u).pins = s.pins := rfl
@[simp] theorem State.setUse_die (i : Nat) (u : Option FrameUse) : (s.setUse i u).die = s.die := rfl
@[simp] theorem State.setUse_rdy (i : Nat) (u : Option FrameUse) : (s.setUse i u).rdy = s.rdy := rfl
@[simp] theorem State.setUse_boot (i : Nat) (u : Option FrameUse) : (s.setUse i u).boot = s.boot := rfl
@[simp] theorem State.setUse_cap (i : Nat) (u : Option FrameUse) : (s.setUse i u).cap = s.cap := rfl
@[simp] theorem State.setUse_bist (i : Nat) (u : Option FrameUse) : (s.setUse i u).bist = s.bist := rfl
@[simp] theorem State.setUse_sys (i : Nat) (u : Option FrameUse) : (s.setUse i u).sys = s.sys := rfl
@[simp] theorem State.setUse_lcs (i : Nat) (u : Option FrameUse) : (s.setUse i u).lcs = s.lcs := rfl
@[simp] theorem State.setUse_pke (i : Nat) (u : Option FrameUse) : (s.setUse i u).pke = s.pke := rfl
@[simp] theorem State.setUse_pwr (i : Nat) (u : Option FrameUse) : (s.setUse i u).pwr = s.pwr := rfl
@[simp] theorem State.setUse_mgmt (i : Nat) (u : Option FrameUse) : (s.setUse i u).mgmt = s.mgmt := rfl
@[simp] theorem State.setUse_dbg (i : Nat) (u : Option FrameUse) : (s.setUse i u).dbg = s.dbg := rfl
@[simp] theorem State.setUse_bel (i : Nat) (u : Option FrameUse) : (s.setUse i u).bel = s.bel := rfl
@[simp] theorem State.setUse_braids (i : Nat) (u : Option FrameUse) : (s.setUse i u).braids = s.braids := rfl
@[simp] theorem State.setUse_lans (i : Nat) (u : Option FrameUse) : (s.setUse i u).lans = s.lans := rfl
@[simp] theorem State.setUse_held (i : Nat) (u : Option FrameUse) : (s.setUse i u).held = s.held := rfl
@[simp] theorem State.setUse_splices (i : Nat) (u : Option FrameUse) : (s.setUse i u).splices = s.splices := rfl
@[simp] theorem State.setUse_routers (i : Nat) (u : Option FrameUse) : (s.setUse i u).routers = s.routers := rfl
@[simp] theorem State.setUse_wins (i : Nat) (u : Option FrameUse) : (s.setUse i u).wins = s.wins := rfl
@[simp] theorem State.setUse_ports (i : Nat) (u : Option FrameUse) : (s.setUse i u).ports = s.ports := rfl
@[simp] theorem State.setUse_openseq (i : Nat) (u : Option FrameUse) : (s.setUse i u).openseq = s.openseq := rfl
@[simp] theorem State.setUse_tens (i : Nat) (u : Option FrameUse) : (s.setUse i u).tens = s.tens := rfl
@[simp] theorem State.setUse_sch (i : Nat) (u : Option FrameUse) : (s.setUse i u).sch = s.sch := rfl
@[simp] theorem State.setUse_bbx (i : Nat) (u : Option FrameUse) : (s.setUse i u).bbx = s.bbx := rfl
@[simp] theorem State.setUse_ic (i : Nat) (u : Option FrameUse) : (s.setUse i u).ic = s.ic := rfl
@[simp] theorem State.setUse_events (i : Nat) (u : Option FrameUse) : (s.setUse i u).events = s.events := rfl
@[simp] theorem State.setUse_evDrop (i : Nat) (u : Option FrameUse) : (s.setUse i u).evDrop = s.evDrop := rfl

/-! ## setSlot -/
@[simp] theorem State.setSlot_pending (i : Nat) (x : Option PkeSlot) : (s.setSlot i x).pending = s.pending := rfl
@[simp] theorem State.setSlot_out (i : Nat) (x : Option PkeSlot) : (s.setSlot i x).out = s.out := rfl
@[simp] theorem State.setSlot_draws (i : Nat) (x : Option PkeSlot) : (s.setSlot i x).draws = s.draws := rfl
@[simp] theorem State.setSlot_fuses (i : Nat) (x : Option PkeSlot) : (s.setSlot i x).fuses = s.fuses := rfl
@[simp] theorem State.setSlot_pins (i : Nat) (x : Option PkeSlot) : (s.setSlot i x).pins = s.pins := rfl
@[simp] theorem State.setSlot_die (i : Nat) (x : Option PkeSlot) : (s.setSlot i x).die = s.die := rfl
@[simp] theorem State.setSlot_rdy (i : Nat) (x : Option PkeSlot) : (s.setSlot i x).rdy = s.rdy := rfl
@[simp] theorem State.setSlot_boot (i : Nat) (x : Option PkeSlot) : (s.setSlot i x).boot = s.boot := rfl
@[simp] theorem State.setSlot_cap (i : Nat) (x : Option PkeSlot) : (s.setSlot i x).cap = s.cap := rfl
@[simp] theorem State.setSlot_bist (i : Nat) (x : Option PkeSlot) : (s.setSlot i x).bist = s.bist := rfl
@[simp] theorem State.setSlot_sys (i : Nat) (x : Option PkeSlot) : (s.setSlot i x).sys = s.sys := rfl
@[simp] theorem State.setSlot_lcs (i : Nat) (x : Option PkeSlot) : (s.setSlot i x).lcs = s.lcs := rfl
@[simp] theorem State.setSlot_pwr (i : Nat) (x : Option PkeSlot) : (s.setSlot i x).pwr = s.pwr := rfl
@[simp] theorem State.setSlot_mgmt (i : Nat) (x : Option PkeSlot) : (s.setSlot i x).mgmt = s.mgmt := rfl
@[simp] theorem State.setSlot_dbg (i : Nat) (x : Option PkeSlot) : (s.setSlot i x).dbg = s.dbg := rfl
@[simp] theorem State.setSlot_bel (i : Nat) (x : Option PkeSlot) : (s.setSlot i x).bel = s.bel := rfl
@[simp] theorem State.setSlot_braids (i : Nat) (x : Option PkeSlot) : (s.setSlot i x).braids = s.braids := rfl
@[simp] theorem State.setSlot_lans (i : Nat) (x : Option PkeSlot) : (s.setSlot i x).lans = s.lans := rfl
@[simp] theorem State.setSlot_mem (i : Nat) (x : Option PkeSlot) : (s.setSlot i x).mem = s.mem := rfl
@[simp] theorem State.setSlot_held (i : Nat) (x : Option PkeSlot) : (s.setSlot i x).held = s.held := rfl
@[simp] theorem State.setSlot_splices (i : Nat) (x : Option PkeSlot) : (s.setSlot i x).splices = s.splices := rfl
@[simp] theorem State.setSlot_routers (i : Nat) (x : Option PkeSlot) : (s.setSlot i x).routers = s.routers := rfl
@[simp] theorem State.setSlot_wins (i : Nat) (x : Option PkeSlot) : (s.setSlot i x).wins = s.wins := rfl
@[simp] theorem State.setSlot_ports (i : Nat) (x : Option PkeSlot) : (s.setSlot i x).ports = s.ports := rfl
@[simp] theorem State.setSlot_openseq (i : Nat) (x : Option PkeSlot) : (s.setSlot i x).openseq = s.openseq := rfl
@[simp] theorem State.setSlot_tens (i : Nat) (x : Option PkeSlot) : (s.setSlot i x).tens = s.tens := rfl
@[simp] theorem State.setSlot_sch (i : Nat) (x : Option PkeSlot) : (s.setSlot i x).sch = s.sch := rfl
@[simp] theorem State.setSlot_bbx (i : Nat) (x : Option PkeSlot) : (s.setSlot i x).bbx = s.bbx := rfl
@[simp] theorem State.setSlot_ic (i : Nat) (x : Option PkeSlot) : (s.setSlot i x).ic = s.ic := rfl
@[simp] theorem State.setSlot_events (i : Nat) (x : Option PkeSlot) : (s.setSlot i x).events = s.events := rfl
@[simp] theorem State.setSlot_evDrop (i : Nat) (x : Option PkeSlot) : (s.setSlot i x).evDrop = s.evDrop := rfl

end Sys2Proof.Machine
end

