-- ==== Sys2Proof/Laws/Commands.lean ====
section
/-! SUPPORT. Laws/Commands.lean: what the shared operations do in each of their cases: a command of the pool that starts or is
refused, a clause that issues, fails a check or waits, a step of a braid. -/

namespace Sys2Proof.Machine

theorem State.tok_id {s : State} {e : Nat} {t : Token} (h : s.tok e = some t) : t.id = e := by
  simpa using List.find?_some h

/-- What `starts` says. -/
theorem State.starts_iff {s : State} {e : Nat} {sel : BitVec 512 → Bool} {t : Token} : s.starts e sel t = true ↔
    s.tok e = some t ∧ s.canStart t = true ∧ sel t.cmd = true ∧ s.cmdCheck t.fn t.cmd t.badDep t.id = none := by
  simp [State.starts, and_assoc]

/-- A command that starts runs on the state in which its entry has begun. -/
theorem State.startCmd_starts {s : State} {e : Nat} {sel : BitVec 512 → Bool} {t : Token} (h : s.starts e sel t = true)
    (run : State → Token → State) : s.startCmd e sel run = run (s.begun t) t.begun := by
  obtain ⟨h1, h2, h3, h4⟩ := State.starts_iff.1 h
  have he := State.tok_id h1
  subst he
  simp [State.startCmd, State.begun, Token.begun, h1, h2, h3, h4]
  rfl

/-- A command that fails a common check is refused whole; an authenticated one draws a fresh nonce (R406). -/
theorem State.startCmd_refused {s : State} {e d : Nat} {sel : BitVec 512 → Bool} {t : Token} (h1 : s.tok e = some t)
    (h2 : s.canStart t = true) (h3 : sel t.cmd = true) (h4 : s.cmdCheck t.fn t.cmd t.badDep t.id = some d)
    (run : State → Token → State) : s.startCmd e sel run = (s.afterAuth t.cmd).finish e (Comp.aborted d) := by
  simp [State.startCmd, h1, h2, h3, h4]

/-- An entry that may not start leaves the state as it is. -/
theorem State.startCmd_waits {s : State} {e : Nat} {sel : BitVec 512 → Bool} {run : State → Token → State}
    (h : ∀ t, s.tok e = some t → (s.canStart t && sel t.cmd) = false) : s.startCmd e sel run = s := by
  unfold State.startCmd
  split
  · rfl
  · rename_i t ht; rw [h t ht]; rfl

theorem findTok_map {l : List Token} {e : Nat} {f : Token → Token} (hf : ∀ t, (f t).id = t.id) :
    (l.map (fun t => if t.id = e then f t else t)).find? (fun t => t.id == e) = (l.find? (fun t => t.id == e)).map f := by
  induction l with
  | nil => rfl
  | cons a l ih =>
    by_cases h : a.id = e
    · simp [h, hf]
    · simp [h, ih]

/-- The entry changed, as it then stands in the pool. -/
theorem State.tok_modTok {s : State} {e : Nat} {f : Token → Token} (hf : ∀ t, (f t).id = t.id) :
    (s.modTok e f).tok e = (s.tok e).map f := findTok_map hf

theorem State.begun_tok {s : State} {e : Nat} {t : Token} (h : s.tok e = some t) : (s.begun t).tok e = some t.begun := by
  have := State.tok_id h
  subst this
  show (s.modTok t.id Token.begun).tok t.id = _
  rw [State.tok_modTok (f := Token.begun) (fun _ => rfl), h]; rfl

/-- A clause that issues: the hazard watch looks, the clause counts, the cycle ends after the last. -/
theorem State.clause_issued {s : State} {i n : Nat} {ok : BitVec 96 → Bool} (run : Braid → BitVec 96 → Nat → Braid)
    (h : s.issues i n ok = true) :
    s.clause i n ok run = s.issued i n (fun b => run b (clauseOf (s.braid i).cur n) (s.braid i).iter) := by
  simp only [State.issues, Bool.and_eq_true] at h
  obtain ⟨⟨⟨⟨⟨h1, h2⟩, h3⟩, h4⟩, h5⟩, h6⟩ := h
  unfold State.clause State.issued Braid.issueClause Braid.opening
  by_cases he : (s.braid i).issued.isEmpty = true
  · have : (s.braid i).failing = none := by simpa [he] using h6
    simp [h1, h2, h3, h4, h5, he, this]
  · simp [h1, h2, h3, h4, h5, he]

/-- A clause of a cycle whose checks fail stops the kernel, and the braid keeps the address of the fault. -/
theorem State.clause_fails {s : State} {i n m : Nat} {st : Byte} {ok : BitVec 96 → Bool} (run : Braid → BitVec 96 → Nat → Braid)
    (h1 : s.live = true) (h2 : (s.braid i).canIssue = true) (h3 : (s.braid i).todo.head? = some n)
    (h4 : ok (clauseOf (s.braid i).cur n) = true) (h5 : (s.braid i).exportHeld = false) (h6 : (s.braid i).issued = [])
    (h7 : (s.braid i).failing = some (st, m)) : s.clause i n ok run =
      s.afterBraid i { (s.braid i).stopNow st m with faultAt := (s.braid i).faultPlace m st } := by
  simp [State.clause, Braid.issueClause, h1, h2, h3, h4, h5, h6, h7]

/-- A step of a braid of a live module. -/
theorem State.braidStep_live {s : State} (i : Nat) (f : Braid → Braid) (h : s.live = true) :
    s.braidStep i f = s.afterBraid i (f (s.braid i)) := by simp [State.braidStep, h]

/-- A module that is not live changes no braid by a step of it. -/
theorem State.braidStep_dead {s : State} (i : Nat) (f : Braid → Braid) (h : s.live = false) : s.braidStep i f = s := by
  simp [State.braidStep, h]

end Sys2Proof.Machine
end

