-- ==== Sys2Proof/Laws/Crypto.lean ====
section
/-! SUPPORT. Laws/Crypto.lean: the decryption of AES-256 and of XTS undoes the encryption, for every key (R282). -/

namespace Sys2Proof.Crypto

/-! ## Bytes -/

theorem xor_self_left (a b : Byte) : a ^^^ (a ^^^ b) = b := by rw [← BitVec.xor_assoc, BitVec.xor_self, BitVec.zero_xor]
theorem xor_twice (a b : Byte) : a ^^^ b ^^^ b = a := by rw [BitVec.xor_assoc, BitVec.xor_self, BitVec.xor_zero]

theorem xtime_xor (a b : Byte) : xtime (a ^^^ b) = xtime a ^^^ xtime b := by
  unfold xtime
  rw [BitVec.getLsbD_xor, BitVec.shiftLeft_xor_distrib]
  cases a.getLsbD 7 <;> cases b.getLsbD 7 <;>
    simp only [Bool.xor_false, Bool.xor_true, Bool.not_false, Bool.not_true, Bool.false_eq_true, if_true, if_false]
  · ac_rfl
  · ac_rfl
  · generalize (27 : Byte) = k
    rw [show a <<< 1 ^^^ k ^^^ (b <<< 1 ^^^ k) = a <<< 1 ^^^ b <<< 1 ^^^ k ^^^ k by ac_rfl, xor_twice]

theorem gmul8_xor (n : Nat) (a b k : Byte) : gmul8 n (a ^^^ b) k = gmul8 n a k ^^^ gmul8 n b k := by
  induction n generalizing a b k with
  | zero => simp [gmul8]
  | succ n ih =>
    simp only [gmul8, xtime_xor, ih]
    split
    · ac_rfl
    · simp

/-- A fact about every byte, from its 256 cases. -/
theorem byte_all {p : Byte → Prop} (h : ∀ n : Fin 256, p (BitVec.ofNat 8 n)) (b : Byte) : p b := by
  simpa using h ⟨b.toNat, b.isLt⟩

/-- The inverse S-box undoes the S-box. -/
theorem unsub8_sub8 (b : Byte) : unsub8 (sub8 b) = b := byte_all (p := fun b => unsub8 (sub8 b) = b) (by decide +kernel) b

/-! ## Columns and rows -/

theorem mix_a (x : Byte) : gmul8 4 (xtime x) 14 ^^^ gmul8 4 x 11 ^^^ gmul8 4 x 13 ^^^ gmul8 4 (xtime x ^^^ x) 9 = x :=
  byte_all (p := fun x => gmul8 4 (xtime x) 14 ^^^ gmul8 4 x 11 ^^^ gmul8 4 x 13 ^^^ gmul8 4 (xtime x ^^^ x) 9 = x) (by decide +kernel) x
theorem mix_b (x : Byte) : gmul8 4 (xtime x ^^^ x) 14 ^^^ gmul8 4 (xtime x) 11 ^^^ gmul8 4 x 13 ^^^ gmul8 4 x 9 = 0 :=
  byte_all (p := fun x => gmul8 4 (xtime x ^^^ x) 14 ^^^ gmul8 4 (xtime x) 11 ^^^ gmul8 4 x 13 ^^^ gmul8 4 x 9 = 0) (by decide +kernel) x
theorem mix_c (x : Byte) : gmul8 4 x 14 ^^^ gmul8 4 (xtime x ^^^ x) 11 ^^^ gmul8 4 (xtime x) 13 ^^^ gmul8 4 x 9 = 0 :=
  byte_all (p := fun x => gmul8 4 x 14 ^^^ gmul8 4 (xtime x ^^^ x) 11 ^^^ gmul8 4 (xtime x) 13 ^^^ gmul8 4 x 9 = 0) (by decide +kernel) x
theorem mix_d (x : Byte) : gmul8 4 x 14 ^^^ gmul8 4 x 11 ^^^ gmul8 4 (xtime x ^^^ x) 13 ^^^ gmul8 4 (xtime x) 9 = 0 :=
  byte_all (p := fun x => gmul8 4 x 14 ^^^ gmul8 4 x 11 ^^^ gmul8 4 (xtime x ^^^ x) 13 ^^^ gmul8 4 (xtime x) 9 = 0) (by decide +kernel) x

/-- One row of MixColumns and its inverse. -/
theorem unmix_row (a b c d : Byte) :
    gmul8 4 (xtime a ^^^ (xtime b ^^^ b) ^^^ c ^^^ d) 14 ^^^ gmul8 4 (xtime b ^^^ (xtime c ^^^ c) ^^^ d ^^^ a) 11 ^^^
      gmul8 4 (xtime c ^^^ (xtime d ^^^ d) ^^^ a ^^^ b) 13 ^^^ gmul8 4 (xtime d ^^^ (xtime a ^^^ a) ^^^ b ^^^ c) 9 = a := by
  have h : gmul8 4 (xtime a ^^^ (xtime b ^^^ b) ^^^ c ^^^ d) 14 ^^^ gmul8 4 (xtime b ^^^ (xtime c ^^^ c) ^^^ d ^^^ a) 11 ^^^
      gmul8 4 (xtime c ^^^ (xtime d ^^^ d) ^^^ a ^^^ b) 13 ^^^ gmul8 4 (xtime d ^^^ (xtime a ^^^ a) ^^^ b ^^^ c) 9 =
      (gmul8 4 (xtime a) 14 ^^^ gmul8 4 a 11 ^^^ gmul8 4 a 13 ^^^ gmul8 4 (xtime a ^^^ a) 9) ^^^
      (gmul8 4 (xtime b ^^^ b) 14 ^^^ gmul8 4 (xtime b) 11 ^^^ gmul8 4 b 13 ^^^ gmul8 4 b 9) ^^^
      (gmul8 4 c 14 ^^^ gmul8 4 (xtime c ^^^ c) 11 ^^^ gmul8 4 (xtime c) 13 ^^^ gmul8 4 c 9) ^^^
      (gmul8 4 d 14 ^^^ gmul8 4 d 11 ^^^ gmul8 4 (xtime d ^^^ d) 13 ^^^ gmul8 4 (xtime d) 9) := by
    rw [gmul8_xor 4 _ d 14, gmul8_xor 4 _ c 14, gmul8_xor 4 (xtime a) _ 14, gmul8_xor 4 _ a 11, gmul8_xor 4 _ d 11, gmul8_xor 4 (xtime b) _ 11,
      gmul8_xor 4 _ b 13, gmul8_xor 4 _ a 13, gmul8_xor 4 (xtime c) _ 13, gmul8_xor 4 _ c 9, gmul8_xor 4 _ b 9, gmul8_xor 4 (xtime d) _ 9]
    ac_rfl
  rw [h, mix_a, mix_b, mix_c, mix_d]; simp

/-- MixColumns is undone, column by column. -/
theorem unmixCol_mixCol (a b c d : Byte) : unmixCol (mixCol [a, b, c, d]) = [a, b, c, d] := by
  have h : unmixCol (mixCol [a, b, c, d]) = [_, _, _, _] := rfl
  rw [h]
  exact congrArg₂ _ (unmix_row a b c d) (congrArg₂ _ (unmix_row b c d a) (congrArg₂ _ (unmix_row c d a b) (congrArg₂ _ (unmix_row d a b c) rfl)))

theorem mixCol_length (c : List Byte) : (mixCol c).length = 4 := by simp [mixCol]
theorem unmixCol_mix : ∀ c : List Byte, c.length = 4 → unmixCol (mixCol c) = c
  | [a, b, c, d], _ => unmixCol_mixCol a b c d

theorem subShift_length (s : List Byte) : (subShift s).length = 16 := by simp [subShift]
theorem unshiftSub_length (s : List Byte) : (unshiftSub s).length = 16 := by simp [unshiftSub]

/-- ShiftRows and SubBytes are undone. -/
theorem unshiftSub_subShift (s : List Byte) (h : s.length = 16) : unshiftSub (subShift s) = s := by
  have idx : ∀ i < 16, (i + 12 * (i % 4) + 4 * ((i + 12 * (i % 4)) % 4)) % 16 = i := by decide
  apply List.ext_getElem (by simp [unshiftSub_length, h])
  intro i hi hs
  have h16 : i < 16 := h ▸ hs
  have hj : (i + 12 * (i % 4)) % 16 < 16 := Nat.mod_lt _ (by decide)
  simp [unshiftSub, subShift, hj, idx i h16, unsub8_sub8, hs]

/-! ## Runs of equal length -/

theorem chunks_cons {α : Type} (n k : Nat) (x : α) (l : List α) :
    chunks n (k + 1) (x :: l) = (x :: l).take n :: chunks n k ((x :: l).drop n) := rfl

theorem chunks_step {α : Type} (n k : Nat) (l : List α) (h : l ≠ []) : chunks n (k + 1) l = l.take n :: chunks n k (l.drop n) := by
  obtain ⟨x, l, rfl⟩ := List.exists_cons_of_ne_nil h; rfl

theorem ne_nil_of_length {α : Type} {n k : Nat} {l : List α} (hn : 0 < n) (h : l.length = n * (k + 1)) : l ≠ [] := by
  rintro rfl; rw [Nat.mul_succ, List.length_nil] at h; omega

theorem chunks_length {α : Type} (n : Nat) (hn : 0 < n) : ∀ (k : Nat) (l : List α), l.length = n * k → (chunks n k l).length = k
  | 0, _, _ => rfl
  | k + 1, l, h => by
    rw [chunks_step n k l (ne_nil_of_length hn h), List.length_cons,
      chunks_length n hn k _ (by rw [List.length_drop, h, Nat.mul_succ]; omega)]

theorem chunks_flatten {α : Type} (n : Nat) (hn : 0 < n) : ∀ (k : Nat) (l : List α), l.length = n * k → (chunks n k l).flatten = l
  | 0, l, h => (List.length_eq_zero_iff.1 (by simpa using h)) ▸ rfl
  | k + 1, l, h => by
    rw [chunks_step n k l (ne_nil_of_length hn h), List.flatten_cons,
      chunks_flatten n hn k _ (by rw [List.length_drop, h, Nat.mul_succ]; omega), List.take_append_drop]

theorem chunks_each {α : Type} (n : Nat) (hn : 0 < n) : ∀ (k : Nat) (l : List α), l.length = n * k → ∀ c ∈ chunks n k l, c.length = n
  | 0, _, _, c, hc => by simp [chunks] at hc
  | k + 1, l, h, c, hc => by
    rw [chunks_step n k l (ne_nil_of_length hn h), List.mem_cons] at hc
    rcases hc with rfl | hc
    · rw [List.length_take, h, Nat.mul_succ]; omega
    · exact chunks_each n hn k _ (by rw [List.length_drop, h, Nat.mul_succ]; omega) c hc

theorem flatten_length {α : Type} (n : Nat) : ∀ cs : List (List α), (∀ c ∈ cs, c.length = n) → cs.flatten.length = n * cs.length
  | [], _ => rfl
  | c :: cs, h => by
    rw [List.flatten_cons, List.length_append, h c (by simp), flatten_length n cs (fun d hd => h d (by simp [hd])), List.length_cons,
      Nat.mul_succ, Nat.add_comm]

/-- Chunks of what was put together from runs of the right length are those runs. -/
theorem chunks_of_flatten {α : Type} (n : Nat) (hn : 0 < n) : ∀ cs : List (List α), (∀ c ∈ cs, c.length = n) → chunks n cs.length cs.flatten = cs
  | [], _ => rfl
  | c :: cs, h => by
    have hc : c.length = n := h c (by simp)
    have hl := flatten_length n (c :: cs) h
    rw [List.length_cons] at hl
    rw [List.length_cons, chunks_step n _ _ (ne_nil_of_length hn hl), List.flatten_cons, List.take_left' hc, List.drop_left' hc,
      chunks_of_flatten n hn cs (fun d hd => h d (by simp [hd]))]

theorem flatMap_eq {α β : Type} (f : α → List β) (l : List α) : l.flatMap f = (l.map f).flatten := by simp [List.flatMap_def]

theorem map_fix {α : Type} (f : α → α) (l : List α) (h : ∀ c ∈ l, f c = c) : l.map f = l := by
  conv_rhs => rw [← List.map_id l]
  exact List.map_congr_left h

/-- MixColumns of a whole state is undone. -/
theorem unmix_mix (t : List Byte) (h : t.length = 16) : (chunks 4 4 ((chunks 4 4 t).flatMap mixCol)).flatMap unmixCol = t := by
  have hl := chunks_length 4 (by decide) 4 t h
  have hm := chunks_of_flatten 4 (by decide) ((chunks 4 4 t).map mixCol) (by simp [mixCol_length])
  rw [List.length_map, hl] at hm
  rw [flatMap_eq mixCol, hm, flatMap_eq, List.map_map,
    map_fix (unmixCol ∘ mixCol) _ (fun c hc => unmixCol_mix c (chunks_each 4 (by decide) 4 t h c hc)), chunks_flatten 4 (by decide) 4 t h]

theorem mix_length (t : List Byte) (h : t.length = 16) : ((chunks 4 4 t).flatMap mixCol).length = 16 := by
  rw [flatMap_eq, flatten_length 4 _ (by simp [mixCol_length]), List.length_map, chunks_length 4 (by decide) 4 t h]

/-! ## Blocks -/

theorem xor_zip_length (a k : List Byte) {n : Nat} (ha : a.length = n) (hk : k.length = n) : (List.zipWith (· ^^^ ·) a k).length = n := by
  simp [ha, hk]

theorem xor_zip_twice : ∀ (a k : List Byte), a.length = k.length → List.zipWith (· ^^^ ·) (List.zipWith (· ^^^ ·) a k) k = a
  | [], _, _ => rfl
  | x :: a, y :: k, h => by
    simp only [List.zipWith_cons_cons, xor_twice, List.cons.injEq, true_and]
    exact xor_zip_twice a k (by simpa using h)

/-- A round of encryption, and of decryption. -/
def encRound (s k : List Byte) : List Byte := List.zipWith (· ^^^ ·) ((chunks 4 4 (subShift s)).flatMap mixCol) k
def decRound (s k : List Byte) : List Byte := (chunks 4 4 (List.zipWith (· ^^^ ·) (unshiftSub s) k)).flatMap unmixCol

theorem encRound_length (s k : List Byte) (hk : k.length = 16) : (encRound s k).length = 16 :=
  xor_zip_length _ _ (mix_length _ (subShift_length s)) hk

theorem decRound_encRound (s k : List Byte) (hk : k.length = 16) : decRound (subShift (encRound s k)) k = subShift s := by
  rw [decRound, unshiftSub_subShift _ (encRound_length s k hk), encRound,
    xor_zip_twice _ _ (by rw [mix_length _ (subShift_length s), hk]), unmix_mix _ (subShift_length s)]

theorem rounds_undone (ms : List (List Byte)) (h : ∀ k ∈ ms, k.length = 16) (s : List Byte) :
    ms.reverse.foldl decRound (subShift (ms.foldl encRound s)) = subShift s := by
  induction ms generalizing s with
  | nil => rfl
  | cons k ms ih =>
    rw [List.reverse_cons, List.foldl_append]
    show decRound (ms.reverse.foldl decRound (subShift (ms.foldl encRound (encRound s k)))) k = subShift s
    rw [ih (fun x hx => h x (by simp [hx]))]
    exact decRound_encRound s k (h k (by simp))

theorem rounds_length (ms : List (List Byte)) (h : ∀ k ∈ ms, k.length = 16) (s : List Byte) (hs : s.length = 16) :
    (ms.foldl encRound s).length = 16 := by
  induction ms generalizing s with
  | nil => exact hs
  | cons k ms ih => exact ih (fun x hx => h x (by simp [hx])) _ (encRound_length s k (h k (by simp)))

/-- Fifteen round keys of 16 bytes. -/
def roundKeys (ks : List (List Byte)) : Prop := ks.length = 15 ∧ ∀ k ∈ ks, k.length = 16

theorem roundKeys.at {ks : List (List Byte)} (h : roundKeys ks) {i : Nat} (hi : i < 15) : (ks.getD i []).length = 16 := by
  have hl : i < ks.length := by rw [h.1]; exact hi
  rw [List.getD_eq_getElem _ _ hl]
  exact h.2 _ (List.getElem_mem hl)

theorem aesEnc_length {ks : List (List Byte)} (h : roundKeys ks) (blk : List Byte) : (aesEnc ks blk).length = 16 :=
  xor_zip_length _ _ (subShift_length _) (h.at (by decide))

/-- Decryption under the same round keys undoes encryption. -/
theorem aesDec_aesEnc {ks : List (List Byte)} (h : roundKeys ks) (blk : List Byte) (hb : blk.length = 16) : aesDec ks (aesEnc ks blk) = blk := by
  have h0 := h.at (i := 0) (by decide)
  have h14 := h.at (i := 14) (by decide)
  have hm : ∀ k ∈ (ks.drop 1).take 13, k.length = 16 := fun k hk => h.2 k (List.mem_of_mem_drop (List.mem_of_mem_take hk))
  show List.zipWith _ (unshiftSub (((ks.drop 1).take 13).reverse.foldl decRound (List.zipWith _ (List.zipWith _ (subShift
    (((ks.drop 1).take 13).foldl encRound (List.zipWith _ blk (ks.getD 0 [])))) (ks.getD 14 [])) (ks.getD 14 [])))) (ks.getD 0 []) = blk
  rw [xor_zip_twice _ _ (by rw [subShift_length, h14]), rounds_undone _ hm, unshiftSub_subShift _ (xor_zip_length _ _ hb h0),
    xor_zip_twice _ _ (by rw [hb, h0])]

/-! ## Round keys -/

theorem leBytes_length : ∀ n v : Nat, (leBytes n v).length = n
  | 0, _ => rfl
  | n + 1, v => by rw [leBytes, List.length_cons, leBytes_length n]

theorem aesExpand_words : ∀ (n i : Nat) (rc : Byte) (ws : List (List Byte)), 8 ≤ ws.length → (∀ w ∈ ws, w.length = 4) →
    (aesExpand n i rc ws).length = ws.length + n ∧ ∀ w ∈ aesExpand n i rc ws, w.length = 4
  | 0, _, _, ws, _, h4 => ⟨rfl, h4⟩
  | n + 1, i, rc, ws, h8, h4 => by
    have at4 : ∀ j, j < 8 → (ws.getD j []).length = 4 := fun j hj => by
      have hl : j < ws.length := Nat.lt_of_lt_of_le hj h8
      rw [List.getD_eq_getElem _ _ hl]; exact h4 _ (List.getElem_mem hl)
    have hp := at4 0 (by decide)
    rw [aesExpand]
    refine (aesExpand_words n _ _ _ ?_ ?_).imp (fun h => ?_) id
    · rw [List.length_cons]; omega
    · intro w hw
      rcases List.mem_cons.1 hw with rfl | hw
      · apply xor_zip_length _ _ (at4 7 (by decide))
        generalize ws.getD 0 [] = p at hp
        split
        · simp [hp]
        · split <;> simp [hp]
      · exact h4 w hw
    · rw [h, List.length_cons]; omega

theorem aesKeys_roundKeys (key : List Byte) (h : key.length = 32) : roundKeys (aesKeys key) := by
  have h8 := chunks_length 4 (by decide) 8 key h
  obtain ⟨hl, h4⟩ := aesExpand_words 52 8 1 (chunks 4 8 key).reverse (by simp [h8])
    (fun w hw => chunks_each 4 (by decide) 8 key h w (List.mem_reverse.1 hw))
  have hw : (aesExpand 52 8 1 (chunks 4 8 key).reverse).reverse.length = 4 * 15 := by rw [List.length_reverse, hl, List.length_reverse, h8]
  constructor
  · rw [aesKeys, List.length_map]; exact chunks_length 4 (by decide) 15 _ hw
  · intro k hk
    obtain ⟨c, hc, rfl⟩ := List.mem_map.1 hk
    rw [flatten_length 4 c (fun w hwc => h4 w ?_), chunks_each 4 (by decide) 15 _ hw c hc]
    have := List.mem_flatten.2 ⟨c, hc, hwc⟩
    rw [chunks_flatten 4 (by decide) 15 _ hw] at this
    exact List.mem_reverse.1 this

/-! ## XTS -/

theorem zipIdx_map {α β : Type} (f : α × Nat → β) : ∀ (l : List α) (j : Nat), ((l.zipIdx j).map f).zipIdx j = (l.zipIdx j).map (fun x => (f x, x.2))
  | [], _ => rfl
  | x :: l, j => by simp only [List.zipIdx_cons, List.map_cons, zipIdx_map f l (j + 1)]

theorem mem_zipIdx {α : Type} : ∀ (l : List α) (j : Nat) (x : α × Nat), x ∈ l.zipIdx j → x.1 ∈ l
  | y :: l, j, x, h => by
    rw [List.zipIdx_cons, List.mem_cons] at h
    rcases h with rfl | h
    · simp
    · exact List.mem_cons_of_mem _ (mem_zipIdx l (j + 1) x h)

/-- Blocks in order, each by `f` with its place. -/
theorem blocks_length (f : List Byte × Nat → List Byte) (hf : ∀ b, (f b).length = 16) (j k : Nat) (bs : List Byte) (h : bs.length = 16 * k) :
    (((chunks 16 (bs.length / 16) bs).zipIdx j).flatMap f).length = 16 * k := by
  rw [h, Nat.mul_div_cancel_left _ (by decide), flatMap_eq, flatten_length 16 _ (fun c hc => by obtain ⟨b, _, rfl⟩ := List.mem_map.1 hc; exact hf b)]
  simp [chunks_length 16 (by decide) k bs h]

theorem blocks_undone (e d : List Byte × Nat → List Byte) (he : ∀ b, (e b).length = 16)
    (hd : ∀ b : List Byte × Nat, b.1.length = 16 → d (e b, b.2) = b.1) (j k : Nat) (bs : List Byte) (h : bs.length = 16 * k) :
    ((chunks 16 ((((chunks 16 (bs.length / 16) bs).zipIdx j).flatMap e).length / 16)
      (((chunks 16 (bs.length / 16) bs).zipIdx j).flatMap e)).zipIdx j).flatMap d = bs := by
  rw [blocks_length e he j k bs h, h, Nat.mul_div_cancel_left _ (by decide), flatMap_eq e]
  have hf : ∀ c ∈ ((chunks 16 k bs).zipIdx j).map e, c.length = 16 := fun c hc => by
    obtain ⟨b, _, rfl⟩ := List.mem_map.1 hc; exact he b
  have hch := chunks_of_flatten 16 (by decide) _ hf
  rw [List.length_map, List.length_zipIdx, chunks_length 16 (by decide) k bs h] at hch
  rw [hch, zipIdx_map, flatMap_eq, List.map_map,
    List.map_congr_left (f := d ∘ fun x => (e x, x.2)) (g := Prod.fst) (fun b hb => hd b (chunks_each 16 (by decide) k bs h _ (mem_zipIdx _ j b hb))), List.zipIdx_map_fst,
    chunks_flatten 16 (by decide) k bs h]

/-- One block of XTS. -/
def xtsBlock (crypt : List Byte → List Byte) (v : BitVec 128) (b : List Byte × Nat) : List Byte :=
  List.zipWith (· ^^^ ·) (crypt (List.zipWith (· ^^^ ·) b.1 (leBytes 16 (xtsTweak v b.2).toNat))) (leBytes 16 (xtsTweak v b.2).toNat)

theorem xtsBlock_length {ks : List (List Byte)} (hk : roundKeys ks) (v : BitVec 128) (b : List Byte × Nat) :
    (xtsBlock (aesEnc ks) v b).length = 16 := xor_zip_length _ _ (aesEnc_length hk _) (leBytes_length _ _)

theorem xtsBlock_undone {ks : List (List Byte)} (hk : roundKeys ks) (v : BitVec 128) (b : List Byte × Nat) (hb : b.1.length = 16) :
    xtsBlock (aesDec ks) v (xtsBlock (aesEnc ks) v b, b.2) = b.1 := by
  have hw := leBytes_length 16 (xtsTweak v b.2).toNat
  rw [xtsBlock, xtsBlock]
  generalize leBytes 16 (xtsTweak v b.2).toNat = w at hw
  rw [xor_zip_twice _ _ (by rw [aesEnc_length hk, hw]), aesDec_aesEnc hk _ (xor_zip_length _ _ hb hw), xor_zip_twice _ _ (by rw [hb, hw])]

/-- The tweak of a data unit's first block. -/
def xtsStart (key : BitVec 512) (unit : Nat) : BitVec 128 :=
  BitVec.ofNat 128 (leNat (aesEnc (aesKeys (leBytes 32 (key >>> 256).toNat)) (leBytes 16 unit)))
/-- Round keys of the data key. -/
def xtsKeys (key : BitVec 512) : List (List Byte) := aesKeys (leBytes 32 (key.setWidth 256).toNat)

theorem xtsKeys_round (key : BitVec 512) : roundKeys (xtsKeys key) := aesKeys_roundKeys _ (leBytes_length _ _)

theorem xts_blocks (dec : Bool) (key : BitVec 512) (u j : Nat) (bs : List Byte) : xts dec key u j bs =
    ((chunks 16 (bs.length / 16) bs).zipIdx j).flatMap (xtsBlock (if dec then aesDec (xtsKeys key) else aesEnc (xtsKeys key)) (xtsStart key u)) := rfl

/-- R282: what XTS encrypts of whole blocks, it decrypts to what it was, under the same key, data unit and place. -/
theorem xts_undone (key : BitVec 512) (u j k : Nat) (bs : List Byte) (h : bs.length = 16 * k) :
    xts true key u j (xts false key u j bs) = bs := by
  have hk := xtsKeys_round key
  rw [xts_blocks true, xts_blocks false]
  generalize xtsKeys key = ks at hk
  generalize xtsStart key u = v
  simp only [Bool.false_eq_true, if_true, if_false]
  exact blocks_undone (xtsBlock (aesEnc ks) v) (xtsBlock (aesDec ks) v) (xtsBlock_length hk v) (xtsBlock_undone hk v) j k bs h

theorem xts_length (key : BitVec 512) (u j k : Nat) (bs : List Byte) (h : bs.length = 16 * k) : (xts false key u j bs).length = 16 * k := by
  have hk := xtsKeys_round key
  rw [xts_blocks]
  generalize xtsKeys key = ks at hk
  generalize xtsStart key u = v
  simp only [Bool.false_eq_true, if_false]
  exact blocks_length (xtsBlock (aesEnc ks) v) (xtsBlock_length hk v) j k bs h

end Sys2Proof.Crypto
end

