-- ==== Sys2Proof/Laws/Keep.lean ====
section
/-! SUPPORT. Keep.lean: what the operations of the model leave as it is: the queue of commands and the fuses. -/

namespace Sys2Proof.Machine

/-- The queue and the fuses. -/
def State.keep (s : State) : List Instr × Fuses := (s.pending, s.fuses)

@[simp] theorem keep_eta (s : State) : (s.pending, s.fuses) = s.keep := rfl
@[simp] theorem keep_mk x0 x1 x2 x3 x4 x5 x6 x7 x8 x9 x10 x11 x12 x13 x14 x15 x16 x17 x18 x19 x20 x21 x22 x23 x24 x25 x26 x27 x28 x29 x30 x31 :
    (State.mk x0 x1 x2 x3 x4 x5 x6 x7 x8 x9 x10 x11 x12 x13 x14 x15 x16 x17 x18 x19 x20 x21 x22 x23 x24 x25 x26 x27 x28 x29 x30 x31).keep = (x0, x3) := rfl

/-- A fold of operations that keep them keeps them. -/
@[simp] theorem foldl_keep {α : Type} (f : State → α → State) (h : ∀ s x, (f s x).keep = s.keep) (l : List α) (s : State) :
    (l.foldl f s).keep = s.keep := by
  induction l generalizing s with
  | nil => rfl
  | cons x l ih => rw [List.foldl_cons, ih, h]

/-- The same of a fold that carries other data beside the state. -/
theorem foldl_keepOf {σ α : Type} (g : σ → State) (f : σ → α → σ) (h : ∀ x a, (g (f x a)).keep = (g x).keep) (l : List α) (x : σ) :
    (g (l.foldl f x)).keep = (g x).keep := by
  induction l generalizing x with
  | nil => rfl
  | cons a l ih => rw [List.foldl_cons, ih, h]

end Sys2Proof.Machine
end

