-- ==== Sys2Proof/Laws/KeepOps.lean ====
section
/-! SUPPORT. KeepOps.lean: the shared operations keep the queue and the fuses. -/

namespace Sys2Proof.Machine

/-! ## Ops -/

@[simp] theorem State.setBraid_keep (s : State) (i : Nat) (b : Braid) : (State.setBraid s i b).keep = s.keep := by
  rfl

@[simp] theorem State.modBraid_keep (s : State) (i : Nat) (f : Braid → Braid) : (State.modBraid s i f).keep = s.keep := by
  rfl

@[simp] theorem State.setTen_keep (s : State) (n : Tid) (t : Ten) : (State.setTen s n t).keep = s.keep := by
  rfl

@[simp] theorem State.modTen_keep (s : State) (n : Tid) (f : Ten → Ten) : (State.modTen s n f).keep = s.keep := by
  rfl

@[simp] theorem State.setFn_keep (s : State) (f : Fn) (x : FnSt) : (State.setFn s f x).keep = s.keep := by
  rfl

@[simp] theorem State.modFn_keep (s : State) (f : Fn) (g : FnSt → FnSt) : (State.modFn s f g).keep = s.keep := by
  rfl

@[simp] theorem State.setSq_keep (s : State) (f : Fn) (q : BitVec 2) (x : SqRing) : (State.setSq s f q x).keep = s.keep := by
  rfl

@[simp] theorem State.setTier_keep (s : State) (bulk hawser : Bool) (t : TierSt) : (State.setTier s bulk hawser t).keep = s.keep := by
  rfl

@[simp] theorem State.modTier_keep (s : State) (bulk hawser : Bool) (f : TierSt → TierSt) : (State.modTier s bulk hawser f).keep = s.keep := by
  rfl

@[simp] theorem State.setPager_keep (s : State) (h : Bool) (p : Pager) : (State.setPager s h p).keep = s.keep := by
  rfl

@[simp] theorem State.modPager_keep (s : State) (h : Bool) (f : Pager → Pager) : (State.modPager s h f).keep = s.keep := by
  rfl

@[simp] theorem State.setLan_keep (s : State) (h : Bool) (x : Lanyard) : (State.setLan s h x).keep = s.keep := by
  rfl

@[simp] theorem State.modLan_keep (s : State) (h : Bool) (f : Lanyard → Lanyard) : (State.modLan s h f).keep = s.keep := by
  rfl

@[simp] theorem State.setSplice_keep (s : State) (i : Nat) (x : Splice) : (State.setSplice s i x).keep = s.keep := by
  rfl

@[simp] theorem State.modSplice_keep (s : State) (i : Nat) (f : Splice → Splice) : (State.modSplice s i f).keep = s.keep := by
  rfl

@[simp] theorem State.setRouter_keep (s : State) (st : Nat) (x : Router) : (State.setRouter s st x).keep = s.keep := by
  rfl

@[simp] theorem State.setWin_keep (s : State) (i : Nat) (w : Win) : (State.setWin s i w).keep = s.keep := by
  rfl

@[simp] theorem State.modWin_keep (s : State) (i : Nat) (f : Win → Win) : (State.modWin s i f).keep = s.keep := by
  rfl

@[simp] theorem State.setPort_keep (s : State) (p : Port) (x : PortSt) : (State.setPort s p x).keep = s.keep := by
  rfl

@[simp] theorem State.modPort_keep (s : State) (p : Port) (f : PortSt → PortSt) : (State.modPort s p f).keep = s.keep := by
  rfl

@[simp] theorem State.setPwrBraid_keep (s : State) (b : Nat) (x : PwrBraid) : (State.setPwrBraid s b x).keep = s.keep := by
  rfl

@[simp] theorem State.setUnit_keep (s : State) (u : Nat) (x : UnitSt) : (State.setUnit s u x).keep = s.keep := by
  rfl

@[simp] theorem State.emit_keep (s : State) (o : Out) : (State.emit s o).keep = s.keep := by
  rfl

@[simp] theorem State.setReady_keep (s : State) (b : Rdy.B) (on : Bool) : (State.setReady s b on).keep = s.keep := by
  rfl

@[simp] theorem State.setBraidReady_keep (s : State) (b : Nat) (on : Bool) : (State.setBraidReady s b on).keep = s.keep := by
  rfl

@[simp] theorem State.free_keep (s : State) : (State.free s).2.keep = s.keep := by
  rfl

@[simp] theorem State.countMoved_keep (s : State) (h : Bool) (n : Nat) : (s.countMoved h n).keep = s.keep := by
  rfl

@[simp] theorem State.noise_keep (f need : Nat) (s : State) : (State.noise f need s).2.keep = s.keep := by
  induction f generalizing need s with
  | zero => cases need <;> rfl
  | succ f ih =>
    cases need with
    | zero => rfl
    | succ need =>
      unfold State.noise
      split
      · rfl
      · dsimp only; split <;> simp [ih]

@[simp] theorem State.entropy_keep (s : State) : (State.entropy s).2.keep = s.keep := by
  simp [State.entropy]

@[simp] theorem State.sourceDead_keep (s : State) : s.sourceDead.keep = s.keep := by
  simp [State.sourceDead]

@[simp] theorem State.reseed_keep (s : State) : (State.reseed s).keep = s.keep := by
  simp [State.reseed, apply_ite State.keep]

@[simp] theorem State.generate_keep (s : State) (n : Nat) : (State.generate s n).2.keep = s.keep := by
  simp [State.generate, apply_ite State.keep]

@[simp] theorem State.drbg_keep (s : State) : (State.drbg s).2.keep = s.keep := by
  unfold State.drbg; simp

@[simp] theorem State.drbgN_keep (s : State) (n : Nat) : (State.drbgN s n).2.keep = s.keep := by
  unfold State.drbgN; simp

@[simp] theorem State.newNonce_keep (s : State) : (State.newNonce s).keep = s.keep := by
  unfold State.newNonce; simp

@[simp] theorem State.setSrc_keep (s : State) (i : Nat) (x : SrcSt) : (State.setSrc s i x).keep = s.keep := by
  rfl

@[simp] theorem State.setTgt_keep (s : State) (t : Nat) (x : Tgt) : (State.setTgt s t x).keep = s.keep := by
  rfl

@[simp] theorem State.raise_keep (s : State) (i : Nat) : (State.raise s i).keep = s.keep := by
  simp [State.raise, apply_ite State.keep]

@[simp] theorem State.setLevel_keep (s : State) (i : Nat) (on : Bool) : (State.setLevel s i on).keep = s.keep := by
  rfl

@[simp] theorem State.bbxLevel_keep (s : State) : (State.bbxLevel s).keep = s.keep := by
  rfl

@[simp] theorem State.bbxPush_keep (s : State) (e : BbxEntry) : (State.bbxPush s e).keep = s.keep := by
  simp [State.bbxPush, apply_ite State.keep]

@[simp] theorem State.clock_keep (s : State) (domain unit : Nat) : (State.clock s domain unit).2.keep = s.keep := by
  unfold State.clock; (try dsimp only); (repeat' split) <;> simp

@[simp] theorem State.log_keep (s : State) (domain cls unit event : Nat) (status : Byte) (ten : Option Tid) (args : List W64) : (State.log s domain cls unit event status ten args).keep = s.keep := by
  unfold State.log; simp

@[simp] theorem State.corrected_keep (s : State) (domain unit counter k : Nat) : (State.corrected s domain unit counter k).keep = s.keep := by
  simp [State.corrected, apply_ite State.keep]

@[simp] theorem State.ibi_keep (s : State) : (State.ibi s).keep = s.keep := by
  simp [State.ibi, apply_ite State.keep]

@[simp] theorem State.signalEvent_keep (s : State) : (State.signalEvent s).keep = s.keep := by
  simp [State.signalEvent, apply_ite State.keep]

@[simp] theorem State.aer_keep (s : State) (p : PciePort) : (s.aer p).keep = s.keep := by
  simp [State.aer, apply_ite State.keep]

@[simp] theorem State.holdEvent_keep (s : State) (e : MgmtEvent) : (s.holdEvent e).keep = s.keep := by
  simp [State.holdEvent, apply_ite State.keep]

@[simp] theorem State.mirrorReads_keep (s : State) (n : Tid) (gs : List Nat) : (s.mirrorReads n gs).1.keep = s.keep := by
  unfold State.mirrorReads; split <;> simp

@[simp] theorem State.mgmtEvent_keep (s : State) (event : Nat) (ten fn : Byte) : (State.mgmtEvent s event ten fn).keep = s.keep := by
  simp [State.mgmtEvent]

@[simp] theorem State.tenEvent_keep (s : State) (n : Tid) (cls event : Nat) (status : Byte) (arg : Nat) : (State.tenEvent s n cls event status arg).keep = s.keep := by
  simp [State.tenEvent, apply_ite State.keep]

/-! ## MemOps -/

@[simp] theorem State.setUse_keep (s : State) (id : Nat) (u : Option FrameUse) : (State.setUse s id u).keep = s.keep := by
  rfl

theorem State.takeFrame_keep (s : State) (bulk hawser : Bool) (u : FrameUse) (r : (Nat × Nat) × State)
    (h : s.takeFrame bulk hawser u = some r) : r.2.keep = s.keep := by
  unfold State.takeFrame at h
  split at h
  · cases h
  · dsimp only at h
    split at h
    · cases h
    · cases h; simp

@[simp] theorem State.charge_keep (s : State) (n : Tid) (bulk : Bool) : (State.charge s n bulk).keep = s.keep := by
  rfl

@[simp] theorem State.discharge_keep (s : State) (n : Tid) (bulk : Bool) : (State.discharge s n bulk).keep = s.keep := by
  rfl

@[simp] theorem State.setPte_keep (s : State) (n : Tid) (page : Nat) (p : Pte) : (State.setPte s n page p).keep = s.keep := by
  rfl

@[simp] theorem State.poisonGran_keep (s : State) (n : Option Tid) (g : Nat) (page : Option Nat) (a : W64) :
    (s.poisonGran n g page a).keep = s.keep := by
  unfold State.poisonGran; dsimp only; (repeat' split) <;> simp

@[simp] theorem State.transferGran_keep (s : State) (n : Option Tid) (g : Nat) (page : Option Nat) (a : W64) (w : Bool) :
    (s.transferGran n g page a w).keep = s.keep := by
  simp [State.transferGran, apply_ite State.keep]

@[simp] theorem State.transfer_keep (s : State) (n : Tid) (tva : Nat) (write : Bool) : (State.transfer s n tva write).keep = s.keep := by
  simp [State.transfer]

@[simp] theorem State.poisonRead_keep (s : State) (n : Tid) (tva : Nat) : (State.poisonRead s n tva).keep = s.keep := by
  unfold State.poisonRead; simp

@[simp] theorem State.flushEntry_keep (s : State) (e : WcEntry) : (State.flushEntry s e).keep = s.keep := by
  unfold State.flushEntry; (try dsimp only); (repeat' split) <;> simp

@[simp] theorem State.flushWhere_keep (s : State) (p : WcEntry → Bool) : (State.flushWhere s p).keep = s.keep := by
  unfold State.flushWhere; simp

@[simp] theorem State.wcRoom_keep (s : State) (line : Nat) (n : Tid) : (State.wcRoom s line n).keep = s.keep := by
  unfold State.wcRoom; (try dsimp only); (repeat' split) <;> simp

@[simp] theorem State.wcWrite_keep (s : State) (n : Tid) (f dev : Nat) (data : List Byte) : (s.wcWrite n f dev data).keep = s.keep := by
  induction f generalizing s dev data with
  | zero => rfl
  | succ f ih =>
    unfold State.wcWrite
    split
    · rfl
    · dsimp only; rw [ih]; simp

@[simp] theorem State.touchGranule_keep (s : State) (n : Tid) (g : Nat) : (State.touchGranule s n g).keep = s.keep := by
  simp [State.touchGranule, apply_ite State.keep]

@[simp] theorem State.readMem_keep (s : State) (n : Tid) (tva len : Nat) : (State.readMem s n tva len).1.keep = s.keep := by
  unfold State.readMem; simp

theorem State.placePage_keep (s : State) (n : Tid) (page : Nat) (bulk home : Bool) (r : (Bool × Nat × Nat) × State)
    (h : s.placePage n page bulk home = some r) : r.2.keep = s.keep := by
  unfold State.placePage at h
  split at h
  · rename_i x hx; cases h; exact State.takeFrame_keep _ _ _ _ _ hx
  · split at h
    · rename_i x hx; cases h; simp [State.takeFrame_keep _ _ _ _ _ hx]
    · cases h

@[simp] theorem State.startBacking_keep (s : State) (n : Tid) (page : Nat) (hw bulk home : Bool) (cmd : Option Nat) :
    (s.startBacking n page hw bulk home cmd).keep = s.keep := by
  unfold State.startBacking
  dsimp only
  split
  · rename_i r hr; simp [State.placePage_keep _ _ _ _ _ _ hr]
  · simp

@[simp] theorem State.touchWrite_keep (s : State) (n : Tid) (page : Nat) (hw : Bool) : (State.touchWrite s n page hw).1.keep = s.keep := by
  unfold State.touchWrite; (try dsimp only); (repeat' split) <;> simp

@[simp] theorem State.finishBacking_keep (s : State) (b : Backing) : (State.finishBacking s b).keep = s.keep := by
  unfold State.finishBacking; (try dsimp only); (repeat' split) <;> simp

@[simp] theorem State.backNow_keep (s : State) (n : Tid) (page : Nat) (hw : Bool) : (State.backNow s n page hw).keep = s.keep := by
  unfold State.backNow; (try dsimp only); (repeat' split) <;> simp

@[simp] theorem State.writeBacked_keep (s : State) (n : Tid) (tva : Nat) (data : List Byte) : (State.writeBacked s n tva data).keep = s.keep := by
  simp [State.writeBacked, apply_ite State.keep]

@[simp] theorem State.writePage_keep (s : State) (n : Tid) (hw : Bool) (tva : Nat) (data : List Byte) : (State.writePage s n hw tva data).1.keep = s.keep := by
  unfold State.writePage; (try dsimp only); (repeat' split) <;> simp

@[simp] theorem State.scrubFrame_keep (s : State) (n : Tid) (id : Nat) : (s.scrubFrame n id).keep = s.keep := by
  show (List.foldl _ _ _ : State).keep = _
  rw [foldl_keep _ (by intro s x; simp)]
  rfl

@[simp] theorem State.zeroFrame_keep (s : State) (id : Nat) : (State.zeroFrame s id).keep = s.keep := by
  rfl

@[simp] theorem State.toScrub_keep (s : State) (n : Tid) (id : Nat) : (State.toScrub s n id).keep = s.keep := by
  rfl

@[simp] theorem State.dropMig_keep (s : State) (n : Tid) (page : Nat) : (State.dropMig s n page).keep = s.keep := by
  simp [State.dropMig, apply_ite State.keep]

@[simp] theorem State.dropBacking_keep (s : State) (n : Tid) (page : Nat) : (State.dropBacking s n page).keep = s.keep := by
  unfold State.dropBacking; (try dsimp only); (repeat' split) <;> simp

@[simp] theorem State.freePage_keep (s : State) (n : Tid) (page : Nat) : (State.freePage s n page).keep = s.keep := by
  simp [State.freePage, apply_ite State.keep]

@[simp] theorem State.unmapPage_keep (s : State) (n : Tid) (page : Nat) : (State.unmapPage s n page).keep = s.keep := by
  unfold State.unmapPage; simp

@[simp] theorem State.modMig_keep (s : State) (n : Tid) (page : Nat) (f : Mig → Mig) : (State.modMig s n page f).keep = s.keep := by
  rfl

@[simp] theorem State.readPage_keep (s : State) (n : Tid) (page : Nat) : (State.readPage s n page).keep = s.keep := by
  unfold State.readPage; simp

@[simp] theorem State.copyFrame_keep (s : State) (n : Tid) (page src dst : Nat) : (State.copyFrame s n page src dst).keep = s.keep := by
  simp [State.copyFrame, apply_ite State.keep]

@[simp] theorem State.commitMig_keep (s : State) (n : Tid) (page : Nat) (m : Mig) : (State.commitMig s n page m).keep = s.keep := by
  simp [State.commitMig, apply_ite State.keep]

@[simp] theorem State.abortMig_keep (s : State) (n : Tid) (page : Nat) (m : Mig) : (s.abortMig n page m).keep = s.keep := by
  simp [State.abortMig]

@[simp] theorem State.endMig_keep (s : State) (n : Tid) (page : Nat) (m : Mig) : (State.endMig s n page m).keep = s.keep := by
  simp [State.endMig, apply_ite State.keep]

@[simp] theorem State.endBlocked_keep (s : State) (n : Tid) (page : Nat) : (State.endBlocked s n page).keep = s.keep := by
  unfold State.endBlocked; (try dsimp only); (repeat' split) <;> simp

@[simp] theorem State.writeOwn_keep (s : State) (n : Tid) (hw : Option Bool) (tva : Nat) (data : List Byte) : (State.writeOwn s n hw tva data).keep = s.keep := by
  simp [State.writeOwn, apply_ite State.keep]

/-! ## Keys -/

@[simp] theorem State.readItem_keep (s : State) (n : Tid) (tva len : Nat) : (State.readItem s n tva len).1.keep = s.keep := by
  unfold State.readItem; (try dsimp only); (repeat' split) <;> simp

@[simp] theorem State.readHeader_keep (s : State) (n : Tid) (tva : Nat) : (State.readHeader s n tva).1.keep = s.keep := by
  unfold State.readHeader; (try dsimp only); (repeat' split) <;> simp

@[simp] theorem State.readTable_keep (s : State) (n : Tid) (tva : Nat) : (State.readTable s n tva).1.keep = s.keep := by
  unfold State.readTable; (try dsimp only); (repeat' split) <;> simp

/-! ## Link -/

@[simp] theorem State.setBel_keep (s : State) (b : Belay) : (State.setBel s b).keep = s.keep := by
  rfl

@[simp] theorem State.modMir_keep (s : State) (n : Tid) (f : Mirror → Mirror) : (State.modMir s n f).keep = s.keep := by
  rfl

@[simp] theorem State.leaveUp_keep (s : State) (next : BitVec 3) : (State.leaveUp s next).keep = s.keep := by
  unfold State.leaveUp; simp

@[simp] theorem State.belCarry_keep (s : State) : (State.belCarry s).keep = s.keep := by
  unfold State.belCarry; split <;> simp

@[simp] theorem State.sendItem_keep (s : State) (k : Nat) (o : Out) : (State.sendItem s k o).1.keep = s.keep := by
  unfold State.sendItem; (repeat' split) <;> simp

@[simp] theorem State.heard_keep (s : State) (k : Nat) : (State.heard s k).keep = s.keep := by
  unfold State.heard; dsimp only; split <;> simp

@[simp] theorem State.sendOver_keep (s : State) (r : CommitRecord) : (State.sendOver s r).1.keep = s.keep := by
  unfold State.sendOver; dsimp only; split <;> simp

@[simp] theorem State.sendUnsent_keep (s : State) (n : Tid) : (State.sendUnsent s n).keep = s.keep := by
  unfold State.sendUnsent
  apply foldl_keep
  intro s r; dsimp only; split <;> simp

@[simp] theorem State.sendClose_keep (s : State) (n : Tid) : (State.sendClose s n).keep = s.keep := by
  unfold State.sendClose; simp

/-! ## Cmd -/

@[simp] theorem State.setPool_keep (s : State) (p : List Token) : (State.setPool s p).keep = s.keep := by
  rfl

@[simp] theorem State.modTok_keep (s : State) (id : Nat) (f : Token → Token) : (State.modTok s id f).keep = s.keep := by
  rfl

@[simp] theorem State.dropTok_keep (s : State) (id : Nat) : (State.dropTok s id).keep = s.keep := by
  rfl

@[simp] theorem State.tokWrote_keep (s : State) (e : Nat) (n : Tid) (gs : List Nat) : (State.tokWrote s e n gs).keep = s.keep := by
  rfl

@[simp] theorem State.noteReady_keep (s : State) : (State.noteReady s).keep = s.keep := by
  rfl

@[simp] theorem State.freeEntry_keep (s : State) (id : Nat) : (State.freeEntry s id).keep = s.keep := by
  rfl

@[simp] theorem State.sendRecord_keep (s : State) (n : Tid) (r : CommitRecord) : (State.sendRecord s n r).keep = s.keep := by
  unfold State.sendRecord; (try dsimp only); (repeat' split) <;> simp

@[simp] theorem State.setWm_keep (s : State) (n : Tid) (q : BitVec 2) (w : Wm) : (State.setWm s n q w).keep = s.keep := by
  rfl

@[simp] theorem State.wmRestart_keep (s : State) (n : Tid) (q : BitVec 2) : (State.wmRestart s n q).keep = s.keep := by
  simp [State.wmRestart, apply_ite State.keep]

@[simp] theorem State.wmRestarts_keep (s : State) (n : Tid) : (State.wmRestarts s n).keep = s.keep := by
  unfold State.wmRestarts; simp

@[simp] theorem State.retire_keep (s : State) (id : Nat) (c : Comp) (changes : List TableChange) (pcClause haddr : W64) : (State.retire s id c changes pcClause haddr).keep = s.keep := by
  unfold State.retire; (try dsimp only); (repeat' split) <;> simp

@[simp] theorem State.finishAt_keep (s : State) (id : Nat) (c : Comp) (changes : List TableChange) (pcClause haddr : W64) : (State.finishAt s id c changes pcClause haddr).keep = s.keep := by
  unfold State.finishAt; simp

@[simp] theorem State.finish_keep (s : State) (id : Nat) (c : Comp) : (State.finish s id c).keep = s.keep := by
  unfold State.finish; simp

@[simp] theorem State.finishWith_keep (s : State) (id : Nat) (c : Comp) (changes : List TableChange) : (State.finishWith s id c changes).keep = s.keep := by
  unfold State.finishWith; simp

@[simp] theorem State.afterAuth_keep (s : State) (c : BitVec 512) : (State.afterAuth s c).keep = s.keep := by
  simp [State.afterAuth, apply_ite State.keep]

@[simp] theorem State.startCmd_keep (s : State) (e : Nat) (sel : BitVec 512 → Bool) (run : State → Token → State)
    (h : ∀ s t, (run s t).keep = s.keep) : (s.startCmd e sel run).keep = s.keep := by
  unfold State.startCmd
  (repeat' split) <;> simp [h]

@[simp] theorem State.hostOut_keep (s : State) (t : Token) (data : List Byte) : (State.hostOut s t data).keep = s.keep := by
  rfl

@[simp] theorem State.withBuf_keep (s : State) (t : Token) (buf : HostBuf) (k : List Byte → State)
    (h : ∀ bs, (k bs).keep = s.keep) : (s.withBuf t buf k).keep = s.keep := by
  unfold State.withBuf
  split <;> simp [h]

@[simp] theorem State.putBraid_keep (s : State) (i : Nat) (b : Braid) : (State.putBraid s i b).keep = s.keep := by
  simp [State.putBraid, apply_ite State.keep]

/-! ## Irq -/

@[simp] theorem State.claim_keep (s : State) (t : Nat) : (State.claim s t).2.keep = s.keep := by
  unfold State.claim; (try dsimp only); (repeat' split) <;> simp

@[simp] theorem State.eoi_keep (s : State) (t id : Nat) : (State.eoi s t id).keep = s.keep := by
  unfold State.eoi; (try dsimp only); (repeat' split) <;> simp

@[simp] theorem State.sendMsix_keep (s : State) (t : Nat) : (State.sendMsix s t).keep = s.keep := by
  simp [State.sendMsix, apply_ite State.keep]

@[simp] theorem State.ackMsix_keep (s : State) (t : Nat) : (State.ackMsix s t).keep = s.keep := by
  unfold State.ackMsix; (try dsimp only); (repeat' split) <;> simp

@[simp] theorem State.withdraw_keep (s : State) (i : Nat) : (State.withdraw s i).keep = s.keep := by
  simp [State.withdraw, apply_ite State.keep]

/-! ## Record -/

@[simp] theorem State.storeNext_keep (s : State) : (State.storeNext s).keep = s.keep := by
  unfold State.storeNext; (try dsimp only); (repeat' split) <;> simp

end Sys2Proof.Machine
end

