-- ==== Sys2Proof/Laws/KeepStreams.lean ====
section
/-! SUPPORT. KeepStreams.lean: public-key operations, windows, host rings, clauses, the mover, streams, objects and the lanyard keep the queue and the fuses. -/

namespace Sys2Proof.Machine

/-! ## Pke -/

@[simp] theorem State.setSlot_keep (s : State) (i : Nat) (x : Option PkeSlot) : (State.setSlot s i x).keep = s.keep := by
  rfl

@[simp] theorem State.unbind_keep (s : State) (i : Nat) : (State.unbind s i).keep = s.keep := by
  unfold State.unbind; (try dsimp only); (repeat' split) <;> simp

@[simp] theorem State.putSlot_keep (s : State) (i v : Nat) (sealed inf : Bool) : (State.putSlot s i v sealed inf).keep = s.keep := by
  unfold State.putSlot; (try dsimp only); (repeat' split) <;> simp

@[simp] theorem State.freeSlot_keep (s : State) (i : Nat) : (State.freeSlot s i).keep = s.keep := by
  unfold State.freeSlot; simp

@[simp] theorem State.putPoint_keep (s : State) (c : Curve) (i : Nat) (p : Pt) (sealed : Bool) : (State.putPoint s c i p sealed).keep = s.keep := by
  unfold State.putPoint; (try dsimp only); (repeat' split) <;> simp

@[simp] theorem State.pkeModular_keep (s : State) (t : Token) (srcs : List Nat) (f : Nat → Option Nat) : (State.pkeModular s t srcs f).1.keep = s.keep := by
  unfold State.pkeModular; (try dsimp only); (repeat' split) <;> simp

@[simp] theorem State.pkeCurveOp_keep (s : State) (t : Token) (pts : List Nat) (scalars : List Nat) (f : Curve → Pt) : (State.pkeCurveOp s t pts scalars f).1.keep = s.keep := by
  unfold State.pkeCurveOp; (try dsimp only); (repeat' split) <;> simp

@[simp] theorem State.randBelow_keep (s : State) (w m : Nat) : (State.randBelow s w m).2.keep = s.keep := by
  unfold State.randBelow; simp

@[simp] theorem State.pkeRand_keep (s : State) (t : Token) : (State.pkeRand s t).1.keep = s.keep := by
  unfold State.pkeRand; (try dsimp only); (repeat' split) <;> simp

@[simp] theorem State.release_keep (s : State) (t : Token) (v : Nat) : (State.release s t v).keep = s.keep := by
  unfold State.release; simp

@[simp] theorem State.signZero_keep (s : State) (t : Token) : (State.signZero s t).keep = s.keep := by
  unfold State.signZero; simp

@[simp] theorem State.signFail_keep (s : State) (t : Token) : (State.signFail s t).1.keep = s.keep := by
  unfold State.signFail; simp

@[simp] theorem State.pkeMsign_keep (s : State) (t : Token) : (State.pkeMsign s t).1.keep = s.keep := by
  unfold State.pkeMsign; (try dsimp only); (repeat' split) <;> simp

@[simp] theorem State.pkeEcsign_keep (s : State) (t : Token) : (State.pkeEcsign s t).1.keep = s.keep := by
  unfold State.pkeEcsign; (try dsimp only); (repeat' split) <;> simp

@[simp] theorem State.pkeImport_keep (s : State) (t : Token) : (State.pkeImport s t).1.keep = s.keep := by
  unfold State.pkeImport; (try dsimp only); (repeat' split) <;> simp

@[simp] theorem State.pkeExport_keep (s : State) (t : Token) : (State.pkeExport s t).1.keep = s.keep := by
  unfold State.pkeExport; (try dsimp only); (repeat' split) <;> simp

@[simp] theorem State.mrDraws_keep (s : State) (pw p k : Nat) : (s.mrDraws pw p k).2.keep = s.keep := by
  induction k generalizing s with
  | zero => rfl
  | succ k ih => unfold State.mrDraws; simp [ih]

@[simp] theorem State.pkeCurveLoad_keep (s : State) (buf : List Byte) : (State.pkeCurveLoad s buf).1.keep = s.keep := by
  unfold State.pkeCurveLoad; (try dsimp only); (repeat' split) <;> simp

@[simp] theorem State.pkeCurveFree_keep (s : State) (t : Token) : (State.pkeCurveFree s t).1.keep = s.keep := by
  unfold State.pkeCurveFree; (try dsimp only); (repeat' split) <;> simp

@[simp] theorem State.pkeRun_keep (s : State) (t : Token) (buf : List Byte) : (State.pkeRun s t buf).1.keep = s.keep := by
  unfold State.pkeRun; (try dsimp only); (repeat' split) <;> simp

@[simp] theorem State.pkeNext_keep (k : Nat) (s : State) : (State.pkeNext k s).keep = s.keep := by
  induction k generalizing s with
  | zero => rfl
  | succ k ih => unfold State.pkeNext; dsimp only; (repeat' split) <;> simp [ih]

@[simp] theorem State.pkeGo_keep (s : State) : (State.pkeGo s).keep = s.keep := by
  unfold State.pkeGo; simp

@[simp] theorem State.pkeRequest_keep (s : State) (r : PkeReq) : (State.pkeRequest s r).keep = s.keep := by
  unfold State.pkeRequest; simp

@[simp] theorem State.pkeEnter_keep (s : State) (t : Token) (buf : List Byte) : (State.pkeEnter s t buf).keep = s.keep := by
  unfold State.pkeEnter; simp

@[simp] theorem State.pkeCmd_keep (s : State) (e op : Nat) : (State.pkeCmd s e op).keep = s.keep := by
  simp [State.pkeCmd, apply_ite State.keep]

@[simp] theorem State.pkeCmdBuf_keep (s : State) (e op : Nat) (buf : HostBuf) : (State.pkeCmdBuf s e op buf).keep = s.keep := by
  simp [State.pkeCmdBuf, apply_ite State.keep]

@[simp] theorem State.pkeDone_keep (s : State) : (State.pkeDone s).keep = s.keep := by
  unfold State.pkeDone; (try dsimp only); (repeat' split) <;> simp

@[simp] theorem State.pkeDrop_keep (s : State) (n : Tid) : (State.pkeDrop s n).keep = s.keep := by
  unfold State.pkeDrop; simp

@[simp] theorem State.pkeAbort_keep (s : State) (n : Tid) : (State.pkeAbort s n).keep = s.keep := by
  unfold State.pkeAbort; (try dsimp only); (repeat' split) <;> simp

/-! ## Windows -/

@[simp] theorem State.discardRecord_keep (s : State) (hw : Bool) (i r cause : Nat) : (State.discardRecord s hw i r cause).keep = s.keep := by
  unfold State.discardRecord; simp

@[simp] theorem State.winWrite_keep (s : State) (i : Nat) (hw : Bool) (n : Tid) (tva : Nat) (data : List Byte) : (State.winWrite s i hw n tva data).keep = s.keep := by
  unfold State.winWrite; (try dsimp only); (repeat' split) <;> (try simp only [keep_mk, keep_eta]) <;> (try rw [foldl_keep _ (by intro s x; (try dsimp only); (repeat' split) <;> simp [apply_ite State.keep])]) <;> simp

@[simp] theorem State.runHeld_keep (s : State) : (State.runHeld s).keep = s.keep := by
  unfold State.runHeld; simp

@[simp] theorem State.closeWin_keep (s : State) (i : Nat) : (State.closeWin s i).keep = s.keep := by
  simp [State.closeWin, apply_ite State.keep]

@[simp] theorem State.fence_keep (s : State) (ctls : NatSet) : (State.fence s ctls).keep = s.keep := by
  unfold State.fence; simp

@[simp] theorem State.drainDone_keep (s : State) (i : Nat) : (State.drainDone s i).keep = s.keep := by
  unfold State.drainDone; (try dsimp only); (repeat' split) <;> simp

@[simp] theorem State.winOpenCmd_keep (s : State) (t : Token) : (State.winOpenCmd s t).keep = s.keep := by
  simp [State.winOpenCmd, apply_ite State.keep]

@[simp] theorem State.winCloseCmd_keep (s : State) (t : Token) : (State.winCloseCmd s t).keep = s.keep := by
  simp [State.winCloseCmd, apply_ite State.keep]

@[simp] theorem State.winDrainCmd_keep (s : State) (t : Token) : (State.winDrainCmd s t).keep = s.keep := by
  simp [State.winDrainCmd, apply_ite State.keep]

@[simp] theorem State.frameEnd_keep (s : State) (i r : Nat) (hw : Bool) (pt : Option (List Byte)) : (State.frameEnd s i r hw pt).keep = s.keep := by
  unfold State.frameEnd; (try dsimp only); (repeat' split) <;> simp

@[simp] theorem State.frameComplete_keep (s : State) (i r : Nat) (hw : Bool) (bytes : Sparse (Option Byte)) :
    (s.frameComplete i r hw bytes).keep = s.keep := by
  rw [State.frameComplete, State.frameEnd_keep]

@[simp] theorem State.sealedWrite_keep (s : State) (p : Port) (i o : Nat) (data : List Byte) : (State.sealedWrite s p i o data).keep = s.keep := by
  simp [State.sealedWrite, apply_ite State.keep]

@[simp] theorem State.bar2Write_keep (s : State) (p : Port) (off : Nat) (rid : BitVec 16) (data : List Byte) : (State.bar2Write s p off rid data).keep = s.keep := by
  unfold State.bar2Write; (try dsimp only); (repeat' split) <;> simp

@[simp] theorem State.readDone_keep (s : State) (p : Port) (data : List Byte) (poison : Bool) : (State.readDone s p data poison).keep = s.keep := by
  simp [State.readDone, apply_ite State.keep]

@[simp] theorem State.sealedServe_keep (s : State) (p : Port) (b : RecBuf) (bufs : List RecBuf) (a len : Nat) : (State.sealedServe s p b bufs a len).keep = s.keep := by
  unfold State.sealedServe; simp

@[simp] theorem State.sealedRead_keep (s : State) (p : Port) (i o len : Nat) : (State.sealedRead s p i o len).keep = s.keep := by
  unfold State.sealedRead; (try dsimp only); (repeat' split) <;> simp

@[simp] theorem State.bar2Read_keep (s : State) (p : Port) (off : Nat) (rid : BitVec 16) (len : Nat) : (State.bar2Read s p off rid len).keep = s.keep := by
  simp [State.bar2Read, apply_ite State.keep]

@[simp] theorem State.frameTimeout_keep (s : State) (p : Port) (i r : Nat) : (State.frameTimeout s p i r).keep = s.keep := by
  simp [State.frameTimeout, apply_ite State.keep]

@[simp] theorem State.lateWriteLog_keep (s : State) (i : Nat) : (State.lateWriteLog s i).keep = s.keep := by
  unfold State.lateWriteLog; (try dsimp only); (repeat' split) <;> simp

/-! ## HostRings -/

@[simp] theorem State.modSq_keep (s : State) (f : Fn) (q : BitVec 2) (g : SqRing → SqRing) : (State.modSq s f q g).keep = s.keep := by
  rfl

@[simp] theorem State.modCq_keep (s : State) (f : Fn) (g : CqRing → CqRing) : (State.modCq s f g).keep = s.keep := by
  rfl

@[simp] theorem State.arrive_keep (s : State) (f : Fn) (q : BitVec 2) (c : BitVec 512) : (State.arrive s f q c).keep = s.keep := by
  simp [State.arrive, apply_ite State.keep]

@[simp] theorem State.served_keep (s : State) (j : Nat) : (State.served s j).keep = s.keep := by
  rfl

@[simp] theorem State.coalesce_keep (s : State) (f : Fn) : (State.coalesce s f).keep = s.keep := by
  simp [State.coalesce, apply_ite State.keep]

@[simp] theorem State.keepUnacked_keep (s : State) (f : Fn) (ts : List Token) : (State.keepUnacked s f ts).keep = s.keep := by
  unfold State.keepUnacked; (try dsimp only); (repeat' split) <;> simp

@[simp] theorem State.returnUnacked_keep (s : State) (f : Fn) : (State.returnUnacked s f).keep = s.keep := by
  unfold State.returnUnacked; (try dsimp only); (repeat' split) <;> simp

@[simp] theorem State.writeCompletion_keep (s : State) (f : Fn) : (State.writeCompletion s f).keep = s.keep := by
  unfold State.writeCompletion; (try dsimp only); (repeat' split) <;> simp

@[simp] theorem State.setD3_keep (s : State) (f : PortFn) (on : Bool) : (State.setD3 s f on).keep = s.keep := by
  unfold State.setD3; (try dsimp only); (repeat' split) <;> simp

/-! ## Clauses -/

@[simp] theorem State.leaveGroups_keep (s : State) (i : Nat) : (State.leaveGroups s i).keep = s.keep := by
  rfl

@[simp] theorem State.leaveAtEnd_keep (s : State) (i : Nat) : (State.leaveAtEnd s i).keep = s.keep := by
  rfl

@[simp] theorem State.shares_keep (s : State) (i : Nat) : (State.shares s i).1.keep = s.keep := by
  unfold State.shares; (try dsimp only); (repeat' split) <;> (try simp) <;> (try rw [foldl_keepOf Prod.fst _ (by intro x a; (try dsimp only); (repeat' split) <;> simp [apply_ite State.keep])]) <;> (try simp)

@[simp] theorem State.cutWait_keep (s : State) (i : Nat) : (State.cutWait s i).keep = s.keep := by
  unfold State.cutWait; simp

@[simp] theorem State.endDmaWait_keep (s : State) (i : Nat) (ph : SeqPhase) : (State.endDmaWait s i ph).keep = s.keep := by
  simp [State.endDmaWait, apply_ite State.keep]

@[simp] theorem State.beginDmaWait_keep (s : State) (i : Nat) (old : Braid) : (State.beginDmaWait s i old).keep = s.keep := by
  unfold State.beginDmaWait; (try dsimp only); (repeat' split) <;> simp

@[simp] theorem State.afterBraid_keep (s : State) (i : Nat) (b : Braid) : (State.afterBraid s i b).keep = s.keep := by
  simp [State.afterBraid, apply_ite State.keep]

@[simp] theorem State.hazard_keep (s : State) (i : Nat) (args : List W64) : (State.hazard s i args).keep = s.keep := by
  simp [State.hazard, apply_ite State.keep]

@[simp] theorem State.watch_keep (s : State) (i n : Nat) : (State.watch s i n).keep = s.keep := by
  simp [State.watch, apply_ite State.keep]

@[simp] theorem State.clause_keep (s : State) (i n : Nat) (ok : BitVec 96 → Bool) (run : Braid → BitVec 96 → Nat → Braid) : (State.clause s i n ok run).keep = s.keep := by
  simp [State.clause, apply_ite State.keep]

@[simp] theorem State.braidStep_keep (s : State) (i : Nat) (f : Braid → Braid) : (State.braidStep s i f).keep = s.keep := by
  simp [State.braidStep, apply_ite State.keep]

@[simp] theorem State.revealClause_keep (s : State) (i : Nat) : (State.revealClause s i).keep = s.keep := by
  unfold State.revealClause; (try dsimp only); (repeat' split) <;> simp

@[simp] theorem State.noteStalls_keep (s : State) : (State.noteStalls s).keep = s.keep := by
  simp [State.noteStalls, apply_ite State.keep]

@[simp] theorem State.swaitStep_keep (s : State) (i : Nat) (f : Braid → List Nat → Braid) : (State.swaitStep s i f).keep = s.keep := by
  unfold State.swaitStep; simp

/-! ## Mover -/

@[simp] theorem State.holdXfer_keep (s : State) (i r : Nat) (w : XferWait) (addrs : List Nat) : (State.holdXfer s i r w addrs).keep = s.keep := by
  unfold State.holdXfer; simp

@[simp] theorem State.memRead_keep (s : State) (n : Tid) (l : Slice) (e : Nat) : (State.memRead s n l e).1.keep = s.keep := by
  unfold State.memRead; (try dsimp only); (repeat' split) <;> simp

@[simp] theorem State.memWrite_keep (s : State) (n : Tid) (hw : Bool) (tok : Option Nat) (ws : List (Nat × Byte)) : (State.memWrite s n hw tok ws).1.keep = s.keep := by
  unfold State.memWrite; (try dsimp only); (repeat' split) <;> (try simp) <;> (try rw [foldl_keepOf Prod.fst _ (by intro x a; (try dsimp only); (repeat' split) <;> simp [apply_ite State.keep])]) <;> (try simp)

@[simp] theorem State.moveElem_keep (s : State) (i : Nat) (n : Tid) (cov : Sparse (BitVec 4096)) (l : Slice) (k e : Nat) (data : Bool) : (State.moveElem s i n cov l k e data).1.keep = s.keep := by
  unfold State.moveElem; (try dsimp only); (repeat' split) <;> simp

@[simp] theorem State.moveSquare_keep (s : State) (i : Nat) (n : Tid) (cov : Sparse (BitVec 4096)) (l : Slice) (k : Nat) : (State.moveSquare s i n cov l k).1.keep = s.keep := by
  unfold State.moveSquare; (try dsimp only); (repeat' split) <;> (try simp) <;> (try rw [foldl_keepOf Prod.fst _ (by intro x a; (try dsimp only); (repeat' split) <;> simp [apply_ite State.keep])]) <;> (try simp)

/-! ## Streams -/

@[simp] theorem State.markFault_keep (s : State) (i : Nat) (a : Option FaultAddr) : (State.markFault s i a).keep = s.keep := by
  unfold State.markFault; (try dsimp only); (repeat' split) <;> simp

@[simp] theorem State.failStream_keep (s : State) (i r : Nat) (st : Byte) (slot : Option Nat) (cores : List Nat) : (State.failStream s i r st slot cores).keep = s.keep := by
  unfold State.failStream; simp

@[simp] theorem State.fillRandom_keep (s : State) (i r slot : Nat) : (State.fillRandom s i r slot).keep = s.keep := by
  unfold State.fillRandom; simp

@[simp] theorem State.moveRandom_keep (s : State) (i r : Nat) (x : Xfer) : (State.moveRandom s i r x).keep = s.keep := by
  unfold State.moveRandom; (try dsimp only); (repeat' split) <;> simp

@[simp] theorem State.moveEnd_keep (s : State) (i r : Nat) (ring : Ring) (x : Xfer) (skip : Bool) (count : Nat) (cover : Sparse (BitVec 4096)) (e : MoveEnd) : (State.moveEnd s i r ring x skip count cover e).1.keep = s.keep := by
  unfold State.moveEnd; (try dsimp only); (repeat' split) <;> simp

@[simp] theorem State.moveData_keep (s : State) (i r : Nat) (ring : Ring) (x : Xfer) (l : Slice) : (State.moveData s i r ring x l).1.keep = s.keep := by
  unfold State.moveData; (try dsimp only); (repeat' split) <;> simp

@[simp] theorem State.setXfer_keep (s : State) (i r : Nat) (y : Xfer) : (State.setXfer s i r y).keep = s.keep := by
  rfl

@[simp] theorem State.passElem_keep (s : State) (i r : Nat) (x : Xfer) (drop : Bool) : (State.passElem s i r x drop).keep = s.keep := by
  simp [State.passElem, apply_ite State.keep]

@[simp] theorem State.moveStep_keep (s : State) (i r : Nat) (ring : Ring) (x : Xfer) : (State.moveStep s i r ring x).1.keep = s.keep := by
  unfold State.moveStep; (try dsimp only); (repeat' split) <;> simp

@[simp] theorem State.moveLoop_keep (i r k n : Nat) (s : State) : (State.moveLoop i r k n s).keep = s.keep := by
  induction k generalizing s n with
  | zero => rfl
  | succ k ih => unfold State.moveLoop; dsimp only; (repeat' split) <;> simp [ih]

@[simp] theorem State.moveOn_keep (s : State) (i r : Nat) : (State.moveOn s i r).keep = s.keep := by
  unfold State.moveOn; (try dsimp only); (repeat' split) <;> simp

@[simp] theorem State.moverRound_keep (s : State) (strand : Nat) : (State.moverRound s strand).keep = s.keep := by
  simp [State.moverRound, apply_ite State.keep]

@[simp] theorem State.moverRounds_keep (i r k : Nat) (s : State) : (State.moverRounds i r k s).keep = s.keep := by
  induction k generalizing s with
  | zero => rfl
  | succ k ih => unfold State.moverRounds; (repeat' split) <;> simp [ih]

@[simp] theorem State.finishXfer_keep (s : State) (i r : Nat) : (State.finishXfer s i r).keep = s.keep := by
  unfold State.finishXfer; (try dsimp only); (repeat' split) <;> simp

@[simp] theorem State.slotStart_keep (s : State) (i r : Nat) : (State.slotStart s i r).keep = s.keep := by
  unfold State.slotStart; (try dsimp only); (repeat' split) <;> simp

@[simp] theorem State.slotFinish_keep (s : State) (i r : Nat) : (State.slotFinish s i r).keep = s.keep := by
  simp [State.slotFinish, apply_ite State.keep]

@[simp] theorem State.deferred_keep (s : State) (i r : Nat) : (State.deferred s i r).keep = s.keep := by
  unfold State.deferred; (try dsimp only); (repeat' split) <;> simp

@[simp] theorem State.burstFetch_keep (s : State) (i r : Nat) : (State.burstFetch s i r).keep = s.keep := by
  unfold State.burstFetch; (try dsimp only); (repeat' split) <;> simp

@[simp] theorem State.pageResident_keep (s : State) (n : Tid) (page : Nat) : (State.pageResident s n page).keep = s.keep := by
  unfold State.pageResident; simp

@[simp] theorem State.streamResume_keep (s : State) (i r : Nat) : (State.streamResume s i r).keep = s.keep := by
  simp [State.streamResume, apply_ite State.keep]

@[simp] theorem State.finishFills_keep (s : State) (i : Nat) : (State.finishFills s i).keep = s.keep := by
  simp [State.finishFills, apply_ite State.keep]

/-! ## Lanyard -/

@[simp] theorem State.modGroup_keep (s : State) (g : Nat) (f : Group → Group) : (State.modGroup s g f).keep = s.keep := by
  rfl

@[simp] theorem State.dropLeft_keep (s : State) (id : Nat) : (State.dropLeft s id).keep = s.keep := by
  rfl

@[simp] theorem State.failGroup_keep (s : State) (g : Group) (st : Byte) (poison : Bool) (at' : Option FaultAddr) : (State.failGroup s g st poison at').keep = s.keep := by
  simp [State.failGroup, apply_ite State.keep]

@[simp] theorem State.showPos_keep (s : State) (g : Group) : (State.showPos s g).keep = s.keep := by
  unfold State.showPos; simp

@[simp] theorem State.groupStart_keep (s : State) (id : Nat) : (State.groupStart s id).keep = s.keep := by
  unfold State.groupStart; (try dsimp only); (repeat' split) <;> simp

@[simp] theorem State.takeSlots_keep (s : State) (g : Group) : (State.takeSlots s g).keep = s.keep := by
  unfold State.takeSlots; simp

@[simp] theorem State.keyFail_keep (s : State) (g : Group) (st : Byte) (sum : Bool) : (State.keyFail s g st sum).keep = s.keep := by
  rfl

@[simp] theorem State.keyPageStart_keep (s : State) (id : Nat) : (State.keyPageStart s id).keep = s.keep := by
  unfold State.keyPageStart; (try dsimp only); (repeat' split) <;> simp

@[simp] theorem State.keyHold_keep (s : State) (m : Member) : (State.keyHold s m).keep = s.keep := by
  unfold State.keyHold; (try dsimp only); (repeat' split) <;> simp

@[simp] theorem State.giveKey_keep (s : State) (m : Member) (k0 k1 : List Byte) : (State.giveKey s m k0 k1).keep = s.keep := by
  simp [State.giveKey, apply_ite State.keep]

@[simp] theorem State.keyDeliver_keep (s : State) (id : Nat) (g : Group) (seeded : Bool) (rejected : Nat) (k0 k1 : List Byte) (pass : Nat) : (State.keyDeliver s id g seeded rejected k0 k1 pass).keep = s.keep := by
  unfold State.keyDeliver; (try dsimp only); (repeat' split) <;> simp

@[simp] theorem State.keyChecked_keep (s : State) (id : Nat) (g : Group) (k : KeyRead) (c : ChainD) (bytes : List Byte) : (State.keyChecked s id g k c bytes).keep = s.keep := by
  simp [State.keyChecked, apply_ite State.keep]

@[simp] theorem State.keyRead_keep (s : State) (id : Nat) (g : Group) (k : KeyRead) : (State.keyRead s id g k).keep = s.keep := by
  simp [State.keyRead, apply_ite State.keep]

@[simp] theorem State.keyPageDone_keep (s : State) (id : Nat) : (State.keyPageDone s id).keep = s.keep := by
  unfold State.keyPageDone; (try dsimp only); (repeat' split) <;> simp

end Sys2Proof.Machine
end

