-- ==== Sys2Proof/Laws/KeepMemory.lean ====
section
/-! SUPPORT. KeepMemory.lean: the safe state, pages, the pager and splices keep the queue and the fuses. -/

namespace Sys2Proof.Machine

/-! ## Fatal -/

@[simp] theorem State.zeroXts_keep (s : State) : (State.zeroXts s).keep = s.keep := by
  rfl

@[simp] theorem State.zeroClientKeys_keep (s : State) : (State.zeroClientKeys s).keep = s.keep := by
  rfl

@[simp] theorem State.setFault_keep (s : State) (on : Bool) : (State.setFault s on).keep = s.keep := by
  rfl

@[simp] theorem State.unservice_keep (s : State) (unit result : W64) : (State.unservice s unit result).keep = s.keep := by
  simp [State.unservice, apply_ite State.keep]

@[simp] theorem State.safeOver_keep (s : State) : (State.safeOver s).keep = s.keep := by
  unfold State.safeOver; (try dsimp only); (repeat' split) <;> simp

@[simp] theorem State.enterSafe_keep (s : State) (cause : Nat) (unit : Nat) : (State.enterSafe s cause unit).keep = s.keep := by
  simp [State.enterSafe, apply_ite State.keep]

@[simp] theorem State.thermal_keep (s : State) : (State.thermal s).keep = s.keep := by
  rfl

/-! ## Pages -/

@[simp] theorem State.pgEnd_keep (s : State) (t : Token) (status : Byte) (detail k : Nat) : (State.pgEnd s t status detail k).keep = s.keep := by
  unfold State.pgEnd; simp

@[simp] theorem State.pgCheck_keep (s : State) (t : Token) (k : State) (h : k.keep = s.keep) : (s.pgCheck t k).keep = s.keep := by
  unfold State.pgCheck
  (repeat' split) <;> simp [h]

@[simp] theorem State.mapCmd_keep (s : State) (t : Token) : (State.mapCmd s t).keep = s.keep := by
  simp [State.mapCmd, apply_ite State.keep]

@[simp] theorem State.allocGo_keep (s : State) (t : Token) (done k : Nat) : (s.allocGo t done k).keep = s.keep := by
  induction k generalizing s done with
  | zero => simp [State.allocGo]
  | succ k ih => unfold State.allocGo; dsimp only; (repeat' split) <;> simp [ih]

@[simp] theorem State.allocCmd_keep (s : State) (t : Token) : (State.allocCmd s t).keep = s.keep := by
  simp [State.allocCmd, apply_ite State.keep]

@[simp] theorem State.allocOn_keep (s : State) (t : Token) : (State.allocOn s t).keep = s.keep := by
  unfold State.allocOn; (try dsimp only); (repeat' split) <;> simp

@[simp] theorem State.allocAll_keep (s : State) (n : Tid) : (State.allocAll s n).keep = s.keep := by
  unfold State.allocAll; simp

@[simp] theorem State.freeCmd_keep (s : State) (t : Token) : (State.freeCmd s t).keep = s.keep := by
  simp [State.freeCmd, apply_ite State.keep]

@[simp] theorem State.unmapCmd_keep (s : State) (t : Token) : (State.unmapCmd s t).keep = s.keep := by
  simp [State.unmapCmd, apply_ite State.keep]

@[simp] theorem State.pinGo_keep (s : State) (t : Token) (done : Nat) (ks : List Nat) : (s.pinGo t done ks).keep = s.keep := by
  induction ks generalizing s done with
  | nil => simp [State.pinGo]
  | cons k ks ih => unfold State.pinGo; dsimp only; (repeat' split) <;> simp [ih]

@[simp] theorem State.pinCmd_keep (s : State) (t : Token) : (State.pinCmd s t).keep = s.keep := by
  simp [State.pinCmd, apply_ite State.keep]

/-! ## PagerRows -/

@[simp] theorem State.pageReady_keep (s : State) (n : Tid) (page : Nat) : (State.pageReady s n page).keep = s.keep := by
  unfold State.pageReady; simp

@[simp] theorem State.backingDone_keep (s : State) (n : Tid) (page : Nat) : (State.backingDone s n page).keep = s.keep := by
  unfold State.backingDone; (try dsimp only); (repeat' split) <;> simp

@[simp] theorem State.serve_keep (s : State) (b : Backing) : (State.serve s b).keep = s.keep := by
  unfold State.serve; (try dsimp only); (repeat' split) <;> (try simp) <;> (first | exact State.placePage_keep _ _ _ _ _ _ (by assumption) | exact State.takeFrame_keep _ _ _ _ _ (by assumption))

@[simp] theorem State.giveUp_keep (s : State) (b : Backing) : (State.giveUp s b).keep = s.keep := by
  unfold State.giveUp; simp

@[simp] theorem State.serveWaiting_keep (s : State) (bulk : Bool) : (State.serveWaiting s bulk).keep = s.keep := by
  unfold State.serveWaiting; (try dsimp only); (repeat' split) <;> simp

@[simp] theorem State.scrubDone_keep (s : State) (id : Nat) : (State.scrubDone s id).keep = s.keep := by
  unfold State.scrubDone; (try dsimp only); (repeat' split) <;> simp

@[simp] theorem State.startMig_keep (s : State) (n : Tid) (page : Nat) (kind : MigKind) (bulk h : Bool) : (State.startMig s n page kind bulk h).keep = s.keep := by
  unfold State.startMig; (try dsimp only); (repeat' split) <;> (try simp) <;> (first | exact State.placePage_keep _ _ _ _ _ _ (by assumption) | exact State.takeFrame_keep _ _ _ _ _ (by assumption))

@[simp] theorem State.promote_keep (s : State) (n : Tid) (page : Nat) : (State.promote s n page).keep = s.keep := by
  simp [State.promote, apply_ite State.keep]

@[simp] theorem State.sweepFrame_keep (s : State) (h : Bool) (id : Nat) : (State.sweepFrame s h id).keep = s.keep := by
  unfold State.sweepFrame; (try dsimp only); (repeat' split) <;> simp

@[simp] theorem State.sweepGo_keep (h : Bool) (l : List Nat) (s : State) : (State.sweepGo h l s).keep = s.keep := by
  induction l generalizing s with
  | nil => rfl
  | cons k l ih => unfold State.sweepGo; (try dsimp only); (repeat' split) <;> simp [ih]

@[simp] theorem State.sweep_keep (s : State) (h : Bool) : (State.sweep s h).keep = s.keep := by
  simp [State.sweep, apply_ite State.keep]

@[simp] theorem State.goHome_keep (s : State) (n : Tid) (page : Nat) : (State.goHome s n page).keep = s.keep := by
  simp [State.goHome, apply_ite State.keep]

@[simp] theorem State.passEnd_keep (s : State) (n : Tid) (page : Nat) : (State.passEnd s n page).keep = s.keep := by
  unfold State.passEnd; (try dsimp only); (repeat' split) <;> simp

@[simp] theorem State.migCommit_keep (s : State) (n : Tid) (page : Nat) : (State.migCommit s n page).keep = s.keep := by
  unfold State.migCommit; (try dsimp only); (repeat' split) <;> simp

@[simp] theorem State.ageFlush_keep (s : State) (line : Nat) : (State.ageFlush s line).keep = s.keep := by
  unfold State.ageFlush; (try dsimp only); (repeat' split) <;> simp

@[simp] theorem State.tempRead_keep (s : State) (bulk h : Bool) (set : Nat) (t : Byte) : (State.tempRead s bulk h set t).keep = s.keep := by
  simp [State.tempRead, apply_ite State.keep]

@[simp] theorem State.abortInto_keep (s : State) (bulk : Bool) : (State.abortInto s bulk).keep = s.keep := by
  unfold State.abortInto; (try dsimp only); (repeat' split) <;> simp

@[simp] theorem State.offlineSet_keep (s : State) (f : Fn) (bulk h : Bool) : (State.offlineSet s f bulk h).keep = s.keep := by
  simp [State.offlineSet, apply_ite State.keep]

@[simp] theorem State.offlineClear_keep (s : State) (f : Fn) (bulk h : Bool) : (State.offlineClear s f bulk h).keep = s.keep := by
  simp [State.offlineClear, apply_ite State.keep]

@[simp] theorem State.trained_keep (s : State) (bulk h : Bool) (set : Nat) (ok : Bool) : (State.trained s bulk h set ok).keep = s.keep := by
  simp [State.trained, apply_ite State.keep]

@[simp] theorem State.wipeFlags_keep (s : State) : (State.wipeFlags s).keep = s.keep := by
  rfl

@[simp] theorem State.wipeDone_keep (s : State) (bulk h : Bool) : (State.wipeDone s bulk h).keep = s.keep := by
  simp [State.wipeDone, apply_ite State.keep]

@[simp] theorem State.marginGo_keep (s : State) (f : Fn) (v : W64) : (State.marginGo s f v).keep = s.keep := by
  simp [State.marginGo, apply_ite State.keep]

/-! ## SpliceNet -/

@[simp] theorem State.carry_keep (s : State) (i st : Nat) : (State.carry s i st).keep = s.keep := by
  simp [State.carry, apply_ite State.keep]

@[simp] theorem State.crossing_keep (s : State) (i j : Nat) (words : List W64) : (State.crossing s i j words).keep = s.keep := by
  unfold State.crossing; simp

@[simp] theorem State.failRank_keep (s : State) (i : Nat) (st : Byte) : (State.failRank s i st).keep = s.keep := by
  unfold State.failRank; (try dsimp only); (repeat' split) <;> simp

@[simp] theorem State.dropQueue_keep (s : State) (i : Nat) : (State.dropQueue s i).keep = s.keep := by
  rfl

@[simp] theorem State.discardStaged_keep (s : State) (i : Nat) : (State.discardStaged s i).keep = s.keep := by
  rfl

@[simp] theorem State.failSplice_keep (s : State) (i : Nat) (st : Byte) : (State.failSplice s i st).keep = s.keep := by
  unfold State.failSplice; simp

@[simp] theorem State.rankFailed_keep (s : State) (tok : Nat) (st : Byte) : (State.rankFailed s tok st).keep = s.keep := by
  unfold State.rankFailed; (try dsimp only); (repeat' split) <;> simp

@[simp] theorem State.rankCommitted_keep (s : State) (tok : Nat) : (State.rankCommitted s tok).keep = s.keep := by
  unfold State.rankCommitted; (try dsimp only); (repeat' split) <;> simp

@[simp] theorem State.noticeTaken_keep (s : State) (i : Nat) : (State.noticeTaken s i).keep = s.keep := by
  unfold State.noticeTaken; simp

@[simp] theorem State.spliceNotice_keep (s : State) (i : Nat) : (State.spliceNotice s i).keep = s.keep := by
  simp [State.spliceNotice, apply_ite State.keep]

@[simp] theorem State.drawKey_keep (k : Nat) (s : State) : (State.drawKey k s).2.keep = s.keep := by
  induction k generalizing s with
  | zero => rfl
  | succ k ih => unfold State.drawKey; (try dsimp only); (repeat' split) <;> simp [ih]

@[simp] theorem State.spliceOpenCmd_keep (s : State) (t : Token) : (State.spliceOpenCmd s t).keep = s.keep := by
  simp [State.spliceOpenCmd, apply_ite State.keep]

@[simp] theorem State.closeSplice_keep (s : State) (i : Nat) (status : Byte) : (State.closeSplice s i status).keep = s.keep := by
  unfold State.closeSplice
  dsimp only
  split
  · rfl
  · rw [State.modSplice_keep, foldl_keep _ (by intro s x; simp)]
    (repeat' split) <;> simp

@[simp] theorem State.spliceCompareCmd_keep (s : State) (t : Token) : (State.spliceCompareCmd s t).keep = s.keep := by
  simp [State.spliceCompareCmd, apply_ite State.keep]

@[simp] theorem State.exportTake_keep (s : State) (i : Nat) : (State.exportTake s i).keep = s.keep := by
  unfold State.exportTake; (try dsimp only); (repeat' split) <;> simp

@[simp] theorem State.crossTile_keep (s : State) (i k : Nat) (m32 : Bool) (q : Nat) (parts : List (Sparse VReg)) (full : Sparse VReg) : (State.crossTile s i k m32 q parts full).keep = s.keep := by
  unfold State.crossTile; simp

@[simp] theorem State.tileReduce_keep (s : State) (i : Nat) : (State.tileReduce s i).keep = s.keep := by
  simp [State.tileReduce, apply_ite State.keep]

@[simp] theorem State.takeTile_keep (s : State) (i : Nat) (tile : Sparse VReg) : (State.takeTile s i tile).keep = s.keep := by
  simp [State.takeTile, apply_ite State.keep]

@[simp] theorem State.spliceEnd_keep (s : State) (i : Nat) : (State.spliceEnd s i).keep = s.keep := by
  simp [State.spliceEnd, apply_ite State.keep]

@[simp] theorem State.tileDeliver_keep (s : State) (i : Nat) : (State.tileDeliver s i).keep = s.keep := by
  unfold State.tileDeliver; (try dsimp only); (repeat' split) <;> simp

@[simp] theorem State.compared_keep (s : State) (i : Nat) : (State.compared s i).keep = s.keep := by
  unfold State.compared; (try dsimp only); (repeat' split) <;> simp

@[simp] theorem State.compareDone_keep (s : State) (i : Nat) : (State.compareDone s i).keep = s.keep := by
  simp [State.compareDone, apply_ite State.keep]

@[simp] theorem State.pathFail_keep (s : State) (st : Nat) : (State.pathFail s st).keep = s.keep := by
  simp [State.pathFail, apply_ite State.keep]

end Sys2Proof.Machine
end

