-- ==== Sys2Proof/Laws/KeepTenancy.lean ====
section
/-! SUPPORT. KeepTenancy.lean: closing, finishing, tenancies, dispatch, contexts and kernel start keep the queue and the fuses. -/

namespace Sys2Proof.Machine

/-! ## Close -/

@[simp] theorem State.releaseTok_keep (s : State) (id : Nat) : (State.releaseTok s id).keep = s.keep := by
  simp [State.releaseTok, apply_ite State.keep]

@[simp] theorem State.releaseRec_keep (s : State) (r : CommitRecord) : (State.releaseRec s r).keep = s.keep := by
  unfold State.releaseRec; (try dsimp only); (repeat' split) <;> simp

@[simp] theorem State.unpair_keep (s : State) (n : Tid) : (State.unpair s n).keep = s.keep := by
  unfold State.unpair; simp

@[simp] theorem State.sendNotice_keep (s : State) (b : Nat) (st : Byte) : (State.sendNotice s b st).keep = s.keep := by
  unfold State.sendNotice; simp

@[simp] theorem State.freeCtx_keep (s : State) (n : Tid) (id : Nat) : (State.freeCtx s n id).keep = s.keep := by
  rfl

@[simp] theorem State.writeHeaders_keep (s : State) (t : Token) (hs : List (Nat × BitVec 512)) : (State.writeHeaders s t hs).keep = s.keep := by
  simp [State.writeHeaders, apply_ite State.keep]

@[simp] theorem State.fenceTok_keep (s : State) (id : Nat) : (State.fenceTok s id).keep = s.keep := by
  unfold State.fenceTok; (try dsimp only); (repeat' split) <;> simp

@[simp] theorem State.contain_keep (s : State) (t : Token) (st : Byte) : (State.contain s t st).keep = s.keep := by
  unfold State.contain; (try dsimp only); (repeat' split) <;> simp

@[simp] theorem State.endSaved_keep (s : State) (t : Token) (st : Byte) : (State.endSaved s t st).keep = s.keep := by
  unfold State.endSaved; (try dsimp only); (repeat' split) <;> simp

@[simp] theorem State.failIdle_keep (s : State) (n : Tid) (status : Byte) : (State.failIdle s n status).keep = s.keep := by
  simp [State.failIdle, apply_ite State.keep]

@[simp] theorem State.dropHeld_keep (s : State) (n : Tid) : (State.dropHeld s n).keep = s.keep := by
  simp [State.dropHeld, apply_ite State.keep]

@[simp] theorem State.closeNotice_keep (s : State) (n : Tid) : (State.closeNotice s n).keep = s.keep := by
  simp [State.closeNotice, apply_ite State.keep]

@[simp] theorem State.wipeTen_keep (s : State) (n : Tid) : (State.wipeTen s n).keep = s.keep := by
  unfold State.wipeTen; (try dsimp only); (repeat' split) <;> (repeat (first | (simp; done) | ((try simp); rw [foldl_keep _ (by intro s x; (try dsimp only); (repeat' split) <;> simp [apply_ite State.keep])])))

@[simp] theorem State.closeStep_keep (s : State) (n : Tid) : (State.closeStep s n).keep = s.keep := by
  unfold State.closeStep; (try dsimp only); (repeat' split) <;> simp

@[simp] theorem State.unask_keep (s : State) (n : Tid) : (State.unask s n).keep = s.keep := by
  unfold State.unask; (try dsimp only); (repeat' split) <;> simp

@[simp] theorem State.stopRunning_keep (s : State) (n : Tid) (status : Byte) : (State.stopRunning s n status).keep = s.keep := by
  unfold State.stopRunning
  rw [foldl_keep _ (by intro s x; split <;> simp)]

@[simp] theorem State.beginClose_keep (s : State) (n : Tid) (force : Bool) (status : Byte) (tok : Option Nat) (cause : Option W64) : (State.beginClose s n force status tok cause).keep = s.keep := by
  unfold State.beginClose; (try dsimp only); (repeat' split) <;> (repeat (first | (simp; done) | ((try simp); rw [foldl_keep _ (by intro s x; (try dsimp only); (repeat' split) <;> simp [apply_ite State.keep])])))

@[simp] theorem State.closeDone_keep (s : State) (n : Tid) : (State.closeDone s n).keep = s.keep := by
  unfold State.closeDone; (try dsimp only); (repeat' split) <;> simp

@[simp] theorem State.tenCloseCmd_keep (s : State) (t : Token) : (State.tenCloseCmd s t).keep = s.keep := by
  unfold State.tenCloseCmd; simp

/-! ## Finish -/

@[simp] theorem State.failTok_keep (s : State) (i e : Nat) (r : StopRec) : (State.failTok s i e r).keep = s.keep := by
  unfold State.failTok; (try dsimp only); (repeat' split) <;> simp

@[simp] theorem State.tokenFail_keep (s : State) (i : Nat) : (State.tokenFail s i).keep = s.keep := by
  unfold State.tokenFail; (try dsimp only); (repeat' split) <;> simp

@[simp] theorem State.tokenRetire_keep (s : State) (i : Nat) : (State.tokenRetire s i).keep = s.keep := by
  unfold State.tokenRetire; (try dsimp only); (repeat' split) <;> simp

@[simp] theorem State.wcFence_keep (s : State) (e : Nat) : (State.wcFence s e).keep = s.keep := by
  unfold State.wcFence; (try dsimp only); (repeat' split) <;> simp

@[simp] theorem State.noticeArrives_keep (s : State) (i : Nat) : (State.noticeArrives s i).keep = s.keep := by
  unfold State.noticeArrives; (try dsimp only); (repeat' split) <;> simp

@[simp] theorem State.timeoutExpiry_keep (s : State) (e : Nat) : (State.timeoutExpiry s e).keep = s.keep := by
  unfold State.timeoutExpiry; (try dsimp only); (repeat' split) <;> simp

/-! ## Tenancy -/

@[simp] theorem State.newCred_keep (s : State) (t : Token) : (State.newCred s t).keep = s.keep := by
  unfold State.newCred; simp

@[simp] theorem State.giveTen_keep (s : State) (f : Fn) : (State.giveTen s f).keep = s.keep := by
  rfl

@[simp] theorem State.tenCreateCmd_keep (s : State) (t : Token) : (State.tenCreateCmd s t).keep = s.keep := by
  simp [State.tenCreateCmd, apply_ite State.keep]

@[simp] theorem State.tenSetCmd_keep (s : State) (t : Token) : (State.tenSetCmd s t).keep = s.keep := by
  simp [State.tenSetCmd, apply_ite State.keep]

@[simp] theorem State.orphan_keep (s : State) (n : Tid) : (State.orphan s n).keep = s.keep := by
  unfold State.orphan; simp

@[simp] theorem State.pfEvent_keep (s : State) : (State.pfEvent s).keep = s.keep := by
  unfold State.pfEvent; (try dsimp only); (repeat' split) <;> simp

@[simp] theorem State.loseFn_keep (s : State) (f : Fn) : (State.loseFn s f).keep = s.keep := by
  simp [State.loseFn, apply_ite State.keep]

@[simp] theorem State.graceEnd_keep (s : State) (n : Tid) : (State.graceEnd s n).keep = s.keep := by
  simp [State.graceEnd, apply_ite State.keep]

@[simp] theorem State.giveHeld_keep (s : State) (n : Tid) (f : Fn) : (State.giveHeld s n f).1.keep = s.keep := by
  unfold State.giveHeld; simp

@[simp] theorem State.reattachCmd_keep (s : State) (t : Token) : (State.reattachCmd s t).keep = s.keep := by
  simp [State.reattachCmd, apply_ite State.keep]

@[simp] theorem State.keyRegisterCmd_keep (s : State) (t : Token) : (State.keyRegisterCmd s t).keep = s.keep := by
  simp [State.keyRegisterCmd, apply_ite State.keep]

@[simp] theorem State.primeLoadCmd_keep (s : State) (t : Token) (bs : List Byte) : (State.primeLoadCmd s t bs).keep = s.keep := by
  unfold State.primeLoadCmd; (try dsimp only); (repeat' split) <;> simp

@[simp] theorem State.chainDefineCmd_keep (s : State) (t : Token) (bs : List Byte) : (State.chainDefineCmd s t bs).keep = s.keep := by
  unfold State.chainDefineCmd; (try dsimp only); (repeat' split) <;> simp

@[simp] theorem State.closeFatally_keep (s : State) (n : Tid) (st : Byte) : (State.closeFatally s n st).keep = s.keep := by
  unfold State.closeFatally; (try dsimp only); (repeat' split) <;> simp

@[simp] theorem State.tenFatal_keep (s : State) (n : Tid) (table : Byte) (ecc : Bool) : (State.tenFatal s n table ecc).keep = s.keep := by
  simp [State.tenFatal, apply_ite State.keep]

/-! ## Admit -/

@[simp] theorem State.readHeaders_keep (s : State) (t : Token) (slots : List Nat) : (State.readHeaders s t slots).1.keep = s.keep := by
  unfold State.readHeaders; (try dsimp only); (repeat' split) <;> (try simp) <;> (try rw [foldl_keepOf Prod.fst _ (by intro x a; (try dsimp only); (repeat' split) <;> simp [apply_ite State.keep])]) <;> (try simp)

@[simp] theorem State.planFor_keep (s : State) (t : Token) (d : BitVec 512) (keys : List (BitVec 32)) (force : Option Byte) : (State.planFor s t d keys force).1.keep = s.keep := by
  unfold State.planFor; simp

@[simp] theorem State.plan_keep (s : State) (t : Token) : (State.plan s t).1.keep = s.keep := by
  unfold State.plan; (try dsimp only); (repeat' split) <;> simp

@[simp] theorem State.refuse_keep (s : State) (t : Token) (p : Plan) (st : Byte) : (State.refuse s t p st).keep = s.keep := by
  simp [State.refuse, apply_ite State.keep]

/-! ## Context -/

@[simp] theorem State.writeImage_keep (s : State) (i k : Nat) (t : Token) : (State.writeImage s i k t).keep = s.keep := by
  unfold State.writeImage; simp

@[simp] theorem State.saveRefused_keep (s : State) : (State.saveRefused s).keep = s.keep := by
  rfl

@[simp] theorem State.readImage_keep (s : State) (n : Tid) (k : Nat) : (State.readImage s n k).1.keep = s.keep := by
  unfold State.readImage; simp

@[simp] theorem State.readScratch_keep (s : State) (n : Tid) (k : Nat) (foldSafe : Bool) : (State.readScratch s n k foldSafe).1.keep = s.keep := by
  unfold State.readScratch; (try dsimp only); (repeat' split) <;> (try simp) <;> (try rw [foldl_keepOf Prod.fst _ (by intro x a; (try dsimp only); (repeat' split) <;> simp [apply_ite State.keep])]) <;> (try simp)

/-! ## Sched -/

@[simp] theorem State.refuseKernel_keep (s : State) (x : Fetched) (st : Byte) (detail : Nat) (pre : State → Token → State)
    (h : ∀ s t, (pre s t).keep = s.keep) : (s.refuseKernel x st detail pre).keep = s.keep := by
  unfold State.refuseKernel
  simp [h]

@[simp] theorem State.poisonSets_keep (s : State) (t : Token) : (State.poisonSets s t).keep = s.keep := by
  unfold State.poisonSets; (try dsimp only); (repeat' split) <;> simp

@[simp] theorem State.makeTokens_keep (s : State) (x : Fetched) (rs : List (List Byte)) : (State.makeTokens s x rs).keep = s.keep := by
  rfl

@[simp] theorem State.kernelCmd_keep (s : State) (c : Nat) : (State.kernelCmd s c).keep = s.keep := by
  unfold State.kernelCmd; (try dsimp only); (repeat' split) <;> simp

@[simp] theorem State.wakeSaved_keep (s : State) : (State.wakeSaved s).keep = s.keep := by
  rfl

@[simp] theorem State.withdrawFor_keep (s : State) (e : Nat) : (State.withdrawFor s e).keep = s.keep := by
  unfold State.withdrawFor; simp

@[simp] theorem State.dispatch_keep (s : State) (t : Token) (i : Nat) (gs : List KeySig) (srcs dests : List (Nat × BitVec 512)) (flagged : Bool) : (State.dispatch s t i gs srcs dests flagged).keep = s.keep := by
  unfold State.dispatch; simp

@[simp] theorem State.addGroup_keep (s : State) (n : Tid) (h : Bool) (g : Gathered) : (State.addGroup s n h g).keep = s.keep := by
  unfold State.addGroup; (try dsimp only); (repeat' split) <;> simp

@[simp] theorem State.formGroups_keep (s : State) (n : Tid) (h : Bool) (ts : List KeyTok) : (State.formGroups s n h ts).keep = s.keep := by
  unfold State.formGroups; simp

@[simp] theorem State.takeMembers_keep (s : State) (h : Bool) (lead : Nat) (l : List Token) (ms : List KeyTok) :
    (s.takeMembers h lead l ms).1.keep = s.keep := by
  induction l generalizing s ms with
  | nil => rfl
  | cons k l ih => unfold State.takeMembers; (try dsimp only); (repeat' split) <;> simp [ih]

theorem State.plans_keep (l : List Token) (x : State × List (Token × Plan)) :
    (l.foldl (fun r t => ((r.1.plan t).1, r.2 ++ [(t, (r.1.plan t).2)])) x).1.keep = x.1.keep :=
  foldl_keepOf Prod.fst _ (by intro x a; simp) l x

@[simp] theorem State.joinGroups_keep (s : State) (n : Tid) (h : Bool) (others : List Token) (ms : List KeyTok) : (State.joinGroups s n h others ms).keep = s.keep := by
  unfold State.joinGroups; (try dsimp only); (repeat' split) <;> simp

@[simp] theorem State.dispatchRanks_keep (s : State) (i : Nat) (ts : List Token) (bs : List Nat) (others : List Token) :
    (State.dispatchRanks s i ts bs others).keep = s.keep := by
  unfold State.dispatchRanks
  dsimp only
  split
  · rw [foldl_keep _ (by intro s x; simp), State.modSplice_keep, State.plans_keep]
  · split
    · exact State.plans_keep _ _
    · simp only [List.foldl_cons, List.foldl_nil, State.joinGroups_keep, State.modSplice_keep]
      rw [foldl_keep _ (by intro s x; simp)]
      exact State.plans_keep _ _

@[simp] theorem State.failRanks_keep (s : State) (i : Nat) : (State.failRanks s i).keep = s.keep := by
  simp [State.failRanks, apply_ite State.keep]

@[simp] theorem State.spliceCloseCmd_keep (s : State) (t : Token) : (State.spliceCloseCmd s t).keep = s.keep := by
  simp [State.spliceCloseCmd, apply_ite State.keep]

@[simp] theorem State.request_keep (s : State) (t : Token) (l : List (Nat × Token)) : (s.request t l).keep = s.keep := by
  induction l generalizing s with
  | nil => rfl
  | cons k l ih => unfold State.request; (try dsimp only); (repeat' split) <;> simp [ih]

@[simp] theorem State.askPreempt_keep (s : State) (t : Token) (foldSafe : Bool) : (State.askPreempt s t foldSafe).keep = s.keep := by
  simp [State.askPreempt, apply_ite State.keep]

@[simp] theorem State.place_keep (s : State) (t : Token) (p : Plan) (st : Byte) (i : Nat) (others : List Token) : (State.place s t p st i others).keep = s.keep := by
  simp [State.place, apply_ite State.keep]

@[simp] theorem State.failSaved_keep (s : State) (t : Token) (st : Byte) : (State.failSaved s t st).keep = s.keep := by
  unfold State.failSaved; simp

@[simp] theorem State.placeSaved_keep (s : State) (t : Token) (i : Nat) : (State.placeSaved s t i).keep = s.keep := by
  unfold State.placeSaved; simp

@[simp] theorem State.consider_keep (s : State) (t : Token) (c : List Token) : (State.consider s t c).1.keep = s.keep := by
  unfold State.consider; (try dsimp only); (repeat' split) <;> simp

@[simp] theorem State.considerAll_keep (c l : List Token) (s : State) : (State.considerAll c l s).1.keep = s.keep := by
  induction l generalizing s with
  | nil => rfl
  | cons k l ih => unfold State.considerAll; (try dsimp only); (repeat' split) <;> simp [ih]

@[simp] theorem State.decideAt_keep (s : State) (p : Nat) : (State.decideAt s p).1.keep = s.keep := by
  unfold State.decideAt; simp

@[simp] theorem State.decideFrom_keep (l : List Nat) (s : State) : (State.decideFrom l s).keep = s.keep := by
  induction l generalizing s with
  | nil => rfl
  | cons k l ih => unfold State.decideFrom; (try dsimp only); (repeat' split) <;> simp [ih]

/-! ## Kernel -/

@[simp] theorem State.startFail_keep (s : State) (i : Nat) (st : Byte) (at' : Option FaultAddr) : (State.startFail s i st at').keep = s.keep := by
  simp [State.startFail, apply_ite State.keep]

@[simp] theorem State.loadSents_keep (s : State) (b : Braid) (t : Token) (d : BitVec 512) : (State.loadSents s b t d).1.keep = s.keep := by
  unfold State.loadSents; (try dsimp only); (repeat' split) <;> simp

@[simp] theorem State.loadAux_keep (s : State) (t : Token) (d : BitVec 512) : (State.loadAux s t d).1.keep = s.keep := by
  unfold State.loadAux; (try dsimp only); (repeat' split) <;> simp

@[simp] theorem State.loadPresent_keep (s : State) (t : Token) (d : BitVec 512) (a : AuxD) : (State.loadPresent s t d a).1.keep = s.keep := by
  unfold State.loadPresent; (try dsimp only); (repeat' split) <;> simp

@[simp] theorem State.startChecks_keep (s : State) (i : Nat) (t : Token) (more : Nat) : (State.startChecks s i t more).1.keep = s.keep := by
  unfold State.startChecks; (try dsimp only); (repeat' split) <;> simp

@[simp] theorem State.armMembers_keep (s : State) (i : Nat) (ps : List (BitVec 32)) : (State.armMembers s i ps).keep = s.keep := by
  rfl

@[simp] theorem State.freshStart_keep (s : State) (i : Nat) (t : Token) : (State.freshStart s i t).keep = s.keep := by
  unfold State.freshStart; (try dsimp only); (repeat' split) <;> simp

@[simp] theorem State.restoreGroups_keep (s : State) (i : Nat) (t : Token) (x : Loaded) (m : Image) : (State.restoreGroups s i t x m).keep = s.keep := by
  unfold State.restoreGroups; rw [foldl_keep _ (by intro s x; simp)]

@[simp] theorem State.restoreStart_keep (s : State) (i : Nat) (t : Token) (k : Nat) : (State.restoreStart s i t k).keep = s.keep := by
  unfold State.restoreStart; (try dsimp only); (repeat' split) <;> simp

@[simp] theorem State.kernelStart_keep (s : State) (i : Nat) : (State.kernelStart s i).keep = s.keep := by
  unfold State.kernelStart; (try dsimp only); (repeat' split) <;> simp

@[simp] theorem State.beginSave_keep (s : State) (i k : Nat) (t : Token) : (State.beginSave s i k t).keep = s.keep := by
  simp [State.beginSave, apply_ite State.keep]

@[simp] theorem State.hitchEnd_keep (s : State) (i : Nat) : (State.hitchEnd s i).keep = s.keep := by
  unfold State.hitchEnd; (try dsimp only); (repeat' split) <;> simp

@[simp] theorem State.dispatchOn_keep (s : State) (e i : Nat) : (State.dispatchOn s e i).keep = s.keep := by
  unfold State.dispatchOn; (try dsimp only); (repeat' split) <;> simp

@[simp] theorem State.saveStopped_keep (s : State) (i : Nat) (t : Token) (st : Byte) : (State.saveStopped s i t st).keep = s.keep := by
  unfold State.saveStopped; simp

@[simp] theorem State.saveDone_keep (s : State) (i : Nat) : (State.saveDone s i).keep = s.keep := by
  unfold State.saveDone; (try dsimp only); (repeat' split) <;> simp

@[simp] theorem State.exportImage_keep (s : State) (n : Tid) (k dest records : Nat) (key : BitVec 256) : (State.exportImage s n k dest records key).1.keep = s.keep := by
  unfold State.exportImage; (try dsimp only); (repeat' split) <;> (try simp) <;> (try rw [foldl_keepOf Prod.fst _ (by intro x a; (try dsimp only); (repeat' split) <;> simp [apply_ite State.keep])]) <;> (try simp)

@[simp] theorem State.ctxExportCmd_keep (s : State) (t : Token) : (State.ctxExportCmd s t).keep = s.keep := by
  unfold State.ctxExportCmd; (try dsimp only); (repeat' split) <;> simp

@[simp] theorem State.openRecords_keep (s : State) (n : Tid) (src records : Nat) (key : BitVec 256) : (State.openRecords s n src records key).1.keep = s.keep := by
  unfold State.openRecords; (try dsimp only); (repeat' split) <;> (try simp) <;> (try rw [foldl_keepOf Prod.fst _ (by intro x a; (try dsimp only); (repeat' split) <;> simp [apply_ite State.keep])]) <;> (try simp)

@[simp] theorem State.importToken_keep (s : State) (t : Token) (m : Image) (d : BitVec 512) (k : Nat) : (State.importToken s t m d k).keep = s.keep := by
  rfl

@[simp] theorem State.importImage_keep (s : State) (t : Token) (k : Nat) (ps : List (List Byte)) : (State.importImage s t k ps).keep = s.keep := by
  unfold State.importImage; (try dsimp only); (repeat' split) <;> simp

@[simp] theorem State.ctxImportCmd_keep (s : State) (t : Token) : (State.ctxImportCmd s t).keep = s.keep := by
  unfold State.ctxImportCmd; (try dsimp only); (repeat' split) <;> simp

end Sys2Proof.Machine
end

