-- ==== Sys2Proof/Laws/KeepPlatform.lean ====
section
/-! SUPPORT. KeepPlatform.lean: security services, self-test, resets, management, power and belay keep the queue and the fuses. -/

namespace Sys2Proof.Machine

/-- What an operation keeps, it keeps of the queue. -/
theorem State.pending_of_keep {s t : State} (h : t.keep = s.keep) : t.pending = s.pending := congrArg Prod.fst h

/-! ## Sec -/

@[simp] theorem State.free64_keep (s : State) : (State.free64 s).2.keep = s.keep := by
  rfl

@[simp] theorem State.idSign_keep (s : State) (m : List Byte) : (State.idSign s m).2.keep = s.keep := by
  rfl

@[simp] theorem State.secCmd_keep (s : State) (e v : Nat) (run : State → Token → State)
    (h : ∀ s t, (run s t).keep = s.keep) : (s.secCmd e v run).keep = s.keep := by
  unfold State.secCmd
  split <;> simp [h]

@[simp] theorem State.viaEngine_keep (s : State) (t : Token) (bs : List Byte) (run : State → Token → List Byte → State)
    (h : ∀ s t b, (run s t b).keep = s.keep) : (State.viaEngine s t bs run).keep = s.keep := by
  unfold State.viaEngine
  (repeat' split) <;> simp [h]

@[simp] theorem State.attestCmd_keep (s : State) (t : Token) (buf : List Byte) : (State.attestCmd s t buf).keep = s.keep := by
  unfold State.attestCmd; simp

@[simp] theorem State.chainGetCmd_keep (s : State) (t : Token) : (State.chainGetCmd s t).keep = s.keep := by
  unfold State.chainGetCmd; simp

@[simp] theorem State.keyRecord_keep (s : State) (t : Token) (cs : List TableChange) : (State.keyRecord s t cs).keep = s.keep := by
  unfold State.keyRecord; simp

@[simp] theorem State.chanAnswer_keep (s : State) (t : Token) (k : Nat) (c : Curve) (buf : List Byte) : (State.chanAnswer s t k c buf).keep = s.keep := by
  unfold State.chanAnswer; (try dsimp only); (repeat' split) <;> simp

@[simp] theorem State.chanServe_keep (s : State) (t : Token) (bs : List Byte) : (State.chanServe s t bs).keep = s.keep := by
  unfold State.chanServe; (try dsimp only); (repeat' split) <;> simp

@[simp] theorem State.chanOpenCmd_keep (s : State) (t : Token) (buf : HostBuf) : (State.chanOpenCmd s t buf).keep = s.keep := by
  unfold State.chanOpenCmd; (try dsimp only); (repeat' split) <;> simp

@[simp] theorem State.chanMsgCmd_keep (s : State) (t : Token) (bs : List Byte) : (State.chanMsgCmd s t bs).keep = s.keep := by
  unfold State.chanMsgCmd; (try dsimp only); (repeat' split) <;> simp

@[simp] theorem State.chanMsg_keep (s : State) (e : Nat) (buf : HostBuf) (sel : Nat → Bool) :
    (s.chanMsg e buf sel).keep = s.keep := by
  unfold State.chanMsg
  refine (apply_ite State.keep _ _ _).trans ?_
  rw [State.secCmd_keep, ite_self]
  · intro s t; split
    · simp
    · exact State.withBuf_keep _ _ _ _ (fun _ => State.chanMsgCmd_keep _ _ _)

@[simp] theorem State.chanCloseCmd_keep (s : State) (t : Token) : (State.chanCloseCmd s t).keep = s.keep := by
  simp [State.chanCloseCmd, apply_ite State.keep]

@[simp] theorem State.authEnd_keep (s : State) (id : Nat) (c : Comp) : (State.authEnd s id c).keep = s.keep := by
  unfold State.authEnd; simp

@[simp] theorem State.authServe_keep (run : State → Token → List Byte → State) (h : ∀ s t b, (run s t b).keep = s.keep) (s : State)
    (t : Token) (bs : List Byte) : (State.authServe run s t bs).keep = s.keep := by
  unfold State.authServe; (repeat' split) <;> simp [h]

@[simp] theorem State.authCmd_keep (s : State) (e v : Nat) (buf : HostBuf) (run : State → Token → List Byte → State)
    (h : ∀ s t b, (run s t b).keep = s.keep) : (s.authCmd e v buf run).keep = s.keep := by
  unfold State.authCmd
  split
  · rfl
  · refine State.secCmd_keep _ _ _ _ ?_
    intro s t; (repeat' split) <;> simp [h]

@[simp] theorem State.makeIdentity_keep (s : State) : (State.makeIdentity s).keep = s.keep := by
  simp [State.makeIdentity]

@[simp] theorem State.programWord_pending (s : State) (k : Nat) : (s.programWord k).pending = s.pending := rfl

@[simp] theorem State.forceClose_keep (s : State) (n : Tid) : (State.forceClose s n).keep = s.keep := by
  unfold State.forceClose; (try dsimp only); (repeat' split) <;> (try simp only [keep_mk, keep_eta]) <;> (try rw [foldl_keep _ (by intro s x; (try dsimp only); (repeat' split) <;> simp [apply_ite State.keep])]) <;> simp

@[simp] theorem State.forceAll_keep (s : State) : (State.forceAll s).keep = s.keep := by
  unfold State.forceAll; simp

@[simp] theorem State.lcReady_keep (s : State) (target : Nat) (opKey : BitVec 512) : (State.lcReady s target opKey).keep = s.keep := by
  simp [State.lcReady, apply_ite State.keep]

@[simp] theorem State.lcGo_pending (s : State) (k : Nat) (d : BitVec 512) : (s.lcGo k d).pending = s.pending := by
  unfold State.lcGo
  dsimp only
  rw [State.pending_of_keep (State.newNonce_keep _)]
  show ((s.lcReady k d).programWord k).pending = _
  rw [State.programWord_pending, State.pending_of_keep (State.lcReady_keep _ _ _)]

@[simp] theorem State.lcStep_pending (s : State) (w : LcWait) : (s.lcStep w).pending = s.pending := by
  unfold State.lcStep
  dsimp only
  split
  · rw [State.lcGo_pending, State.pending_of_keep (State.forceAll_keep _)]
  · exact State.pending_of_keep (State.forceAll_keep _)

@[simp] theorem State.closeEnd_pending (s : State) (n : Tid) : (s.closeEnd n).pending = s.pending := by
  unfold State.closeEnd
  dsimp only
  split
  · rw [State.lcStep_pending, State.pending_of_keep (State.closeDone_keep _ _)]
  · exact State.pending_of_keep (State.closeDone_keep _ _)

@[simp] theorem State.lcAdvanceCmd_pending (s : State) (t : Token) (b : List Byte) : (s.lcAdvanceCmd t b).pending = s.pending := by
  unfold State.lcAdvanceCmd
  dsimp only
  (repeat' split)
  · exact State.pending_of_keep (State.authEnd_keep _ _ _)
  · exact State.pending_of_keep (State.authEnd_keep _ _ _)
  · exact State.lcStep_pending _ _

@[simp] theorem State.bbxClearCmd_keep (s : State) (t : Token) (b : List Byte) : (State.bbxClearCmd s t b).keep = s.keep := by
  simp [State.bbxClearCmd, apply_ite State.keep]

@[simp] theorem State.debugUnlockCmd_keep (s : State) (t : Token) (b : List Byte) : (State.debugUnlockCmd s t b).keep = s.keep := by
  simp [State.debugUnlockCmd, apply_ite State.keep]

@[simp] theorem State.trngUp_keep (s : State) (ws : List (BitVec 1024)) : (State.trngUp s ws).keep = s.keep := by
  simp [State.trngUp, apply_ite State.keep]

@[simp] theorem State.sourceReport_keep (s : State) : (State.sourceReport s).keep = s.keep := by
  unfold State.sourceReport; (try dsimp only); (repeat' split) <;> simp

@[simp] theorem State.entropyFail_keep (s : State) (ws : List (BitVec 1024)) : (State.entropyFail s ws).keep = s.keep := by
  simp [State.entropyFail, apply_ite State.keep]

@[simp] theorem State.secServe_pending (s : State) (t : Token) (bs : List Byte) : (s.secServe t bs).pending = s.pending := by
  unfold State.secServe
  split
  · exact State.pending_of_keep (State.attestCmd_keep _ _ _)
  · unfold State.authServe
    (repeat' split)
    · exact State.pending_of_keep (State.finish_keep _ _ _)
    · exact State.pending_of_keep (State.authEnd_keep _ _ _)
    · exact State.lcAdvanceCmd_pending _ _ _
  · exact State.pending_of_keep (State.authServe_keep _ (fun _ _ _ => State.bbxClearCmd_keep _ _ _) _ _ _)
  · exact State.pending_of_keep (State.authServe_keep _ (fun _ _ _ => State.debugUnlockCmd_keep _ _ _) _ _ _)
  · exact State.pending_of_keep (State.chanServe_keep _ _ _)

/-! ## Bist -/

@[simp] theorem State.resetBraid_keep (s : State) (i : Nat) : (State.resetBraid s i).keep = s.keep := by
  rfl

@[simp] theorem State.byteField_keep (s : State) (n : Nat) : (State.byteField s n).2.keep = s.keep := by
  simp [State.byteField, apply_ite Prod.snd, apply_ite State.keep]

@[simp] theorem State.testedUnit_keep (s : State) (u : Nat) (res : BitVec 2) (held fold repaired : Bool) (rows cols : Byte) (sig : W64) :
    (State.testedUnit s u res held fold repaired rows cols sig).keep = s.keep := by
  unfold State.testedUnit; simp

@[simp] theorem State.braidTested_keep (s : State) (r : BraidResult) (up : Bool) : (State.braidTested s r up).keep = s.keep := by
  unfold State.braidTested; simp

@[simp] theorem State.testSpeed_keep (s : State) (i : Nat) : (State.testSpeed s i).keep = s.keep := by
  unfold State.testSpeed; (try dsimp only); (repeat' split) <;> simp

@[simp] theorem State.admitWave_keep (s : State) : (State.admitWave s).keep = s.keep := by
  unfold State.admitWave; (try dsimp only); (repeat' split) <;> simp

@[simp] theorem State.waveDone_keep (s : State) (rs : List BraidResult) : (State.waveDone s rs).keep = s.keep := by
  simp [State.waveDone, apply_ite State.keep]

@[simp] theorem State.unitFails_keep (s : State) (u : Nat) : (State.unitFails s u).keep = s.keep := by
  simp [State.unitFails, apply_ite State.keep]

@[simp] theorem State.unitReady_keep (s : State) (u : Nat) : (State.unitReady s u).keep = s.keep := by
  simp [State.unitReady, apply_ite State.keep]

@[simp] theorem State.coresUp_keep (s : State) : (State.coresUp s).keep = s.keep := by
  unfold State.coresUp; (try dsimp only); (repeat' split) <;> simp

@[simp] theorem State.unitUp_keep (s : State) (u : Nat) : (State.unitUp s u).keep = s.keep := by
  unfold State.unitUp
  dsimp only
  (repeat' split) <;> rw [State.coresUp_keep] <;> (try rw [keep_mk, keep_eta]) <;>
    (try rw [foldl_keep _ (by intro s x; simp [apply_ite State.keep])]) <;> simp

@[simp] theorem State.unitDone_keep (s : State) (u : Nat) (r : UnitResult) : (State.unitDone s u r).keep = s.keep := by
  simp [State.unitDone, apply_ite State.keep]

@[simp] theorem State.saveWords_keep (s : State) (base : Nat) (key : BitVec 512) (sp : Sparse (BitVec 128)) : (State.saveWords s base key sp).keep = s.keep := by
  rfl

@[simp] theorem State.bistReqCmd_keep (s : State) (t : Token) : (State.bistReqCmd s t).keep = s.keep := by
  unfold State.bistReqCmd; (try dsimp only); (repeat' split) <;> simp

@[simp] theorem State.infieldDone_keep (s : State) (r : BraidResult) : (State.infieldDone s r).keep = s.keep := by
  unfold State.infieldDone; (try dsimp only); (repeat' split) <;> simp

@[simp] theorem State.pllLoss_keep (s : State) (i : Nat) : (State.pllLoss s i).keep = s.keep := by
  unfold State.pllLoss; (try dsimp only); (repeat' split) <;> simp

@[simp] theorem State.imageSent_keep (s : State) (r : Relock) : (State.imageSent s r).keep = s.keep := by
  unfold State.imageSent; (try dsimp only); (repeat' split) <;> simp

@[simp] theorem State.sendImages_keep (s : State) : (State.sendImages s).keep = s.keep := by
  unfold State.sendImages; (try dsimp only); (repeat' split) <;> simp

@[simp] theorem State.pllRelock_keep (s : State) (r : Relock) : (State.pllRelock s r).keep = s.keep := by
  simp [State.pllRelock, apply_ite State.keep]

@[simp] theorem State.strandFail_keep (s : State) (st : Nat) : (State.strandFail s st).keep = s.keep := by
  simp [State.strandFail, apply_ite State.keep]

/-! ## Bringup -/

@[simp] theorem State.eraseIdentity_keep (s : State) : (State.eraseIdentity s).keep = s.keep := by
  simp [State.eraseIdentity, apply_ite State.keep]

@[simp] theorem State.unitsReset_keep (s : State) : (State.unitsReset s).keep = s.keep := by
  rfl

@[simp] theorem State.logReset_keep (s : State) (kind : BitVec 3) : (State.logReset s kind).keep = s.keep := by
  unfold State.logReset; simp

@[simp] theorem State.powerOn_keep (s : State) (straps : BitVec 4) : (State.powerOn s straps).keep = s.keep := by
  simp [State.powerOn, apply_ite State.keep]

@[simp] theorem State.inputLoss_keep (s : State) : (State.inputLoss s).keep = s.keep := by
  simp [State.inputLoss, apply_ite State.keep]

@[simp] theorem State.packageReset_keep (s : State) : (State.packageReset s).keep = s.keep := by
  unfold State.packageReset; (try dsimp only); (repeat' split) <;> simp

@[simp] theorem State.pkgReset_keep (s : State) (f : Fn) : (State.pkgReset s f).keep = s.keep := by
  simp [State.pkgReset, apply_ite State.keep]

@[simp] theorem State.secDomainReset_keep (s : State) : (State.secDomainReset s).keep = s.keep := by
  unfold State.secDomainReset; simp

@[simp] theorem State.secReset_keep (s : State) (f : Fn) : (State.secReset s f).keep = s.keep := by
  simp [State.secReset, apply_ite State.keep]

@[simp] theorem State.packets_keep (s : State) (n k : Nat) (bs : List Byte) : (s.packets n k bs).keep = s.keep := by
  induction n generalizing s k bs with
  | zero => rfl
  | succ n ih => unfold State.packets; simp [ih]

@[simp] theorem State.message_keep (s : State) (bs : List Byte) : (State.message s bs).keep = s.keep := by
  unfold State.message; simp

@[simp] theorem State.respond_keep (s : State) (cmd : Byte) (bs : List Byte) : (State.respond s cmd bs).keep = s.keep := by
  unfold State.respond; simp

@[simp] theorem State.fwBegin_keep (s : State) (len : Nat) : (State.fwBegin s len).keep = s.keep := by
  simp [State.fwBegin, apply_ite State.keep]

@[simp] theorem State.fwData_keep (s : State) (off : Nat) (data : List Byte) : (State.fwData s off data).keep = s.keep := by
  simp [State.fwData, apply_ite State.keep]

@[simp] theorem State.fwEnd_keep (s : State) : (State.fwEnd s).keep = s.keep := by
  simp [State.fwEnd, apply_ite State.keep]

@[simp] theorem State.fwStatus_keep (s : State) : (State.fwStatus s).keep = s.keep := by
  simp [State.fwStatus, apply_ite State.keep]

@[simp] theorem State.getRdy_keep (s : State) : (State.getRdy s).keep = s.keep := by
  simp [State.getRdy, apply_ite State.keep]

@[simp] theorem State.completeWords_pending (s : State) : s.completeWords.pending = s.pending := rfl

@[simp] theorem State.fwFail_keep (s : State) (c : Byte) : (State.fwFail s c).keep = s.keep := by
  rfl

@[simp] theorem State.fwPass_pending (s : State) (v : Verified) (r : BootConfirm) : (s.fwPass v r).pending = s.pending := rfl

@[simp] theorem State.secAgain_keep (s : State) : (State.secAgain s).keep = s.keep := by
  simp [State.secAgain]

@[simp] theorem State.firstVerified_pending (s : State) : s.firstVerified.pending = s.pending := by
  unfold State.firstVerified
  (repeat' split) <;> first | rfl | exact State.pending_of_keep (by simp)

@[simp] theorem State.restVerified_pending (s : State) (r : BootConfirm) : (s.restVerified r).pending = s.pending := by
  unfold State.restVerified
  (repeat' split) <;> first | rfl | exact State.pending_of_keep (by simp)

@[simp] theorem State.fwVerified_pending (s : State) (r : BootConfirm) : (s.fwVerified r).pending = s.pending := by
  unfold State.fwVerified
  (repeat' split) <;> simp

@[simp] theorem State.perstRelease_keep (s : State) (p : PciePort) : (State.perstRelease s p).keep = s.keep := by
  simp [State.perstRelease, apply_ite State.keep]

@[simp] theorem State.setLink_keep (s : State) (p : PciePort) (l : Option PcieLink) : (State.setLink s p l).keep = s.keep := by
  rfl

@[simp] theorem State.pcieUp_keep (s : State) (u : PcieUp) : (State.pcieUp s u).keep = s.keep := by
  unfold State.pcieUp; (try dsimp only); (repeat' split) <;> simp

@[simp] theorem State.bulkAgain_keep (s : State) (p : Port) : (State.bulkAgain s p).keep = s.keep := by
  unfold State.bulkAgain; (try dsimp only); (repeat' split) <;> simp

@[simp] theorem State.cfgLoad_keep (s : State) : (State.cfgLoad s).keep = s.keep := by
  simp [State.cfgLoad, apply_ite State.keep]

@[simp] theorem State.clearMsix_keep (s : State) (ts : List Nat) : (State.clearMsix s ts).keep = s.keep := by
  unfold State.clearMsix; simp

@[simp] theorem State.resetRings_keep (s : State) (f : Fn) : (State.resetRings s f).keep = s.keep := by
  unfold State.resetRings
  rw [State.modFn_keep, foldl_keep]
  intro s q; exact State.modSq_keep _ _ _ _

@[simp] theorem State.ctrlReset_keep (s : State) : (State.ctrlReset s).keep = s.keep := by
  simp [State.ctrlReset, apply_ite State.keep]

@[simp] theorem State.flr_keep (s : State) (f : Fn) : (State.flr s f).keep = s.keep := by
  unfold State.flr
  split
  · rfl
  · rw [foldl_keep _ (by intro s x; simp), State.loseFn_keep, foldl_keep _ (by intro s q; exact State.modSq_keep _ _ _ _), State.resetRings_keep,
      State.returnUnacked_keep, State.clearMsix_keep]

@[simp] theorem State.vfClear_keep (s : State) : (State.vfClear s).keep = s.keep := by
  simp [State.vfClear, apply_ite State.keep]

@[simp] theorem State.bulkReset_keep (s : State) (p : Port) : (State.bulkReset s p).keep = s.keep := by
  simp [State.bulkReset, apply_ite State.keep]

/-! ## Mgmt -/

@[simp] theorem State.mctpAnswer_keep (s : State) (cmd : Byte) (f : State → State × List Byte) (h : (f s).1.keep = s.keep) :
    (s.mctpAnswer cmd f).keep = s.keep := by
  unfold State.mctpAnswer; split <;> simp [h]

@[simp] theorem State.setEid_keep (s : State) (eid sender : Byte) : (State.setEid s eid sender).1.keep = s.keep := by
  unfold State.setEid; (try dsimp only); (repeat' split) <;> simp

@[simp] theorem State.spdmSend_keep (s : State) (bs : List Byte) : (State.spdmSend s bs).keep = s.keep := by
  unfold State.spdmSend; simp

@[simp] theorem State.spdm_keep (s : State) (ready : Mgmt → Bool) (f : State → State × List Byte) (h : (f s).1.keep = s.keep) :
    (s.spdm ready f).keep = s.keep := by
  unfold State.spdm; (repeat' split) <;> simp [h]

@[simp] theorem State.getVersion_keep (s : State) : (State.getVersion s).1.keep = s.keep := by
  rfl

@[simp] theorem State.getCaps_keep (s : State) : (State.getCaps s).1.keep = s.keep := by
  rfl

@[simp] theorem State.negotiate_keep (s : State) (o : SpdmOffer) : (State.negotiate s o).1.keep = s.keep := by
  rfl

@[simp] theorem State.noteB_keep (s : State) (req rsp : List Byte) : (State.noteB s req rsp).1.keep = s.keep := by
  rfl

@[simp] theorem State.getCert_keep (s : State) (slot : BitVec 4) (off len : Nat) : (State.getCert s slot off len).1.keep = s.keep := by
  unfold State.getCert; (try dsimp only); (repeat' split) <;> simp

@[simp] theorem State.notReady_keep (s : State) (code tok : Byte) : (State.notReady s code tok).1.keep = s.keep := by
  rfl

@[simp] theorem State.signedAnswer_keep (s : State) (code : Byte) (context tr m : List Byte) : (State.signedAnswer s code context tr m).1.keep = s.keep := by
  unfold State.signedAnswer; (try dsimp only); (repeat' split) <;> simp

@[simp] theorem State.nonce32_keep (s : State) : (State.nonce32 s).2.keep = s.keep := by
  rfl

@[simp] theorem State.challenge_keep (s : State) (slot : BitVec 4) (nonce : BitVec 256) : (State.challenge s slot nonce).1.keep = s.keep := by
  unfold State.challenge; (try dsimp only); (repeat' split) <;> simp

@[simp] theorem State.getMeas_keep (s : State) (idx : Byte) (signed : Bool) (nonce : BitVec 256) : (State.getMeas s idx signed nonce).1.keep = s.keep := by
  unfold State.getMeas; (try dsimp only); (repeat' split) <;> simp

@[simp] theorem State.respondReady_keep (s : State) (token : Byte) : (State.respondReady s token).1.keep = s.keep := by
  unfold State.respondReady; (try dsimp only); (repeat' split) <;> simp

@[simp] theorem State.eventRead_keep (s : State) : (State.eventRead s).keep = s.keep := by
  unfold State.eventRead; (try dsimp only); (repeat' split) <;> simp

/-! ## Power -/

@[simp] theorem State.restep_keep (s : State) (i : Nat) : (State.restep s i).keep = s.keep := by
  simp [State.restep, apply_ite State.keep]

@[simp] theorem State.readings_keep (s : State) (w : PowerWindow) : (State.readings s w).keep = s.keep := by
  unfold State.readings; simp

@[simp] theorem State.moveSteps_keep (s : State) : (State.moveSteps s).keep = s.keep := by
  unfold State.moveSteps; simp

@[simp] theorem State.windowEnd_keep (s : State) (w : PowerWindow) : (State.windowEnd s w).keep = s.keep := by
  simp [State.windowEnd, apply_ite State.keep]

@[simp] theorem State.powerTrip_keep (s : State) : (State.powerTrip s).keep = s.keep := by
  simp [State.powerTrip, apply_ite State.keep]

@[simp] theorem State.powerRelease_keep (s : State) : (State.powerRelease s).keep = s.keep := by
  unfold State.powerRelease; (try dsimp only); (repeat' split) <;> (repeat (first | (simp; done) | ((try simp); rw [foldl_keep _ (by intro s x; (try dsimp only); (repeat' split) <;> simp [apply_ite State.keep])])))

/-! ## Belay -/

@[simp] theorem State.resend_keep (s : State) (n : Tid) : (State.resend s n).keep = s.keep := by
  unfold State.resend; (try dsimp only); (repeat' split) <;> simp

@[simp] theorem State.sendCopy_keep (s : State) (n : Tid) : (State.sendCopy s n).keep = s.keep := by
  unfold State.sendCopy; (try dsimp only); (repeat' split) <;> simp

@[simp] theorem State.relink_keep (s : State) : (State.relink s).keep = s.keep := by
  simp [State.relink, apply_ite State.keep]

@[simp] theorem State.sendOffer_keep (s : State) (nonce : BitVec 256) (q : List Byte) : (State.sendOffer s nonce q).keep = s.keep := by
  rfl

@[simp] theorem State.sharedX_keep (s : State) (p : Pt) : (State.sharedX s p).2.keep = s.keep := by
  unfold State.sharedX; (try dsimp only); (repeat' split) <;> simp

@[simp] theorem State.refusePair_keep (s : State) (c : Nat) : (State.refusePair s c).keep = s.keep := by
  unfold State.refusePair; (try dsimp only); (repeat' split) <;> simp

@[simp] theorem State.pairNow_keep (s : State) (m : PairOffer) : (State.pairNow s m).keep = s.keep := by
  unfold State.pairNow; (try dsimp only); (repeat' split) <;> simp

@[simp] theorem State.pair_keep (s : State) (m : PairOffer) : (State.pair s m).keep = s.keep := by
  unfold State.pair; (try dsimp only); (repeat' split) <;> simp

@[simp] theorem State.belayReset_keep (s : State) : (State.belayReset s).keep = s.keep := by
  simp [State.belayReset, apply_ite State.keep]

@[simp] theorem State.engineDone_pending (s : State) : s.engineDone.pending = s.pending := by
  unfold State.engineDone
  split
  · rfl
  · dsimp only
    split
    · split
      · exact State.pending_of_keep (State.pkeDone_keep _)
      · rw [State.pending_of_keep (State.pkeGo_keep _), State.pending_of_keep (State.raise_keep _ _), State.secServe_pending]
    · refine State.pending_of_keep ?_
      rw [State.pkeGo_keep, State.raise_keep]
      split <;> simp
    · exact State.pending_of_keep (State.pkeDone_keep _)

/-- What a backing leaves as it is, where it goes on. -/
def Backed.Keeps (r : Backed) (s : State) : Prop := ∀ t, r = .ok t → t.keep = s.keep

theorem Backed.keeps_ok {s t : State} (h : t.keep = s.keep) : (Backed.ok t).Keeps s := by
  intro u e; cases e; exact h
theorem Backed.keeps_full (s : State) : Backed.full.Keeps s := by intro u e; cases e
theorem Backed.keeps_wait (s : State) : Backed.wait.Keeps s := by intro u e; cases e

theorem Backed.all_keeps {α : Type} (f : State → α → Backed) (h : ∀ s x, (f s x).Keeps s) (l : List α) (s : State) :
    (Backed.all f l s).Keeps s := by
  induction l generalizing s with
  | nil => exact Backed.keeps_ok rfl
  | cons x xs ih =>
    unfold Backed.all
    split
    · rename_i s' e
      intro t ht
      exact (ih s' t ht).trans (h s x s' e)
    · exact Backed.keeps_full s
    · exact Backed.keeps_wait s

theorem State.backedNow_keeps (s : State) (n : Tid) (page : Nat) : (s.backedNow n page).Keeps s := by
  unfold State.backedNow
  split
  · split
    · exact Backed.keeps_ok rfl
    · exact Backed.keeps_full s
  · split
    · exact Backed.keeps_ok (by simp)
    · exact Backed.keeps_wait s

theorem State.backFor_keeps (s : State) (tier : Option Bool) (n : Tid) (page : Nat) : (s.backFor tier n page).Keeps s := by
  unfold State.backFor
  dsimp only
  split
  · exact Backed.keeps_ok rfl
  · split
    · intro t ht; exact ((s.touchWrite n page _).1.backedNow_keeps n page t ht).trans (by simp)
    · split
      · intro t ht; exact (State.backedNow_keeps _ n page t ht).trans (by simp)
      · exact State.backedNow_keeps _ _ _

theorem State.applyPage_keeps (s : State) (n : Tid) (page : Nat) (mapped backed sealed pref home homeft pinned bulkTier : Bool) :
    (s.applyPage n page mapped backed sealed pref home homeft pinned bulkTier).Keeps s := by
  unfold State.applyPage
  dsimp only
  split
  · exact Backed.keeps_ok (by simp)
  · split
    · intro t ht; exact (State.backFor_keeps _ _ _ _ t ht).trans (by simp)
    · exact Backed.keeps_ok (by simp)

theorem State.applyChange_keeps (n : Tid) (s : State) (c : TableChange) : (State.applyChange n s c).Keeps s := by
  unfold State.applyChange
  split
  all_goals first
    | exact Backed.keeps_ok (State.modTen_keep _ _ _)
    | exact State.applyPage_keeps _ _ _ _ _ _ _ _ _ _ _

theorem State.applyGranule_keeps (n : Tid) (s : State) (g : BitVec 36 × List Byte) : (State.applyGranule n s g).Keeps s := by
  unfold State.applyGranule
  dsimp only
  split
  · exact Backed.keeps_ok rfl
  · split
    · rename_i s' e
      exact Backed.keeps_ok (by simp [State.backFor_keeps _ _ _ _ _ e])
    · rename_i r h
      intro t ht
      exact absurd ht (h t)

theorem State.applyBody_keeps (s : State) (n : Tid) (cs : List TableChange) (gs : List (BitVec 36 × List Byte)) :
    (s.applyBody n cs gs).Keeps s := by
  unfold State.applyBody
  split
  · rename_i s1 e1
    split
    · rename_i s2 e2
      refine Backed.keeps_ok ?_
      rw [State.fence_keep, Backed.all_keeps _ (State.applyGranule_keeps n) _ _ _ e2, Backed.all_keeps _ (State.applyChange_keeps n) _ _ _ e1]
    · rename_i r h
      intro t ht
      exact absurd ht (h t)
  · rename_i r h
    intro t ht
    exact absurd ht (h t)

@[simp] theorem State.recordDone_keep (s : State) (n : Tid) (r : CommitRecord) (others : W64) : (State.recordDone s n r others).keep = s.keep := by
  unfold State.recordDone; simp

@[simp] theorem State.standbyFull_keep (s : State) (n : Tid) : (State.standbyFull s n).keep = s.keep := by
  unfold State.standbyFull; simp

@[simp] theorem State.sendAck_keep (s : State) (n : Tid) : (State.sendAck s n).keep = s.keep := by
  unfold State.sendAck; (try dsimp only); (repeat' split) <;> simp

@[simp] theorem State.drainInbox_keep (n : Tid) (f : Nat) (s : State) : (State.drainInbox n f s).keep = s.keep := by
  induction f generalizing s with
  | zero => rfl
  | succ f ih =>
    unfold State.drainInbox
    split
    · rfl
    · split
      · rename_i s' e
        simp [ih, State.applyBody_keeps _ _ _ _ _ e]
      · simp
      · rfl

@[simp] theorem State.applyRecord_keep (s : State) (r : CommitRecord) (others : W64) : (s.applyRecord r others).keep = s.keep := by
  simp [State.applyRecord, apply_ite State.keep]

@[simp] theorem State.ackWm_keep (s : State) (n : Tid) (r : CommitRecord) : (State.ackWm s n r).keep = s.keep := by
  simp [State.ackWm, apply_ite State.keep]

@[simp] theorem State.ackRecord_keep (s : State) (n : Tid) : (State.ackRecord s n).keep = s.keep := by
  unfold State.ackRecord; (try dsimp only); (repeat' split) <;> simp

@[simp] theorem State.applyWaiting_keep (s : State) : (State.applyWaiting s).keep = s.keep := by
  unfold State.applyWaiting; simp

@[simp] theorem State.scrubAll_keep (s : State) : (State.scrubAll s).keep = s.keep := by
  unfold State.scrubAll; simp

@[simp] theorem State.applyInbox_keep (s : State) (n : Tid) : (State.applyInbox s n).keep = s.keep := by
  unfold State.applyInbox; (try dsimp only); (repeat' split) <;> simp

@[simp] theorem State.takeOver_keep (s : State) (n : Tid) : (State.takeOver s n).keep = s.keep := by
  simp [State.takeOver, apply_ite State.keep]

@[simp] theorem State.clearStandby_keep (s : State) (n : Tid) : (State.clearStandby s n).keep = s.keep := by
  unfold State.clearStandby; simp

@[simp] theorem State.diverge_keep (s : State) (n : Tid) : (State.diverge s n).keep = s.keep := by
  unfold State.diverge; simp

@[simp] theorem State.resyncStart_keep (s : State) (n : Tid) (peer : PeerTen) : (State.resyncStart s n peer).keep = s.keep := by
  simp [State.resyncStart, apply_ite State.keep]

theorem State.applyCopy_keeps (s : State) (n : Tid) (c : PeerCopy) : (s.applyCopy n c).Keeps s := by
  unfold State.applyCopy
  split
  · rename_i s1 e1
    intro t ht
    refine (Backed.all_keeps _ ?_ _ _ t ht).trans ?_
    · intro s r
      (try dsimp only)
      split
      · rename_i s2 e2
        exact Backed.keeps_ok (by simp [State.applyBody_keeps _ _ _ _ _ e2])
      · rename_i x h
        intro t ht
        exact absurd ht (h t)
    · simp [State.applyBody_keeps _ _ _ _ _ e1]
  · rename_i r h
    intro t ht
    exact absurd ht (h t)

@[simp] theorem State.resyncPrimary_keep (s : State) (n : Tid) : (State.resyncPrimary s n).keep = s.keep := by
  unfold State.resyncPrimary; simp

@[simp] theorem State.resyncStandby_keep (s : State) (n : Tid) (c : PeerCopy) : (s.resyncStandby n c).keep = s.keep := by
  unfold State.resyncStandby
  split
  · rename_i s' e
    simp [State.applyCopy_keeps _ _ _ _ e]
  · simp
  · rfl

@[simp] theorem State.resyncDone_keep (s : State) (n : Tid) (c : PeerCopy) : (State.resyncDone s n c).keep = s.keep := by
  simp [State.resyncDone, apply_ite State.keep]

end Sys2Proof.Machine
end

