-- ==== Sys2Proof/Laws/KeepRegs.lean ====
section
/-! SUPPORT. KeepRegs.lean: register writes and reads that clear keep the queue and the fuses. -/

namespace Sys2Proof.Machine

/-! ## RegWrite -/

@[simp] theorem State.writeSrcCfg_keep (s : State) (i : Nat) (v : W64) : (State.writeSrcCfg s i v).keep = s.keep := by
  simp [State.writeSrcCfg, apply_ite State.keep]

@[simp] theorem State.writeSrcState_keep (s : State) (i : Nat) (v : W64) : (State.writeSrcState s i v).keep = s.keep := by
  simp [State.writeSrcState, apply_ite State.keep]

@[simp] theorem State.writeTgt_keep (s : State) (t r : Nat) (v : W64) : (State.writeTgt s t r v).keep = s.keep := by
  simp [State.writeTgt, apply_ite State.keep]

@[simp] theorem State.writeMsix_keep (s : State) (t r : Nat) (v : W64) : (State.writeMsix s t r v).keep = s.keep := by
  simp [State.writeMsix, apply_ite State.keep]

@[simp] theorem State.writeIc_keep (s : State) (o : Nat) (v : W64) : (State.writeIc s o v).keep = s.keep := by
  simp [State.writeIc, apply_ite State.keep]

@[simp] theorem State.writeHq_keep (s : State) (f : Fn) (o : Nat) (v : W64) : (State.writeHq s f o v).keep = s.keep := by
  unfold State.writeHq; (try dsimp only); (repeat' split) <;> simp

@[simp] theorem State.writeSch_keep (s : State) (o : Nat) : (State.writeSch s o).keep = s.keep := by
  simp [State.writeSch, apply_ite State.keep]

@[simp] theorem State.writeMem_keep (s : State) (o : Nat) (v : W64) : (State.writeMem s o v).keep = s.keep := by
  simp [State.writeMem, apply_ite State.keep]

@[simp] theorem State.writePwr_keep (s : State) (o : Nat) (v : W64) : (State.writePwr s o v).keep = s.keep := by
  simp [State.writePwr, apply_ite State.keep]

@[simp] theorem State.writeBel_keep (s : State) (o : Nat) (v : W64) : (State.writeBel s o v).keep = s.keep := by
  simp [State.writeBel, apply_ite State.keep]

@[simp] theorem State.writeRdy_keep (s : State) (o : Nat) (v : W64) : (State.writeRdy s o v).keep = s.keep := by
  simp [State.writeRdy, apply_ite State.keep]

@[simp] theorem State.writeBbx_keep (s : State) (o : Nat) (v : W64) : (State.writeBbx s o v).keep = s.keep := by
  simp [State.writeBbx, apply_ite State.keep]

@[simp] theorem State.writeDbg_keep (s : State) (o : Nat) (v : W64) : (State.writeDbg s o v).keep = s.keep := by
  simp [State.writeDbg, apply_ite State.keep]

@[simp] theorem State.writeBlk_keep (s : State) (b : Blk) (o : Nat) (v : W64) : (State.writeBlk s b o v).keep = s.keep := by
  unfold State.writeBlk; (try dsimp only); (repeat' split) <;> simp

@[simp] theorem State.writeVf_keep (s : State) (f : Fn) (o : Nat) (v : W64) : (State.writeVf s f o v).keep = s.keep := by
  simp [State.writeVf, apply_ite State.keep]

@[simp] theorem State.regWrite_keep (s : State) (f : Fn) (off : Nat) (v : W64) : (State.regWrite s f off v).keep = s.keep := by
  simp [State.regWrite, apply_ite State.keep]

@[simp] theorem State.clearTel_keep (s : State) (o : Nat) : (State.clearTel s o).keep = s.keep := by
  simp [State.clearTel, apply_ite State.keep]

@[simp] theorem State.clearMem_keep (s : State) (o : Nat) : (State.clearMem s o).keep = s.keep := by
  simp [State.clearMem, apply_ite State.keep]

@[simp] theorem State.clearSpl_keep (s : State) (o : Nat) : (State.clearSpl s o).keep = s.keep := by
  unfold State.clearSpl; (try dsimp only); (repeat' split) <;> simp

@[simp] theorem State.clearWin_keep (s : State) (o : Nat) : (State.clearWin s o).keep = s.keep := by
  simp [State.clearWin, apply_ite State.keep]

@[simp] theorem State.clearLcs_keep (s : State) (o : Nat) : (State.clearLcs s o).keep = s.keep := by
  unfold State.clearLcs; (try dsimp only); (repeat' split) <;> simp

@[simp] theorem State.clearIc_keep (s : State) (o : Nat) : (State.clearIc s o).keep = s.keep := by
  unfold State.clearIc
  refine (apply_ite State.keep _ _ _).trans ?_
  refine ite_eq_right_iff.mpr fun _ => ?_
  generalize (o - 0x8000) / 0x40 = t
  generalize (o - 0x8000) % 0x40 = u
  show State.keep (match u with | 0x08 => _ | 0x18 => _ | _ => _) = _
  split
  · split
    · exact State.claim_keep _ _
    · rfl
  · split <;> rfl
  · rfl

@[simp] theorem State.clearBlk_keep (s : State) (b : Blk) (o : Nat) : (State.clearBlk s b o).keep = s.keep := by
  unfold State.clearBlk; (try dsimp only); (repeat' split) <;> simp

@[simp] theorem State.regClear_keep (s : State) (f : Fn) (off : Nat) : (State.regClear s f off).keep = s.keep := by
  simp [State.regClear, apply_ite State.keep]

@[simp] theorem State.bulkBar0_keep (s : State) (p : Port) (off : Nat) : (State.bulkBar0 s p off).keep = s.keep := by
  simp [State.bulkBar0, apply_ite State.keep]

end Sys2Proof.Machine
end

