-- ==== Sys2Proof/Laws/Sparse.lean ====
section
/-! SUPPORT. Sparse.lean: reading and writing sparse tables, and the canonical form. -/

namespace Sys2Proof

section
variable {α : Type} [DecidableEq α] {d : α}

theorem Sparse.wf_nil : Sparse.wf d [] = true := by simp [Sparse.wf]

theorem Sparse.wf_cons {e : Nat × α} {m : Sparse α} :
    Sparse.wf d (e :: m) = true ↔ e.2 ≠ d ∧ (∀ x ∈ m, e.1 < x.1) ∧ Sparse.wf d m = true := by
  simp only [Sparse.wf, List.all_cons, List.map_cons, List.pairwise_cons, Bool.and_eq_true, decide_eq_true_eq, List.mem_map,
    forall_exists_index, and_imp, forall_apply_eq_imp_iff₂]
  tauto

omit [DecidableEq α] in
/-- A key below every listed one reads as the default. -/
theorem Sparse.get_lt {m : Sparse α} {k : Nat} (h : ∀ x ∈ m, k < x.1) : Sparse.get d m k = d := by
  cases m with
  | nil => rfl
  | cons e m =>
    have h1 := h e (by simp)
    simp [Sparse.get, Nat.ne_of_lt h1, h1]

/-- The keys of a written table. -/
theorem Sparse.mem_set {m : Sparse α} {k : Nat} {v : α} {x : Nat × α} (h : x ∈ Sparse.set d m k v) : x = (k, v) ∨ x ∈ m := by
  induction m with
  | nil => simp only [Sparse.set] at h; split at h <;> simp_all
  | cons e m ih =>
    simp only [Sparse.set] at h
    split at h
    · split at h
      · exact .inr (List.mem_cons_of_mem _ h)
      · rcases List.mem_cons.1 h with rfl | h
        · exact .inl rfl
        · exact .inr (List.mem_cons_of_mem _ h)
    · split at h
      · split at h
        · exact .inr h
        · rcases List.mem_cons.1 h with rfl | h
          · exact .inl rfl
          · exact .inr h
      · rcases List.mem_cons.1 h with rfl | h
        · exact .inr (by simp)
        · exact (ih h).imp id (List.mem_cons_of_mem _)

/-- A write keeps the canonical form. -/
theorem Sparse.set_wf {m : Sparse α} (h : Sparse.wf d m = true) (k : Nat) (v : α) : Sparse.wf d (Sparse.set d m k v) = true := by
  induction m with
  | nil => simp only [Sparse.set]; split <;> simp_all [Sparse.wf]
  | cons e m ih =>
    obtain ⟨h1, h2, h3⟩ := Sparse.wf_cons.1 h
    simp only [Sparse.set]
    split
    · split
      · exact h3
      · rename_i hk hv
        exact Sparse.wf_cons.2 ⟨hv, by simpa [hk] using h2, h3⟩
    · split
      · split
        · exact h
        · rename_i hk hv
          refine Sparse.wf_cons.2 ⟨hv, ?_, h⟩
          intro x hx
          rcases List.mem_cons.1 hx with rfl | hx
          · exact hk
          · exact Nat.lt_trans hk (h2 x hx)
      · rename_i hk hk2
        refine Sparse.wf_cons.2 ⟨h1, ?_, ih h3⟩
        intro x hx
        rcases Sparse.mem_set hx with rfl | hx
        · simp only; omega
        · exact h2 x hx

/-- A read after a write to the same key gives the value written. -/
theorem Sparse.get_set_self {m : Sparse α} (h : Sparse.wf d m = true) (k : Nat) (v : α) : Sparse.get d (Sparse.set d m k v) k = v := by
  induction m with
  | nil => simp only [Sparse.set]; split <;> simp_all [Sparse.get]
  | cons e m ih =>
    obtain ⟨h1, h2, h3⟩ := Sparse.wf_cons.1 h
    simp only [Sparse.set]
    split
    · rename_i hk
      split
      · rename_i hv; rw [hv]; exact Sparse.get_lt (by simpa [hk] using h2)
      · simp [Sparse.get]
    · split
      · rename_i hk hlt
        split
        · rename_i hv; simp [Sparse.get, hk, hlt, hv]
        · simp [Sparse.get]
      · rename_i hk hlt; simp [Sparse.get, hk, hlt, ih h3]

/-- A write leaves every other key alone. -/
theorem Sparse.get_set_ne {m : Sparse α} (h : Sparse.wf d m = true) {k j : Nat} (v : α) (hj : j ≠ k) :
    Sparse.get d (Sparse.set d m k v) j = Sparse.get d m j := by
  induction m with
  | nil => simp only [Sparse.set]; split <;> simp_all [Sparse.get]
  | cons e m ih =>
    obtain ⟨h1, h2, h3⟩ := Sparse.wf_cons.1 h
    simp only [Sparse.set]
    split
    · rename_i hk
      split
      · simp only [Sparse.get]
        split
        · omega
        · split
          · rename_i hlt; exact Sparse.get_lt (fun x hx => Nat.lt_trans hlt (h2 x hx))
          · rfl
      · have hj2 : j ≠ e.1 := hk ▸ hj
        simp [Sparse.get, hk, hj2]
    · split
      · rename_i hk hlt
        split
        · rfl
        · simp only [Sparse.get, hj, if_false]
          split
          · rename_i hlt2
            rw [if_neg (by omega), if_pos (by omega)]
          · rfl
      · rename_i hk hlt
        simp only [Sparse.get]
        split
        · rfl
        · split
          · rfl
          · exact ih h3

/-- Dropping entries keeps the canonical form. -/
theorem Sparse.filter_wf {m : Sparse α} (h : Sparse.wf d m = true) (p : Nat × α → Bool) : Sparse.wf d (m.filter p) = true := by
  induction m with
  | nil => exact h
  | cons e m ih =>
    obtain ⟨h1, h2, h3⟩ := Sparse.wf_cons.1 h
    rw [List.filter_cons]
    split
    · exact Sparse.wf_cons.2 ⟨h1, fun x hx => h2 x (List.mem_of_mem_filter hx), ih h3⟩
    · exact ih h3

theorem Sparse.dropKeys_wf {m : Sparse α} (h : Sparse.wf d m = true) (p : Nat → Bool) : Sparse.wf d (Sparse.dropKeys m p) = true :=
  Sparse.filter_wf h _

/-- A read of a table without the keys that satisfy `p`. -/
theorem Sparse.get_dropKeys {m : Sparse α} (h : Sparse.wf d m = true) (p : Nat → Bool) (k : Nat) :
    Sparse.get d (Sparse.dropKeys m p) k = if p k then d else Sparse.get d m k := by
  induction m with
  | nil => simp [Sparse.dropKeys, Sparse.get]
  | cons e m ih =>
    obtain ⟨h1, h2, h3⟩ := Sparse.wf_cons.1 h
    have ih := ih h3
    simp only [Sparse.dropKeys, List.filter_cons] at ih ⊢
    by_cases hp : p e.1
    · simp only [hp, Bool.not_true, Bool.false_eq_true, if_false]
      rw [ih]
      by_cases hk : k = e.1
      · simp [hk, hp]
      · by_cases hlt : k < e.1
        · simp only [Sparse.get, hk, if_false, hlt, if_true]
          rw [Sparse.get_lt (fun x hx => Nat.lt_trans hlt (h2 x hx))]
        · simp [Sparse.get, hk, hlt]
    · simp only [hp, Bool.not_false, if_true]
      by_cases hk : k = e.1
      · simp [Sparse.get, hk, hp]
      · by_cases hlt : k < e.1
        · simp [Sparse.get, hk, hlt]
        · simp only [Sparse.get, hk, if_false, hlt]; exact ih

/-- A fold of writes keeps the canonical form. -/
theorem Sparse.foldl_wf {β : Type} (f : Sparse α → β → Sparse α) (hf : ∀ m b, Sparse.wf d m = true → Sparse.wf d (f m b) = true) (l : List β)
    {m : Sparse α} (h : Sparse.wf d m = true) : Sparse.wf d (l.foldl f m) = true := by
  induction l generalizing m with
  | nil => exact h
  | cons b l ih => exact ih (hf m b h)

theorem Sparse.mapAll_wf (m : Sparse α) (f : Nat → α → α) : Sparse.wf d (Sparse.mapAll d m f) = true :=
  Sparse.foldl_wf _ (fun _ _ h => Sparse.set_wf h _ _) _ Sparse.wf_nil
end

end Sys2Proof
end

