-- ==== Sys2Proof/Laws/Memory.lean ====
section
/-! SUPPORT. Laws/Memory.lean: every operation on device memory keeps its canonical form, and memory after reset has it. -/

namespace Sys2Proof.Machine

/-- Memory after reset is in canonical form. -/
theorem reset_mem_wf : State.reset.mem.wf = true := by decide

/-- The canonical form is that of the bytes alone. -/
theorem Mem.wf_congr {m m' : Mem} (h : m'.cells = m.cells) : m'.wf = m.wf := by simp [Mem.wf, h]

/-- Bytes dropped. -/
theorem Mem.drop_wf {m m' : Mem} (h : m.wf = true) (p : Nat → Bool) (hc : m'.cells = Sparse.dropKeys m.cells p) : m'.wf = true := by
  rw [Mem.wf, hc]; exact Sparse.dropKeys_wf h p

@[simp] theorem Mem.wholeLine_cells (m : Mem) (line : Nat) : (m.wholeLine line).cells = m.cells := by
  unfold Mem.wholeLine; split <;> rfl

/-- Bytes of an entry put into the devices. -/
theorem Mem.put_wf {m : Mem} (h : m.wf = true) (e : WcEntry) : (m.put e).wf = true := by
  refine Sparse.foldl_wf _ (fun c i hc => ?_) _ h
  split
  · exact Sparse.set_wf hc _ _
  · exact hc

theorem Mem.wholeLine_wf {m : Mem} (h : m.wf = true) (line : Nat) : (m.wholeLine line).wf = true :=
  (Mem.wf_congr (Mem.wholeLine_cells m line)).trans h

/-- An entry of an open page written to the devices. -/
theorem Mem.flush_wf {m : Mem} (h : m.wf = true) (e : WcEntry) : (m.flush e).wf = true := by
  unfold Mem.flush
  dsimp only
  split
  · exact Mem.wholeLine_wf (Mem.put_wf h e) _
  · exact Mem.put_wf h e

/-- Bytes merged into an entry of their line, or into a new one. -/
@[simp] theorem Mem.wcPut_cells (m : Mem) (line off : Nat) (data : List Byte) (n : Tid) : (m.wcPut line off data n).cells = m.cells := by
  unfold Mem.wcPut
  dsimp only
  split <;> split <;> simp

/-- The free values and the black-box log are no part of device memory. -/
@[simp] theorem State.clock_mem (s : State) (d u : Nat) : (s.clock d u).2.mem = s.mem := by
  unfold State.clock; split <;> rfl

@[simp] theorem State.bbxPush_mem (s : State) (x : BbxEntry) : (s.bbxPush x).mem = s.mem := by
  unfold State.bbxPush; (repeat' split) <;> rfl

@[simp] theorem State.log_mem (s : State) (d c u e : Nat) (st : Byte) (n : Option Tid) (a : List W64) : (s.log d c u e st n a).mem = s.mem := by
  simp [State.log]

@[simp] theorem State.corrected_mem (s : State) (d u c k : Nat) : (s.corrected d u c k).mem = s.mem := by
  unfold State.corrected; dsimp only; (repeat' split) <;> simp

@[simp] theorem State.raise_mem (s : State) (i : Nat) : (s.raise i).mem = s.mem := by
  unfold State.raise; split <;> simp

@[simp] theorem State.modTier_cells (s : State) (b h : Bool) (f : TierSt → TierSt) : (s.modTier b h f).mem.cells = s.mem.cells := rfl

/-- Poison marks granules and leaves the bytes. -/
@[simp] theorem State.poisonGran_cells (s : State) (n : Option Tid) (g : Nat) (page : Option Nat) (a : W64) :
    (s.poisonGran n g page a).mem.cells = s.mem.cells := by
  unfold State.poisonGran
  simp only [State.raise_mem, State.log_mem, State.modTier_cells]
  (repeat' split) <;> simp

/-- A transfer of a line counts and may poison: the bytes stay. -/
@[simp] theorem State.transferGran_cells (s : State) (n : Option Tid) (g : Nat) (page : Option Nat) (a : W64) (w : Bool) :
    (s.transferGran n g page a w).mem.cells = s.mem.cells := by
  unfold State.transferGran
  dsimp only
  split
  · rfl
  · split <;> simp only [State.poisonGran_cells, State.corrected_mem, State.modTier_cells]

/-- The same for the granule of a TVA. -/
@[simp] theorem State.transfer_cells (s : State) (n : Tid) (tva : Nat) (w : Bool) : (s.transfer n tva w).mem.cells = s.mem.cells := by
  simp [State.transfer]

/-- An entry written out, sealed where its page is. -/
theorem State.flushEntry_wf {s : State} (h : s.mem.wf = true) (e : WcEntry) : (s.flushEntry e).mem.wf = true := by
  unfold State.flushEntry
  split
  · rename_i n page _
    dsimp only
    have h' : ((if decide (e.mask = BitVec.allOnes 64) = true then s else s.transfer n (page * 2 ^ 21 + e.line % 2 ^ 15 * 64) false).transfer n
        (page * 2 ^ 21 + e.line % 2 ^ 15 * 64) true).mem.wf = true := by
      refine (Mem.wf_congr ?_).trans h
      split <;> simp
    generalize (State.transfer _ n (page * 2 ^ 21 + e.line % 2 ^ 15 * 64) true) = t at h' ⊢
    split
    · exact Mem.flush_wf h' e
    · split
      · exact h'
      · split
        · exact Mem.wholeLine_wf (Mem.put_wf h' _) _
        · exact Mem.put_wf h' _
  · exact Mem.flush_wf h e

/-- Room made for an entry. -/
theorem State.wcRoom_wf {s : State} (h : s.mem.wf = true) (line : Nat) (n : Tid) : (s.wcRoom line n).mem.wf = true := by
  unfold State.wcRoom
  dsimp only
  split
  · exact h
  · split
    · exact h
    · exact State.flushEntry_wf (s := { s with mem := { s.mem with wc := s.mem.wc.erase _ } }) h _

/-- Bytes written at a device address. -/
theorem State.wcWrite_wf {s : State} (h : s.mem.wf = true) (n : Tid) (f dev : Nat) (data : List Byte) :
    (s.wcWrite n f dev data).mem.wf = true := by
  induction f generalizing s dev data with
  | zero => exact h
  | succ f ih =>
    unfold State.wcWrite
    split
    · exact h
    · exact ih ((Mem.wf_congr (Mem.wcPut_cells _ _ _ _ _)).trans (State.wcRoom_wf h _ _)) _ _

/-- Bytes written to a backed page. -/
theorem State.writeBacked_wf {s : State} (h : s.mem.wf = true) (n : Tid) (tva : Nat) (data : List Byte) :
    (s.writeBacked n tva data).mem.wf = true := by
  unfold State.writeBacked
  apply State.wcWrite_wf
  dsimp only
  split <;> split <;> exact h

/-- A frame cleared. -/
theorem State.zeroFrame_wf {s : State} (h : s.mem.wf = true) (id : Nat) : (s.zeroFrame id).mem.wf = true :=
  Mem.drop_wf h (fun a => a / 2 ^ 21 == id) rfl

/-- Steps over a list that each keep the form. -/
theorem foldl_mem_wf {α : Type} (f : State → α → State) (hf : ∀ (s : State) a, s.mem.wf = true → (f s a).mem.wf = true) (l : List α) :
    ∀ s : State, s.mem.wf = true → (l.foldl f s).mem.wf = true := by
  induction l with
  | nil => intro s h; exact h
  | cons a l ih => intro s h; exact ih _ (hf s a h)

/-- Transfers keep the bytes. -/
theorem State.transferGran_wf {s : State} (h : s.mem.wf = true) (n : Option Tid) (g : Nat) (page : Option Nat) (a : W64) (w : Bool) :
    (s.transferGran n g page a w).mem.wf = true := (Mem.wf_congr (State.transferGran_cells s n g page a w)).trans h

/-- A frame scrubbed. -/
theorem State.scrubFrame_wf {s : State} (h : s.mem.wf = true) (n : Tid) (id : Nat) : (s.scrubFrame n id).mem.wf = true := by
  unfold State.scrubFrame
  have h2 := foldl_mem_wf (fun s g => (s.free.2).transferGran (some n) g none s.free.1 true)
    (fun t g ht => State.transferGran_wf (s := t.free.2) ht _ _ _ _ _) (s.retryGrans (· == id))
    { s.zeroFrame id with mem := { (s.zeroFrame id).mem with soft := s.mem.soft } } (State.zeroFrame_wf h id)
  dsimp only at h2 ⊢
  generalize List.foldl _ _ _ = t at h2 ⊢
  exact h2

/-- A frame copied. -/
theorem State.copyFrame_wf {s : State} (h : s.mem.wf = true) (n : Tid) (page src dst : Nat) : (s.copyFrame n page src dst).mem.wf = true := by
  unfold State.copyFrame
  dsimp only
  have h0 : Sparse.wf (0 : Byte) ((s.mem.cells.filter (fun e => e.1 / 2 ^ 21 == src)).foldl
      (fun (c : List (Nat × Byte)) (e : Nat × Byte) => Sparse.set 0 c (frameBase dst + e.1 % 2 ^ 21) e.2) s.mem.cells) = true :=
    Sparse.foldl_wf _ (fun c e hc => Sparse.set_wf hc _ _) _ h
  refine foldl_mem_wf _ (fun t g ht => State.transferGran_wf ht _ _ _ _ _) _ _ ?_
  refine foldl_mem_wf _ (fun t e ht => ?_) _ { s with mem := { s.mem with cells := _ } } h0
  split <;> exact ht

/-- A tier wiped. -/
theorem State.wipeDone_wf {s : State} (h : s.mem.wf = true) (bulk hw : Bool) : (s.wipeDone bulk hw).mem.wf = true := by
  unfold State.wipeDone
  dsimp only
  split
  · exact h
  · have h2 := foldl_mem_wf (fun s g => (s.free.2).transferGran none g none s.free.1 true)
      (fun t g ht => State.transferGran_wf (s := t.free.2) ht _ _ _ _ _) (s.retryGrans (fun id => id / 2 ^ 20 == tierKey bulk hw)) s h
    generalize List.foldl _ _ _ = t at h2 ⊢
    exact Mem.drop_wf h2 (fun a => a / 2 ^ 41 == tierKey bulk hw) rfl

/-- A reset of the package keeps the bytes. -/
theorem State.unitsReset_wf {s : State} (h : s.mem.wf = true) : s.unitsReset.mem.wf = true := h

/-- A byte written out is read back from the devices. -/
theorem Mem.set_byte {m : Mem} (h : m.wf = true) (a : Nat) (v : Byte) : Sparse.get 0 (Sparse.set 0 m.cells a v) a = v :=
  Sparse.get_set_self h a v

end Sys2Proof.Machine
end

