-- ==== Sys2Proof/Tests/Slice0.lean ====
section
/-! SUPPORT. Tests/Slice0.lean: small tests of single commands, the well-formedness smoke tests, and for each statement with hypotheses
a witness that meets them. -/

namespace Sys2Proof.Tests

set_option Elab.async false

open Sys2Proof Sys2Proof.Machine

/-! ## Small states -/

/-- A module whose units are all ready, with nothing in work. -/
def up : State :=
  { State.reset with
    pins := { Pins.init with powered := true, perst := 7 }
    rdy := { bits := 0x1FFFF, braids := 0xFFFFFFFFFFFFFFFF, refused := false }
    cap := { braids := 0xFFFFFFFFFFFFFFFF, fold := 0, bulkA := true, bulkB := true, belay := true }
    sys := { Sys.init with cfgLoaded := 7, ctrlUp := true }
    lcs := { Lcs.init with ok := true } }

/-- What a next state answers to a question; of a fault or a refusal, `false`. -/
def after (o : Result) (p : State → Bool) : Bool := match o with | .next t => p t | _ => false

/-- A sentence of one clause: the operation in slot `n` and the other fields of that clause. -/
def sent (n op fields : Nat) : BitVec 512 :=
  BitVec.ofNat 512 (if n = 0 then (op * 2 ^ 58 + fields) * 2 ^ 448 else if n = 1 then (op * 2 ^ 57 + fields) * 2 ^ 384
    else (op * 2 ^ 90 + fields) * 2 ^ (288 - 96 * (n - 2)))

/-- The target bit of a scalar clause that works on the cores. -/
def core : Nat := 2 ^ 63

/-- A braid that issues the sentence `x`, with an IDLE after it, of a kernel of tenancy 1. -/
def busy (x : BitVec 512) : Braid :=
  { Braid.init with phase := .issuing, tok := some 0, ten := some 1, pllUp := true, sents := [x, sent 0 8 0], limbs := [97], reveals := true, issueAt := 5
                    progs := [{ res := 3, consts := [], steps := [] }] }

/-- The module with braid 0 busy. -/
def run (x : BitVec 512) : State := up.setBraid 0 (busy x)

/-- Page 1 of tenancy 1 backed in frame 0 of set 0 of the ring tier of hawser 0, and the tenancy ACTIVE under function 1. -/
def page1 : Pte := { Pte.init with state := .backed }
def ten1 : Ten :=
  { Ten.init with st := .active, fn := 1, prio := 7, weight := 1, ptes := [(0, some [(1, page1)])], ring := { quota := 4, alloc := 1 }
                  bulk := { quota := 4, alloc := 0 } }

/-- Bytes from address `a` on, as cells of device memory. -/
def cellsAt (a : Nat) (bs : List Byte) : List (Nat × Byte) := (bs.zipIdx.map (fun x => (a + x.2, x.1))).filter (fun x => x.2 != 0)

/-- The module with tenancy 1, its page 1 in frame 0 with the bytes given. -/
def tenanted (bs : List Byte) : State :=
  { up with
    tens := [(1, ten1)]
    mem := { Mem.init with
      cells := cellsAt 0 bs, use := [(0, some (.allocated 1 1))], tiers := [0, 1, 2, 3].map (fun k => (k, { TierSt.init with ready := true, sets := 0xFFF, trained := 0xFFF })) } }

/-- A command of tenancy 1: opcode, bytes in the host buffer, body. -/
def word (op hlen body : Nat) : BitVec 512 := BitVec.ofNat 512 (op * 2 ^ 64 + 2 ^ 80 + hlen * 2 ^ 160 + body * 2 ^ 256)

/-- The pool's entry 0: a command of function `f`. -/
def entry (f : Fn) (c : BitVec 512) : Token := entryOf 0 0 f 0 SqRing.init c ([], 0)

/-- A state with the command as the pool's one entry. -/
def asked (s : State) (f : Fn) (c : BitVec 512) : State := { s with sch := { s.sch with pool := [entry f c], nextId := 1, nextCmd := 1 } }

/-- The one completion of the entry, once it retires. -/
def ended (o : Result) (st detail : Byte) : Bool :=
  after o (fun t => match t.tok 0 with | some u => u.st == .retiring && u.comp.status == st && u.comp.detail == detail | none => false)

/-! ## Clauses -/

/-- Clauses that issue, for AluClauses. -/
theorem aluClauses_met : ∀ r ∈ aluRows, (run (sent 1 r.op core)).issues 0 1 (coreOp r.op) = true := by decide +kernel

/-- R115: ADD adds; the result waits for the next braid cycle and carries the sealed case of a source. -/
theorem test_add_is_in_flight :
    after (exec (.scalarAdd 0) (up.setBraid 0 { busy (sent 1 0x01 (core + 3 * 2 ^ 52 + 1 * 2 ^ 47 + 2 * 2 ^ 42)) with
        s := [(1, { val := 0xFFFFFFFFFFFFFFFF, sealed := true }), (2, { val := 2, sealed := false })] }))
      (fun t => match (t.braid 0).flights with
        | [f] => f.due == 6 && f.dest == .s 3 && (f.parts.map (fun p => (p.val, p.sealed))).head? == some (1, true)
        | _ => false) = true := by decide +kernel

/-- Clauses that issue, for MoveClauses and AddressClauses. -/
theorem moveClauses_met : ∀ o ∈ [0x0C, 0x0D, 0x0E, 0x0F, 0x10, 0x11, 0x1C, 0x18, 0x19, 0x1A, 0x1B],
    (run (sent 1 o core)).issues 0 1 (coreOp o) = true := by decide +kernel

/-- Clauses that issue, for ControlClauses. -/
theorem controlClauses_met : ∀ o ∈ [1, 2, 3, 4, 5], (run (sent 1 o 0)).issues 0 1 (seqOp o) = true := by decide +kernel

/-- Clauses that issue, for SyncClauses and SrelReleases. -/
theorem syncClauses_met : ∀ o ∈ [1, 2, 4, 5, 6, 7, 8], (run (sent 0 o (2 ^ 39))).issues 0 0 (opIs 0 o) = true := by decide +kernel

/-- Clauses that issue, for LaneClauses, VectorCompare, MoveLanes and ButterflyAndProgramClauses. -/
theorem vectorClauses_met : ∀ o ∈ [1, 2, 3, 4, 5, 6, 7, 8, 9, 10, 11, 12, 13, 14, 15, 16], (run (sent 2 o 0)).issues 0 2 (opIs 2 o) = true := by
  decide +kernel

/-- Clauses that issue with the main path of the base converter sound, for MatrixClauses. -/
theorem matrixClauses_met : ∀ o ∈ [1, 2, 3, 4], (run (sent 3 o 0)).issues 0 3 (opIs 3 o) = true ∧ ((run (sent 3 o 0)).braid 0).bcuFlip = [] := by
  decide +kernel

/-- Clauses that issue over sound words, for LoadClauses, StoreClauses and MemoryClauses. -/
theorem memoryClauses_met : ∀ n ∈ [4, 5], ∀ o ∈ [1, 2, 3],
    (run (sent n o 0)).issues 0 n (opIs n o) = true ∧ ((run (sent n o 0)).braid 0).ecc2 = [] := by decide +kernel

/-- R171: an uncorrectable word under a load stops the kernel with 0x50. -/
theorem test_load_of_a_bad_word_stops :
    let s := up.setBraid 0 { busy (sent 4 1 0) with ecc2 := [0] }
    s.issues 0 4 (opIs 4 1) = true ∧ (∃ k ∈ (s.braid 0).cores, ∃ w ∈ wordsOf k ((s.braid 0).lsAddr (lClause (clauseOf (s.braid 0).cur 4)) k) 128,
      w ∈ (s.braid 0).ecc2) ∧ after (exec (.ldv 0) s) (fun t => (t.braid 0).stop == some { status := 0x50, pc := 0, clause := 4 }) = true := by
  decide +kernel

/-- R53: for the least and a large prime of R58. -/
theorem residueLanesExact_met : Nat.Prime 97 ∧ 2 ^ 14 - 1 < 2 ^ (2 * Nat.size 97) ∧ 96 < 97 ∧ 127 < 2 ^ Nat.size 97 ∧
    0 * 2 ^ 32 + 16383 < 2 ^ (2 * Nat.size 97) := by
  refine ⟨by norm_num, ?_⟩
  decide +kernel

/-- R53, R54: the estimate of 3329's reciprocal gives the exact residue at the end of the range. -/
theorem test_barrett_at_the_end_of_its_range :
    Arith.barrett 3329 (2 ^ 24 - 1) = (2 ^ 24 - 1) % 3329 ∧ Arith.subL 32 (some 3329) 0 3328 = 1 ∧ Arith.addL 32 none 0xFFFFFFFF 1 = 0 := by
  decide +kernel

/-- A stream ring that takes a deposit: DEPTH 2 slots, kind 0, one descriptor, one pass. -/
def ring0 : Ring :=
  { Ring.init with armed := true, cfg := BitVec.ofNat 512 (1 * 2 ^ 13 + 1 * 2 ^ (128 + 48)), lim := 1
                   slots := [⟨.full, .full⟩, ⟨.free, .free⟩], tail := 1 }

/-- The module with braid 0 busy with the sentence `x` and the ring as ring 0. -/
def ringed (x : BitVec 512) (r : Ring) : State := up.setBraid 0 ((busy x).setRing 0 r)

theorem syncEnds_met :
    clauseOp 0 (clauseOf (busy (sent 0 2 0)).cur 0) = 2 ∧ clauseOp 0 (clauseOf (busy (sent 0 5 1)).cur 0) = 5 ∧
    (clauseOf (busy (sent 0 5 1)).cur 0).getLsbD 0 = true ∧ (clauseOf (busy (sent 0 5 0)).cur 0).getLsbD 0 = false ∧
    (let c := clauseOf (busy (sent 0 7 (2 ^ 12 + 62 + 1 * 2 ^ 6))).cur 0
     c.getLsbD 12 = true ∧ fld c 0 6 ≤ 63 ∧ 63 ≤ fld c 0 6 + fld c 6 6) ∧
    (clauseOf (busy (sent 0 7 0)).cur 0).getLsbD 12 = false ∧ clauseOp 0 (clauseOf (busy (sent 0 8 3)).cur 0) = 8 ∧ (busy (sent 0 8 3)).ctl = .none ∧
    (let b := busy (sent 0 1 0)
     clauseOp 0 (clauseOf b.cur 0) = 1 ∧ b.ctl ≠ .stop ∧ b.nextPc.1 < b.sents.length) := by decide +kernel

/-- R112, R216: SWAIT on a ready slot, on one that is not ready, on a ring that is not armed, and after a wait that is over. -/
theorem swaitStarts_met :
    (let s := ringed (sent 0 3 0) ring0
     (s.braid 0).swaits = true ∧ (s.braid 0).waitDone = none ∧ ((s.braid 0).ring 0).armed = true ∧ ((s.braid 0).ring 0).waitOver 1 = true) ∧
    (let s := ringed (sent 0 3 (1 * 2 ^ 49)) ring0
     (s.braid 0).swaits = true ∧ ((s.braid 0).ring 0).armed = true ∧ ((s.braid 0).ring 0).waitOver 2 = false) ∧
    (let s := run (sent 0 3 0)
     (s.braid 0).swaits = true ∧ ((s.braid 0).ring 0).armed = false) ∧
    (let s := up.setBraid 0 { (busy (sent 0 3 0)).setRing 0 ring0 with waitDone := some true }
     (s.braid 0).swaits = true ∧ (s.braid 0).waitDone = some true ∧ after (exec (.swait 0) s) (fun t => (t.braid 0).tflag) = true) := by decide +kernel

/-- R215: the condition and the timeout meet in the same cycle; the braid waits from cycle 5 with TIMEOUT 9. -/
theorem swaitEnds_met :
    (let s := up.setBraid 0 { (busy (sent 0 3 (9 * 2 ^ 32))).setRing 0 ring0 with phase := .waiting, waitAt := 5 }
     s.waits 0 9 = true ∧ ((s.braid 0).ring 0).waitOver 1 = true ∧ fld (clauseOf (s.braid 0).cur 0) 32 16 = 9 ∧
       after (exec (.swaitEnd 0 9) s) (fun t => (t.braid 0).tflag == false && (t.braid 0).issueAt == 15) = true) ∧
    (let s := up.setBraid 0 { (busy (sent 0 3 (1 * 2 ^ 49 + 9 * 2 ^ 32))).setRing 0 ring0 with phase := .waiting, waitAt := 5 }
     s.waits 0 9 = true ∧ after (exec (.swaitTimeout 0) s) (fun t => (t.braid 0).tflag && (t.braid 0).tel.timeouts == 1) = true) := by decide +kernel

/-- R217: SREL hands over the slot at HEAD. -/
theorem test_srel_frees_the_slot_at_head :
    after (exec (.srel 0) (ringed (sent 0 4 0) ring0)) (fun t =>
      ((t.braid 0).ring 0).head == 1 && ((t.braid 0).ring 0).slots.head? == some ⟨.free, .full⟩) = true := by decide +kernel

theorem clauseFrame_met : up.tablesOk = true ∧ (run (sent 1 1 core)).tablesOk = true := by decide +kernel

/-- R126: a vector clause whose limb the chain does not have, on every clause command of slot 2. -/
theorem failedCheckStops_met :
    let s := run (sent 2 1 (1 * 2 ^ 62))
    let b := s.braid 0
    s.live = true ∧ b.canIssue = true ∧ b.todo.head? = some 2 ∧ opIs 2 1 (clauseOf b.cur 2) = true ∧ b.exportHeld = false ∧ b.issued = [] ∧
      b.failing = some (Status.chainMismatch, 2) ∧
      after (exec (.vectorAdd 0) s) (fun t => (t.braid 0).phase == .stopped && (t.braid 0).flights.isEmpty) = true := by decide +kernel

/-- R124: a scalar result of core 0 lands. -/
theorem resultLands_met :
    let p := (busy 0).cores.map (fun k => wordPart k (k + 7) false)
    let b : Braid := { busy 0 with flights := [{ due := 5, clause := 1, order := 0, dest := .s 31, merge := .replace, xport := none, parts := p }] }
    let s := up.setBraid 0 b
    (s.braid 0).nextDue = some 5 ∧ (s.braid 0).mayLand 5 = true ∧
      after (exec (.resultLanding 0) s) (fun t => ((t.braid 0).getS 63 31).val == 70 && (t.braid 0).flights.isEmpty) = true := by decide +kernel

theorem weaveExchanges_met :
    (let s := run (sent 0 6 (2 ^ 39))
     s.issues 0 0 (opIs 0 6) = true ∧ (s.braid 0).ecc2 = []) ∧
    (let b : Braid := { busy (sent 0 6 0) with issueAt := 30, weave := some { due := 30, issuedAt := 5, pc := 0, runs := [{ core := 3, addr := 64, step := 8, data := [[7, 8]] }] } }
     let s := up.setBraid 0 b
     (s.braid 0).weave.isSome = true ∧ (s.braid 0).flights = [] ∧ (s.braid 0).clear = [] ∧ (s.braid 0).ecc2 = [] ∧ (s.braid 0).mayReach 30 = true ∧
       after (exec (.weaveLanding 0) s) (fun t => (t.braid 0).spByte 3 65 == 8) = true) := by decide +kernel

theorem drainsAndWipesEnd_met :
    (let b : Braid := { busy 0 with phase := .draining, hitchReq := true }
     let s := up.setBraid 0 b
     s.live = true ∧ (s.braid 0).drained = true ∧ (s.braid 0).pllUp = true ∧ (s.braid 0).linkDown = false ∧ (s.braid 0).passDue = false ∧
       (s.braid 0).preempt = none ∧ after (exec (.hitchDrainEnd 0) s) (fun t => (t.braid 0).phase == .issuing && (t.braid 0).tel.hitch == 1) = true) ∧
    (let b : Braid := { busy 0 with clear := [(15, [{ region := 63, keep := false }])], sealMap := 0x8000000000000000, sp := [(63 * 256, 1)] }
     let s := up.setBraid 0 b
     Sparse.get [] (s.braid 0).clear 15 = [{ region := 63, keep := false }] ∧
       after (exec (.sealClearingDone 0 15) s) (fun t => (t.braid 0).sealMap == 0) = true) ∧
    (let s := up.setBraid 0 { busy 0 with phase := .wiping }
     (s.braid 0).phase = .wiping ∧ (s.braid 0).pllUp = true) := by decide +kernel

/-! ## Stream rings -/

/-- A descriptor that moves one byte from memory to scratchpad byte 0 of core 0. -/
def oneByte : BitVec 512 := 1 + BitVec.ofNat 512 (2 ^ 21 * 2 ^ 64)

/-- A descriptor that moves one byte from scratchpad byte 0 of core 0 to page 1. -/
def oneOut : BitVec 512 := 1 + 2 ^ 4 + BitVec.ofNat 512 (2 ^ 21 * 2 ^ 128)

/-- A deposit ring with its one descriptor read. -/
def deposit : Ring :=
  { Ring.init with armed := true, cfg := BitVec.ofNat 512 (2 ^ 13 + 64 * 2 ^ 64 + (2 ^ 21 + 2 ^ 48) * 2 ^ 128), lim := 1
                   slots := [⟨.free, .free⟩, ⟨.free, .free⟩], cache := [oneByte] }

/-- Braid 0 of tenancy 1 with the ring as ring 31 and every bank the mover's. -/
def dealt (r : Ring) : State := (tenanted [0xA5]).setBraid 0 { (busy 0).setRing 31 r with bankMap := 0xFFFF }

def xfer0 : Xfer := { slot := 0, descs := [oneByte], first := 0, data := true, slice := 0, elem := 0, wait := .deferred, cover := [], banks := [] }

theorem slotsChangeHands_met :
    (let s := dealt deposit
     let b := s.braid 0
     let q := b.ring 31
     s.live = true ∧ b.mayStart 31 = true ∧ q.kind = 0 ∧ q.collect 17 q.next = some ([oneByte], true) ∧
       s.checkXfer b (b.ten.getD 0) q [q.slice 0 oneByte] true = none ∧
       after (exec (.slotTransferStart 0 31) s) (fun t => (t.braid 0).spByte 0 0 == 0xA5) = true) ∧
    (let s := dealt { deposit with xfer := some { xfer0 with wait := .done } }
     ((s.braid 0).ring 31).rearm = false ∧ ((s.braid 0).ring 31).kind ≠ 3 ∧
       after (exec (.slotTransferDone 0 31) s) (fun t => ((t.braid 0).ring 31).slots.head? == some ⟨.inflight, .full⟩) = true) ∧
    (let s := dealt { deposit with armed := true, rearm := true, cfg := 2 * 2 ^ 9 }
     ((s.braid 0).ring 31).kind = 2 ∧ after (exec (.affinityHoldExpiry 0 31) s) (fun t => !((t.braid 0).ring 31).armed) = true) := by decide +kernel

theorem streamsGoOn_met :
    (∀ w ∈ [XferWait.deferred, .owner],
     let s := dealt { deposit with xfer := some { xfer0 with wait := w } }
     ((s.braid 0).ring 31).kind ≠ 2 ∧ (s.braid 0).phase = .issuing ∧ (s.braid 0).dmaWait? ((s.braid 0).waitAddrs 31 { xfer0 with wait := w }) = none ∧
       after (exec (.deferredDmaAccess 0 31) s) (fun t => (t.braid 0).spByte 0 0 == 0xA5) = true) ∧
    (let s := (dealt { deposit with xfer := some xfer0 }).modBraid 0 (fun b => { b with bankMap := 0 })
     (s.braid 0).dmaWait? ((s.braid 0).waitAddrs 31 xfer0) = some .owner ∧
       after (exec (.deferredDmaAccess 0 31) s) (fun t => (t.braid 0).spByte 0 0 == 0) = true) ∧
    (let s := dealt { deposit with cache := [] }
     let q := (s.braid 0).ring 31
     q.rearm = false ∧ q.kind = 0 ∧ q.burst = some 0 ∧ (s.braid 0).phase ≠ .stopped ∧ s.anyUnmapped 1 (q.prog + 64 * 0) 64 = false ∧ s.anySealedPage 1 (q.prog + 64 * 0) 64 = false ∧
       (s.readMem 1 (q.prog + 64 * 0) 64).2.2 = false ∧
       after (exec (.descriptorBurstFetch 0 31) s) (fun t => ((t.braid 0).ring 31).cache == [0xA5]) = true) ∧
    (let s := dealt { deposit with cfg := deposit.cfg + 2 ^ 9, xfer := some { xfer0 with descs := [oneOut], wait := .run }, halted := true }
     let q := (s.braid 0).ring 31
     q.halted = true ∧ q.xfer.isSome = true ∧ (∀ p ∈ q.haltPages, s.mem.backing.any (fun x => x.ten == 1 && x.page == p) = false ∧ s.migBlocked 1 p = false)) := by decide +kernel

/-- A header of the fields given, with its checksum. -/
def headed (x : Nat) : BitVec 512 := BitVec.ofNat 512 (x + recCrc (BitVec.ofNat 512 x) * 2 ^ 480)

/-- The header of a key object of tenancy 1: chain 0, two polynomials, its payload at page 1. -/
def keyObject : BitVec 512 := headed (1 + 4 * 2 ^ 8 + 1 * 2 ^ 16 + 2 * 2 ^ 72 + (2 ^ 21 + 4096) * 2 ^ 192)

/-- The two halves of a key page. -/
def keyHalves : List Byte := 5 :: List.replicate 63 0 ++ 6 :: List.replicate 63 0

/-- A key page of digit 0, position 0 over the prime 97 with eight lanes, its checksum over header and two halves of 64 bytes. -/
def keyHeader : List Byte :=
  let h := leBytes 8 (1 + 1 * 2 ^ 8) ++ leBytes 4 (3 * 2 ^ 24) ++ leBytes 4 0 ++ leBytes 8 97 ++ List.replicate 104 0
  h.take 12 ++ leBytes 4 (crc32c (h ++ keyHalves)).toNat ++ h.drop 16

def keyGroup (m : List Member) : Group :=
  { id := 0, hawser := 0, ten := 1, members := m, started := true, keyTva := BitVec.ofNat 48 (2 ^ 21), keyidx := 0, source := false, order := false
    passes := 1, chain := 0, keyset := 0, level := 0, present := [], keys := [], entry := 0, pass := 0, page := 0, read := none }

/-- The module with a group of the member given, the key object at page 1 and its first page 4,096 bytes on. -/
def keyed (m : List Member) : State :=
  let s := tenanted []
  { s with
    mem := { s.mem with cells := cellsAt 0 (leBytes 64 keyObject.toNat) ++ cellsAt 4096 keyHeader ++ cellsAt 8192 keyHalves }
    tens := [(1, { ten1 with primes := [{ q := 97, psi := 1, log2n := 0 }]
                             chains := [(0, [0, 0, 3, 1, 1, 1, 0, 0, 0, 0] ++ List.replicate 118 0)] })]
    sch := { s.sch with groups := [keyGroup m] }
    braids := [(0, { (busy 0).setRing 31 { deposit with cfg := BitVec.ofNat 512 (2 ^ 13 + 2 * 2 ^ 9 + 512 * 2 ^ 64), slots := [⟨.free, .free⟩, ⟨.free, .free⟩] } with bankMap := 0xFFFF })] }

def member0 : Member := { braid := 0, ring := 31, armed := true }

set_option maxRecDepth 1000000 in
/-- R231–R235: the group starts, takes its page, and its end delivers both halves of the page to the member's slot. -/
theorem keyPagesAreDelivered_met :
    (let s := keyed [member0]
     let g := keyGroup [member0]
     let c := ((s.ten 1).chain 0).getD ringChain
     let o := (s.takeSlots g).readMem 1 (2 ^ 21) 64
     let h := o.1.readMem 1 (keyPageTva keyObject c 0 0) 128
     s.live = true ∧ s.group 0 = some g ∧ (∀ m ∈ g.members, m.armed = true) ∧ s.groupReady g = true ∧ s.keyTva g = some (2 ^ 21) ∧
       (s.takeSlots g).anyUnmapped 1 (2 ^ 21) 64 = false ∧ pageAt c 0 false 0 = (0, 0) ∧ o.2.1 = leBytes 64 keyObject.toNat ∧ o.2.2 = false ∧
       o.1.anyUnmapped 1 (keyPageTva keyObject c 0 0) 128 = false ∧ h.2.2 = false ∧ h.1.keyCheck g keyObject h.2.1 0 0 = none ∧
       h.1.anySealedPage 1 (keyPageTva keyObject c 0 0) (4096 + 128) = false) := by decide +kernel

set_option maxRecDepth 1000000 in
theorem keyPageEnds_met :
    let s0 := keyed [member0]
    let k : KeyRead := { digit := 0, pos := 0, tva := BitVec.ofNat 48 (2 ^ 21 + 4096), hdr := keyHeader }
    let s := s0.modGroup 0 (fun g => { g with read := some k })
    let r := s.readMem 1 (k.tva.toNat + 4096) 128
    (s.group 0).map (·.read) = some (some k) ∧ (∀ m ∈ (keyGroup [member0]).members, s.memberWait m = none) ∧ kp k.hdr 0 63 1 = 0 ∧
      s.anyUnmapped 1 (k.tva.toNat + 4096) 128 = false ∧ r.2.2 = false ∧ cksumOk k.hdr r.2.1 = true ∧
      after (exec (.keyPageDone 0) (s.takeSlots (keyGroup [member0]))) (fun t => (t.braid 0).spByte 0 0 == 5 && (t.braid 0).spByte 0 1 == 6) = true := by
  decide +kernel

/-! ## Host queues -/

/-- R369, R370: an opcode of no row, the detail 0x02 — for a command of the pool and of the security core. -/
theorem refusedWhole_met :
    (let s := asked (tenanted []) 2 (word 0x20 0 0)
     let t := entry 2 (word 0x20 0 0)
     s.tok 0 = some t ∧ s.canStart t = true ∧ selOp 0x20 t.cmd = true ∧ s.cmdCheck t.fn t.cmd t.badDep t.id = some 0x04 ∧
       ended (exec (.map 0) s) 0x40 0x04 = true) ∧
    (let s := asked (tenanted []) 1 (word 0x40 4 0x12)
     let t := entry 1 (word 0x40 4 0x12)
     s.secUp = true ∧ s.lcs.wait = none ∧ s.canStart t = true ∧ selSvc 0x12 t.cmd = true ∧ s.cmdCheck t.fn t.cmd t.badDep t.id = some 0x06) := by decide +kernel

theorem entryRetires_met :
    let s := asked (tenanted []) 1 (word 0x02 0 0)
    s.tok 0 = some (entry 1 (word 0x02 0 0)) ∧ (entry 1 (word 0x02 0 0)).st ≠ .retiring ∧ (s.ten 1).mirrored = false ∧ (s.ten 1).st ≠ .orphaned ∧
      (s.ten 1).closing = none := by decide +kernel

theorem barrierCompletes_met :
    let s := asked (tenanted []) 1 (word 0x02 0 0)
    s.starts 0 (selOp 0x02) (entry 1 (word 0x02 0 0)) = true ∧ ended (exec (.barrier 0) s) 0 0 = true := by decide +kernel

/-- R363: TAIL at the size of a ring of 16 sets ERR. -/
theorem ringRegisterWrites_met :
    up.hqUp = true ∧ (up.sq 0 3).en = false ∧ (up.fn 0).cq.en = false ∧ (1 : W64).getLsbD 0 = true ∧ (0 : W64).getLsbD 0 = false ∧
    (let s := up.setSq 0 3 { SqRing.init with en := true }
     (s.sq 0 3).en = true ∧ after (exec (.sqTailWrite 0 3 16) s) (fun t => (t.sq 0 3).err) = true ∧
       after (exec (.sqTailWrite 0 3 15) s) (fun t => !(t.sq 0 3).err && (t.sq 0 3).tail == 15) = true) ∧
    (let s := up.setFn 0 { FnSt.init with cq := { CqRing.init with en := true, used := 3 } }
     (s.fn 0).cq.en = true ∧ after (exec (.cqHeadWrite 0 2) s) (fun t => (t.fn 0).cq.used == 1) = true) := by decide +kernel

/-- R364: the last command before the ring's end, of one fetch of 16 at most; a KERNEL command and another. -/
theorem fetchTakesCommands_met :
    (let s := (tenanted []).setSq 0 0 { SqRing.init with en := true, tail := 0, head := 15 }
     s.canFetch 0 0 1 = true ∧ after (exec (.commandFetch 0 0 [word 0x02 0 0]) s) (fun t => (t.sq 0 0).head == 0 && t.sch.pool.length == 1) = true) ∧
    cmdOpcode (word 0x01 0 0) = 0x01 ∧ cmdOpcode (word 0x41 0 (2 ^ 4)) ≠ 0x01 ∧ cmdOpcode (word 0x02 0 0) ≠ 0x40 ∧ cmdKnown (word 0x02 0 0) = true := by
  decide +kernel

/-- R366: a completion for the last place of a ring of 16 turns PHASE. -/
theorem completionsAreWritten_met :
    (let u : Token := { entry 1 (word 0x02 0 0) with st := .retiring }
     let s0 : State := { up with sch := { up.sch with pool := [u], order := [0] } }
     let s := s0.setFn 1 { FnSt.init with cq := { CqRing.init with en := true, tail := 15 } }
     (s.fn 1).cq.en = true ∧ (s.fn 1).cq.used < (s.fn 1).cq.size ∧
       (s.sch.order.filterMap s.tok).find? (fun t => t.cfn == (1 : Fn) && s.mayWrite t && !s.closeWaits t) = some u ∧
       after (exec (.completionWrite 1) s) (fun t => (t.fn 1).cq.tail == 0 && !(t.fn 1).cq.phase && t.sch.pool.isEmpty) = true) ∧
    (let s := up.setFn 1 { FnSt.init with cq := { CqRing.init with en := true, delay := 1, since := 1 } }
     s.hqUp = true ∧ (s.fn 1).cq.delay ≠ 0 ∧ 0 < (s.fn 1).cq.since ∧
       after (exec (.completionDelayExpiry 1) s) (fun t => (t.src 0x101).pending) = true) := by decide +kernel

theorem portEvents_met :
    let s : State := { up with sys := { up.sys with links := [(0, some { rate := 5, lanes := 4, flit := true }), (1, some { rate := 0, lanes := 16, flit := false })] } }
    s.pins.powered = true ∧ after (exec (.d3hotEntry (.ctrl 16)) s) (fun t => (t.fn 16).d3hot) = true ∧
      after (exec (.d3hotEntry (.bulk .b)) s) (fun t => (t.port .b).d3hot && !(t.port .a).d3hot) = true ∧
      s.linkUp .control = true ∧ (MarginPoint.mk .control 3 true false 64 none).lane.toNat < s.lanes .control ∧ 15 < s.lanes .bulkA ∧
      after (exec (.laneMargining (.mk .control 3 true false 64 none)) s) (fun t => t.draws == 1) = true ∧
      after (exec (.laneMargining (.mk .control 3 true false 65 none)) s) (fun t => t.draws == 0) = true ∧
      after (exec (.laneMargining (.mk .control 0 false false 0 (some .timingSteps))) s) (fun t => t.out == [.readData 32]) = true := by decide +kernel

/-! ## Interrupts -/

/-- The module with sources 0x101 and 0x100 pending at the priority given for the first. -/
def rung (p : BitVec 4) : State :=
  let s := (up.setSrc 0x100 { SrcSt.init with pending := true }).setSrc 0x101 { SrcSt.init with pending := true }
  { s with ic := { s.ic with cfgs := [(0x100, some { target := 0, prio := 9, en := true }), (0x101, some { target := 0, prio := p, en := true })] } }

/-- R496: of two sources of one priority the lower identity is claimed, else the higher priority. -/
theorem claims_met :
    (rung 9).live = true ∧ (rung 9).tablesOk = true ∧ (rung 9).deliverables 0 ≠ [] ∧
      after (exec (.interruptClaim 0) (rung 9)) (fun t => t.out == [.readData 0x100] && (t.src 0x100).active && (t.src 0x101).pending) = true ∧
      after (exec (.interruptClaim 0) (rung 10)) (fun t => t.out == [.readData 0x101]) = true ∧
      up.deliverables 0 = [] ∧ after (exec (.interruptClaim 0) up) (fun t => t.out == [.readData 0x7FF] && (t.tgt 0).spurious == 1) = true ∧
      isLevel 0x100 = false ∧ ((rung 9).src 0x100).pending = true := by decide +kernel

theorem messagesClaim_met :
    (let s := (rung 9).setTgt 0 { Tgt.init with masked := false }
     s.ready .ctrl = true ∧ (s.tgt 0).masked = false ∧ s.deliverables 0 ≠ [] ∧ s.autoMode 0 = true ∧ (s.tgt 0).claimed = none) ∧
    (let s := (rung 9).setTgt 0 { Tgt.init with masked := false, auto := false }
     s.deliverables 0 ≠ [] ∧ s.autoMode 0 = false ∧ (s.tgt 0).sent = false) ∧
    (let s := up.setTgt 0 { Tgt.init with claimed := some 0x100, stack := [(9, 0x100)] }
     (s.tgt 0).claimed = some 0x100 ∧ after (exec (.msixTlpAck 0) s) (fun t => (t.tgt 0).stack.isEmpty) = true) := by decide +kernel

/-- R497: the identity at the top of the stack, another one, and an empty stack. -/
theorem endOfInterrupt_met :
    (let s := up.setTgt 63 { Tgt.init with stack := [(9, 0x100), (3, 0x101)] }
     (s.tgt 63).stack = [(9, 0x100), (3, 0x101)] ∧ after (exec (.endOfInterrupt 63 0x100) s) (fun t => (t.tgt 63).stack == [(3, 0x101)]) = true ∧
       ((s.tgt 63).stack.head?).map Prod.snd ≠ some 0x101 ∧
       after (exec (.endOfInterrupt 63 0x101) s) (fun t => (t.tgt 63).stack.length == 2 && (t.tgt 63).badEoi == 1) = true) ∧
    ((up.tgt 63).stack.head?).map Prod.snd ≠ some 0 := by decide +kernel

/-! ## Device memory -/

/-- A page command of tenancy 1 over `n` pages from page `p`, with the bits `x` of body byte 12. -/
def pages (op p n x : Nat) : State × Token := (asked (tenanted [1, 2, 3]) 1 (word op 0 (p * 2 ^ 21 + n * 2 ^ 64 + x * 2 ^ 96)), entry 1 (word op 0 (p * 2 ^ 21 + n * 2 ^ 64 + x * 2 ^ 96)))

/-- R372: MAP on unmapped pages and on a mapped one, FREE and UNMAP of the backed one, PIN of it. -/
theorem pageCommands_met :
    (let x := pages 0x20 2 2 1
     x.1.pageCmd 0 0x20 x.2 = true ∧ (∀ k ∈ x.2.pgList, ((x.1.begun x.2).pte 1 k).state = .unmapped) ∧
       after (exec (.map 0) x.1) (fun t => (t.pte 1 3).state == .mapped && (t.pte 1 3).sealed) = true) ∧
    (let x := pages 0x20 0 2 0
     x.1.pageCmd 0 0x20 x.2 = true ∧ (∃ k ∈ x.2.pgList, ((x.1.begun x.2).pte 1 k).state ≠ .unmapped) ∧ ended (exec (.map 0) x.1) 0x40 0x0A = true) ∧
    (let x := pages 0x22 1 1 0
     x.1.pageCmd 0 0x22 x.2 = true ∧ (∀ k ∈ x.2.pgList, ((x.1.begun x.2).pte 1 k).state ≠ .unmapped) ∧
       after (exec (.free 0) x.1) (fun t => (t.pte 1 1).state == .mapped && (t.ten 1).ring.alloc == 0) = true) ∧
    (let x := pages 0x23 1 1 0
     x.1.pageCmd 0 0x23 x.2 = true ∧ (∀ k ∈ x.2.pgList, ((x.1.begun x.2).pte 1 k).state ≠ .unmapped) ∧
       (x.1.begun x.2).windowOver 1 x.2.pgTva (2 ^ 21 * x.2.pgCount) = false ∧ after (exec (.unmap 0) x.1) (fun t => (t.pte 1 1).state == .unmapped) = true) ∧
    (let x := pages 0x24 1 1 1
     x.1.pageCmd 0 0x24 x.2 = true ∧ x.2.pgList = [1] ∧ ((x.1.begun x.2).pte 1 1).state ≠ .unmapped ∧ ((x.1.begun x.2).pte 1 1).pin ≠ x.2.bodyBit 12 0 ∧
       ((x.1.begun x.2).pte 1 1).bulk = false ∧ after (exec (.pin 0) x.1) (fun t => (t.pte 1 1).pin) = true) := by decide +kernel

/-- R257: a mapped page with quota, a backed one, and a mapped one without quota. -/
theorem allocBacksPages_met :
    (let s0 := (tenanted []).setPte 1 2 { Pte.init with state := .mapped }
     let s := asked s0 1 (word 0x21 0 (2 * 2 ^ 21 + 2 ^ 64))
     let t := entry 1 (word 0x21 0 (2 * 2 ^ 21 + 2 ^ 64))
     let b := s.begun t
     s.pageCmd 0 0x21 t = true ∧ t.pgList = [2] ∧ b.tierFitted false = true ∧ b.tierOpen false = true ∧ (b.pte 1 2).state = .mapped ∧
       b.mem.backing = [] ∧ ((b.ten 1).book false).avail ≠ 0 ∧ b.tierHasFrame false = true ∧
       (let z := s0.setTen 1 { s0.ten 1 with ring := { quota := 1, alloc := 1 } }
        ended (exec (.alloc 0) (asked z 1 (word 0x21 0 (2 * 2 ^ 21 + 2 ^ 64)))) 0x22 0 = true)) ∧
    (let x := pages 0x21 1 1 0
     x.1.pageCmd 0 0x21 x.2 = true ∧ (x.1.begun x.2).tierOpen false = true ∧ ((x.1.begun x.2).pte 1 1).backed = true) := by decide +kernel

/-- R260: a scrub of a frame with nothing waiting for it; a backing with a frame taken. -/
theorem backingsAndScrubsEnd_met :
    (let s0 := tenanted []
     let p : Pte := { Pte.init with state := .mapped, homeft := true }
     let k : Backing := { ten := 1, page := 2, hawser := true, bulk := false, place := some (true, 11, 65535), cmd := none }
     let s1 := s0.setPte 1 2 p
     let s : State := { s1 with mem := { s1.mem with backing := [k] } }
     s.live = true ∧ s.tablesOk = true ∧ s.mem.backing.find? (fun b => b.ten == (1 : Tid) && b.page == (2 : BitVec 27).toNat && b.place.isSome) = some k ∧
       after (exec (.pageBackingDone 1 2) s) (fun t => (t.pte 1 2).state == .backed && (t.pte 1 2).home && (t.pte 1 2).frame == 65535) = true) ∧
    (let s0 := tenanted [7]
     let s : State := { s0 with mem := { s0.mem with use := [(0, some (.scrubbing 1))] } }
     s.tablesOk = true ∧ s.frameUse 0 = some (.scrubbing 1) ∧ s.mem.backing.find? (fun b => b.bulk == idBulk 0 && b.place.isNone) = none ∧
       after (exec (.frameScrubDone 0) s) (fun t => t.mem.byte 0 == 0 && (t.frameUse 0).isNone) = true) := by decide +kernel

/-- R272: a write that ends with its page, of a line that the tenancy has open. -/
theorem writesAreReadBack_met :
    let s0 := tenanted [9]
    let s : State := { s0 with mem := { s0.mem with wc := [{ line := 0, mask := 1, data := 5, ten := 1 }] } }
    s.tablesOk = true ∧ (s.pte 1 (pageOf (2 ^ 22 - 2))).backed = true ∧ 2 ^ 22 - 2 < 2 ^ 48 ∧ (2 ^ 22 - 2) % 2 ^ 21 + 2 ≤ 2 ^ 21 ∧
      (∀ w ∈ s.mem.wc, w.line / 2 ^ 15 = (s.pte 1 1).id → w.ten = (1 : Tid)) ∧ (s.mem.wc.filter (fun w => lineSet w.line == lineSet ((s.pte 1 (pageOf (2 ^ 22 - 2))).id * 2 ^ 15))).length + 2 / 64 + 2 ≤ 256 ∧
      (s.pte 1 1).sealed = false ∧ s.frameUse (s.pte 1 1).id = some (.allocated 1 (pageOf (2 ^ 22 - 2))) ∧
      (∀ w ∈ s.mem.wc, s.frameUse (w.line / 2 ^ 15) = some (.allocated 1 1)) ∧
      (s.writeBacked 1 (2 ^ 22 - 2) [1, 2]).peek 1 (2 ^ 22 - 2) 2 = [1, 2] := by
  decide +kernel

/-- A page of tenancy 1 backed in the bulk tier, a candidate of its pager; another away from its home. -/
def moving : State :=
  let s := tenanted []
  let s := s.setTen 1 { ten1 with ptes := [(0, some [(1, { page1 with bulk := true }), (2, { page1 with hawser := true, frame := 5 })])] }
  { s with mem := { s.mem with pagers := [(0, { Pager.init with cand := NatSet.add [] (pageKey 1 1), lowWater := 391166 })] } }

theorem migrationsStart_met :
    (let s := moving
     s.migrates = true ∧ s.promotable 1 1 = true ∧ 1 ≤ ((s.ten 1).book false).avail ∧ s.roomFor false (s.destHawser false (s.pte 1 1).home) (s.pte 1 1) = true ∧
       (s.pte 1 2).state = .backed ∧ (s.pte 1 2).hawser ≠ (s.pte 1 2).home ∧ (s.pte 1 2).homeft = false ∧
       s.roomFor (s.pte 1 2).bulk (s.pte 1 2).home (s.pte 1 2) = true) ∧
    (let s0 := tenanted []
     let s : State := { s0 with mem := { s0.mem with pagers := [(0, { Pager.init with lowWater := 0xFFFFFF })] } }
     s.tablesOk = true ∧ s.mem.use.filter (fun x => x.1 / 2 ^ 20 == tierKey false false) = [(0, some (.allocated 1 1))] ∧
       s.frameUse 0 = some (.allocated 1 1) ∧ s.freeFrames false false < (s.pager false).lowWater.toNat ∧ s.migsOn false < 4 ∧
       (s.pte 1 1).ref = false ∧ (s.pte 1 1).pin = false ∧ ((s.ten 1).book true).avail ≠ 0 ∧ s.tierOpen true = true ∧
       (let z := s.setPte 1 1 { page1 with ref := true }
        (z.pte 1 1).ref = true ∧ after (exec (.demotionSweep .h0) z) (fun t => (t.pte 1 1).ref == false) = true)) := by decide +kernel

/-- A migration of page 1, as `f` leaves it. -/
def migrating (f : Mig → Mig) (dbulk : Bool) : State :=
  let s := tenanted []
  let s := s.setTen 1 { ten1 with ptes := [(0, some [(1, { page1 with state := .migrating, dbulk := dbulk, dset := 3 })])] }
  { s with mem := { s.mem with migs := [f { ten := 1, page := 1, pager := 0, kind := .demote, passes := 1, work := [], dirty := [], blocked := false, clean := false }] } }

theorem migrationsGoOn_met :
    (let s := migrating (fun m => { m with dirty := NatSet.add [] 5, passes := 3 }) true
     ∃ m, s.mig 1 1 = some m ∧ m.dirty ≠ [] ∧ m.clean = false ∧ m.passes ≠ 0 ∧ m.passes < 4) ∧
    (let s := migrating (fun m => { m with dirty := NatSet.add [] 5, passes := 4 }) true
     ∃ m, s.mig 1 1 = some m ∧ m.dirty ≠ [] ∧ m.clean = false ∧ 4 ≤ m.passes ∧ m.blocked = false ∧
       after (exec (.migrationPassEnd 1 1) s) (fun t => (t.pager false).blocked == 1) = true) ∧
    (let s := migrating (fun m => { m with dirty := NatSet.add [] 5, passes := 4, clean := true }) true
     ∃ m, s.mig 1 1 = some m ∧ m.dirty ≠ [] ∧ m.clean = true ∧
       after (exec (.migrationPassEnd 1 1) s) (fun t => (t.pager false).blocked == 0 && (t.mig 1 1).any (fun x => x.passes == 4)) = true) ∧
    (let s := migrating id true
     ∃ m, s.mig 1 1 = some m ∧ m.dirty = [] ∧ m.clean = false ∧ m.passes ≠ 0) ∧
    (let s := migrating (fun m => { m with clean := true }) true
     ∃ m, s.mig 1 1 = some m ∧ m.clean = true ∧ m.dirty = [] ∧ s.tierOpen (s.pte 1 1).dbulk = true ∧ 1 ≤ ((s.ten 1).book (s.pte 1 1).dbulk).avail ∧
       after (exec (.migrationCommit 1 1) s) (fun t => (t.pte 1 1).bulk && (t.pte 1 1).state == .backed && (t.pte 1 1).set == 3) = true) ∧
    (let s0 := migrating (fun m => { m with clean := true }) true
     let s := s0.setTen 1 { s0.ten 1 with bulk := { quota := 0, alloc := 0 } }
     ∃ m, s.mig 1 1 = some m ∧ m.clean = true ∧ m.dirty = [] ∧ (s.pte 1 1).dbulk ≠ (s.pte 1 1).bulk ∧ ((s.ten 1).book (s.pte 1 1).dbulk).avail = 0 ∧
       after (exec (.migrationCommit 1 1) s) (fun t => !(t.pte 1 1).bulk && (t.pager false).aborted == 1) = true) ∧
    (let s0 := migrating (fun m => { m with clean := true }) true
     let s := s0.setTier true false { s0.tier true false with offline := true }
     ∃ m, s.mig 1 1 = some m ∧ m.clean = true ∧ m.dirty = [] ∧ s.tierOpen (s.pte 1 1).dbulk = false ∧
       after (exec (.migrationCommit 1 1) s) (fun t => !(t.pte 1 1).bulk && (t.pager false).aborted == 1) = true) := by
  refine ⟨⟨_, rfl, ?_⟩, ⟨_, rfl, ?_⟩, ⟨_, rfl, ?_⟩, ⟨_, rfl, ?_⟩, ⟨_, rfl, ?_⟩, ⟨_, rfl, ?_⟩, ⟨_, rfl, ?_⟩⟩ <;> decide +kernel

/-- R263: counts of the epoch are halved; a page whose count reaches zero keeps its entry. -/
theorem test_epoch_halves_the_counts :
    let s : State := { up with mem := { up.mem with pagers := [(0, { Pager.init with counts := [(3, (1, 5)), (4, (1, 1))], cand := NatSet.add [] 3 })] } }
    s.live = true ∧ after (exec (.pagerEpochEnd .h0) s) (fun t => (t.pager false).counts == [(3, (1, 2)), (4, (1, 0))] && (t.pager false).cand == []) = true := by
  decide +kernel

theorem pageCommandsKeepBytes_met : after (exec (.map 0) (pages 0x20 2 1 0).1) (fun t => t.mem.byte 2 == 3) = true ∧ (∃ t, exec (.map 0) up = .next t) :=
  ⟨by decide +kernel, _, rfl⟩

theorem flushesShowNothing_met :
    (let s0 := tenanted []
     let w : WcEntry := { line := 1, mask := 1, data := 5, ten := 1 }
     let s : State := { s0 with mem := { s0.mem with wc := [w] } }
     s.mem.wc.find? (fun x => x.line == 1) = some w ∧ s.tablesOk = true ∧
       s.frameUse (1 / 2 ^ 15) = some (.allocated 1 1) ∧ (s.pte 1 1).sealed = false ∧
       after (exec (.wcAgeFlush 1) s) (fun t => t.mem.byte 64 == 5 && t.mem.wc.isEmpty && (t.tier false false).aged == 1) = true) ∧
    (let s0 := tenanted []
     let w : WcEntry := { line := 1, mask := 1, data := 5, ten := 1 }
     let s : State := { s0 with
       tens := [(1, { ten1 with xts := some 0, ptes := [(0, some [(1, { page1 with sealed := true })])] })], mem := { s0.mem with wc := [w] } }
     s.mem.wc.find? (fun x => x.line == 1) = some w ∧ s.tablesOk = true ∧ s.frameUse (1 / 2 ^ 15) = some (.allocated 1 1) ∧
       (s.pte 1 1).sealed = true ∧ (s.ten 1).xts.isSome = true) ∧
    (let u : Token := { entry 1 (word 0x01 0 0) with kernel := true, st := .running, braid := some 0 }
     let s0 := (tenanted []).setBraid 0 { busy 0 with phase := .ended }
     let s : State := { s0 with sch := { s0.sch with pool := [u] } }
     s.tok 0 = some u ∧ u.braid = some 0 ∧ u.st = .running ∧ (s.braid 0).phase = .ended ∧ (s.braid 0).tok = some 0) := by decide +kernel

/-! ## Tiers -/

/-- R277: 84 °C keeps the normal rate, 85 °C doubles it; 105 °C is the last a module may reach (R544). -/
theorem temperatureSetsRefresh_met :
    (tenanted []).live = true ∧ ((tenanted []).setsOf false false).contains 11 = true ∧
    (∀ c ∈ [(84 : Byte), 85, 94, 95, 104], after (exec (.memTempRead ⟨.ring, .h0, 11⟩ c) (tenanted []))
      (fun t => Sparse.get 0 (t.tier false false).rates 11 == (if c = 84 then 0 else if c.toNat < 95 then 1 else 2)) = true) ∧
    (let s := (tenanted []).setTier false false { TierSt.init with sets := 0xFFF, rates := [(11, 1)] }
     after (exec (.memTempRead ⟨.ring, .h0, 11⟩ 82) s) (fun t => Sparse.get 0 (t.tier false false).rates 11 == 1) = true ∧
     after (exec (.memTempRead ⟨.ring, .h0, 11⟩ 81) s) (fun t => Sparse.get 0 (t.tier false false).rates 11 == 0) = true) := by decide +kernel

theorem tiersAreMargined_met :
    up.live = true ∧ up.tierFitted false = true ∧ up.tierUsed false = false ∧ (tenanted []).tierUsed false = true ∧
      after (exec (.tierOfflineSet 0 .ring .h1) up) (fun t => (t.tier false true).offline) = true ∧
    (let s := up.setTier false true { TierSt.init with offline := true, sets := 0xFFF }
     (s.tier false true).offline = true ∧ (0x8000000000000002 : W64).getLsbD 63 = true ∧ s.mem.margin.getLsbD 63 = false ∧
       after (exec (.marginGo 0 0x8000000000000002) s) (fun t => t.mem.margin == 0x8000000000000002 && (t.tier false true).margined == 1) = true ∧
       after (exec (.marginGo 0 0x8000000000000000) s) (fun t => t.mem.mDone && t.mem.mRefuse) = true) ∧
    (let s : State := { up with mem := { up.mem with margin := 0x8000000000000000 } }
     s.mem.margin.getLsbD 63 = true) := by decide +kernel

/-- A module whose units have all passed their tests. -/
def tested : State :=
  { up with bist := { Bist.init with units := (List.range 89).map (fun u => (u, { UnitSt.init with result := 1 })) } }

theorem tiersComeUp_met :
    (let s := tested
     let s1 := s.setTier false false (({ s.tier false false with trained := 2 ^ 11, sets := 2 ^ 11 } : TierSt).wipeIfTrained 12)
     s.sys.unserv = false ∧ s.unitsTested = true ∧ 11 < fittedSets s.fuses.part false ∧ bit (s.tier false false).trained 11 = false ∧ s1.noRing = false ∧
       after (exec (.memoryTrainingDone ⟨.ring, .h0, 11⟩ true) s) (fun t => (t.tier false false).sets == 2 ^ 11) = true ∧
       after (exec (.memoryTrainingDone ⟨.ring, .h0, 11⟩ false) s) (fun t => (t.tier false false).sets == 0 && (t.src (0x300 + 11)).pending) = true) ∧
    (let s0 := tenanted [7]
     let s := s0.setTier false false { TierSt.init with wiping := true, sets := 0xFFF, trained := 0xFFF }
     s.tablesOk = true ∧ (s.tier false false).wiping = true ∧ after (exec (.tierWipeDone .ring .h0) s) (fun t => t.mem.byte 0 == 0 && t.mem.use == []) = true) := by
  decide +kernel

/-! ## Windows -/

/-- WIN_OPEN of slot 1023 over one 4,096-byte block of page 1 on port A, for reads. -/
def winOpenWord : BitVec 512 := word 0x28 0 (1023 + (1 + 4) * 2 ^ 16 + 2 ^ 21 * 2 ^ 64 + 1 * 2 ^ 128)

theorem windowsOpenAndClose_met :
    (let s := asked (tenanted []) 1 winOpenWord
     let t := entry 1 winOpenWord
     let b := s.begun t
     s.starts 0 (selOp 0x28) t = true ∧ t.body 0 2 < 1024 ∧ (b.win (t.body 0 2)).st = .free ∧ t.bodyBit 2 2 = true ∧ t.bodyBit 2 3 = false ∧ b.cap.bulkA = true ∧
       t.body 8 8 % 4096 = 0 ∧ 0 < t.body 16 4 ∧ t.body 16 4 ≤ 262144 ∧ t.body 8 8 + 4096 * t.body 16 4 ≤ 2 ^ 48 ∧ t.bodyBit 2 1 = false ∧
       inCtx (t.body 8 8) (4096 * t.body 16 4) = false ∧ b.anyUnmapped 1 (t.body 8 8) (4096 * t.body 16 4) = false ∧
       (∀ p ∈ pagesOf (t.body 8 8) (4096 * t.body 16 4), (b.pte 1 p).sealed = false) ∧
       after (exec (.winOpen 0) s) (fun t => (t.win 1023).st == .open_ && (t.win 1023).openseq == 1) = true) ∧
    (let w := word 0x28 0 (1023 + (2 + 4) * 2 ^ 16 + 15 * 2 ^ 48 + 2 ^ 21 * 2 ^ 64 + 32 * 2 ^ 128)
     let s0 := (tenanted []).setTen 1 { ten1 with ptes := [(0, some [(1, { page1 with sealed := true })])], winKeys := [(15, some 7)] }
     let s := asked s0 1 w
     let t := entry 1 w
     let b := s.begun t
     s.starts 0 (selOp 0x28) t = true ∧ t.bodyBit 2 1 = true ∧ t.body 8 8 % 131072 = 0 ∧ t.body 16 4 % 32 = 0 ∧ t.body 16 4 ≤ 131072 ∧ t.body 6 1 < 16 ∧
       Sparse.get none (b.ten 1).winKeys (t.body 6 1) ≠ none ∧ (∀ p ∈ pagesOf (t.body 8 8) (4096 * t.body 16 4), (b.pte 1 p).sealed = true)) ∧
    (let s := asked ((tenanted []).setWin 1023 { Win.init with st := .open_, ten := 1, gen := 7 }) 1 (word 0x29 0 1023)
     s.starts 0 (selOp 0x29) (entry 1 (word 0x29 0 1023)) = true ∧ (s.port .a).bufs = [] ∧ (s.port .b).bufs = [] ∧
       (s.begun (entry 1 (word 0x29 0 1023))).tablesOk = true ∧ after (exec (.winClose 0) s) (fun t => (t.win 1023).st == .closed && (t.win 1023).gen == 8) = true) ∧
    (let s := asked ((tenanted []).setWin 0 { Win.init with st := .closed, ten := 1 }) 1 (word 0x2A 0 0)
     s.starts 0 (selOp 0x2A) (entry 1 (word 0x2A 0 0)) = true) ∧
    (let s := asked ((tenanted []).setWin 1023 { Win.init with st := .draining, ten := 1, drainTok := some 0, lateGen := 2 }) 1 (word 0x2A 0 1023)
     (s.win 1023).st = .draining ∧ (∀ h ∈ s.held, h.slot ≠ 1023) ∧ (s.win 1023).drainTok = some 0 ∧
       after (exec (.winDrainDone 1023) s) (fun t => (t.win 1023).st == .free && (t.tok 0).map (·.comp.value) == some 2) = true) := by decide +kernel

/-- A window over page 1 in slot 1, port A: `dir` is the direction of reads. -/
def windowed (dir : Bool) : State :=
  (tenanted [1, 2, 3]).setWin 1 { Win.init with st := .open_, ten := 1, dir := dir, portA := true, tva := BitVec.ofNat 48 (2 ^ 21), length := 1 }

/-- R374, R375: the last byte of a window, the first byte past it; a closed slot and a free one. -/
theorem windowAccesses_met :
    (let s := windowed false
     s.portServes .a = true ∧ (s.win 1).takes .a false 4095 1 0 = true ∧ (s.win 1).takes .a false 4095 2 0 = false ∧ (s.win 1).sealed = false ∧
       after (exec (.bar2Write .a (BitVec.ofNat 40 (2 ^ 30 + 4095)) 0 [9]) s) (fun t => t.peek 1 (2 ^ 21 + 4095) 1 == [9]) = true ∧
       [(9 : Byte)].length ≤ 512 ∧ after (exec (.bar2Write .a (BitVec.ofNat 40 (2 ^ 30 + 4095)) 0 [9, 9]) s) (fun t => (t.win 1).rejected == 1 && t.mem == s.mem) = true ∧
       (s.win 2).st = .free ∧ after (exec (.bar2Write .a (BitVec.ofNat 40 (2 ^ 31)) 0 [9]) s) (fun t => (t.port .a).stray == 1) = true ∧
       ((s.setWin 2 { Win.init with st := .closed }).win 2).st = .closed) ∧
    (let s := windowed true
     s.portServes .a = true ∧ (s.win 1).takes .a true 0 3 0 = true ∧ (s.win 1).takes .a true 4095 2 0 = false ∧
       after (exec (.bar2Read .a (BitVec.ofNat 40 (2 ^ 30)) 0 3) s) (fun t => t.out == [.barData [1, 2, 3] false]) = true ∧
       (s.win 2).st ≠ .open_) := by decide +kernel

theorem framesExpire_met :
    (let f : RecBuf := { slot := 1, frame := 4095, out := false, bytes := [], image := [], poison := [] }
     let s := (windowed false).setPort .b { PortSt.init with bufs := [f] }
     (s.port .b).bufs = [f] ∧ after (exec (.sealedFrameTimeout .b 1 4095) s) (fun t => (t.win 1).authFail == 1 && (t.src 0x121).pending) = true) ∧
    (let s := (tenanted []).setWin 1 { Win.init with st := .closed, lateLog := [⟨2, 7, 5, true⟩, ⟨1, 0, 1, false⟩] }
     (s.win 1).lateLog = ⟨2, 7, 5, true⟩ :: [⟨1, 0, 1, false⟩] ∧ after (exec (.lateWriteLog 1) s) (fun t => (t.win 1).lateLog == [⟨1, 0, 1, false⟩] && t.bbx.queue.length == 1) = true) := by decide +kernel

theorem sealedRecordsOpen_met : (List.replicate 131072 (0 : Byte)).length = 131072 ∧ 2 ^ 32 - 1 < 2 ^ 32 := ⟨List.length_replicate, by decide⟩

/-! ## Splices -/

/-- The tenancy may use every braid, splice 63 is as given, and the command as asked. -/
def spliced (x : Splice) (c : BitVec 512) : State :=
  let s := (tenanted []).setTen 1 { ten1 with braids := 0xFFFFFFFFFFFFFFFF }
  asked (s.setSplice 63 x) 1 c

theorem splicesOpenAndClose_met :
    (∀ p ∈ [2, 64], let c := word 0x30 0 (63 + p * 2 ^ 8 + 2 ^ 16)
     let s := spliced Splice.init c
     let t := entry 1 c
     let b := s.begun t
     s.starts 0 (selOp 0x30) t = true ∧ t.body 0 1 < 64 ∧ 2 ≤ t.body 1 1 ∧ t.body 1 1 ≤ 64 ∧ 0 < t.body 2 2 ∧ t.body 1 1 ≤ b.spliceBraids 1 ∧
       (b.splice 63).st = .free ∧ b.secUp = true ∧ b.drbgOk = true) ∧
    (let s := spliced { Splice.init with st := .ended, ten := 1, key := 9 } (word 0x31 0 63)
     s.starts 0 (selOp 0x31) (entry 1 (word 0x31 0 63)) = true ∧ (s.splice 63).notice = false ∧ (s.splice 63).trigger = none ∧ (s.splice 63).asked = [] ∧
       after (exec (.spliceClose 0) s) (fun t => (t.splice 63).st == .free && (t.splice 63).key == 0) = true) ∧
    (let s := spliced { Splice.init with st := .ended, ten := 1 } (word 0x32 0 63)
     s.starts 0 (selOp 0x32) (entry 1 (word 0x32 0 63)) = true ∧ (s.splice 63).over = true ∧
       after (exec (.spliceCompare 0) s) (fun t => (t.splice 63).st == .comparing) = true) ∧
    (let s := spliced { Splice.init with st := .comparing, ten := 1, trigger := some 9 } (word 0x32 0 63)
     s.starts 0 (selOp 0x32) (entry 1 (word 0x32 0 63)) = true ∧ (s.splice 63).over = true ∧
       after (exec (.spliceCompare 0) s) (fun t => (t.splice 63).asked == [0] && (t.splice 63).trigger == some 9) = true) := by
  decide +kernel

/-- A splice of tenancy 1 that runs on strands 14 and 15. -/
def running : Splice := { Splice.init with st := .running, ten := 1, p := 2, tiles := 9, strands := [14, 15] }

theorem linksFail_met :
    (let s := up.setRouter 15 { Router.init with up := true }
     s.live = true ∧ (s.router 15).up = true ∧ s.splicesOn 15 = [] ∧
       after (exec (.splicePathFail 15) s) (fun t => !(t.router 15).up && (t.src 0x33F).pending) = true) ∧
    (let s := (spliced running 0).setRouter 15 { Router.init with up := true }
     (s.router 15).up = true ∧ s.splicesOn 15 = [63] ∧ after (exec (.splicePathFail 15) s) (fun t => (t.splice 63).st == .failed) = true ∧
       after (exec (.strandLinkRecovery 15) s) (fun t => (t.splice 63).suspect) = true) ∧
    (let s := up.setRouter 0 { Router.init with retrain := true }
     (s.router 0).retrain = true ∧ after (exec (.splicePathRetrainDone 0) s) (fun t => (t.router 0).up) = true) ∧
    (let s := spliced { Splice.init with st := .failed, notice := true } 0
     (s.splice 63).notice = true ∧ (s.splice 63).ranks = []) ∧
    up.fitted 15 = true ∧ after (exec (.strandLinkFail 15) up) (fun t => t.cap.braids == 0x0FFFFFFFFFFFFFFF && (t.braid 63).linkDown) = true := by
  decide +kernel

/-- A contribution of braid `b` to tile `k`. -/
def tile (b k q : Nat) : Contrib := { braid := b, tile := k, form := false, mode := false, q := q, sealed := false, words := [] }

/-- R299: the lowest tile not delivered is 5: tile 8 is taken, being less than four past it. -/
theorem tilesPass_met :
    (let u : Token := { entry 1 0 with kernel := true, st := .running, braid := some 60 }
     let s0 := (spliced { running with delivered := 5, ranks := [(0, 0, 60)] } 0).setBraid 60 { busy 0 with queue := [tile 60 8 97], reserved := 1 }
     let s1 := s0.setRouter 15 { Router.init with up := true }
     let s : State := { s1 with sch := { s1.sch with pool := [u] } }
     let b := s.braid 60
     b.queue = [tile 60 8 97] ∧ s.spliceAt 60 = some 63 ∧ (s.splice 63).st = .running ∧ (s.router 15).carries = true ∧ 8 < (s.splice 63).delivered.toNat + 4 ∧
       (b.phase == .issuing && b.exportHeld) = false ∧
       after (exec (.spliceExportTake 60) s) (fun t => (t.splice 63).staged.length == 1 && (t.splice 63).sent == 1) = true ∧
       (let z := s.setBraid 60 { busy 0 with queue := [tile 60 9 97], reserved := 1 }
        after (exec (.spliceExportTake 60) z) (fun t => (t.splice 63).staged.isEmpty) = true)) ∧
    (let s := ((spliced { running with staged := [tile 56 0 97, tile 60 0 97] } 0).setRouter 15 { Router.init with up := true }).setRouter 14 { Router.init with up := true }
     ((s.splice 63).tileOf 0).length = (s.splice 63).p.toNat ∧ (∀ t ∈ (s.splice 63).strands, (s.router t).carries = true) ∧
       headersAgree (s.splice 63) ((s.splice 63).tileOf 0) = true) ∧
    (let s := ((spliced { running with staged := [tile 56 0 97, tile 60 0 193] } 0).setRouter 15 { Router.init with up := true }).setRouter 14 { Router.init with up := true }
     ((s.splice 63).tileOf 0).length = (s.splice 63).p.toNat ∧ headersAgree (s.splice 63) ((s.splice 63).tileOf 0) = false ∧
       after (exec (.spliceTileReduce 63) s) (fun t => (t.splice 63).st == .failed && (t.splice 63).status == 0x14) = true) := by decide +kernel

theorem tileDelivery_met :
    let s := ((spliced { running with sums := [tile 0 8 97], delivered := 8 } 0).setRouter 15 { Router.init with up := true }).setRouter 14 { Router.init with up := true }
    (s.splice 63).sums = [tile 0 8 97] ∧ (∀ r ∈ (s.splice 63).ranks, s.rankReady r.2.2 = true) ∧ (∀ t ∈ (s.splice 63).strands, (s.router t).carries = true) ∧
      (tile 0 8 97).sealed = false ∧ (s.splice 63).delivered.toNat + 1 = (s.splice 63).tiles.toNat ∧
      after (exec (.spliceTileDelivery 63) s) (fun t => (t.splice 63).st == .ended) = true := by decide +kernel

/-- R308: the first link that differs is reported: in a command's comparison, and in the splice's own. -/
theorem digestsAreCompared_met :
    (let s := spliced { running with st := .comparing, trigger := some 0, send := [(0, 5)], recv := [(0, 5)] } (word 0x32 0 63)
     s.schedUp = true ∧ (s.splice 63).trigger = some 0 ∧ (∀ j < (s.splice 63).strands.length, Sparse.get 0 (s.splice 63).send j = Sparse.get 0 (s.splice 63).recv j) ∧
       ended (exec (.spliceDigestCompareDone 63) s) 0 0 = true) ∧
    (let s := spliced { running with st := .comparing, trigger := some 0, send := [(0, 5), (1, 6)], recv := [(0, 5), (1, 7)] } (word 0x32 0 63)
     2 ≤ (s.splice 63).strands.length ∧ Sparse.get 0 (s.splice 63).send 1 ≠ Sparse.get 0 (s.splice 63).recv 1 ∧
       (∀ m < 1, Sparse.get 0 (s.splice 63).send m = Sparse.get 0 (s.splice 63).recv m) ∧ ended (exec (.spliceDigestCompareDone 63) s) 0x53 0 = true) := by
  decide +kernel

theorem spliceSumIsExact_met : [14, 15].Nodup ∧ (∀ c ∈ [tile 56 0 97, tile 60 0 97], c.braid / 4 ∈ [14, 15]) ∧ 97 ≤ 2 ^ Arith.laneW true ∧ 1023 < 1024 ∧
    31 < Arith.laneN true := by decide

/-! ## Kernels and contexts -/

/-- A kernel of one sentence, END, and a configuration table without rings, with their checksums. -/
def endKernel : BitVec 512 := BitVec.ofNat 512 (5 * 2 ^ 441)
def tinyKernel : BitVec 512 :=
  let x := 1 + 1 * 2 ^ 20
  BitVec.ofNat 512 (x + (crc32c (leBytes 60 x ++ leBytes 64 endKernel.toNat)).toNat * 2 ^ 480)
def tinyTable : BitVec 512 := BitVec.ofNat 512 (1 + (crc32c (leBytes 60 1)).toNat * 2 ^ 480)

/-- The KERNEL command of image, table and sets in page 1. -/
def kernelWord : BitVec 512 := word 0x01 0 (2 ^ 21 + (2 ^ 21 + 4096) * 2 ^ 64 + (2 ^ 21 + 8192) * 2 ^ 128)

/-- Page 1 holds the kernel, its table and a set of no slots; braid 0 is free for the tenancy. -/
def kerneled : State :=
  let s := tenanted []
  { s with
    tens := [(1, { ten1 with braids := 1 })]
    braids := [(0, { Braid.init with pllUp := true })]
    mem := { s.mem with cells := cellsAt 0 (leBytes 64 tinyKernel.toNat ++ leBytes 64 endKernel.toNat) ++ cellsAt 4096 (leBytes 64 tinyTable.toNat) } }

def fetched : Fetched := { cmdId := 0, fn := 1, ring := 0, seq := 0, seqgen := 0, cmd := kernelWord, deps := [], badDep := 0 }

/-- The token of the command. -/
def token : Token := { entry 1 kernelWord with kernel := true, remain := 9, started := true }

set_option maxRecDepth 1000000 in
theorem kernelsBecomeTokens_met :
    (let s : State := { kerneled with sch := { kerneled.sch with fetched := [fetched] } }
     let t := entryOf 0 0 1 0 (s.sq 1 0) kernelWord ([], 0)
     let r := s.readItem t.ten t.kSets (128 * kernelSets kernelWord)
     s.schedUp = true ∧ s.kernelDue 0 = some fetched ∧ s.cmdCheck 1 kernelWord 0 s.sch.nextId = none ∧ t.kTvas = true ∧ s.kernelPages t = true ∧
       r.2.toOption = some (List.replicate 128 0) ∧ (∀ y ∈ opSets kernelWord (List.replicate 128 0), setClean y = true) ∧
       after (exec (.kernel 0) s) (fun t => t.sch.pool.length == 1 && t.sch.fetched.isEmpty) = true) ∧
    (let s : State := { up with sch := { up.sch with fetched := [fetched] } }
     s.kernelDue 0 = some fetched ∧ s.cmdCheck 1 kernelWord 0 s.sch.nextId = some 0x04) := by decide +kernel

set_option maxRecDepth 1000000 in
theorem decisionPlacesAToken_met :
    up.schedUp = true ∧ up.lcs.pending = none ∧ up.wakeSaved.candidates = [] ∧
    (∀ image ∈ [2 ^ 21, 2 ^ 21 + 64],
      let u : Token := { token with cmd := word 0x01 0 (image + (2 ^ 21 + 4096) * 2 ^ 64 + (2 ^ 21 + 8192) * 2 ^ 128) }
      let s : State := { kerneled with sch := { kerneled.sch with pool := [u], nextId := 1 } }
      let t : Token := (s.wakeSaved.tok 0).getD u
      let g := s.wakeSaved.modTen t.ten (fun x => { x with deficit := x.deficit + x.weight.toNat })
      let d : State := { g with draws := g.draws + 256 }
      let p := d.plan t
      s.wakeSaved.candidates = [t] ∧ (s.ten t.ten).prio = 7 ∧ t.ctx = none ∧ d.isRank t = false ∧
        (if image = 2 ^ 21 then Status.good (p.1.tokStatus t p.2) = true ∧
          p.1.chooseBraid t (p.1.sigs t p.2.desc p.2.srcs) (p.2.srcs ++ p.2.dests) (p.1.freeBraids t.ten (kFoldSafe p.2.desc)) = some 0
        else Status.good (p.1.tokStatus t p.2) = false)) := by decide +kernel

theorem decisionOrder_met : ([entry 1 0, { entry 1 0 with id := 1 }].map (·.id)).Nodup := by decide +kernel

/-- The kernel's token on a braid whose start is due. -/
def starting (cmd : BitVec 512) : State :=
  let u : Token := { token with cmd := cmd, st := .running, braid := some 0 }
  { (kerneled.setBraid 0 { Braid.init with pllUp := true, phase := .loading, tok := some 0, ten := some 1 }) with
    sch := { kerneled.sch with pool := [u], nextId := 1 } }

set_option maxRecDepth 1000000 in
theorem kernelStarts_met :
    (let s := starting kernelWord
     let u := (s.tok 0).getD token
     (s.braid 0).tok.bind s.tok = some u ∧ (s.braid 0).phase = .loading ∧ (s.braid 0).pllUp = true ∧ (s.braid 0).linkDown = false ∧ (s.braid 0).restore = false ∧
       ((s.startChecks 0 u 0).2.toOption.map (fun x => x.aux.listen)) = some false ∧
       after (exec (.kernelStart 0) s) (fun t => (t.braid 0).phase == .issuing && (t.braid 0).sents == [endKernel]) = true) ∧
    (let s := starting (word 0x01 0 (2 ^ 21 + 64))
     let u := (s.tok 0).getD token
     (s.braid 0).tok.bind s.tok = some u ∧ (s.startChecks 0 u 0).2.toOption.isNone = true ∧
       after (exec (.kernelStart 0) s) (fun t => (t.braid 0).phase == .stopped) = true) := by decide +kernel

set_option maxRecDepth 1000000 in
theorem savesEnd_met :
    let s0 := starting kernelWord
    let s := s0.setBraid 0 { s0.braid 0 with phase := .saving, saveSlot := 3 }
    let s : State := { s with sch := { s.sch with pool := s.sch.pool.map (fun t => { t with remain := 0 }) } }
    let u := (s.tok 0).getD token
    s.tablesOk = true ∧ s.live = true ∧ (s.braid 0).saveReady = true ∧ (s.braid 0).tok.bind s.tok = some u ∧ (s.ten u.ten).st ≠ .closing ∧
      (s.braid 0).notice = none ∧ (s.braid 0).preempt = none ∧ u.remain = 0 ∧
      ((s.setTen 1 { s.ten 1 with st := .closing }).ten u.ten).st = .closing ∧
      ((s.setBraid 0 { s.braid 0 with preempt := some 9 }).braid 0).preempt = some 9 ∧
      (let z := s.setBraid 0 { s.braid 0 with notice := some 0x41 }
       (z.braid 0).notice = some 0x41 ∧ (z.braid 0).saveReady = true ∧
         after (exec (.contextSaveDone 0) z) (fun t => (t.braid 0).stop == some { status := 0x41, pc := 0, clause := 6 }) = true) := by
  decide +kernel

/-- The tenancy with 136 pages mapped from page 0, a migration key and two context slots. -/
def moved (c : BitVec 512) (u : List Token) : State :=
  let s := tenanted []
  { s with
    tens := [(1, { ten1 with ptes := [(0, some ((List.range 136).map (fun i => (i, { Pte.init with state := .mapped }))))], migKeys := [(3, some 5)], ctxslots := 2
                             ctx := (if u = [] then [] else [(0, some 1)]), ring := { quota := 400, alloc := 0 } })]
    sch := { s.sch with pool := [entry 1 c] ++ u, nextId := 2 } }

/-- A token saved in slot 0, the export of it under key 3 to address 0, and the import of an image from there. -/
def savedTok : Token := { token with id := 1, st := .saved, ctx := some 0 }
def exportWord : BitVec 512 := word 0x38 0 (3 * 2 ^ 128)
def exporting : State := (moved exportWord [savedTok]).begun (entry 1 exportWord)
def importWord : BitVec 512 := word 0x39 0 (2064 * 2 ^ 64 + 3 * 2 ^ 96)
def importing : State := (moved importWord []).begun (entry 1 importWord)

set_option maxRecDepth 1000000 in
theorem exports_met :
    (moved exportWord [savedTok]).starts 0 (selOp 0x38) (entry 1 exportWord) = true ∧
      (entry 1 exportWord).body 16 1 = 3 ∧ (entry 1 exportWord).body 8 8 = 0 ∧ frameLen * 2064 ≤ 2 ^ 48 ∧ exporting.migKey 1 3 = some 5 ∧
      exporting.sch.pool.find? (fun u => (entry 1 exportWord).begun.exTok u && u.st == .saved) = some savedTok ∧ inCtx 0 (frameLen * 2064) = false := by
  decide +kernel

set_option maxRecDepth 1000000 in
theorem exportLength_met : imageRecords (exporting.imageFold savedTok) = 2064 := by decide +kernel

set_option maxRecDepth 1000000 in
theorem exportPages_met : exporting.anyUnmapped 1 0 (frameLen * 2064) = false ∧ exporting.anySealedPage 1 0 (frameLen * 2064) = false := by decide +kernel

set_option maxRecDepth 1000000 in
theorem exportRoom_met : exporting.needPages 1 0 (frameLen * 2064) ≤ exporting.tierRoom 1 false + exporting.tierRoom 1 true := by decide +kernel

set_option maxRecDepth 1000000 in
theorem imports_met :
    (moved importWord []).starts 0 (selOp 0x39) (entry 1 importWord) = true ∧ (moved importWord []).room 1 ≠ 0 ∧ (entry 1 importWord).body 12 1 = 3 ∧
      (entry 1 importWord).body 0 8 = 0 ∧ (entry 1 importWord).body 8 4 = 2064 ∧ imageRecords false = 2064 ∧ importing.migKey 1 3 = some 5 ∧
      importing.freeSlotOf 1 = some 0 := by decide +kernel

set_option maxRecDepth 1000000 in
theorem importPages_met : importing.anyUnmapped 1 0 (frameLen * 2064) = false ∧ importing.anySealedPage 1 0 (frameLen * 2064) = false := by decide +kernel

theorem tokensEnd_met :
    (let s0 := starting kernelWord
     let s := s0.setBraid 0 { s0.braid 0 with phase := .ended }
     (s.braid 0).tok = some 0 ∧ s.mayRetire 0 0 = true ∧ after (exec (.tokenRetire 0) s) (fun t => (t.tok 0).map (·.st) == some .retiring && (t.braid 0).tok.isNone) = true) ∧
    (let s0 := starting kernelWord
     let s := s0.setBraid 0 { s0.braid 0 with phase := .stopped, stop := some { status := 0x41, pc := 0, clause := 6 } }
     s.failure 0 = some { status := 0x41, pc := 0, clause := 6 } ∧ ended (exec (.tokenFail 0) s) 0x41 0 = true) ∧
    (let s0 := starting kernelWord
     let s := s0.setBraid 0 { s0.braid 0 with notice := some 0x41 }
     (s.braid 0).notice = some 0x41 ∧ (s.braid 0).phase = .loading ∧
       after (exec (.stopNoticeArrival 0) s) (fun t => (t.braid 0).stop == some { status := 0x41, pc := 0, clause := 6 }) = true) ∧
    (let s := starting kernelWord
     s.schedUp = true ∧ (s.tok 0).map (fun t => (t.braid, t.st, decide (t.remain = 0))) = some (some 0, .running, false) ∧
       after (exec (.tokenTimeoutExpiry 0) s) (fun t => (t.braid 0).notice == some 0x41) = true) := by decide +kernel

/-! ## Tenancies -/

/-- TEN_CREATE and TEN_SET of tenancy 1 by the physical function: function 1, priority 7, weight 1, two context slots, every braid, quotas 4 and 4. -/
def tenBody : Nat := 1 + 7 * 2 ^ 8 + 1 * 2 ^ 16 + 2 * 2 ^ 32 + (2 ^ 64 - 1) * 2 ^ 64 + 4 * 2 ^ 128 + 4 * 2 ^ 160
def vfs (s : State) : State := { s with sys := { s.sys with vfs := 31 } }

theorem tenanciesAreMade_met :
    (let c := word 0x10 32 tenBody
     let s := asked (vfs { tenanted [] with tens := [], mem := { (tenanted []).mem with tiers := (List.range 4).map (fun i => (i, { TierSt.init with ready := true, sets := 0x3FF })) } }) 0 c
     let t := entry 0 c
     let b := s.begun t
     s.starts 0 (selOp 0x10) t = true ∧ b.tcRange t = false ∧ (b.ten 1).st = .free ∧ b.tiersReady = true ∧ b.lc = 2 ∧ b.secUp = true ∧ b.drbgOk = true ∧ t.tcMirror = 0) ∧
    (let c := word 0x14 0 tenBody
     let s := asked (vfs { tenanted [] with tens := [(1, { ten1 with ctxslots := 2 })], mem := { (tenanted []).mem with tiers := [0, 1, 2, 3].map (fun k => (k, { TierSt.init with ready := true, sets := 0xFFF })) } }) 0 c
     let t := entry 0 c
     let b := s.begun t
     s.starts 0 (selOp 0x14) t = true ∧ b.tcRange t = false ∧ t.tcFn = (b.ten 1).fn ∧ t.tcMirror = (b.ten 1).mirror ∧ t.tcSlots = (b.ten 1).ctxslots.toNat ∧
       after (exec (.tenSet 0) s) (fun t => (t.ten 1).braids == 0xFFFFFFFFFFFFFFFF && (t.ten 1).ring == { quota := 4, alloc := 1 }) = true) := by decide +kernel

/-- Records of the least and of a large prime of R58, with no NTT. -/
def primeRec (q : Nat) : List Byte := leBytes 8 q ++ List.replicate 24 0
/-- A chain of scheme 3 over one prime. -/
def chainRec : List Byte := [0, 6, 0, 1, 0, 0, 0xFF, 0, 0] ++ List.replicate 95 0xFF ++ List.replicate 24 0

/-- R59, R65: a table of primes that passes, one that fails at its second record, a chain that passes and one without primes. -/
theorem tenancyTablesFill_met :
    (let c := word 0x13 0 (0xFFFF + 3 * 2 ^ 16 + (2 ^ 48 - 8) * 2 ^ 64)
     let s := asked (tenanted []) 1 c
     s.starts 0 (selOp 0x13) (entry 1 c) = true ∧ (entry 1 c).body 8 8 < 2 ^ 48 ∧ after (exec (.keyRegister 0) s) (fun t => (t.ten 1).keys.length == 1) = true ∧
       (let z := asked ((tenanted []).setTen 1 { ten1 with keys := [{ keyset := 0xFFFF, purpose := 3, rotation := 0, tva := 0 }] }) 1 c
        ended (exec (.keyRegister 0) z) 0x40 0x0A = true)) ∧
    (let c := word 0x18 64 0
     let s := asked (tenanted []) 1 c
     s.starts 0 (selOp 0x18) (entry 1 c) = true ∧ cmdHlen c % 32 = 0 ∧ 0 < cmdHlen c ∧ cmdHlen c ≤ 4096 ∧
       after (exec (.primeLoad 0 (some (primeRec 3 ++ primeRec 1152921504606846883))) s) (fun t => (t.ten 1).primes.map (·.q) == [3, 1152921504606846883]) = true ∧
       after (exec (.primeLoad 0 (some (primeRec 97 ++ primeRec 95))) s) (fun t => (t.ten 1).primes.isEmpty && (t.tok 0).map (fun u => (u.comp.status, u.comp.detail, u.comp.position)) == some (0x35, 4, 1)) = true) ∧
    (let c := word 0x19 128 0
     let s := asked ((tenanted []).setTen 1 { ten1 with primes := [{ q := 97, psi := 0, log2n := 0 }] }) 1 c
     s.starts 0 (selOp 0x19) (entry 1 c) = true ∧ chainCheck (s.ten 1) (slice chainRec 0 (cmdHlen c)) = none ∧
       after (exec (.chainDefine 0 (some chainRec)) s) (fun t => (t.ten 1).chains.length == 1) = true ∧ chainCheck ten1 (slice chainRec 0 (cmdHlen c)) = some 0x12) := by
  decide +kernel

/-- A chain of LOG2N 2 over the tenancy's entry 0. -/
def shortChain : ChainD :=
  { mode := true, scheme := 0, log2n := 2, qlimbs := 1, plimbs := 0, dnum := 1, pt := 0xFF, limbs := [0], w := [0], hmin := 0, rlevel := 0
    advisory := false, rhead := 0, rscale := 0 }

/-- R59, R63: two primes at the bounds of R58, a second record that is no prime, and 17 with PSI 3 and LOG2N 3, whose root for LOG2N 2 is 9. -/
theorem primesAreChecked_met :
    (primesOf [] 0 [primeRec 3, primeRec 1152921504606846883]).toOption.map List.length = some 2 ∧
    (match primesOf [] 7 [primeRec 97, primeRec 95] with | .error x => x == (8, 4) | .ok _ => false) = true ∧
    (let p : Prime := { q := 17, psi := 3, log2n := 3 }
     let x : Ten := { ten1 with primes := [p] }
     shortChain.limbs[0]? = some 0 ∧ x.primes[0]? = some p ∧ shortChain.log2n ≤ p.log2n.toNat ∧ p.log2n.toNat ≤ 17 ∧ 1 < p.q.toNat ∧
       Arith.powMod p.psi.toNat (2 ^ p.log2n.toNat) p.q.toNat = p.q.toNat - 1 ∧ x.rootAt shortChain 0 = 9 ∧ 9 ^ 4 % 17 = 16) := by decide +kernel

theorem tenanciesClose_met :
    (let s := asked (tenanted []) 1 (word 0x11 0 1)
     s.starts 0 (selOp 0x11) (entry 1 (word 0x11 0 1)) = true ∧ after (exec (.tenClose 0) s) (fun t => (t.ten 1).st == .closing) = true) ∧
    (let k : Closing := { force := true, status := 0x40, tok := some 0, wiped := none, freed := true, orphan := false }
     let s := (asked (tenanted []) 1 (word 0x11 0 1)).setTen 1 { ten1 with st := .closing, closing := some k }
     s.schedUp = true ∧ (s.ten 1).closing = some k ∧ s.tenBusy 1 = false ∧ s.scrubsOf 1 = false ∧ s.slotsOf 1 = [] ∧ s.braids = [] ∧ s.lcs.wait = none ∧
       after (exec (.tenancyCloseComplete 1) s) (fun t => (t.ten 1).st == .free && (t.tok 0).map (·.st) == some .retiring) = true) := by decide +kernel

/-- Function 1 of tenancy 1 with its heartbeat running. -/
def beating (lost : Bool) : State := (vfs (tenanted [])).setFn 1 { FnSt.init with current := true, lost := lost }
/-- Tenancy 1 orphaned, with the digest of a credential of zeros and the refusals counted so far. -/
def orphaned (fails : BitVec 4) : Ten :=
  { ten1 with st := .orphaned, fails := fails, cred := BitVec.ofNat 512 (leNat (Crypto.sha512 (List.replicate 32 0))) }

/-- R345–R349: the first interval that passes loses the function, the next orphans its tenancies; the right credential and the eighth wrong one. -/
theorem hostsAreLost_met :
    up.hqUp = true ∧
    (let s := (vfs up).setFn 2 { FnSt.init with current := true }
     (s.fn 2).hbInt ≠ 0 ∧ (s.fn 2).current = true ∧ (s.fn 2).lost = false ∧ (∀ x ∈ s.tens, x.2.st = .active → x.2.fn ≠ (2 : Fn)) ∧
       after (exec (.heartbeatExpiry 2) s) (fun t => (t.fn 2).lost && (t.src 0x142).pending) = true) ∧
    (let s := beating true
     (s.fn 1).hbInt ≠ 0 ∧ (s.fn 1).current = true ∧ (s.fn 1).lost = true ∧ s.tens = [(1, ten1)] ∧ ten1.st = .active ∧ ten1.fn = 1 ∧
       after (exec (.heartbeatExpiry 1) s) (fun t => (t.ten 1).st == .orphaned) = true) ∧
    (let s := (tenanted []).setTen 1 (orphaned 0)
     (s.ten 1).st = .orphaned ∧ after (exec (.graceExpiry 1) s) (fun t => (t.ten 1).st == .closing) = true) ∧
    (let s := tenanted []
     (s.ten 1).st ≠ .free ∧ (s.ten 1).st ≠ .closing ∧ after (exec (.tenancyFatalError 1 3 true) s) (fun t => (t.ten 1).st == .closing && (t.src 0x201).pending) = true) ∧
    (let s := asked ((beating false).setTen 1 (orphaned 7)) 1 (word 0x12 32 0)
     let t := entry 1 (word 0x12 32 0)
     s.starts 0 (selOp 0x12) t = true ∧ ((s.begun t).fn t.fn).current = true ∧ ((s.begun t).ten t.ten).st = .orphaned ∧ s.secUp = true ∧ s.drbgOk = true ∧
       leNat (Crypto.sha512 (leBytes 32 (t.body 0 32))) = ((s.begun t).ten t.ten).cred.toNat) ∧
    (let s := asked ((beating false).setTen 1 (orphaned 7)) 1 (word 0x12 32 5)
     let t := entry 1 (word 0x12 32 5)
     s.starts 0 (selOp 0x12) t = true ∧ ¬ leNat (Crypto.sha512 (leBytes 32 (t.body 0 32))) = ((s.begun t).ten t.ten).cred.toNat ∧
       after (exec (.reattach 0) s) (fun t => (t.ten 1).st == .closing) = true) := by decide +kernel

/-! ## The security core -/


theorem reportsAreSigned_met :
    (asked (tenanted []) 1 (word 0x40 1152 (1 + 1 * 2 ^ 16))).svcStarts 0 0x01 (entry 1 (word 0x40 1152 (1 + 1 * 2 ^ 16))) = true ∧
    (asked (tenanted []) 1 (word 0x40 16384 2)).svcStarts 0 0x02 (entry 1 (word 0x40 16384 2)) = true ∧
    (let c := word 0x40 1152 (1 + 1 * 2 ^ 16)
     let s0 := asked (tenanted []) 1 c
     let s : State := { s0 with pke := { s0.pke with running := some { tok := some 0, buf := [] } } }
     s.secUp = true ∧ s.tok 0 = some (entry 1 c) ∧ (entry 1 c).isPke = false ∧ svcOf (entry 1 c).cmd = 0x01 ∧ s.pke.idle = false ∧ s0.pke.idle = true) := by
  decide +kernel

/-- The curve y² = x³ + 2x + 2 over 17, of 19 points, with a point that signs. -/
def tinyCurve : Curve := { pw := 1, nw := 1, h := 1, p := 17, a := 2, b := 2, gx := 5, gy := 1, n := 19 }
def chanBody (r s : Byte) : List Byte :=
  let z := List.replicate 47 (0 : Byte)
  z ++ [5] ++ z ++ [1] ++ z ++ [5] ++ z ++ [1] ++ List.replicate 32 0 ++ List.replicate 95 0 ++ [r] ++ List.replicate 95 0 ++ [s] ++ List.replicate 640 0

/-- R407: a signature that holds on the curve and one that does not. -/
theorem channelsOpen_met :
    (let c := word 0x40 1056 (0x10 + 1 * 2 ^ 16)
     let s0 := tenanted []
     let s := asked { s0 with pke := { s0.pke with curves := [(1, some tinyCurve)] } } 1 c
     let t := entry 1 c
     let b := s.begun t
     s.svcStarts 0 0x10 t = true ∧ t.body 2 1 = 1 ∧ b.curve 1 = some tinyCurve ∧ cmdHlen c = 6 * tinyCurve.chanF + 2 * tinyCurve.chanG + 576 ∧ b.drbgOk = true ∧
       (b.ten 1).pin = none) := by decide +kernel

theorem slice_whole (bs : List Byte) : slice bs 0 bs.length = bs := by simp [slice]

theorem channelSignatures_met :
    (chanBody 3 3).length = 1056 ∧ tinyCurve.good (chanPoint (chanBody 3 3) 0 48) = true ∧ tinyCurve.good (chanPoint (chanBody 3 3) 96 48) = true ∧
      State.chanSigned 1 tinyCurve (chanBody 3 3) = true ∧ State.chanSigned 1 tinyCurve (chanBody 0 3) = false := by decide +kernel

theorem channelsClose_met :
    let s := asked ((tenanted []).setTen 1 { ten1 with chan := some { kc := 1, kd := 2, seqC := 0, seqD := 0 } }) 1 (word 0x40 0 0x12)
    s.svcStarts 0 0x12 (entry 1 (word 0x40 0 0x12)) = true ∧ (s.ten 1).chan ≠ none ∧ after (exec (.chanClose 0) s) (fun t => (t.ten 1).chan == none) = true := by
  decide +kernel

/-- A record without payload: its sequence number 1, its type, its tag under the key 1. -/
def chanRecord (ty : Byte) : List Byte :=
  let h := leBytes 8 1 ++ [ty] ++ List.replicate 23 0
  h ++ (Crypto.gcmSeal (leBytes 32 1) (chanIv 1) h []).2
def chanState (c : BitVec 512) : State :=
  asked ((tenanted []).setTen 1 { ten1 with chan := some { kc := 1, kd := 2, seqC := 0, seqD := 0 }, winKeys := [(0, some 9)] }) 1 c

set_option maxRecDepth 1000000 in
/-- R408, R410: an ERASE whose tag holds, and one that repeats a sequence number. -/
theorem channelRecordsAct_met :
    let c := word 0x40 48 0x11
    let s := chanState c
    let d := chanRecord 3
    s.svcStarts 0 0x11 (entry 1 c) = true ∧ leAt d 8 2 = 3 ∧ 48 ≤ cmdHlen c ∧ cmdHlen c ≤ 4096 ∧ cmdHlen c = 48 + leAt d 10 2 ∧ ((s.ten 1).chan.map (·.kc)) = some 1 ∧
      Crypto.gcmOpen (leBytes 32 1) (chanIv 1) (d.take 32) (slice d 32 0) (slice d 32 16) = some [] ∧
      ((s.ten 1).chan.map (fun c => (decide (c.seqC.toNat < leAt d 0 8), decide (leAt (List.replicate 8 (0 : Byte)) 0 8 ≤ c.seqC.toNat)))) = some (true, true) := by
  decide +kernel

/-- A certificate for `target` with no signatures. -/
def bareCert (target : Byte) : List Byte := [0x4B, 0x5A, 0x4C, 0x43, target] ++ List.replicate 1083 0

/-- R389: PROVISIONED to DEPLOYED asks for no signature of either; with a tenancy, without FORCE and with it; a step back is authorised by nothing. -/
theorem lifeCycleAdvances_met :
    let s0 := { tenanted [] with fuses := { Fuses.init with words := [0xFFFFFFFF, 0, 0, 0] } }
    let c := word 0x40 1088 0x20
    let s := asked s0 0 c
    let t := entry 0 c
    let d := bareCert 2
    d.length = cmdHlen c ∧ s.lc = 1 ∧ s.svcStarts 0 0x20 t = true ∧ (s.begun t).drbgOk = true ∧ leAt d 4 1 = 2 ∧ (s.begun t).lcAuthorised d 2 = true ∧ (s.begun t).tens.all (fun x => x.2.st == .free) = false ∧
      t.bodyBit 2 0 = false ∧ (s.begun t).lcAuthorised (bareCert 1) 1 = false ∧
      (let c := word 0x40 1088 (0x20 + 2 ^ 16)
       let s := asked s0 0 c
       s.svcStarts 0 0x20 (entry 0 c) = true ∧ (s.begun (entry 0 c)).lcAuthorised d 2 = true ∧ (entry 0 c).bodyBit 2 0 = true ∧
         (s.begun (entry 0 c)).forceAll.tens.all (fun x => x.2.st == .free) = false ∧ s.lcs.wait = none ∧
         ((s.begun (entry 0 c)).tens.all (fun x => x.2.st == .free) || (({ s with tens := [] } : State).begun (entry 0 c)).tens.all (fun x => x.2.st == .free)) = true) := by decide +kernel

theorem signedCommands_met :
    (let s := asked (tenanted []) 0 (word 0x40 576 0x21)
     (s.begun (entry 0 (word 0x40 576 0x21))).drbgOk = true ∧ s.svcStarts 0 0x21 (entry 0 (word 0x40 576 0x21)) = true) ∧
    (let s := asked { tenanted [] with fuses := { Fuses.init with words := [0xFFFFFFFF, 0xFFFFFFFF, 0xFFFFFFFF, 0] } } 0 (word 0x40 1088 0x22)
     s.lc = 3 ∧ s.svcStarts 0 0x22 (entry 0 (word 0x40 1088 0x22)) = true) := by decide +kernel

theorem fieldTests_met :
    (let c := word 0x40 0 (0x30 + 63 * 2 ^ 16)
     let s := asked (tenanted []) 0 c
     s.svcStarts 0 0x30 (entry 0 c) = true ∧ (entry 0 c).body 2 1 = 63 ∧ s.fitted 15 = true ∧ s.bistBusy 63 = false ∧ (s.braid 63).ten = none ∧
       after (exec (.bistReq 0) s) (fun t => t.bist.infield == some 63 && !t.rdy.braids.getLsbD 63) = true) ∧
    (let x : SavedSp := { key := 7, spPoison := [], sealMap := 1, ten := 1 }
     let s0 := asked (tenanted []) 0 (word 0x40 0 (0x30 + 63 * 2 ^ 16))
     let s0 := s0.saveWords (s0.saveBase 63) 7 [(0, 5)]
     let s : State := { s0 with bist := { s0.bist with infield := some 63, tok := some 0, saved := some x } }
     let r : BraidResult := { braid := 63, banks := [], store := 0, cores := 0xFFFFFFFFFFFFFFFF, restOk := true, sig := 0, confirms := true }
     s.secUp = true ∧ s.bist.infield = some r.braid ∧ s.bist.saved = some x ∧ s.outcomeOf r = .full ∧
       after (exec (.infieldBistDone r) s) (fun t => (t.braid 63).sp == [(0, 5)] && (t.braid 63).ten == some 1) = true) := by decide +kernel

/-- A window of noise whose bits alternate: it passes both tests. A window of zeros fails both. -/
def fair : BitVec 1024 := BitVec.ofNat 1024 ((2 ^ 1024 - 1) / 3)

/-- R412: 41 samples alike from one window to the next; the third failing window in a row; a failed source that is not yet reported. The noise of
the start-up test is free, so which of its two outcomes comes is. -/
theorem entropySource_met :
    (repCount (some true, 40, false) [true]).2.2 = true ∧ (repCount (some true, 40, false) [false]).2.2 = false ∧
    (let l := { Lcs.init with trng := { Lcs.init.trng with bad := 0 } }
     (l.window 0).1 = false ∧ (l.window 0).2.rct = 1 ∧ (l.window 0).2.apt = 1 ∧ (l.window fair).1 = true) ∧
    (let s := up.setReady .drbg false
     s.secUp = true ∧ s.sys.unserv = false ∧ s.lcs.failed = false ∧ s.ready .drbg = false) ∧
    (up.secUp = true ∧ up.waitingDraws = [] ∧ up.lcs.failed = false ∧ up.lcs.trng.due = false ∧ (up.lcs.windows [fair, 0, 0, 0]).trng.bad = 3 ∧
      (up.lcs.windows [fair, 0, 0]).trng.bad = 2 ∧
      after (exec (.entropySourceFail [fair, 0, 0, 0]) up) (fun t => t.lcs.failed && t.lcs.apt == 3 && !t.ready .drbg && (t.src 0x360).pending) = true) ∧
    (let s : State := { up with lcs := { up.lcs with trng := { up.lcs.trng with due := true } } }
     s.lcs.trng.due = true ∧ after (exec (.entropySourceFail []) s) (fun t => (t.src 0x360).pending) = true) := by
  decide +kernel

theorem entropyStartup_met (n : Nat) : n < 3 ∨ 3 ≤ n := Nat.lt_or_ge n 3

/-! ## The public-key engine -/

/-- The engine with a modulus of 97 in slot 4, an exponent in 7 and operands in 5 and 6, and the command as running. -/
def pkeSlot (v : Nat) : Option PkeSlot := some { width := 1, val := BitVec.ofNat 8192 v, ten := 1, sealed := false, inf := false, bound := none }
def engine (c : BitVec 512) (m a b e : Nat) : State :=
  let s := asked (tenanted []) 1 c
  { s with pke := { s.pke with slots := [(4, pkeSlot m), (5, pkeSlot a), (6, pkeSlot b), (7, pkeSlot e), (8, pkeSlot 0)]
                               running := some { tok := some 0, buf := [] } } }
/-- The command `op` with DST 8, A 5, B 6, M 4, E 7. -/
def pkeWord (op : Nat) : BitVec 512 := word 0x41 0 (op + 8 * 2 ^ 8 + 5 * 2 ^ 16 + 6 * 2 ^ 24 + 4 * 2 ^ 32 + 7 * 2 ^ 40)

theorem engineTakesCommands_met :
    (let s0 := engine (word 0x41 0 (0x07 + 8 * 2 ^ 8 + 4 * 2 ^ 32)) 97 0 0 0
     let s : State := { s0 with pke := { s0.pke with running := none } }
     let t := entry 1 (word 0x41 0 (0x07 + 8 * 2 ^ 8 + 4 * 2 ^ 32))
     s.ready .pke = true ∧ s.pkeIdle = true ∧ s.starts 0 (selPke 0x07) t = true ∧ (s.begun t).pkeCheck t = none) ∧
    (let c := word 0x41 0 (0x04 + 3 * 2 ^ 16)
     let s := asked (tenanted []) 1 c
     s.pkeIdle = true ∧ s.starts 0 (selPke 0x04) (entry 1 c) = true ∧ (s.begun (entry 1 c)).pkeCheck (entry 1 c) = some (0x40, 0x03)) ∧
    (let c := word 0x41 8 (0x03 + 8 * 2 ^ 8)
     let s0 := engine c 97 0 0 0
     let s : State := { s0 with pke := { s0.pke with running := none } }
     s.starts 0 (selPke 0x03) (entry 1 c) = true ∧ (s.begun (entry 1 c)).pkeCheck (entry 1 c) = none) ∧
    (let c := word 0x41 64 0x30
     let s := asked (tenanted []) 0 c
     let d := slice ([0, 1, 1] ++ List.replicate 61 (0 : Byte)) 0 64
     s.starts 0 (selPke 0x30) (entry 0 c) = true ∧ (s.begun (entry 0 c)).pkeCheck (entry 0 c) = none ∧ cmdHlen c = 16 + 40 * leAt d 1 1 + 8 * leAt d 2 1) := by
  decide +kernel

theorem engineResults_met :
    (let c := pkeWord 0x10
     let s := engine c 97 96 96 0
     let s0 : State := { s with pke := { s.pke with running := none } }
     let t := entry 1 c
     s.secUp = true ∧ s.pke.running = some { tok := some 0, buf := [] } ∧ s.pke.queue = [] ∧ s.tok 0 = some t ∧ t.isPke = true ∧ (s0.pkeTime t).isSome = true ∧ (s0.pkeRun t []).2.early = none ∧
       s.val t.pM % 2 = 1 ∧ 3 ≤ s.val t.pM ∧ s.val t.pA < s.val t.pM ∧ s.val t.pB < s.val t.pM ∧ t.pOp = 0x10 ∧
       after (exec .pkeOperationDone s) (fun t => t.val 8 == 95 && (t.src 0x361).pending) = true) ∧
    (entry 1 (pkeWord 0x13)).pOp = 0x13 ∧ Arith.invMod 5 97 = some 39 ∧ (entry 1 (pkeWord 0x14)).pOp = 0x14 ∧
    (let s := engine (pkeWord 0x10) 97 96 96 0
     ∃ x, s.slot 8 = some x ∧ x.bound = none ∧ s.tablesOk = true) := by
  refine ⟨?_, ?_, ?_, ?_, _, rfl, ?_⟩ <;> decide +kernel

/-- R432: an even modulus, a modulus of 1, an A equal to the modulus; no inverse of 3 modulo 9; an exponent of zero. -/
theorem modularRange_met :
    (∀ x ∈ [(96, 1), (1, 0), (97, 97)], let s := engine (pkeWord 0x12) x.1 x.2 0 0
      (s.val 4 % 2 = 0 ∨ s.val 4 < 3 ∨ ∃ i ∈ [5, 6], s.val 4 ≤ s.val i) ∧
        after (exec .pkeOperationDone s) (fun t => t.val 8 == 0 && t.pke.last == 0x30) = true) ∧
    (let s := engine (pkeWord 0x13) 9 3 0 0
     s.val 4 % 2 = 1 ∧ 3 ≤ s.val 4 ∧ s.val 5 < s.val 4 ∧ after (exec .pkeOperationDone s) (fun t => t.pke.last == 0x31) = true) ∧
    (let s := engine (pkeWord 0x14) 97 96 0 0
     s.val 7 = 0 ∧ after (exec .pkeOperationDone s) (fun t => t.val 8 == 1 && t.pke.last == 0) = true) := by decide +kernel

theorem no_inverse_of_3_modulo_9 : ∀ v : Nat, 3 * v % 9 ≠ 1 := by omega

theorem powersAndInverses_met : 0 < 97 ∧ 2 ^ 8192 - 1 < 2 ^ 8192 ∧ 1 < 97 ∧ 96 < 97 ∧ Arith.invMod 96 97 = some 96 := by decide +kernel

theorem sealedSlotsStay_met :
    (let c := word 0x41 8 (0x04 + 5 * 2 ^ 16)
     (engine c 97 1 1 1).pkeCheck (entry 1 c) = none ∧ (entry 1 c).pOp = 0x04) ∧
    (let c := word 0x41 0 (0x06 + 5 * 2 ^ 16 + 2 ^ 21 * 2 ^ 64)
     let s := (engine c 97 1 1 1).setTen 1 { ten1 with ptes := [(0, some [(1, { page1 with sealed := true })])] }
     let s : State := { s with pke := { s.pke with slots := [(5, some { width := 1, val := 1, ten := 1, sealed := true, inf := false, bound := none })] } }
     s.pkeCheck (entry 1 c) = none ∧ (entry 1 c).pOp = 0x06 ∧ s.slotSealed (entry 1 c).pA = true) := by decide +kernel

/-- R438: n = 33, e = 3, d = 7: a signature of 2 checks, one under d = 8 does not; A = 33 is out of range. -/
theorem signaturesAreChecked_met :
    (∀ x ∈ [(2, 7, true), (2, 8, false)],
      let c := pkeWord 0x15
      let s0 := engine c 97 x.1 0 0
      let pub : PkeSlot := { width := 2, val := BitVec.ofNat 8192 (33 + 3 * 2 ^ 64), ten := 1, sealed := false, inf := false, bound := none }
      let priv : PkeSlot := { width := 1, val := BitVec.ofNat 8192 x.2.1, ten := 1, sealed := true, inf := false, bound := some { peer := 9, priv := true, rsa := true, curve := 0 } }
      let s : State := { s0 with pke := { s0.pke with slots := [(5, pkeSlot x.1), (6, some priv), (8, pkeSlot 0), (9, some pub)] } }
      let t := entry 1 c
      t.pOp = 0x15 ∧ (match s.bindOf t.pB with | some b => s.val b.peer | none => 0) % 2 ^ (64 * s.width t.pB) = 33 ∧ 33 % 2 = 1 ∧ s.val t.pA < 33 ∧
        decide ((s.val t.pA ^ s.val t.pB % 33) ^ 3 % 33 = s.val t.pA) = x.2.2 ∧
        after (exec .pkeOperationDone s) (fun t => t.pke.last == (if x.2.2 then 0 else 0x34) && t.val 8 == (if x.2.2 then 29 else 0)) = true) := by decide +kernel

/-! ## Power, resets and bring-up -/

theorem resetsReach_met :
    State.reset.pins.powered = false ∧ up.pins.powered = true ∧
      after (exec (.powerOn 0) State.reset) (fun t => t.pins.powered && t.ready .mgmt && !t.ready .sec) = true ∧
    (let s : State := { tenanted [7] with sys := { Sys.init with resetReq := some 2 } }
     s.sys.resetReq = some 2 ∧ s.pins.powered = true ∧ after (exec .packageReset s) (fun t => t.mem.byte 0 == 7 && t.tens.isEmpty) = true) := by decide +kernel

/-- An image 0 without code, under a key of exponent 1 whose modulus is 2^1041 - 1: the signature is the encoded message itself. -/
def signedImage : List Byte :=
  [0x4B, 0x5A, 0x46, 0x57, 1, 0, 4, 0] ++ List.replicate 56 0 ++
    beBytes 64 0x6092a327ed9d7257564191f7082c32783bc798da9e477550cd3413c72720cd2878f5b90b11b0f207a33663e94ca5902de0844efaa20abed1db0da77b38504b23 ++
    List.replicate 384 0 ++
    beBytes 512 0x787b55969e5480e2ff5a64d1fa74a51415beeaa43f1841369e9edb0489b4624e4c32786ef3fe9b7264f81db7b6ef3905b751a6032e01de20e527f3f85883e07da62d36989d7850f7efdc426eaff00cca32546c649befa0b68547b38633a9264a820ed42c835ce1995c993a51a925cf2fd9c03cf823807dc21118c7051d0e15d458bc ++
    leBytes 512 (BitVec.allOnes 1041).toNat ++ leBytes 4 1

/-- The image set of image 0 alone, delivered to a module that has its fuse for the key, and the fuse words given. -/
def delivered (ws : List (BitVec 32)) : State :=
  { up with
    rdy := { bits := 2, braids := 0, refused := false }
    fuses := { Fuses.init with words := ws, fwKey := 0x234b50387ba70ddbd1be0aa2fa4e84e02d90a54ce96336a307f2b0110bb9f57828cd2027c71334cd5075479eda98c73b78322c08f791415657729ded27a39260 }
    boot := { Boot.init with state := 2, total := 1540, received := 1540, image := signedImage } }

/-- R392: a word of 1 and one of 23 programmed bits are completed by the security core's start; one of 24 stands. -/
theorem cutTransitions_met :
    let s := delivered [0xFFFFFFFF, 0xFFFFFF, 0x7FFFFF, 1]
    s.fuses.words[1]? = some 0xFFFFFF ∧ 24 ≤ popcount ((0xFFFFFF : BitVec 32).setWidth 64) ∧ s.lc = 2 ∧ s.pins.powered = true ∧ s.sys.safe = none ∧
      s.boot.state = 2 ∧ s.ready .sec = false ∧ s.sys.resetReq ≠ some 2 ∧ s.boot.digests = [] ∧
      s.fuses.words.any (fun w => decide (1 ≤ popcount (w.setWidth 64) ∧ popcount (w.setWidth 64) ≤ 23)) = true ∧
      s.fuses.words.map completeWord = [0xFFFFFFFF, 0xFFFFFF, 0xFFFFFFFF, 0xFFFFFFFF] := by decide +kernel

set_option maxRecDepth 1000000 in
/-- R395: the image verifies under the key whose digest the fuses hold, so what the statement asks of the words has a state that meets it. -/
theorem imageVerifies_met : (delivered [0xFFFFFFFF, 0xFFFFFF, 0x7FFFFF, 1]).verifyFirst.toOption.isSome = true := by decide +kernel

set_option maxRecDepth 1000000 in
/-- R396: a word of the image changed, and the signature no longer holds. -/
theorem test_changed_image_is_refused :
    (let s := delivered [0xFFFFFFFF, 0, 0, 0]
     let s : State := { s with boot := { s.boot with image := s.boot.image.set 700 1 } }
     match s.verifyFirst with | .error c => c == 0x04 | .ok _ => false) = true := by decide +kernel

theorem resetRequests_met :
    up.rdyCtl 0 = true ∧ up.allFree = true ∧ (tenanted []).rdyCtl 0 = true ∧ (tenanted []).allFree = false ∧
      after (exec (.pkgReset 0) (tenanted [])) (fun t => t.rdy.refused && t.sys.resetReq.isNone) = true ∧
    (let s : State := { up with sys := { up.sys with resetReq := some 1 }, boot := { Boot.init with kept := true, total := 9, received := 9, image := [1] } }
     s.sys.resetReq = some 1 ∧ s.boot.kept = true ∧ after (exec .packageReset s) (fun t => t.boot.state == 2 && t.boot.image == [1]) = true) := by decide +kernel

theorem portResets_met :
    up.pins.powered = true ∧ up.tablesOk = true ∧ (∀ w ∈ up.wins, w.2.st = .open_ → w.2.onPort .a = false) ∧
      after (exec (.functionLevelReset 16) (up.setSq 16 3 { SqRing.init with seq := 5, seqgen := 255, en := true }))
        (fun t => (t.sq 16 3).seq == 0 && (t.sq 16 3).seqgen == 0 && !(t.sq 16 3).en) = true := by decide +kernel

theorem portsComeUp_met :
    up.pins.perst.getLsbD 0 = true ∧ up.pins.perst.getLsbD 1 = true ∧ up.pins.perst.getLsbD 2 = true ∧ up.cap.bulkA = true ∧ up.cap.bulkB = true ∧
      up.ready .mgmt = true ∧ up.sys.unserv = false ∧ up.linkLegal .control ⟨5, 4, true⟩ = true ∧ up.linkLegal .bulkA ⟨0, 4, false⟩ = true ∧ up.linkLegal .bulkB ⟨5, 16, true⟩ = true ∧
      up.linkLegal .control ⟨5, 8, true⟩ = false ∧ up.linkLegal .bulkA ⟨5, 16, false⟩ = false ∧
      after (exec (.pcieLinkUp ⟨.control, ⟨5, 4, true⟩, 7, false⟩) up) (fun t => t.fnEnabled 7 && !t.fnEnabled 8) = true ∧
      after (exec .configSpaceLoadDone (up.setReady .ctrl false)) (fun t => t.ready .ctrl) = true := by decide +kernel

/-- A module that takes an image set: `st` is where its delivery is. -/
def booting (st : BitVec 3) : State :=
  { up with rdy := { bits := 2, braids := 0, refused := false }, boot := { Boot.init with state := st, total := 8192, received := if st = 0 then 0 else 4096 } }

/-- The vendor message a state has sent in one packet, from its command on. -/
def said (t : State) : List Byte := match t.out with | [.packet true true 0 d] => d.drop 3 | _ => []

theorem imagesAreDelivered_met :
    (booting 0).mgmtUp = true ∧ (booting 0).boot.state = 0 ∧ (4202496 : BitVec 32).toNat ≤ 4202496 ∧ (booting 1).boot.state = 1 ∧ (booting 1).boot.received = 4096 ∧
      (List.replicate 4096 (1 : Byte)).length ≤ 4096 ∧ 4096 + 4096 ≤ (booting 1).boot.total.toNat ∧
      after (exec (.fwData 0 [1]) (booting 1)) (fun t => said t == [0x02, 0x02]) = true ∧
      (booting 2).sys.safe = none ∧ (booting 2).boot.state = 2 ∧ (booting 2).ready .sec = false ∧
      (booting 2).sys.resetReq ≠ some 2 ∧ (booting 2).boot.digests = [] ∧
      after (exec (.fwVerifyDone ⟨true, true, 0⟩) (booting 2)) (fun t => t.boot.state == 4 && t.boot.fail == 7) = true := by decide +kernel

theorem unitsAreTested_met :
    (let s : State := { up with bist := { Bist.init with left := [64, 88] } }
     s.secUp = true ∧ s.boot.rest = none ∧ s.bist.left.contains 88 = true ∧ s.sys.unserv = false ∧ s.tablesOk = true ∧
       after (exec (.hawserCleatBistDone 88 ⟨true, true, 1, 2, 0, 0⟩) s) (fun t => t.bist.left == [64] && (t.unit 88).result == 2 && (t.unit 88).runs == 2) = true ∧
       after (exec (.hawserCleatBistDone 88 ⟨true, true, 1, 2, 1, 0⟩) s) (fun t => (t.unit 88).result == 3) = true) ∧
    (let s : State := { up with bist := { Bist.init with running := true, wave := [63], todo := [63] } }
     let r : BraidResult := { braid := 63, banks := [], store := 0, cores := 0xFFFFFFFFFFFFFFFF, restOk := true, sig := 0, confirms := true }
     s.bist.running = true ∧ s.bist.wave ≠ [] ∧ [r].map (fun r => r.braid.toNat) = s.bist.wave ∧
       after (exec (.bistWaveDone [r]) s) (fun t => t.bist.done && t.ready .bistDone && t.bist.waves == 1) = true) ∧
    (let s : State := { up with bist := { Bist.init with running := true, todo := List.range 9 } }
     s.bist.running = true ∧ s.ready .power = true ∧ s.bist.left = [] ∧ s.bist.wave = [] ∧ s.tablesOk = true ∧ (∀ i ∈ s.bist.todo, i < 64) ∧
       s.admitWave.bist.wave = List.range 8) ∧
    (let s := up.setBraid 3 { Braid.init with pllUp := true, tok := some 0 }
     s.live = true ∧ (s.braid 3).pllUp = true ∧ (s.braid 3).tok = some 0) ∧
    (let s := up.setBraid 3 { Braid.init with pllUp := true }
     (s.braid 3).tok = none ∧ after (exec (.braidPllLoss 3) s) (fun t => t.die.pllLoss == 1 && !t.rdy.braids.getLsbD 3) = true) ∧
    (up.braid 3).pllUp = false ∧ up.cap.braids.getLsbD 3 = true ∧ up.cap.fold.getLsbD 3 = false ∧ up.secUp = true ∧ up.tablesOk = true ∧
      (up.setReady .sec false).secUp = false ∧ (up.setReady .sec false).live = true ∧
      after (exec (.braidPllRelock ⟨3, true⟩) up) (fun t => t.rdy.braids.getLsbD 3) = true ∧
      after (exec (.braidPllRelock ⟨3, false⟩) up) (fun t => !t.rdy.braids.getLsbD 3) = true := by decide +kernel

/-- R505: the first and the last cause. -/
theorem fatalConditions_met :
    (∀ c ∈ [(1 : Byte), 5], up.sys.safe = none ∧ 1 ≤ c.toNat ∧ c.toNat ≤ 5 ∧ up.sys.lastFatal ≠ some c ∧ up.bel.state ≠ 3 ∧ up.tablesOk = true ∧
      after (exec (.deviceFatalCondition c 9) up) (fun t => t.pins.fault && t.sys.safe.map (·.cause) == some c) = true) ∧
    (let s : State := { up with sys := { up.sys with safe := some { cause := 1, unit := 0, entry := true, acked := false } } }
     s.sys.safe ≠ none ∧ after (exec .fatalNoticeAcknowledged s) (fun t => t.sys.resetReq == some 3) = true) := by decide +kernel

/-- An entry of class `k`. -/
def bbxEntry (k : Byte) : BbxEntry := { cycles := 0, domain := 0, cls := k, unit := 0, event := 0x10, status := 0, ten := none, args := [] }

theorem entriesAreStored_met :
    let s : State := { up with bbx := { Bbx.init with queue := [bbxEntry 3, bbxEntry 0] }, die := { RecordDie.init with nextSeq := 131072 } }
    s.bbxAvail = true ∧ s.bbx.queue = [bbxEntry 3, bbxEntry 0] ∧ s.bbx.late = 0 ∧ (bbxEntry 3).event ≠ 0x70 ∧ s.sys.safe = none ∧ s.tablesOk = true ∧
      after (exec .blackBoxStore s) (fun t => t.die.ffa.length == 1 && t.die.nextSeq == 131073 && (Sparse.get none t.die.ring 0).isSome) = true ∧
      after (exec .blackBoxStore { s with bbx := { s.bbx with queue := [bbxEntry 0] } }) (fun t => t.die.ffa.isEmpty) = true := by decide +kernel

/-! ## Management, power, belay and registers -/

theorem managementAnswers_met :
    up.mgmtUp = true ∧ eidOk 8 = true ∧ eidOk 0xFE = true ∧ eidOk 7 = false ∧ eidOk 0xFF = false ∧
    (let s : State := { up with mgmt := { Mgmt.init with target := some 9 }, events := [{ event := 1, ten := 1, fn := 0, seq := 2 }], evDrop := 3 }
     s.ready .sched = true ∧ s.mgmt.target ≠ none ∧
       after (exec .managementEventRead s) (fun t => t.events.isEmpty && t.evDrop == 0 && said t == [0x80, 1, 0, 1, 0, 2, 0, 0, 0, 0, 0, 0, 0, 3, 0, 0, 0]) = true) := by
  decide +kernel

theorem spdmAnswers_met :
    (let s : State := { up with mgmt := { Mgmt.init with version := true, caps := true, algs := true, deferred := some (0x83, 5, [1]) } }
     s.spdmUp = true ∧ s.mgmt.version = true ∧ s.mgmt.caps = true ∧ s.mgmt.algs = true ∧ 1 ≤ s.lc ∧ s.lc ≤ 3 ∧ s.mgmt.deferred = some (0x83, 5, [1]) ∧
       s.signing = false ∧ s.pke.idle = true ∧
       after (exec (.respondIfReady 5) s) (fun t => t.mgmt.deferred.isNone && t == ({ s with mgmt := { s.mgmt with deferred := none } } : State).spdmSend [1]) = true) ∧
    (let s : State := { up with fuses := { Fuses.init with words := [0, 0, 0, 0xFFFFFFFF] } }
     s.spdmUp = true ∧ s.lc = 4 ∧ after (exec (.challenge 0 0) s) (fun t => t == s.spdmSend [0x12, 0x7F, 0x05, 0]) = true) := by decide +kernel

/-- Sensors of the braids at 40 °C, but that of braid `b` at `x`. -/
def sensors (b : Nat) (x : Byte) : Vector Byte 64 := Vector.ofFn (fun i => if i.val = b then x else 40)

/-- R543, R544: 95 °C on a braid takes four from its strand's limit, 89 °C gives one; 109 °C goes on, 110 °C is fatal. -/
theorem powerIsHeld_met :
    up.live = true ∧ up.ready .power = true ∧ up.pwr.hold = false ∧ up.tablesOk = true ∧
    (let r := (up.readings ⟨sensors 63 109, 0, 0, 0, 0⟩).thermal
     r.pwr.die.toNat = 109 ∧ r.memTemp < 105) ∧ (up.readings ⟨sensors 63 40, 110, 0, 0, 0⟩).thermal.pwr.die.toNat = 110 ∧
    (let s0 := up.setPwrBraid 60 { PwrBraid.init with therm := 10 }
     let s : State := { s0 with pwr := { s0.pwr with hold := true } }
     after (exec (.powerWindowEnd ⟨sensors 63 95, 0, 0, 0, 0⟩) s) (fun t => (t.pwrBraid 60).therm == 6) = true ∧
     after (exec (.powerWindowEnd ⟨sensors 63 90, 0, 0, 0, 0⟩) s) (fun t => (t.pwrBraid 60).therm == 10) = true ∧
     after (exec (.powerWindowEnd ⟨sensors 63 89, 0, 0, 0, 0⟩) s) (fun t => (t.pwrBraid 60).therm == 11) = true) ∧
    after (exec .powerTrip (up.setPwrBraid 63 { PwrBraid.init with cap := 7 })) (fun t => t.pwr.hold && t.pwr.trips == 1 && (t.braid 63).held && (t.pwrBraid 63).cap == 3) = true ∧
    (let s : State := { up with pwr := { up.pwr with hold := true } }
     s.pwr.hold = true ∧ s.tablesOk = true ∧ after (exec .powerTripRelease s) (fun t => !t.pwr.hold && t.pwr.skip) = true) := by decide +kernel

/-- The link as `st`, tenancy 1 as `x`. -/
def paired (st : BitVec 3) (x : Ten) : State := { tenanted [] with bel := { Belay.init with state := st }, tens := [(1, x)] }
def offer (m : BitVec 3) : PairOffer :=
  { trained := true, x16 := true, modId := m, chain := [], lc := 2, operator := 5, nonce := 9
    keyX := BitVec.ofNat 384 p384.gx, keyY := BitVec.ofNat 384 p384.gy, sig := [] }
def primary1 : Ten := { ten1 with mirror := 2, mir := { Mirror.init with pstate := 2, epoch := 3, sync := true } }
def standby1 : Ten := { ten1 with mirror := 3, mir := { Mirror.init with standby := true, pstate := 2, epoch := 3, mseq := 7, sync := true } }
def commit (gs : List (BitVec 36 × List Byte)) : CommitRecord :=
  { mseq := 8, epoch := 3, tenancy := 1, kind := 1, ring := 0, fn := 1, origin := 1, seq := 0, set := 0, last := true, seqgen := 0, granules := gs, changes := [], comp := { status := 0, detail := 0, position := 0, value := 0 } }

theorem belayLink_met :
    (let s : State := { up with bel := { Belay.init with state := 1 } }
     s.belayUp = true ∧ s.bel.state = 1 ∧ s.drbgOk = true ∧ (offer 1).trained = true ∧ (offer 0).modId = s.pins.modId ∧ (offer 1).modId ≠ s.pins.modId ∧
       s.pke.idle = true ∧ after (exec (.belayPairing (offer 0)) s) (fun t => t.bel.state == 5 && t.bel.refusal == 1 && t.out == [.modId 0]) = true) ∧
    (let q : PkeReq := { tok := none, buf := [], pair := some (offer 1) }
     let s : State := { up with bel := { Belay.init with state := 2 }, pke := { up.pke with running := some q } }
     s.pke.idle = false ∧ s.pke.running = some q ∧ q.tok = none ∧ q.pair = some (offer 1) ∧ s.bel.state = 2) ∧
    (let s : State := { up with bel := { Belay.init with state := 5 } }
     s.belayUp = true ∧ s.bel.state = 5) ∧
    (let s : State := { up with bel := { Belay.init with state := 3, tx := 4294967295 } }
     s.belayUp = true ∧ s.bel.state = 3 ∧ s.tens = [] ∧ 2 ^ 32 ≤ s.bel.tx + 1 ∧ (s.sendItem 1 (.notice 1 2)).2 = false) ∧
    (let s : State := { up with bel := { Belay.init with state := 3 } }
     s.bel.retryDue = 0 ∧ s.bel.rx + 2 < 2 ^ 32 ∧ s.bel.tx + 1 < 2 ^ 32) ∧
    (let s0 := paired 4 primary1
     let s : State := { s0 with bel := { s0.bel with down := true } }
     s.bel.state ≠ 3 ∧ s.bel.down = true ∧ s.bel.timeout ≠ 0 ∧ s.tens = [(1, primary1)] ∧ primary1.primary = true ∧
       after (exec .belayDownTimeout s) (fun t => !t.bel.down && (t.ten 1).mir.pstate != 2) = true) ∧
    (let s := paired 4 standby1
     s.bel.state ≠ 3 ∧ (s.ten 1).standby = true ∧ (s.ten 1).st ≠ .closing) ∧
    (paired 3 standby1).tablesOk = true ∧ ((paired 3 standby1).ten 1).mir.pstate = 2 ∧
    (paired 3 standby1).bel.state = 3 ∧ ((paired 3 standby1).ten 1).standby = true ∧ ((paired 3 primary1).ten 1).primary = true ∧
      after (exec (.closeNotice 1) (paired 3 standby1)) (fun t => (t.ten 1).st != .active && t.out.any (· == .notice 1 4)) = true := by decide +kernel

theorem recordsPass_met :
    (let s := paired 3 standby1
     s.linked = true ∧ (commit []).tenancy = 1 ∧ (s.ten 1).standby = true ∧ (s.ten 1).st ≠ .closing ∧ (s.ten 1).mir.pstate = 2 ∧
       (commit []).mseq = (s.ten 1).mir.mseq + 1 ∧ (commit []).epoch = (s.ten 1).mir.epoch ∧
       (match s.applyBody 1 [] [] with | .ok t => t == s.fence (s.ctlsOf 1 [] []) | _ => false) = true ∧
       after (exec (.commitRecordApply (commit []) 0) s) (fun t => (t.ten 1).mir.mseq == 8 && t.out == [.notice 1 2]) = true) ∧
    (let s := paired 3 { standby1 with ptes := [(0, some [(2, { Pte.init with state := .mapped })])], ring := Quota.init, bulk := Quota.init }
     (match s.applyBody 1 [] (commit [(BitVec.ofNat 36 1024, [])]).granules with | .full => true | _ => false) = true) ∧
    (let s := paired 3 { primary1 with mir := { primary1.mir with sent := [commit []] } }
     (s.ten 1).mir.sent = [commit []] ∧ (s.ten 1).primary = true ∧ (s.ten 1).mir.pstate = 2 ∧
       after (exec (.commitRecordAck 1) s) (fun t => (t.ten 1).mir.sent.all (fun r => r.kind == 7)) = true) := by decide +kernel

/-- R526: the primary of the same epoch, and of the next; and on the standby's side. -/
theorem resyncs_met :
    (let s := paired 3 { primary1 with mir := { primary1.mir with pstate := 0 } }
     s.linked = true ∧ (s.ten 1).st ≠ .closing ∧ (s.ten 1).mir.pstate = 0 ∧ (s.ten 1).primary = true ∧
       after (exec (.resyncStart 1 ⟨false, 3⟩) s) (fun t => (t.ten 1).mir.pstate == 1 && (t.ten 1).mir.copying) = true ∧ (3 : Nat) < (4 : BitVec 32).toNat) ∧
    (let s := paired 3 { standby1 with mir := { standby1.mir with pstate := 0 } }
     (s.ten 1).standby = true ∧ (s.ten 1).primary = false ∧ (s.ten 1).mir.epoch.toNat ≤ (3 : BitVec 32).toNat ∧ s.drbgOk = true) ∧
    (let s := paired 3 { primary1 with mir := { primary1.mir with pstate := 1, copying := true } }
     (s.ten 1).mir.pstate = 1 ∧ (s.ten 1).mir.copying = true ∧ (s.ten 1).primary = true) ∧
    (let s := paired 3 { standby1 with mir := { standby1.mir with pstate := 1, copying := true } }
     let c : PeerCopy := { epoch := 4, mseq := 9, sync := true, fn := 1, rings := [], cred := 0, changes := [], granules := [], late := [] }
     (s.ten 1).primary = false ∧ (s.ten 1).standby = true ∧ (match s.applyCopy 1 c with | .ok _ => true | _ => false) = true ∧ s.tablesOk = true ∧
       after (exec (.resyncDone 1 c) s) (fun t => (t.ten 1).mir.pstate == 2 && (t.ten 1).mir.epoch == 4 && (t.ten 1).mir.mseq == 9) = true) := by decide +kernel

/-- R14–R18: a block that is up and one that is not; a read-only block; the functions. -/
theorem registerAccesses_met :
    up.barUp = true ∧ up.blkUp (blkOf 0x200000).1 = true ∧ (booting 0).barUp = true ∧ (booting 0).blkUp (blkOf 0x200000).1 = false ∧
      (blkOf 0).1 = .cap ∧ (blkOf 0x2C0000).1 = .lcs ∧ up.sys.vfs = 0 ∧ (3 : Fn) ≠ 0 ∧ up.sys.vfs.toNat < (3 : Fn).toNat ∧
      (let s := up.setPort .b { PortSt.init with up := true }
       s.pins.powered = true ∧ (s.port .b).up = true ∧ after (exec (.readClear (.bulk .b) 8) s) (fun t => t.out == [.readData 0]) = true) ∧
      after (exec (.registerWrite 0 0 0xFFFFFFFFFFFFFFFF) up) (fun t => t == up) = true := by decide +kernel

theorem lifeCycleNeverFalls_met : 4 ≤ ({ State.reset with fuses := { Fuses.init with words := [0, 0, 0, 0xFFFFFF] } } : State).lc ∧ (2 : Nat) ≤ State.reset.lc := by
  decide +kernel

theorem tablesStayCanonical_met : State.reset.tablesOk = true ∧ (tenanted [1, 0, 2]).tablesOk = true := by decide +kernel

theorem commandsKeepQueue_met : after (step { State.reset with pending := [.powerOn 0, .fwStatus] }) (fun t => t.pending == [.fwStatus] && t.pins.powered) = true := by
  decide +kernel

theorem stepIdles_met : State.reset.pending = [] ∧ after (step State.reset) (fun t => t == State.reset) = true := by decide +kernel

/-! ## Well-formedness: for each check a term it refuses and one at the edge it accepts -/

def lane4 (p : PciePort) (v : Bool) (l s : Nat) : Instr :=
  .laneMargining { port := p, lane := BitVec.ofNat 4 l, voltage := v, upRight := true, step := BitVec.ofNat 7 s, report := none }

theorem test_wf_laneMargining :
    Instr.wf (lane4 .control true 4 0) = false ∧ Instr.wf (lane4 .bulkA true 4 64) = true ∧ Instr.wf (lane4 .control true 3 65) = false ∧
    Instr.wf (lane4 .control false 3 33) = false ∧ Instr.wf (lane4 .control false 3 32) = true := by decide

theorem test_wf_pcieLinkUp :
    Instr.wf (.pcieLinkUp ⟨.control, ⟨6, 4, true⟩, 0, false⟩) = false ∧ Instr.wf (.pcieLinkUp ⟨.control, ⟨5, 4, true⟩, 8, false⟩) = false ∧
    Instr.wf (.pcieLinkUp ⟨.control, ⟨5, 4, true⟩, 7, false⟩) = true := by decide

theorem test_wf_deviceFatalCondition :
    Instr.wf (.deviceFatalCondition 0 0) = false ∧ Instr.wf (.deviceFatalCondition 6 0) = false ∧
    Instr.wf (.deviceFatalCondition 1 0) = true ∧ Instr.wf (.deviceFatalCondition 5 0xFFFF) = true := by decide

def braidRes (b : Nat) : BraidResult :=
  { braid := BitVec.ofNat 6 b, banks := [], store := 0, cores := 0, restOk := true, sig := 0, confirms := true }

theorem test_wf_bistWaveDone :
    Instr.wf (.bistWaveDone ((List.range 9).map braidRes)) = false ∧ Instr.wf (.bistWaveDone [braidRes 3, braidRes 3]) = false ∧
    Instr.wf (.bistWaveDone ((List.range 8).map braidRes)) = true := by decide

theorem test_wf_commandFetch :
    Instr.wf (.commandFetch 0 0 []) = false ∧ Instr.wf (.commandFetch 0 0 (List.replicate 17 0)) = false ∧
    Instr.wf (.commandFetch 0 0 (List.replicate 16 0)) = true := by decide

theorem test_wf_memory_sets :
    Instr.wf (.memTempRead ⟨.ring, .h0, 12⟩ 40) = false ∧ Instr.wf (.memTempRead ⟨.ring, .h0, 11⟩ 40) = true ∧
    Instr.wf (.memoryTrainingDone ⟨.bulk, .h1, 10⟩ true) = false ∧ Instr.wf (.memoryTrainingDone ⟨.bulk, .h1, 9⟩ true) = true := by decide

theorem test_wf_bar2Write :
    Instr.wf (.bar2Write .a 0 0 []) = false ∧ Instr.wf (.bar2Write .a 0xFFFFFFFFFF 0 [1, 2]) = false ∧
    Instr.wf (.bar2Write .a 0xFFFFFFFFFF 0 [1]) = true := by decide

theorem test_wf_bar2Write_longest :
    Instr.wf (.bar2Write .a 0 0 (List.replicate 512 1)) = true ∧ Instr.wf (.bar2Write .a 0 0 (List.replicate 513 1)) = false := by
  decide +kernel

theorem test_wf_fwData_longest :
    Instr.wf (.fwData 0 (List.replicate 4152 1)) = true ∧ Instr.wf (.fwData 0 (List.replicate 4153 1)) = false := by
  decide +kernel

theorem test_wf_bar2Read :
    Instr.wf (.bar2Read .b 0 0 0) = false ∧ Instr.wf (.bar2Read .b 0 0 4097) = false ∧ Instr.wf (.bar2Read .b 0xFFFFFFF001 0 4096) = false ∧
    Instr.wf (.bar2Read .b 0xFFFFFFF000 0 4096) = true := by decide

theorem test_wf_interrupt_targets :
    Instr.wf (.interruptClaim 67) = false ∧ Instr.wf (.interruptClaim 66) = true ∧ Instr.wf (.interruptClaim 127) = false ∧
    Instr.wf (.interruptClaim 128) = true ∧ Instr.wf (.endOfInterrupt 191 0x3FF) = true ∧ Instr.wf (.endOfInterrupt 192 0x3FF) = false := by
  decide

def unitRes : UnitResult := { spared := true, repaired := false, rows := 0, cols := 0, sig := 0, links := 0 }

theorem test_wf_hawserCleatBistDone :
    Instr.wf (.hawserCleatBistDone 63 unitRes) = false ∧ Instr.wf (.hawserCleatBistDone 89 unitRes) = false ∧
    Instr.wf (.hawserCleatBistDone 64 unitRes) = true ∧ Instr.wf (.hawserCleatBistDone 88 unitRes) = true := by decide

def recOf (m kind : Nat) (gs : List (BitVec 36 × List Byte)) : CommitRecord :=
  { mseq := BitVec.ofNat 64 m, epoch := 0, tenancy := 1, kind := BitVec.ofNat 4 kind, ring := 0, fn := 1, origin := 1, seq := 0, set := 0, last := true
    seqgen := 0, granules := gs, changes := [], comp := { status := 0, detail := 0, position := 0, value := 0 } }

theorem test_wf_commitRecordApply :
    Instr.wf (.commitRecordApply (recOf 1 0 []) 0) = false ∧ Instr.wf (.commitRecordApply (recOf 1 8 []) 0) = false ∧
    Instr.wf (.commitRecordApply (recOf 1 7 []) 0) = true := by decide

theorem test_wf_granules_are_whole :
    Instr.wf (.commitRecordApply (recOf 1 1 [(0, List.replicate 4095 0)]) 0) = false ∧
    Instr.wf (.commitRecordApply (recOf 1 1 [(0, List.replicate 4096 0)]) 0) = true := by
  decide +kernel

def copyOf (late : List CommitRecord) : PeerCopy :=
  { epoch := 0, mseq := 7, sync := true, fn := 1, rings := [], cred := 0, changes := [], granules := [], late := late }

theorem test_wf_resyncDone :
    Instr.wf (.resyncDone 1 (copyOf [recOf 9 1 []])) = false ∧ Instr.wf (.resyncDone 1 (copyOf [recOf 8 1 [], recOf 8 1 []])) = false ∧
    Instr.wf (.resyncDone 1 (copyOf [recOf 8 1 [], recOf 9 1 []])) = true := by decide

theorem test_wf_register_offsets :
    Instr.wf (.readClear (.ctrl 0) 0x104) = false ∧ Instr.wf (.readClear (.ctrl 0) 0x108) = true ∧ Instr.wf (.registerWrite 0 0x101 0) = false ∧
    Instr.wf (.registerWrite 0 0x3FFFFF8 0) = true := by decide

/-- No row of the table has bits. -/
theorem test_no_word_spells_a_command (nbits w : Nat) : decodeTableWord nbits w = none := rfl

/-! ## More witnesses -/

/-- R266: a sweep with room to make, over two frames; a page as each case of the sweep finds it. -/
theorem sweepGoesRound_met :
    (let s0 := tenanted []
     let s : State := { s0 with mem := { s0.mem with pagers := [(0, { Pager.init with lowWater := 0xFFFFFF, sweep := 1 })], use := [(0, some (.allocated 1 1)), (1, some (.scrubbing 1))] } }
     s.live = true ∧ s.migrates = true ∧ s.frameUse 0 = some (.allocated 1 1) ∧ (s.pte 1 1).state = .backed ∧ (s.pte 1 1).ref = false ∧ (s.pte 1 1).pin = false ∧
       ((s.ten 1).book true).avail ≠ 0 ∧ s.tierOpen true = true) ∧
    (∀ p ∈ [{ page1 with ref := true }, { page1 with pin := true }, { page1 with state := .migrating }],
      let s := (tenanted []).setPte 1 1 p
      s.frameUse 0 = some (.allocated 1 1) ∧ s.pte 1 1 = p ∧ ((s.sweepFrame false 0).pte 1 1).state = p.state) := by decide +kernel

/-- R267: the first pass of a page with a granule that cannot be read. -/
theorem firstPasses_met :
    (let s0 := migrating (fun m => { m with passes := 0 }) true
     let s : State := { s0 with mem := { s0.mem with bad := [7] } }
     ∃ m, s.mig 1 1 = some m ∧ m.clean = false ∧ m.passes = 0 ∧ m.dirty = [] ∧
       (s.mem.bad ++ s.mem.soft.map Prod.fst).filter (fun x => x / 512 == (s.pte 1 1).id) = [7]) ∧
    (let s := migrating (fun m => { m with passes := 0, dirty := NatSet.add [] 5 }) true
     ∃ m, s.mig 1 1 = some m ∧ m.dirty ≠ [] ∧ (∀ g ∈ s.mem.bad ++ s.mem.soft.map Prod.fst, g / 512 ≠ (s.pte 1 1).id) ∧
       after (exec (.migrationPassEnd 1 1) s) (fun t => (t.mig 1 1).any (fun m => m.passes == 1 && m.dirty == [] && m.work != [])) = true) := by
  refine ⟨⟨_, rfl, ?_⟩, ⟨_, rfl, ?_⟩⟩ <;> decide +kernel

set_option maxRecDepth 1000000 in
/-- R282: a sealed line whose ciphertext is not zero; the fence's cases. -/
theorem sealedLines_met :
    (let s0 := tenanted []
     let w : WcEntry := { line := 1, mask := 1, data := 5, ten := 1 }
     let s : State := { s0 with
       tens := [(1, { ten1 with xts := some 0, ptes := [(0, some [(1, { page1 with sealed := true })])] })], mem := { s0.mem with wc := [w] } }
     (s.pte 1 1).backed = true ∧ (s.pte 1 1).id = 1 / 2 ^ 15 ∧ (s.ten 1).xts.isSome = true ∧ (s.mem.wc.filter (fun w => w.line == 1)).length ≤ 1 ∧
       after (exec (.wcAgeFlush 1) s) (fun t => !t.mem.blank 1 && t.peekByte 1 (2 ^ 21 + 64) == 5 && t.peekByte 1 (2 ^ 21 + 65) == s.peekByte 1 (2 ^ 21 + 65)) = true ∧
       s.frameUse (s.pte 1 1).id = some (.allocated 1 1)) := by decide +kernel

/-- A frame of slot 1 that lacks its last byte. -/
def nearly (out : Bool) : RecBuf :=
  { slot := 1, frame := 0, out := out, bytes := List.replicate 131135 (0, some 0), image := [1, 2, 3], poison := [] }
def sealedWin (dir : Bool) (bufs : List RecBuf) : State :=
  ((windowed dir).setWin 1 { (windowed dir).win 1 with sealed := true, length := 32 }).setPort .a { PortSt.init with up := true, bufs := bufs }

/-- R378–R381: a byte into a frame that has no buffer, with room for one and without; a read of a buffered frame and of another. -/
theorem sealedFramesPass_met :
    (let s := sealedWin false []
     s.portServes .a = true ∧ (s.win 1).st = .open_ ∧ (s.win 1).sealed = true ∧ (s.win 1).takes .a false 131135 1 0 = true ∧ (s.port .a).bufs.length < 128 ∧
       after (exec (.bar2Write .a (BitVec.ofNat 40 (2 ^ 30 + 131135)) 0 [9]) s) (fun t => (t.port .a).bufs.length == 1 && t.mem == s.mem) = true) ∧
    (let s := sealedWin false (List.replicate 128 { nearly false with slot := 2, bytes := [] })
     128 ≤ (s.port .a).bufs.length ∧ after (exec (.bar2Write .a (BitVec.ofNat 40 (2 ^ 30)) 0 [9]) s) (fun t => t == s) = true) ∧
    (let s := sealedWin true [{ nearly true with bytes := [] }]
     (s.win 1).takes .a true 0 3 0 = true ∧
       after (exec (.bar2Read .a (BitVec.ofNat 40 (2 ^ 30)) 0 3) s) (fun t => t.out == [.barData [1, 2, 3] false] && (t.port .a).bufs.length == 1) = true) ∧
    (sealedWin true []).port .a = { PortSt.init with up := true } := by decide +kernel

theorem set_above (n : Nat) (x : Option Byte) (h : x ≠ none) :
    Sparse.set none (List.replicate n (0, some (0 : Byte))) 1 x = List.replicate n (0, some 0) ++ [(1, x)] := by
  induction n with
  | zero => simp [Sparse.set, h]
  | succ n ih =>
    show (0, some (0 : Byte)) :: Sparse.set none (List.replicate n (0, some 0)) 1 x = _
    rw [ih]; rfl

/-- R380: the last byte comes, and the frame is whole; whether it opens is the key's. -/
theorem wholeFrames_met :
    (Sparse.set none (nearly false).bytes 1 (some (9 : Byte))).length = 131136 ∧
      ∀ o : Option (List Byte), o = none ∨ ∃ pt, o = some pt := by
  refine ⟨?_, fun o => by cases o <;> simp⟩
  rw [show (nearly false).bytes = List.replicate 131135 (0, some 0) from rfl, set_above _ _ (by simp), List.length_append, List.length_replicate]; rfl

set_option maxRecDepth 1000000 in
/-- R42: two braids, of which the second is the tenancy's already; R338: a saved token and a braid for it. -/
theorem braidsAreChosen_met :
    (let s := kerneled.setBraid 1 { Braid.init with pllUp := true, ten := some 1 }
     [0, 1].Pairwise (· < ·) ∧ s.chooseBraid token [] [] [0, 1] = some 1 ∧ s.chooseBraid token [] [] [] = none ∧ [0, 1].Nodup ∧
       s.rankBraids [token] [0, 1] = some [0]) ∧
    (let u : Token := { savedTok with started := true }
     let s : State := { kerneled with tens := [(1, { ten1 with braids := 1, ctxslots := 1, ctx := [(0, some 1)] })], sch := { kerneled.sch with pool := [u], nextId := 2 } }
     let t : Token := (s.wakeSaved.tok 1).getD u
     let g := s.wakeSaved.modTen 1 (fun x => { x with deficit := x.deficit + x.weight.toNat })
     let d : State := { g with draws := g.draws + 256 }
     s.schedUp = true ∧ s.lcs.pending = none ∧ s.wakeSaved.candidates = [t] ∧ t.ten = 1 ∧ (s.ten 1).prio = 7 ∧ sortBy g.before [t] = [t] ∧ t.ctx ≠ none ∧ s.tablesOk = true ∧
       d.allFold 1 = false ∧ d.chooseBraid t (d.tokSigs t) (t.srcs ++ t.dests) (d.freeBraids 1 (d.imageFold t)) = some 0) := by
  decide +kernel

/-- An image that asks for the list of source slot 0, a skip map of nine units. -/
def listAux : List Byte :=
  let h := [1] ++ List.replicate 15 (0 : Byte) ++ [8, 0, 0, 0, 8, 0, 0, 0, 5, 0, 0, 0] ++ List.replicate 32 0
  h ++ leBytes 4 (crc32c h).toNat
def listKernel : BitVec 512 :=
  let x := 1 + 1 * 2 ^ 20 + 29 * 2 ^ 128 + (128 + 64 * 2 ^ 32) * 2 ^ 256
  BitVec.ofNat 512 (x + (crc32c (leBytes 60 x ++ leBytes 64 endKernel.toNat)).toNat * 2 ^ 480)
def listing : State :=
  let s0 := starting kernelWord
  let m : BitVec 512 := BitVec.ofNat 512 (7 * 2 ^ 8 + (2 ^ 21 + 8192) * 2 ^ 192 + 9 * 2 ^ 320)
  { s0 with
    mem := { s0.mem with cells := cellsAt 0 (leBytes 64 listKernel.toNat ++ leBytes 64 endKernel.toNat ++ listAux) ++ cellsAt 4096 (leBytes 64 tinyTable.toNat) ++ cellsAt 8192 [5, 1] }
    sch := { s0.sch with pool := s0.sch.pool.map (fun t => { t with srcs := [(0, m)] }) } }

set_option maxRecDepth 1000000 in
/-- R147, R163: the list of present units 0, 2 and 8 goes to every core, from address 8 on; a sealed region there stops the kernel. -/
theorem kernelLists_met :
    let u := (listing.tok 0).getD token
    (listing.braid 0).tok.bind listing.tok = some u ∧ ((listing.startChecks 0 u 0).2.toOption.map (fun x => (x.aux.listen, x.present))) = some (true, [0, 2, 8]) ∧
      after (exec (.kernelStart 0) listing) (fun t => (t.braid 0).phase == .issuing && (t.braid 0).spByte 63 12 == 2 && (t.braid 0).spByte 0 16 == 8) = true ∧
      (let s := listing.setBraid 0 { listing.braid 0 with sealMap := 1 }
       after (exec (.kernelStart 0) s) (fun t => (t.braid 0).phase == .stopped) = true) := by decide +kernel

theorem stopsAndNotices_met :
    (let s0 := (starting kernelWord).setBraid 0 { busy (sent 0 8 0) with notice := some 0x41, issued := [0] }
     (s0.braid 0).notice = some 0x41 ∧ (s0.braid 0).phase = .issuing ∧ (s0.braid 0).issued ≠ [] ∧ (s0.braid 0).stop = none ∧
       after (exec (.stopNoticeArrival 0) s0) (fun t => (t.braid 0).phase == .issuing && (t.braid 0).stop.isSome) = true) ∧
    (let s0 := (starting kernelWord).setBraid 0 { busy (sent 0 8 0) with notice := some 0x41, phase := .ended }
     (s0.braid 0).notice = some 0x41 ∧ (s0.braid 0).issueOver = true ∧
       after (exec (.stopNoticeArrival 0) s0) (fun t => (t.braid 0).stop.isNone && (t.braid 0).notice.isNone) = true) := by decide +kernel

/-- R345, R346: the interval of a function that owns tenancy 1 passes; of the PF. R502: an error in a tenancy that closes. -/
theorem lostHosts_met :
    (let s0 := beating false
     let u : Token := { token with st := .retiring }
     let s : State := { s0 with sch := { s0.sch with pool := [u], order := [0], nextId := 1 } }
     s.tablesOk = true ∧ (s.fn 1).hbInt ≠ 0 ∧ (s.fn 1).current = true ∧ (s.fn 1).lost = false ∧ s.tok 0 = some u ∧ 0 ∈ s.sch.order ∧ u.ten = 1 ∧ u.holds = true ∧
       after (exec (.heartbeatExpiry 1) s) (fun t => (t.fn 1).lost && (t.src 0x141).pending && (t.ten 1).st == .orphaned && t.sch.order == [] && t.sch.heldQ == [0]) = true) ∧
    (let s := (vfs up).setFn 0 { FnSt.init with current := true }
     (s.fn 0).hbInt ≠ 0 ∧ s.events.length < 64 ∧ after (exec (.heartbeatExpiry 0) s) (fun t => t.events.length == 1) = true) ∧
    (let c : Closing := { force := false, status := 0x40, tok := none, wiped := none, freed := false, orphan := false }
     let s := (tenanted []).setTen 1 { ten1 with st := .closing, closing := some c }
     (s.ten 1).st = .closing ∧ (s.ten 1).closing = some c ∧ c.wiped = none ∧ (s.ten 1).st ≠ .free ∧
       after (exec (.tenancyFatalError 1 3 false) s) (fun t => (t.src 0x201).pending && (t.ten 1).closing.any (fun c => c.force && c.status == 0x7F)) = true) ∧
    (tenanted []).tablesOk = true ∧ ((tenanted []).ten 1).closing = none := by decide +kernel

theorem imagesGoOn_met :
    (let s : State := { up with rdy := { bits := 6, braids := 0, refused := false }, boot := { Boot.init with state := 2 } }
     s.mgmtUp = true ∧ s.sys.safe = none ∧ s.boot.state = 2 ∧ s.sys.resetReq ≠ some 2 ∧ s.boot.digests = [] ∧ s.drbgOk = false ∧ s.ready .sec = true) ∧
    (let s : State := { up with boot := { Boot.init with state := 2 } }
     s.drbgOk = true ∧ s.ready .sec = true) ∧
    (let s : State := { booting 2 with boot := { (booting 2).boot with digests := [1] } }
     s.ready .sec = false ∧ s.boot.digests ≠ [] ∧ s.boot.state = 2) := by decide +kernel

/-- R445: a signed command while the engine works, and its turn. -/
theorem signedTurns_met :
    (∀ x ∈ [(0x20, 1088), (0x21, 576), (0x22, 1088)],
      let c := word 0x40 x.2 x.1
      let s := asked { tenanted [] with fuses := { Fuses.init with words := [0xFFFFFFFF, 0xFFFFFFFF, if x.1 = 0x22 then 0xFFFFFFFF else 0, 0] } } 0 c
      let q : PkeReq := { tok := some 0, buf := [] }
      let z : State := { s with pke := { s.pke with running := some q } }
      s.pke.idle = true ∧ s.svcStarts 0 x.1 (entry 0 c) = true ∧ (z.begun (entry 0 c)).pke.idle = false ∧ z.svcStarts 0 x.1 (entry 0 c) = true ∧ z.secUp = true ∧
        z.pke.running = some q ∧ q.tok = some 0 ∧ z.tok 0 = some (entry 0 c) ∧ (entry 0 c).isPke = false ∧ svcOf (entry 0 c).cmd = x.1 ∧ z.lcs.wait = none ∧
        z.drbgOk = true ∧ ({ z with lcs := { z.lcs with wait := some { target := 2, opKey := 0 } } } : State).lcs.wait ≠ none) := by decide +kernel

theorem resetsWait_met :
    (let s : State := { tenanted [] with sys := { Sys.init with resetReq := some 1 } }
     s.allFree = false ∧ s.sys.resetReq = some 1 ∧ s.pins.powered = true ∧ after (exec .packageReset s) (fun t => t.rdy.refused && t.sys.resetReq.isNone) = true) ∧
    (let e : BbxEntry := { bbxEntry 0 with domain := BitVec.ofNat 8 Dom.security, event := 2 }
     let s : State := { up with sys := { Sys.init with resetReq := some 2 }, bbx := { Bbx.init with queue := [e] } }
     s.transitionQueued = true ∧ ({ s with bbx := Bbx.init } : State).transitionQueued = false) := by decide +kernel

theorem recordsGoOn_met :
    (let s := paired 3 standby1
     s.linked = true ∧ s.bel.retryDue = 0 ∧ s.bel.rx + gcmRecords (64 + recBody (commit [])) + 1 < 2 ^ 32 ∧ (s.ten 1).mir.inbox = [] ∧
       (commit []).mseq.toNat ≤ ((s.setTen 1 { standby1 with mir := { standby1.mir with mseq := 8 } }).ten 1).mir.mseq.toNat ∧ s.bel.tx + 1 < 2 ^ 32 ∧
       (s.ten 1).mir.mseq.toNat + 1 < 2 ^ 64 ∧ s.tablesOk = true) ∧
    (let s0 := paired 3 primary1
     let s : State := { s0 with bel := { s0.bel with notices := [1] } }
     s0.bel.notices.contains 1 = false ∧ s.bel.notices.contains 1 = true ∧ s.bel.rx + 2 < 2 ^ 32 ∧
       after (exec (.commitRecordAck 1) s) (fun t => t.bel.notices.isEmpty) = true ∧
       after (exec (.resyncStart 1 ⟨true, 4⟩) s0) (fun t => (t.ten 1).st == .closing) = true ∧
       after (exec (.resyncStart 1 ⟨true, 3⟩) s0) (fun t => (t.src 0x343).pending) = true ∧ (s0.ten 1).st ≠ .closing) := by decide +kernel

/-! ## Accesses to BAR0 -/

def debugging : State := { up with fuses := { Fuses.init with words := [0xFFFFFFFF, 0xFFFFFFFF, 0xFFFFFFFF, 0] }, lcs := { Lcs.init with ok := true, unlocked := true } }

/-- R14, R17: what a register keeps of a word of ones. -/
theorem writtenFieldsReadBack_met :
    (∀ o ∈ [0x200000, 0x240010, 0x300020, 0x402000, 0x402008, 0x30200, 0x30208, 0x2002F8],
      debugging.rwRegs.any (fun r => r.1 == o) = true ∧ debugging.blkUp (blkOf o).1 = true) ∧
    debugging.barUp = true ∧
    (after (exec (.registerWrite 0 0x2002F8 0xFFFFFFFFFFFFFFFF) debugging) (fun t => t.regRead 0 0x2002F8 == (debugging.regRead 0 0x2002F8 ||| 0x1F00)) = true) ∧
    (up.hqUp = true ∧ (up.sq 31 3).en = false ∧ after (exec (.registerWrite 0 0x7E0C0 0xFFFFFFFFFFFFFFFF) up) (fun t => t.regRead 0 0x7E0C0 == 0xFFFFFFFFFFFFF000) = true) ∧
    ((srcDefault 0x3F0).isSome = true ∧ up.blkUp .ic = true ∧ up.ic.lock = false ∧
      after (exec (.registerWrite 0 0x23F00 0x1F05) up) (fun t => t.regRead 0 0x23F00 &&& 0x1FFF == 0x1F05) = true) := by decide +kernel

/-- R14, R16: a count is read and cleared; a read-only register is only read; a claim of vector 0 with nothing pending. -/
theorem readsClear_met :
    (let s : State := { up with pwr := { up.pwr with capDown := 7 } }
     rcBits 0x200018 = 0xFFFFFFFFFFFF ∧ s.blkUp (blkOf 0x200018).1 = true ∧
       after (exec (.readClear (.ctrl 0) 0x200018) s) (fun t => t.out == [.readData 7] && t.regRead 0 0x200018 == 0) = true) ∧
    rcBits 0x28008 = 0 ∧ (0x28008 : BitVec 26).toNat = 0x28008 + 0x40 * (0 : BitVec 6).toNat ∧ rcBits 0x200000 = 0 ∧
      after (exec (.readClear (.ctrl 0) 0x28008) up) (fun t => t.out == [.readData 0x7FF] && (t.tgt 0).spurious == 1) = true ∧
    rcBits 0x1D3F88 = 0xFFFFFFFFFFFFFFFF ∧ rcBits 0x1D3F90 = 0xFFFFFFFF ∧ rcBits 0x1D4090 = 0 := by decide +kernel

/-- R15: REFUSED cleared, and set again by a request of the same write. -/
theorem onesClear_met :
    (let s : State := { tenanted [] with rdy := { up.rdy with refused := true } }
     bit (0x100 : W64) 8 = true ∧ bit (0x100 : W64) 0 = false ∧ bit (0x100 : W64) 1 = false ∧ s.rdyCtl 0 = true ∧ s.allFree = false ∧
       after (exec (.registerWrite 0 0x10010 0x100) s) (fun t => !t.rdy.refused) = true ∧
       after (exec (.registerWrite 0 0x10010 0x101) s) (fun t => t.rdy.refused) = true) ∧
    (let s := (up.setSrc 0x100 { SrcSt.init with pending := true })
     s.blkUp .ic = true ∧ (s.srcCfg 0x100).target.toNat < 64 ∧ isLevel 0x100 = false ∧
       after (exec (.registerWrite 0 0x21008 1) s) (fun t => !(t.src 0x100).pending) = true) := by decide +kernel

/-- R18: the first offset past the registers of a block, and one between two. -/
theorem otherOffsetsAreInert_met :
    (∀ o ∈ [0x38, 0x10020, 0x2F008, 0x80020, 0x200028, 0x240018, 0x300028], (readRows (blkOf o).1).has (blkOf o).2 = false ∧ up.regRead 0 o = 0) ∧
    (∀ o ∈ [0x10000, 0x200018, 0x240000, 0x80000], (writeRows (blkOf o).1).has (blkOf o).2 = false) ∧
    (∀ o ∈ [0x30, 0x10018, 0x2F000, 0x80018, 0x200018, 0x240010, 0x3FFFF8, 0x28018], (readRows (blkOf o).1).has (blkOf o).2 = true) := by decide +kernel

end Sys2Proof.Tests
end

section
/-! Accesses to BAR0 (O57). The statement fails, on states whose tables are not canonical; where they are (`State.BarTablesOk`) each of
its parts holds, and the lemmas below say so: `blocksTakeAccesses` and `onesClear` of every state, the others under that hypothesis. -/

namespace Sys2Proof

/-! ## Fields of a register word -/

theorem getLsbD_put (lo n v i : Nat) :
    (put lo n v).getLsbD i = (decide (i < 64) && (decide (lo ≤ i) && (decide (i - lo < n) && v.testBit (i - lo)))) := by
  simp [put, BitVec.getLsbD_ofNat, Nat.testBit_mul_two_pow, Nat.testBit_mod_two_pow]

theorem testBit_fld {w : Nat} (x : BitVec w) (lo n i : Nat) : (fld x lo n).testBit i = (decide (i < n) && x.getLsbD (lo + i)) := by
  simp [fld, Nat.testBit_mod_two_pow, BitVec.testBit_toNat]

/-- The mask of bits [lo + n − 1 : lo]. -/
def ones (lo n : Nat) : W64 := put lo n (2 ^ n - 1)

theorem getLsbD_ones (lo n i : Nat) : (ones lo n).getLsbD i = (decide (i < 64) && (decide (lo ≤ i) && decide (i - lo < n))) := by
  simp [ones, getLsbD_put, Nat.testBit_two_pow_sub_one]

@[simp] theorem put_zero (lo n : Nat) : put lo n 0 = 0 := by simp [put]

/-- A word cut to a field is that field put in its place. -/
theorem and_ones (v : W64) (lo n : Nat) : v &&& ones lo n = put lo n (fld v lo n) := by
  ext i hi
  by_cases h : lo ≤ i <;> simp [← BitVec.getLsbD_eq_getElem, getLsbD_ones, getLsbD_put, testBit_fld, hi, h, Bool.and_comm]

@[simp] theorem put_and_not_ones_inside {lo n v a m : Nat} (h1 : a ≤ lo) (h2 : lo + n ≤ a + m) : put lo n v &&& ~~~(ones a m) = 0 := by
  ext i hi
  simp [← BitVec.getLsbD_eq_getElem, getLsbD_ones, getLsbD_put, hi]
  omega

@[simp] theorem put_and_not_ones_outside {lo n v a m : Nat} (h : lo + n ≤ a ∨ a + m ≤ lo) : put lo n v &&& ~~~(ones a m) = put lo n v := by
  ext i hi
  simp [← BitVec.getLsbD_eq_getElem, getLsbD_ones, getLsbD_put, hi]
  omega

@[simp] theorem or_and_not_ones (x y : W64) (a m : Nat) : (x ||| y) &&& ~~~(ones a m) = (x &&& ~~~(ones a m)) ||| (y &&& ~~~(ones a m)) :=
  BitVec.and_or_distrib_right

theorem putB_eq_put (lo : Nat) (b : Bool) : putB lo b = put lo 1 b.toNat := by cases b <;> simp [putB, put]

@[simp] theorem putB_and_not_ones_inside {lo a m : Nat} (b : Bool) (h1 : a ≤ lo) (h2 : lo + 1 ≤ a + m) : putB lo b &&& ~~~(ones a m) = 0 := by
  rw [putB_eq_put]; exact put_and_not_ones_inside h1 h2

@[simp] theorem putB_and_not_ones_outside {lo a m : Nat} (b : Bool) (h : lo + 1 ≤ a ∨ a + m ≤ lo) :
    putB lo b &&& ~~~(ones a m) = putB lo b := by
  rw [putB_eq_put]; exact put_and_not_ones_outside h

theorem put_toNat_ofNat (lo n v : Nat) : put lo n (BitVec.ofNat n v).toNat = put lo n v := by simp [put]

theorem put_fld_one (v : W64) (lo : Nat) : put lo 1 (fld v lo 1) = putB lo (bit v lo) := by
  rw [putB_eq_put, ← and_ones]
  ext i hi
  by_cases h : i = lo
  · subst h; cases hb : v.getLsbD i <;> simp [← BitVec.getLsbD_eq_getElem, getLsbD_ones, getLsbD_put, bit, hi, hb]
  · have hn : lo ≤ i → i - lo ≠ 0 := by omega
    by_cases hl : lo ≤ i <;> simp [← BitVec.getLsbD_eq_getElem, getLsbD_ones, getLsbD_put, hi, hl, hn]

/-- The mask of a whole word. -/
theorem ones_word : ones 0 64 = BitVec.allOnes 64 := by decide
@[simp] theorem and_ones_word (v : W64) : v &&& ones 0 64 = v := by rw [ones_word, BitVec.and_allOnes]
@[simp] theorem and_not_ones_word (v : W64) : v &&& ~~~(ones 0 64) = 0 := by simp [ones_word]
theorem and_full (v : W64) : v &&& 18446744073709551615#64 = v := BitVec.and_allOnes

/-! ## Rows of offsets, and a table's own value put back -/

theorem mem_every8 {n x : Nat} : x ∈ Machine.every8 n ↔ x % 8 = 0 ∧ x < 8 * n := by
  simp only [Machine.every8, List.mem_map, List.mem_range]
  constructor
  · rintro ⟨k, hk, rfl⟩; omega
  · exact fun h => ⟨x / 8, by omega, by omega⟩

theorem Sparse.set_get_self {α : Type} [DecidableEq α] {d : α} {m : Sparse α} (h : Sparse.wf d m = true) (k : Nat) :
    Sparse.set d m k (Sparse.get d m k) = m := by
  induction m with
  | nil => simp [Sparse.get, Sparse.set]
  | cons e m ih =>
    obtain ⟨he, hlt, hm⟩ := Sparse.wf_cons.1 h
    obtain ⟨j, u⟩ := e
    rcases Nat.lt_trichotomy k j with hk | rfl | hk
    · simp [Sparse.get, Sparse.set, hk, Nat.ne_of_lt hk]
    · simpa [Sparse.get, Sparse.set] using he
    · simp [Sparse.get, Sparse.set, Nat.ne_of_gt hk, Nat.not_lt_of_gt hk, ih hm]

end Sys2Proof

namespace Sys2Proof.Machine

/-! ## The blocks of BAR0 (R358) -/

/-- Where a block begins: `blkOf_base_add` and `blkOf_spec` tie `Blk.base` and `Blk.size` to the model's `blkOf`. -/
def Blk.base : Blk → Nat
  | .cap => 0 | .rdy => 0x10000 | .ic => 0x20000 | .hq => 0x40000 | .ten => 0x80000 | .win => 0xC0000 | .sch => 0x100000 | .mem => 0x140000
  | .spl => 0x180000 | .tel => 0x1C0000 | .pwr => 0x200000 | .bel => 0x240000 | .bst => 0x280000 | .lcs => 0x2C0000 | .bbx => 0x300000
  | .dbg => 0x400000

/-- The offsets from a block to the next; of DBG, to the end of BAR0. -/
def Blk.size : Blk → Nat
  | .cap | .rdy => 0x10000 | .ic => 0x20000
  | .hq | .ten | .win | .sch | .mem | .spl | .tel | .pwr | .bel | .bst | .lcs => 0x40000 | .bbx => 0x100000 | .dbg => 0x3C00000

theorem blkOf_base_add {b : Blk} {o : Nat} (h : o < b.size) : blkOf (b.base + o) = (b, o) := by
  cases b <;> simp only [Blk.size] at h <;> dsimp only [Blk.base] <;>
    simp (disch := omega) only [blkOf, blkBases, List.find?_cons, decide_eq_true, decide_eq_false, Nat.add_sub_cancel_left,
      Nat.sub_zero, Nat.zero_add]

theorem exists_blk_base_add {off : Nat} (h : off < 2 ^ 26) : ∃ b : Blk, ∃ o < b.size, off = b.base + o := by
  suffices ∃ b : Blk, b.base ≤ off ∧ off < b.base + b.size from
    let ⟨b, h1, h2⟩ := this; ⟨b, off - b.base, by omega, by omega⟩
  by_contra hn
  have hb := fun b => not_exists.1 hn b
  have h1 := hb .cap; have h2 := hb .rdy; have h3 := hb .ic; have h4 := hb .hq; have h5 := hb .ten; have h6 := hb .win; have h7 := hb .sch
  have h8 := hb .mem; have h9 := hb .spl; have h10 := hb .tel; have h11 := hb .pwr; have h12 := hb .bel; have h13 := hb .bst
  have h14 := hb .lcs; have h15 := hb .bbx; have h16 := hb .dbg
  simp only [Blk.base, Blk.size] at *
  omega

theorem blkOf_spec {off : Nat} (h : off < 2 ^ 26) : off = (blkOf off).1.base + (blkOf off).2 ∧ (blkOf off).2 < (blkOf off).1.size := by
  obtain ⟨b, o, ho, rfl⟩ := exists_blk_base_add h
  rw [blkOf_base_add ho]
  exact ⟨rfl, ho⟩

/-! ## The tables that registers show -/

/-- The tables that an access to BAR0 writes are canonical (log 4). `State.tablesOk` does not look at the conflict counts, lanyard engines,
pagers, routers, sources' configurations and interrupt targets. -/
structure State.BarTablesOk (s : State) : Prop where
  braids    : Sparse.wf Braid.init s.braids = true
  conflicts : ∀ i, Sparse.wf 0 (s.braid i).tel.conflict = true
  lans      : Sparse.wf Lanyard.init s.lans = true
  tiers     : Sparse.wf TierSt.init s.mem.tiers = true
  pagers    : Sparse.wf Pager.init s.mem.pagers = true
  routers   : Sparse.wf Router.init s.routers = true
  wins      : Sparse.wf Win.init s.wins = true
  ports     : Sparse.wf PortSt.init s.ports = true
  tens      : Sparse.wf Ten.init s.tens = true
  sqs       : Sparse.wf SqRing.init s.sch.sqs = true
  cfgs      : Sparse.wf none s.ic.cfgs = true
  tgts      : Sparse.wf Tgt.init s.ic.tgts = true
  limits    : Sparse.wf PwrBraid.init s.pwr.braids = true

section
variable {s : State} (h : s.BarTablesOk)
include h

theorem State.braid_setBraid (i : Nat) (x : Braid) : (s.setBraid i x).braid i = x := Sparse.get_set_self h.braids i x
theorem State.lan_setLan (i : Bool) (x : Lanyard) : (s.setLan i x).lan i = x := Sparse.get_set_self h.lans _ x
theorem State.tier_setTier (a b : Bool) (x : TierSt) : (s.setTier a b x).tier a b = x := Sparse.get_set_self h.tiers _ x
theorem State.pager_setPager (a : Bool) (x : Pager) : (s.setPager a x).pager a = x := Sparse.get_set_self h.pagers _ x
theorem State.router_setRouter (i : Nat) (x : Router) : (s.setRouter i x).router i = x := Sparse.get_set_self h.routers i x
theorem State.win_setWin (i : Nat) (x : Win) : (s.setWin i x).win i = x := Sparse.get_set_self h.wins i x
theorem State.port_setPort (p : Port) (x : PortSt) : (s.setPort p x).port p = x := Sparse.get_set_self h.ports _ x
theorem State.ten_setTen (n : Tid) (x : Ten) : (s.setTen n x).ten n = x := Sparse.get_set_self h.tens _ x
theorem State.sq_setSq (f : Fn) (q : BitVec 2) (x : SqRing) : (s.setSq f q x).sq f q = x := Sparse.get_set_self h.sqs _ x
theorem State.tgt_setTgt (t : Nat) (x : Tgt) : (s.setTgt t x).tgt t = x := Sparse.get_set_self h.tgts t x
theorem State.pwrBraid_setPwrBraid (b : Nat) (x : PwrBraid) : (s.setPwrBraid b x).pwrBraid b = x := Sparse.get_set_self h.limits b x
end

theorem reset_barTablesOk : State.reset.BarTablesOk := by
  constructor
  case conflicts => exact fun _ => rfl
  all_goals rfl

/-! ## Which blocks take accesses -/

/-- What `State.barUp` and `State.blkUp` look at. -/
def State.gates (s : State) : Pins × Sys × Rdy × Fuses × Bool := (s.pins, s.sys, s.rdy, s.fuses, s.lcs.unlocked)

section
variable {s t : State} (h : t.gates = s.gates)
include h

theorem State.barUp_of_gates : t.barUp = s.barUp := by
  simp only [State.gates, Prod.mk.injEq] at h
  obtain ⟨hp, hs, -⟩ := h
  simp [State.barUp, hp, hs]

theorem State.blkUp_of_gates (b : Blk) : t.blkUp b = s.blkUp b := by
  simp only [State.gates, Prod.mk.injEq] at h
  obtain ⟨-, -, hr, hf, hl⟩ := h
  cases b <;> simp [State.blkUp, State.hawserUp, State.ready, State.dbgOpen, State.lc, hr, hf, hl]
end

section
variable {s : State} {b : Blk} {o : Nat} (ho : o < b.size) (hbar : s.barUp = true) (hb : s.blkUp b = true)
include ho hbar hb

theorem State.regRead_base_add : s.regRead 0 (b.base + o) = s.readBlk b o := by simp [State.regRead, blkOf_base_add ho, hbar, hb]

theorem State.regWrite_base_add (v : W64) : s.regWrite 0 (b.base + o) v = s.writeBlk b o v := by
  simp [State.regWrite, blkOf_base_add ho, hbar, hb]

theorem State.regClear_base_add : s.regClear 0 (b.base + o) = s.clearBlk b o := by simp [State.regClear, blkOf_base_add ho, hbar, hb]

theorem State.regRead_of_gates {t : State} (h : t.gates = s.gates) : t.regRead 0 (b.base + o) = t.readBlk b o :=
  State.regRead_base_add ho ((State.barUp_of_gates h).trans hbar) ((State.blkUp_of_gates h b).trans hb)
end

/-! ## What a read clears -/

@[simp] theorem State.setTier_tierFitted (s : State) (a b : Bool) (x : TierSt) : (s.setTier a b x).tierFitted = s.tierFitted := rfl
@[simp] theorem State.setTier_poisonUsed (s : State) (a b : Bool) (x : TierSt) : (s.setTier a b x).poisonUsed = s.poisonUsed := rfl
@[simp] theorem State.setRouter_fitted (s : State) (i : Nat) (x : Router) : (s.setRouter i x).fitted = s.fitted := rfl

theorem State.claim_gates (s : State) (t : Nat) : (s.claim t).2.gates = s.gates := by
  unfold State.claim; dsimp only; split <;> rfl

theorem State.clearIc_gates (s : State) (o : Nat) : (s.clearIc o).gates = s.gates := by
  unfold State.clearIc
  generalize (o - 0x8000) / 0x40 = t
  generalize (o - 0x8000) % 0x40 = r
  show State.gates (if _ then (match r with | 0x08 => _ | 0x18 => _ | _ => _) else _) = _
  repeat' split
  case h_1 => exact State.claim_gates s t
  all_goals rfl

theorem State.clearBlk_gates (s : State) (b : Blk) (o : Nat) : (s.clearBlk b o).gates = s.gates := by
  cases b <;> simp only [State.clearBlk]
  case ic => exact State.clearIc_gates s o
  case win =>
    unfold State.clearWin
    repeat' split
    all_goals rfl
  case mem =>
    unfold State.clearMem
    repeat' split
    all_goals rfl
  case spl =>
    unfold State.clearSpl
    repeat' split
    all_goals rfl
  case tel =>
    unfold State.clearTel
    dsimp only
    repeat' split
    all_goals rfl
  case lcs =>
    unfold State.clearLcs
    repeat' split
    all_goals rfl
  all_goals split <;> rfl

/-- A read of the register at `o` of block `b` leaves the bits of `m` zero and the others as they were. -/
def State.Clears (s : State) (b : Blk) (o : Nat) (m : W64) : Prop := (s.clearBlk b o).readBlk b o = s.readBlk b o &&& ~~~m

section
variable {s : State} (h : s.BarTablesOk)
include h

theorem State.clears_tgtStat {k : Nat} (hk : k < 192) : s.Clears .ic (0x8018 + 0x40 * k) (ones 0 32) := by
  have h1 : (0x8018 + 0x40 * k - 0x8000) / 0x40 = k := by omega
  have h2 : (0x8018 + 0x40 * k - 0x8000) % 0x40 = 0x18 := by omega
  have h3 : 0x8000 ≤ 0x8018 + 0x40 * k ∧ 0x8018 + 0x40 * k < 0x8000 + 0x40 * 192 := by omega
  have h4 : ¬ 0x8018 + 0x40 * k < 0x8000 := by omega
  by_cases ht : isTarget k = true <;>
  simp (disch := omega) [State.Clears, State.clearBlk, State.clearIc, State.readBlk, State.readIc, State.readTgt, h1, h2, h3, h4, ht,
    State.tgt_setTgt h]

theorem State.clears_winCounts {k : Nat} (hk : k < 0x400) : s.Clears .win (8 + 16 * k) (ones 32 32) := by
  have h1 : (8 + 16 * k) / 16 = k := by omega
  have h2 : (8 + 16 * k) % 16 = 8 := by omega
  have h4 : 8 + 16 * k < 0x4000 := by omega
  simp (disch := omega) [State.Clears, State.clearBlk, State.clearWin, State.readBlk, State.readWin, State.modWin, h1, h2, h4, State.win_setWin h]

theorem State.clears_late {k : Nat} (hk : k < 256) : s.Clears .win (0x4000 + 8 * k) (ones 0 32) := by
  have h2 : (0x4000 + 8 * k) % 8 = 0 := by omega
  have h4 : ¬ 0x4000 + 8 * k < 0x4000 := by omega
  have h5 : 0x4000 + 8 * k < 0x4800 := by omega
  simp (disch := omega) [State.Clears, State.clearBlk, State.clearWin, State.readBlk, State.readWin, State.modTen, h2, h4, h5, State.ten_setTen h]

theorem State.clears_port {k : Nat} (hk : k < 2) : s.Clears .win (0x5000 + 8 * k) (ones 0 48) := by
  obtain rfl | rfl : k = 0 ∨ k = 1 := by omega
  all_goals simp (disch := omega) [State.Clears, State.clearBlk, State.clearWin, State.readBlk, State.readWin, State.readWinPort, State.modPort,
    State.port_setPort h]

omit h in
theorem State.clears_saveRef : s.Clears .sch 8 (ones 56 8) := by
  simp (disch := omega) [State.Clears, State.clearBlk, State.readBlk, State.readSch]
  rfl

theorem State.clears_tier {k : Nat} (hk : k < 4) : s.Clears .mem (0x20 + 0x100 * k) (ones 0 48) := by
  have h1 : (0x20 + 0x100 * k) / 0x100 = k := by omega
  have h2 : (0x20 + 0x100 * k) % 0x100 = 0x20 := by omega
  have h4 : 0x20 + 0x100 * k < 0x400 := by omega
  cases hf : s.tierFitted (decide (2 ≤ k)) <;>
  simp (disch := omega) [State.Clears, State.clearBlk, State.clearMem, State.readBlk, State.readMemBlk, State.readTier, State.modTier, h1, h2,
    h4, State.tier_setTier h, hf]

theorem State.clears_pager {k : Nat} (hk : k < 2) : s.Clears .mem (0x408 + 0x100 * k) (ones 0 32) := by
  obtain rfl | rfl : k = 0 ∨ k = 1 := by omega
  all_goals simp (disch := omega) [State.Clears, State.clearBlk, State.clearMem, State.readBlk, State.readMemBlk, State.readPager,
    State.modPager, State.pager_setPager h]
  all_goals rfl

theorem State.clears_crossings {k : Nat} (hk : k < 16) : s.Clears .spl (0x1000 + 0x40 * k) (ones 32 32) := by
  have h2 : (0x1000 + 0x40 * k) % 0x40 = 0 := by omega
  have h4 : ¬ 0x1000 + 0x40 * k < 0x1000 := by omega
  have h5 : 0x1000 + 0x40 * k < 0x1400 := by omega
  cases hf : s.fitted k <;>
  simp (disch := omega) [State.Clears, State.clearBlk, State.clearSpl, State.readBlk, State.readSpl, State.readRouter, h2, h4, h5,
    State.router_setRouter h, hf]

theorem State.clears_fails {k : Nat} (hk : k < 16) : s.Clears .spl (0x1008 + 0x40 * k) (ones 16 16) := by
  have h1 : (0x1008 + 0x40 * k - 0x1000) / 0x40 = k := by omega
  have h2 : (0x1008 + 0x40 * k) % 0x40 = 8 := by omega
  have h3 : 0x1000 ≤ 0x1008 + 0x40 * k := by omega
  have h4 : ¬ 0x1008 + 0x40 * k < 0x1000 := by omega
  have h5 : 0x1008 + 0x40 * k < 0x1400 := by omega
  cases hf : s.fitted k <;>
  simp (disch := omega) [State.Clears, State.clearBlk, State.clearSpl, State.readBlk, State.readSpl, State.readRouter, h1, h2, h3, h4, h5,
    State.router_setRouter h, hf]

theorem State.clears_braid {k r : Nat} {m : W64} (hk : k < 64) (hr : r < 0x100)
    (hc : ((s.braid k).clearReg r).readReg r = (s.braid k).readReg r &&& ~~~m) : s.Clears .tel (0x10000 + r + 0x100 * k) m := by
  have h1 : (0x10000 + r + 0x100 * k - 0x10000) / 0x100 = k := by omega
  have h2 : (0x10000 + r + 0x100 * k) % 0x100 = r := by omega
  have h3 : 0x10000 ≤ 0x10000 + r + 0x100 * k ∧ 0x10000 + r + 0x100 * k < 0x14000 := by omega
  cases hf : bit s.cap.braids k <;>
  simp [State.Clears, State.clearBlk, State.clearTel, State.readBlk, State.readTel, State.modBraid, h1, h2, h3, State.braid_setBraid h, hf, hc]

omit h in
theorem Braid.readReg_clearReg (b : Braid) : ∀ e ∈ [(0x10, ones 0 32), (0x30, ones 0 16), (0x38, ones 0 24), (0x90, ones 0 32), (0xE0, ones 0 48),
    (0xE8, ones 16 16)],
    (b.clearReg e.1).readReg e.1 = b.readReg e.1 &&& ~~~e.2 := by
  simp only [List.forall_mem_cons, List.not_mem_nil, false_implies, implies_true, and_true]
  refine ⟨?_, ?_, ?_, ?_, ?_, ?_⟩ <;> simp (disch := omega) [Braid.clearReg, Braid.readReg]

omit h in
theorem Braid.readReg_clearReg_conflict {b : Braid} (hb : Sparse.wf 0#32 b.tel.conflict = true) {j : Nat} (hj : j < 8) :
    (b.clearReg (0x50 + 8 * j)).readReg (0x50 + 8 * j) = b.readReg (0x50 + 8 * j) &&& ~~~(ones 0 64) := by
  have h1 : (0x50 + 8 * j - 0x50) / 8 = j := by omega
  have h2 : (0x50 + 8 * j) % 8 = 0 := by omega
  have h3 : 0x50 + 8 * j < 0x90 := by omega
  have he : Sparse.get 0#32 (Sparse.set 0#32 (Sparse.set 0#32 b.tel.conflict (2 * j) 0#32) (2 * j + 1) 0#32) (2 * j) = 0#32 :=
    (Sparse.get_set_ne (Sparse.set_wf hb _ _) _ (by omega)).trans (Sparse.get_set_self hb _ _)
  have ho : Sparse.get 0#32 (Sparse.set 0#32 (Sparse.set 0#32 b.tel.conflict (2 * j) 0#32) (2 * j + 1) 0#32) (2 * j + 1) = 0#32 :=
    Sparse.get_set_self (Sparse.set_wf hb _ _) _ _
  simp (disch := omega) [Braid.clearReg, Braid.readReg, h2, h3, he, ho]

theorem State.clears_lan {k : Nat} (hk : k < 2) : s.Clears .tel (0x30018 + 0x100 * k) (ones 0 32) := by
  obtain rfl | rfl : k = 0 ∨ k = 1 := by omega
  all_goals simp (disch := omega) [State.Clears, State.clearBlk, State.clearTel, State.readBlk, State.readTel, State.readLan, State.modLan,
    State.lan_setLan h]

omit h in
theorem State.clears_pwr : s.Clears .pwr 0x18 (ones 0 48) := by
  simp (disch := omega) [State.Clears, State.clearBlk, State.readBlk, State.readPwr]

omit h in
theorem State.clears_bel : s.Clears .bel 8 (ones 0 32) := by
  simp (disch := omega) [State.Clears, State.clearBlk, State.readBlk, State.readBel, State.setBel]

omit h in
theorem State.clears_entropy : s.Clears .lcs 0x18 (ones 16 32) := by
  simp (disch := omega) [State.Clears, State.clearBlk, State.clearLcs, State.readBlk, State.readLcs]

omit h in
theorem State.clears_pke : s.Clears .lcs 0x28 (ones 16 32) := by
  simp (disch := omega) [State.Clears, State.clearBlk, State.clearLcs, State.readBlk, State.readLcs, State.readPke]

omit h in
theorem State.clears_dbg : s.Clears .dbg 0x2010 (ones 0 32) := by
  simp (disch := omega) [State.Clears, State.clearBlk, State.readBlk, State.readDbg]
end

/-- An offset with RC bits lies in a row of `rcRows`, which gives them. -/
theorem exists_row_of_rcBits {off : Nat} (h : rcBits off ≠ 0) :
    ∃ r ∈ rcRows, ∃ k < r.2.2.1, off = r.1 + r.2.1 * k ∧ rcBits off = r.2.2.2 := by
  unfold rcBits at h ⊢
  split at h
  case h_1 r hr =>
    have hc := List.find?_some hr
    simp only [Bool.and_eq_true, decide_eq_true_eq] at hc
    obtain ⟨⟨h1, h2⟩, h3⟩ := hc
    refine ⟨r, List.mem_of_find?_eq_some hr, (off - r.1) / r.2.1, Nat.div_lt_of_lt_mul (by omega), ?_, rfl⟩
    have := Nat.div_add_mod (off - r.1) r.2.1
    omega
  case h_2 => exact absurd rfl h

theorem RegRows.has_eq_true {rs : RegRows} {o : Nat} :
    rs.has o = true ↔ ∃ r ∈ rs, r.1 ≤ o ∧ o < r.1 + r.2.1 * r.2.2.1 ∧ (o - r.1) % r.2.1 ∈ r.2.2.2 := by
  simp [RegRows.has, and_assoc]

/-- The same of an offset of BAR0, where the block has a register. -/
def State.ClearsRow (s : State) (off : Nat) (m : W64) : Prop :=
  ∃ b : Blk, ∃ o < b.size, off = b.base + o ∧ (readRows b).has o = true ∧ s.Clears b o m

theorem State.Clears.row {s : State} {b : Blk} {o off : Nat} {m : W64} (hc : s.Clears b o m)
    (ho : o < b.size := by simp only [Blk.size]; omega)
    (he : off = b.base + o := by simp only [Blk.base]; omega)
    (hr : (readRows b).has o = true := by simp [RegRows.has_eq_true, readRows, mem_every8] <;> omega) : s.ClearsRow off m :=
  ⟨b, o, ho, he, hr, hc⟩

theorem State.clears_rcRows {s : State} (h : s.BarTablesOk) :
    ∀ r ∈ rcRows, ∀ k < r.2.2.1, s.ClearsRow (r.1 + r.2.1 * k) (BitVec.ofNat 64 r.2.2.2) := by
  have hreg := fun k => Braid.readReg_clearReg (s.braid k)
  simp only [List.forall_mem_cons, List.not_mem_nil, false_implies, implies_true, and_true] at hreg
  simp only [rcRows, List.forall_mem_append, List.forall_mem_map, List.forall_mem_cons, List.mem_range, List.not_mem_nil, false_implies,
    implies_true, and_true]
  refine ⟨⟨⟨⟨?_, ?_, ?_, ?_, ?_, ?_, ?_, ?_, ?_⟩, ?_, ?_, ?_, ?_, ?_, ?_⟩, ?_⟩, ?_, ?_, ?_, ?_, ?_, ?_⟩
  · exact fun k hk => (State.clears_tgtStat h hk).row
  · exact fun k hk => (State.clears_winCounts h hk).row
  · exact fun k hk => (State.clears_late h hk).row
  · exact fun k hk => (State.clears_port h hk).row
  · exact fun k hk => State.clears_saveRef.row
  · exact fun k hk => (State.clears_tier h hk).row
  · exact fun k hk => (State.clears_pager h hk).row
  · exact fun k hk => (State.clears_crossings h hk).row
  · exact fun k hk => (State.clears_fails h hk).row
  · exact fun k hk => (State.clears_braid h hk (by omega) (hreg k).1).row
  · exact fun k hk => (State.clears_braid h hk (by omega) (hreg k).2.1).row
  · exact fun k hk => (State.clears_braid h hk (by omega) (hreg k).2.2.1).row
  · exact fun k hk => (State.clears_braid h hk (by omega) (hreg k).2.2.2.1).row
  · exact fun k hk => (State.clears_braid h hk (by omega) (hreg k).2.2.2.2.1).row
  · exact fun k hk => (State.clears_braid h hk (by omega) (hreg k).2.2.2.2.2).row
  · exact fun j hj k hk => (State.clears_braid h hk (by omega) (Braid.readReg_clearReg_conflict (h.conflicts k) hj)).row
  · exact fun k hk => (State.clears_lan h hk).row
  · exact fun k hk => State.clears_pwr.row
  · exact fun k hk => State.clears_bel.row
  · exact fun k hk => State.clears_entropy.row
  · exact fun k hk => State.clears_pke.row
  · exact fun k hk => State.clears_dbg.row

/-- A read of a register with RC fields leaves them zero, the other bits as they were. -/
theorem State.regRead_regClear {s : State} (h : s.BarTablesOk) (hbar : s.barUp = true) {off : Nat} (hb : s.blkUp (blkOf off).1 = true)
    (hrc : rcBits off ≠ 0) : (s.regClear 0 off).regRead 0 off = s.regRead 0 off &&& ~~~(BitVec.ofNat 64 (rcBits off)) := by
  obtain ⟨r, hr, k, hk, rfl, he⟩ := exists_row_of_rcBits hrc
  obtain ⟨b, o, ho, hoff, -, hc⟩ := State.clears_rcRows h r hr k hk
  rw [hoff, blkOf_base_add ho] at hb
  rw [he, hoff, State.regClear_base_add ho hbar hb, State.regRead_base_add ho hbar hb,
    State.regRead_of_gates ho hbar hb (State.clearBlk_gates ..)]
  exact hc

/-! ## What a write leaves in a register -/

/-- The register at `o` of block `b` takes a written `v` in the bits of `m` and keeps the others, and no block opens or shuts. -/
def State.Holds (s : State) (b : Blk) (o : Nat) (v m : W64) : Prop :=
  (s.writeBlk b o v).gates = s.gates ∧ (s.writeBlk b o v).readBlk b o = (s.readBlk b o &&& ~~~m) ||| (v &&& m)

section
variable {s : State} {v : W64}

theorem State.holds_cap : s.Holds .pwr 0 v (ones 0 11) := by
  refine ⟨rfl, ?_⟩
  simp (disch := omega) [State.writeBlk, State.writePwr, State.readBlk, State.readPwr, and_ones, -BitVec.toNat_ofNat,
    put_toNat_ofNat]

theorem State.holds_timeout : s.Holds .bel 0x10 v (ones 0 16) := by
  refine ⟨rfl, ?_⟩
  simp (disch := omega) [State.writeBlk, State.writeBel, State.setBel, State.readBlk, State.readBel, and_ones, -BitVec.toNat_ofNat,
    put_toNat_ofNat]

theorem State.holds_window : s.Holds .bbx 0x20 v (ones 0 1 ||| ones 4 5) := by
  refine ⟨rfl, ?_⟩
  simp (disch := omega) [State.writeBlk, State.writeBbx, State.readBlk, State.readBbx, BitVec.not_or, ← BitVec.and_assoc,
    BitVec.and_or_distrib_left, and_ones, -BitVec.toNat_ofNat, put_toNat_ofNat, put_fld_one]

theorem State.lc_dbg (d : Dbg) : State.lc { s with dbg := d } = s.lc := rfl

theorem State.holds_watchRate (hl : s.lc ≠ 3) : s.Holds .dbg 0x2000 v (ones 8 8) := by
  refine ⟨rfl, ?_⟩
  simp (disch := omega) [State.writeBlk, State.writeDbg, State.readBlk, State.readDbg, hl, State.lc_dbg, and_ones, -BitVec.toNat_ofNat,
    put_toNat_ofNat]

theorem State.holds_watch (hl : s.lc = 3) : s.Holds .dbg 0x2000 v (ones 0 1 ||| ones 8 8) := by
  refine ⟨rfl, ?_⟩
  simp (disch := omega) [State.writeBlk, State.writeDbg, State.readBlk, State.readDbg, hl, State.lc_dbg, BitVec.not_or, ← BitVec.and_assoc,
    BitVec.and_or_distrib_left, and_ones, -BitVec.toNat_ofNat, put_toNat_ofNat, put_fld_one]

theorem State.holds_watchMask : s.Holds .dbg 0x2008 v (ones 0 64) := by
  refine ⟨rfl, ?_⟩
  simp [State.writeBlk, State.writeDbg, State.readBlk, State.readDbg]

/-- The PF's MSI-X table in the block, and below it the configurations of the sources. -/
theorem State.readIc_msix {k r : Nat} (hk : k < 33) (hr : r < 16) : s.readIc (0x10000 + 16 * k + r) = s.readMsix k r := by
  have h1 : (0x10000 + 16 * k + r - 0x10000) / 16 = k := by omega
  have h2 : (0x10000 + 16 * k + r - 0x10000) % 16 = r := by omega
  unfold State.readIc State.readPfMsix
  rw [if_neg (by omega), if_neg (by omega), if_neg (by omega), if_pos (by omega), if_pos (by omega), h1, h2]

theorem State.writeIc_msix {k r : Nat} (hk : k < 33) (hr : r < 16) : s.writeIc (0x10000 + 16 * k + r) v = s.writeMsix k r v := by
  have h1 : (0x10000 + 16 * k + r - 0x10000) / 16 = k := by omega
  have h2 : (0x10000 + 16 * k + r) % 16 = r := by omega
  unfold State.writeIc
  rw [if_neg (by omega), if_neg (by omega), if_pos (by omega), h1, h2]

theorem State.readIc_cfg {i : Nat} (hi : i < 0x800) : s.readIc (16 * i) = s.readSrc i false := by
  have h1 : 16 * i / 16 = i := by omega
  have h2 : 16 * i % 16 = 0 := by omega
  unfold State.readIc
  rw [if_pos (by omega), if_pos (by omega), h1, h2]; rfl

theorem State.writeIc_cfg {i : Nat} (hi : i < 0x800) : s.writeIc (16 * i) v = s.writeSrcCfg i v := by
  have h1 : 16 * i / 16 = i := by omega
  unfold State.writeIc
  rw [if_pos (by omega), if_pos (by omega), h1]

/-- A source that is not reserved has a place in the block. -/
theorem lt_of_srcDefault {i : Nat} (h : (srcDefault i).isSome = true) : i < 0x800 := by
  by_contra hn
  have : srcDefault i = none := by
    unfold srcDefault
    repeat rw [if_neg (by omega)]
  simp [this] at h

/-- What a write makes of a source's configuration (R493, R513). -/
def SrcCfg.written (c : SrcCfg) (lock : Bool) (v : W64) : SrcCfg :=
  let c := if lock then c else { c with target := BitVec.ofNat 8 (fld v 0 8) }
  if c.target.toNat < 64 then { c with prio := BitVec.ofNat 4 (fld v 8 4), en := bit v 12 } else c

/-- The configuration as the register shows it. -/
def SrcCfg.word (c : SrcCfg) (level : Bool) : W64 := put 0 8 c.target.toNat ||| put 8 4 c.prio.toNat ||| putB 12 c.en ||| putB 13 level

/-- The bits a write takes: TARGET until the lock, PRIO and EN where the target is then a host vector. -/
def SrcCfg.writable (c : SrcCfg) (lock : Bool) (v : W64) : W64 :=
  (if lock then 0 else ones 0 8) ||| (if (c.written lock v).target.toNat < 64 then ones 8 5 else 0)

theorem SrcCfg.word_written (c : SrcCfg) (lock level : Bool) (v : W64) :
    (c.written lock v).word level = (c.word level &&& ~~~(c.writable lock v)) ||| (v &&& c.writable lock v) := by
  have h5 : ones 8 5 = ones 8 4 ||| ones 12 1 := by decide
  cases lock
  case true =>
    by_cases ht : c.target.toNat < 64 <;>
    simp (disch := omega) [SrcCfg.word, SrcCfg.writable, SrcCfg.written, ht, h5, and_full, BitVec.not_or, ← BitVec.and_assoc,
      BitVec.and_or_distrib_left, and_ones, put_fld_one, -BitVec.toNat_ofNat,
    put_toNat_ofNat]
    ac_rfl
  case false =>
    by_cases ht : fld v 0 8 < 64 <;>
    have hm : (BitVec.ofNat 8 (fld v 0 8)).toNat < 64 ↔ fld v 0 8 < 64 := by simp [fld]
    all_goals
    simp (disch := omega) [SrcCfg.word, SrcCfg.writable, SrcCfg.written, hm, ht, h5, BitVec.not_or, ← BitVec.and_assoc,
      BitVec.and_or_distrib_left, and_ones, put_fld_one, -BitVec.toNat_ofNat,
    put_toNat_ofNat]
    all_goals ac_rfl

variable (h : s.BarTablesOk)
include h

theorem State.holds_limit {k : Nat} (hk : k < 64) (hp : bit s.cap.braids k = true) : s.Holds .pwr (0x100 + 8 * k) v (ones 8 5) := by
  have h1 : (0x100 + 8 * k - 0x100) / 8 = k := by omega
  have h2 : (0x100 + 8 * k) % 8 = 0 := by omega
  have h3 : 0x100 + 8 * k < 0x300 := by omega
  constructor
  · simp [State.writeBlk, State.writePwr, h2, h3, hp]; rfl
  · simp (disch := omega) [State.writeBlk, State.writePwr, State.readBlk, State.readPwr, h2, h3, hp, State.pwrBraid_setPwrBraid h, and_ones,
      -BitVec.toNat_ofNat,
    put_toNat_ofNat]
    ac_rfl

theorem State.holds_msixAddr {k : Nat} (hk : k < 33) : s.Holds .ic (0x10000 + 16 * k + 0) v (ones 0 64) := by
  simp only [State.Holds, State.writeBlk, State.readBlk, State.readIc_msix hk (show 0 < 16 by omega), State.writeIc_msix hk (show 0 < 16 by omega)]
  refine ⟨rfl, ?_⟩
  simp [State.writeMsix, State.readMsix, State.tgt_setTgt h]

theorem State.holds_msixData {k : Nat} (hk : k < 33) : s.Holds .ic (0x10000 + 16 * k + 8) v (ones 0 33) := by
  simp only [State.Holds, State.writeBlk, State.readBlk, State.readIc_msix hk (show 8 < 16 by omega), State.writeIc_msix hk (show 8 < 16 by omega)]
  refine ⟨rfl, ?_⟩
  have h33 : ones 0 33 = ones 0 32 ||| ones 32 1 := by decide
  simp (disch := omega) [State.writeMsix, State.readMsix, State.tgt_setTgt h, -BitVec.toNat_ofNat,
    put_toNat_ofNat]
  simp [h33, and_ones, BitVec.and_or_distrib_left, put_fld_one]

theorem State.srcCfg_writeSrcCfg {i : Nat} (hi : (srcDefault i).isSome = true) :
    (s.writeSrcCfg i v).srcCfg i = (s.srcCfg i).written s.ic.lock v := by
  obtain ⟨d, hd⟩ := Option.isSome_iff_exists.1 hi
  simp [State.srcCfg, State.writeSrcCfg, hd, Sparse.get_set_self h.cfgs]
  rfl

theorem State.holds_srcCfg {i : Nat} (hi : (srcDefault i).isSome = true) :
    s.Holds .ic (16 * i) v ((s.srcCfg i).writable s.ic.lock v) := by
  simp only [State.Holds, State.writeBlk, State.readBlk, State.readIc_cfg (lt_of_srcDefault hi), State.writeIc_cfg (lt_of_srcDefault hi)]
  constructor
  · simp [State.writeSrcCfg]; split <;> rfl
  · show ((s.writeSrcCfg i v).srcCfg i).word _ = _
    rw [State.srcCfg_writeSrcCfg h hi]
    exact SrcCfg.word_written ..
end

theorem State.Holds.regRead_regWrite {s : State} {b : Blk} {o : Nat} {v m : W64} (hw : s.Holds b o v m) (ho : o < b.size)
    (hbar : s.barUp = true) (hb : s.blkUp b = true) :
    (s.regWrite 0 (b.base + o) v).regRead 0 (b.base + o) = (s.regRead 0 (b.base + o) &&& ~~~m) ||| (v &&& m) := by
  rw [State.regWrite_base_add ho hbar hb, State.regRead_base_add ho hbar hb, State.regRead_of_gates ho hbar hb hw.1, hw.2]

/-- The same of an offset of BAR0. -/
def State.HoldsRow (s : State) (off : Nat) (v m : W64) : Prop := ∃ b : Blk, ∃ o < b.size, off = b.base + o ∧ s.Holds b o v m

theorem State.Holds.row {s : State} {b : Blk} {o off : Nat} {v m : W64} (hw : s.Holds b o v m)
    (ho : o < b.size := by simp only [Blk.size]; omega) (he : off = b.base + o := by simp only [Blk.base] <;> omega) : s.HoldsRow off v m :=
  ⟨b, o, ho, he, hw⟩

theorem State.holds_rwRegs {s : State} (h : s.BarTablesOk) (v : W64) : ∀ r ∈ s.rwRegs, s.HoldsRow r.1 v (BitVec.ofNat 64 r.2) := by
  simp only [State.rwRegs, List.forall_mem_append, List.forall_mem_map, List.forall_mem_cons, List.mem_range, List.mem_filter,
    List.not_mem_nil, false_implies, implies_true, and_true]
  refine ⟨⟨⟨⟨?_, ?_, ?_, ?_, ?_⟩, ?_⟩, ?_⟩, ?_⟩
  · exact State.holds_cap.row
  · exact State.holds_timeout.row
  · exact State.holds_window.row
  · split
    case isTrue hl => exact (State.holds_watch hl).row
    case isFalse hl => exact (State.holds_watchRate hl).row
  · exact State.holds_watchMask.row
  · exact fun k hk => (State.holds_msixAddr h hk).row
  · exact fun k hk => (State.holds_msixData h hk).row
  · exact fun k hk => (State.holds_limit h hk.1 hk.2).row

/-- A register of `rwRegs` reads back what was written in its bits. -/
theorem State.regRead_regWrite_rw {s : State} (h : s.BarTablesOk) (hbar : s.barUp = true) (v : W64) {r : Nat × Nat} (hr : r ∈ s.rwRegs)
    (hb : s.blkUp (blkOf r.1).1 = true) : (s.regWrite 0 r.1 v).regRead 0 r.1 =
      (s.regRead 0 r.1 &&& ~~~(BitVec.ofNat 64 r.2)) ||| (v &&& BitVec.ofNat 64 r.2) := by
  obtain ⟨b, o, ho, hoff, hw⟩ := State.holds_rwRegs h v r hr
  rw [hoff, blkOf_base_add ho] at hb
  rw [hoff]
  exact hw.regRead_regWrite ho hbar hb

/-- A source's configuration reads back as R493 lets it be written. -/
theorem State.regRead_regWrite_srcCfg {s : State} (h : s.BarTablesOk) (hbar : s.barUp = true) (hb : s.blkUp .ic = true) (v : W64) {i : Nat}
    (hi : (srcDefault i).isSome = true) :
    (s.regWrite 0 (0x20000 + 16 * i) v).regRead 0 (0x20000 + 16 * i) =
      (s.regRead 0 (0x20000 + 16 * i) &&& ~~~((s.srcCfg i).writable s.ic.lock v)) ||| (v &&& (s.srcCfg i).writable s.ic.lock v) := by
  have hlt := lt_of_srcDefault hi
  exact (State.holds_srcCfg h hi).regRead_regWrite (by simp only [Blk.size]; omega) hbar hb

theorem State.hq_of_hqUp {s : State} (h : s.hqUp = true) : s.blkUp .hq = true := by
  simp only [State.hqUp, State.schedUp, Bool.and_eq_true] at h
  exact h.1.2

/-- BASE of a ring that is not enabled takes the bits it has, and reads zero in the others. -/
theorem State.readBlk_writeBlk_sqBase {s : State} (h : s.BarTablesOk) {f : Fn} {q : BitVec 2} {v : W64} (hup : s.hqUp = true)
    (hen : (s.sq f q).en = false) : (s.writeBlk .hq (0x2000 * f.toNat + 0x40 * q.toNat) v).gates = s.gates ∧
    (s.writeBlk .hq (0x2000 * f.toNat + 0x40 * q.toNat) v).readBlk .hq (0x2000 * f.toNat + 0x40 * q.toNat) = v &&& ones 12 52 := by
  have hf := f.isLt
  have hq := q.isLt
  have h1 : (0x2000 * f.toNat + 0x40 * q.toNat) / 0x2000 = f.toNat := by omega
  have h2 : (0x2000 * f.toNat + 0x40 * q.toNat) % 0x2000 = 0x40 * q.toNat := by omega
  have h3 : 0x40 * q.toNat / 0x40 = q.toNat := by omega
  have h4 : 0x40 * q.toNat < 0x100 := by omega
  have h5 : 0x40 * q.toNat % 0x40 = 0 := by omega
  constructor
  · simp [State.writeBlk, State.writeHq, hup, h1, h2, h3, h4, h5]; rfl
  · simp [State.writeBlk, State.writeHq, hup, h1, h2, h3, h4, h5, State.modSq, SqRing.setBase, hen, State.readBlk, State.readHq,
      State.sq_setSq h, and_ones, -BitVec.toNat_ofNat,
    put_toNat_ofNat]

theorem State.regRead_regWrite_sqBase {s : State} (h : s.BarTablesOk) (hbar : s.barUp = true) {f : Fn} {q : BitVec 2} (v : W64)
    (hup : s.hqUp = true) (hen : (s.sq f q).en = false) :
    (s.regWrite 0 (0x40000 + (0x2000 * f.toNat + 0x40 * q.toNat)) v).regRead 0 (0x40000 + (0x2000 * f.toNat + 0x40 * q.toNat)) =
      v &&& ones 12 52 := by
  have ho : 0x2000 * f.toNat + 0x40 * q.toNat < Blk.hq.size := by
    have := f.isLt
    have := q.isLt
    simp only [Blk.size]; omega
  obtain ⟨hg, hr⟩ := State.readBlk_writeBlk_sqBase (v := v) h hup hen
  have hb := State.hq_of_hqUp hup
  show (s.regWrite 0 (Blk.hq.base + _) v).regRead 0 (Blk.hq.base + _) = _
  rw [State.regWrite_base_add ho hbar hb, State.regRead_of_gates ho hbar hb hg, hr]

/-! ## Offsets that define no register -/

theorem RegRows.has_eq_false {rs : RegRows} {o : Nat} :
    rs.has o = false ↔ ∀ r ∈ rs, r.1 ≤ o → o < r.1 + r.2.1 * r.2.2.1 → (o - r.1) % r.2.1 ∉ r.2.2.2 := by
  simp [RegRows.has, List.any_eq_false]

section
variable {s : State}

theorem State.readTgt_of_no_row {t r : Nat} (h : ¬(r = 0 ∨ r = 8 ∨ r = 0x18)) : s.readTgt t r = 0 := by
  unfold State.readTgt
  dsimp only
  split
  case isTrue => rfl
  case isFalse =>
    split
    case h_4 => rfl
    all_goals omega

theorem State.readMsix_of_no_row {t r : Nat} (h : ¬(r = 0 ∨ r = 8)) : s.readMsix t r = 0 := by
  unfold State.readMsix
  split
  case h_3 => rfl
  all_goals omega

theorem State.readSchFn_of_no_row {f : Fn} {r : Nat} (h : ¬(r % 8 = 0 ∧ r < 8 * 3)) : s.readSchFn f r = 0 := by
  unfold State.readSchFn
  split
  case h_3 => rfl
  all_goals omega

theorem State.readTier_of_no_row {a b : Bool} {r : Nat} (h : ¬(r % 8 = 0 ∧ r < 8 * 6)) : s.readTier a b r = 0 := by
  unfold State.readTier
  dsimp only
  split
  case isTrue => rfl
  case isFalse =>
    split
    case h_7 => rfl
    all_goals omega

theorem State.readPager_of_no_row {a : Bool} {r : Nat} (h : ¬(r % 8 = 0 ∧ r < 8 * 3)) : s.readPager a r = 0 := by
  unfold State.readPager
  split
  case h_4 => rfl
  all_goals omega

theorem State.readSplice_of_no_row {i r : Nat} (h : ¬(r % 8 = 0 ∧ r < 8 * 4)) : s.readSplice i r = 0 := by
  unfold State.readSplice
  split
  case h_5 => rfl
  all_goals omega

theorem State.readRouter_of_no_row {i r : Nat} (h : ¬(r % 8 = 0 ∧ r < 8 * 2)) : s.readRouter i r = 0 := by
  unfold State.readRouter
  dsimp only
  split
  case isTrue => rfl
  case isFalse =>
    split
    case h_3 => rfl
    all_goals omega

theorem Ring.readReg_of_no_row {g : Ring} {r : Nat} (h : ¬(r % 8 = 0 ∧ r < 8 * 3)) : g.readReg r = 0 := by
  unfold Ring.readReg
  split
  case h_4 => rfl
  all_goals omega

theorem State.readLan_of_no_row {a : Bool} {r : Nat} (h : ¬(r % 8 = 0 ∧ r < 8 * 5)) : s.readLan a r = 0 := by
  unfold State.readLan
  split
  case h_6 => rfl
  all_goals omega

theorem State.readBelTen_of_no_row {n : Tid} {r : Nat} (h : ¬(r % 8 = 0 ∧ r < 8 * 2)) : s.readBelTen n r = 0 := by
  unfold State.readBelTen
  split
  case h_3 => rfl
  all_goals omega

theorem State.readPke_of_no_row {o : Nat} (h : ¬(o % 8 = 0 ∧ o < 8 * 7)) : s.readPke o = 0 := by
  unfold State.readPke
  split
  case h_3 => rfl
  all_goals omega

theorem Braid.readReg_of_no_row {b : Braid} {r : Nat} (h : ¬(r % 8 = 0 ∧ r < 8 * 31)) : b.readReg r = 0 := by
  unfold Braid.readReg
  dsimp only
  split
  · rw [if_neg (by omega)]
  split
  · rw [if_neg (by omega)]
  split
  case h_17 => rfl
  all_goals omega

theorem State.readBlk_of_no_row {s : State} {b : Blk} {o : Nat} (hn : (readRows b).has o = false) (ho : o < b.size) : s.readBlk b o = 0 := by
  rw [RegRows.has_eq_false] at hn
  cases b
  all_goals
    simp only [readRows, List.forall_mem_append, List.forall_mem_map, List.mem_range, List.forall_mem_cons, List.not_mem_nil, false_implies,
      implies_true, and_true] at hn
    simp only [mem_every8, List.mem_cons, List.not_mem_nil, or_false, Blk.size] at hn ho
    dsimp only [State.readBlk]
  case cap =>
    unfold State.readCap
    dsimp only
    split
    case h_8 => rfl
    all_goals omega
  case rdy =>
    unfold State.readRdy
    split
    case h_5 => rfl
    all_goals omega
  case ic =>
    unfold State.readIc State.readPfMsix
    split
    · rw [if_neg (by omega)]
    split
    · exact State.readTgt_of_no_row (by omega)
    rw [if_neg (by omega)]
    split
    · split
      · exact State.readMsix_of_no_row (by omega)
      · rw [if_neg (by omega)]
    · rfl
  case hq =>
    have hsq := hn.1 (o / 0x2000) (by omega)
    have hcq := hn.2 (o / 0x2000) (by omega)
    unfold State.readHq
    dsimp only
    split
    · split
      case h_5 => rfl
      all_goals omega
    · split
      case h_5 => rfl
      all_goals omega
  case ten =>
    unfold State.readTen
    dsimp only
    split
    · rfl
    · split
      case h_5 => rfl
      all_goals omega
  case win =>
    unfold State.readWin
    dsimp only
    split
    · split
      case h_3 => rfl
      all_goals omega
    split
    · rw [if_neg (by omega)]
    rw [if_neg (by omega), if_neg (by omega)]
  case sch =>
    unfold State.readSch
    split
    · exact State.readSchFn_of_no_row (by omega)
    · split
      case h_4 => rfl
      all_goals omega
  case mem =>
    unfold State.readMemBlk
    dsimp only
    split
    · exact State.readTier_of_no_row (by omega)
    split
    · exact State.readPager_of_no_row (by omega)
    split
    · split
      case h_3 => rfl
      all_goals omega
    · split
      case h_4 => rfl
      all_goals omega
  case spl =>
    unfold State.readSpl
    split
    · exact State.readSplice_of_no_row (by omega)
    split
    · exact State.readRouter_of_no_row (by omega)
    · rfl
  case tel =>
    unfold State.readTel
    dsimp only
    split
    · exact ite_eq_right_iff.2 fun _ => Braid.readReg_of_no_row (by omega)
    split
    · exact ite_eq_right_iff.2 fun _ => Ring.readReg_of_no_row (by omega)
    split
    · exact State.readLan_of_no_row (by omega)
    · rfl
  case pwr =>
    unfold State.readPwr
    dsimp only
    split
    · rw [if_neg (by omega)]
    · split
      case h_5 => rfl
      all_goals omega
  case bel =>
    unfold State.readBel
    dsimp only
    split
    · exact State.readBelTen_of_no_row (by omega)
    split
    · split
      case h_3 => rfl
      all_goals omega
    · split
      case h_4 => rfl
      all_goals omega
  case bst =>
    unfold State.readBst
    dsimp only
    split
    · split
      case h_3 => rfl
      all_goals omega
    split
    · rw [if_neg (by omega)]
    · rw [if_neg (by omega)]
  case lcs =>
    unfold State.readLcs
    dsimp only
    split
    case h_6 => exact State.readPke_of_no_row (by omega)
    all_goals omega
  case bbx =>
    unfold State.readBbx
    split
    · rw [if_neg (by omega)]
    · split
      case h_6 => rfl
      all_goals omega
  case dbg =>
    unfold State.readDbg
    split
    case h_4 => rfl
    all_goals omega
end

section
variable {s : State}

theorem State.writeMsix_of_no_row {t r : Nat} {v : W64} (h : ¬(r = 0 ∨ r = 8)) : s.writeMsix t r v = s := by
  unfold State.writeMsix
  rw [if_neg (by omega), if_neg (by omega)]

theorem State.writeBlk_of_no_row {b : Blk} {o : Nat} {v : W64} (hn : (writeRows b).has o = false) (ho : o < b.size) : s.writeBlk b o v = s := by
  rw [RegRows.has_eq_false] at hn
  cases b
  all_goals
    simp only [writeRows, List.forall_mem_append, List.forall_mem_map, List.mem_range, List.forall_mem_cons, List.not_mem_nil, false_implies,
      implies_true, and_true] at hn
    simp only [mem_every8, List.mem_cons, List.not_mem_nil, or_false, Blk.size] at hn ho
    dsimp only [State.writeBlk]
  case rdy => exact if_neg (by omega)
  case ic =>
    unfold State.writeIc
    split
    · rw [if_neg (by omega), if_neg (by omega)]
    split
    · unfold State.writeTgt
      rw [if_neg (by omega), if_neg (by omega), if_neg (by omega)]
    split
    · exact State.writeMsix_of_no_row (by omega)
    · rfl
  case hq =>
    have hsq := hn.1 (o / 0x2000) (by omega)
    have hcq := hn.2 (o / 0x2000) (by omega)
    unfold State.writeHq
    dsimp only
    split
    · rfl
    split
    · split
      case h_4 => rfl
      all_goals omega
    · split
      case h_4 => rfl
      all_goals omega
  case sch => exact if_neg (by omega)
  case mem =>
    unfold State.writeMem
    rw [if_neg (by omega), if_neg (by omega)]
  case pwr =>
    unfold State.writePwr
    rw [if_neg (by omega), if_neg (by omega)]
  case bel =>
    unfold State.writeBel
    rw [if_neg (by omega), if_neg (by omega)]
  case bbx => exact if_neg (by omega)
  case dbg =>
    unfold State.writeDbg
    rw [if_neg (by omega), if_neg (by omega)]

/-- An offset without RC bits lies in no row of `rcRows`. -/
theorem ne_row_of_rcBits {off : Nat} (h : rcBits off = 0) : ∀ r ∈ rcRows, ∀ k < r.2.2.1, off ≠ r.1 + r.2.1 * k := by
  rintro r hr k hk rfl
  have hpos : ∀ x ∈ rcRows, x.2.2.2 ≠ 0 ∧ x.2.1 ≠ 0 := by decide
  unfold rcBits at h
  split at h
  case h_1 x hx => exact (hpos x (List.mem_of_find?_eq_some hx)).1 h
  case h_2 hx =>
    refine List.find?_eq_none.1 hx r hr ?_
    have hlt : r.2.1 * k < r.2.1 * r.2.2.1 := Nat.mul_lt_mul_of_pos_left hk (Nat.pos_of_ne_zero (hpos r hr).2)
    simp [hlt]

theorem Braid.clearReg_of_no_row {b : Braid} {r : Nat} (h1 : ∀ j < 8, r ≠ 0x50 + 8 * j)
    (h2 : r ≠ 0x10 ∧ r ≠ 0x30 ∧ r ≠ 0x38 ∧ r ≠ 0x90 ∧ r ≠ 0xE0 ∧ r ≠ 0xE8) : b.clearReg r = b := by
  have h := h1 ((r - 0x50) / 8)
  unfold Braid.clearReg
  dsimp only
  rw [if_neg (by omega)]
  split
  case h_7 => rfl
  all_goals omega

/-- A register without RC fields, but IC.CLAIM of a host vector, is only read. -/
theorem State.clearBlk_of_no_rcBits (h : s.BarTablesOk) {b : Blk} {o : Nat} (ho : o < b.size) (hrc : rcBits (b.base + o) = 0)
    (hclaim : ∀ t < 64, b.base + o ≠ 0x28008 + 0x40 * t) : s.clearBlk b o = s := by
  have hn := ne_row_of_rcBits hrc
  simp only [rcRows, List.forall_mem_append, List.forall_mem_map, List.forall_mem_cons, List.mem_range, List.not_mem_nil, false_implies,
    implies_true, and_true] at hn
  obtain ⟨⟨⟨⟨htgt, hwin, hlate, hport, hsch, htier, hpager, hcross, hfail⟩, hb1, hb2, hb3, hb4, hb5, hb6⟩, hconf⟩,
    hlan, hpwr, hbel, hent, hpke, hdbg⟩ := hn
  cases b
  all_goals
    simp only [Blk.size, Blk.base] at *
    dsimp only [State.clearBlk]
  case ic =>
    unfold State.clearIc
    refine ite_eq_right_iff.2 fun hr => ?_
    have ht := htgt ((o - 0x8000) / 0x40) (by omega)
    have hc := hclaim ((o - 0x8000) / 0x40)
    have hd := Nat.div_add_mod (o - 0x8000) 0x40
    generalize (o - 0x8000) / 0x40 = t at ht hc hd
    generalize (o - 0x8000) % 0x40 = r at hd
    show (match r with | 0x08 => _ | 0x18 => _ | _ => _) = _
    split
    case h_1 => exact if_neg (by omega)
    case h_2 => omega
    case h_3 => rfl
  case win =>
    have h1 := hwin (o / 16)
    have h2 := hlate ((o - 0x4000) / 8)
    have h3 := hport 0
    have h4 := hport 1
    unfold State.clearWin
    split
    · rw [if_neg (by omega)]
    split
    · rw [if_neg (by omega)]
    rw [if_neg (by omega), if_neg (by omega)]
  case sch =>
    have := hsch 0
    exact if_neg (by omega)
  case mem =>
    have h1 := htier (o / 0x100)
    have h2 := hpager 0
    have h3 := hpager 1
    unfold State.clearMem
    rw [if_neg (by omega), if_neg (by omega), if_neg (by omega)]
  case spl =>
    have h1 := hcross ((o - 0x1000) / 0x40)
    have h2 := hfail ((o - 0x1000) / 0x40)
    unfold State.clearSpl
    dsimp only
    split
    · split
      case h_3 => rfl
      all_goals omega
    · rfl
  case tel =>
    have h1 := hlan 0
    have h2 := hlan 1
    unfold State.clearTel
    dsimp only
    split
    · have hk : (o - 0x10000) / 0x100 < 64 := by omega
      have hreg : (s.braid ((o - 0x10000) / 0x100)).clearReg (o % 0x100) = s.braid ((o - 0x10000) / 0x100) :=
        Braid.clearReg_of_no_row (fun j hj => by have := hconf j hj _ hk; omega)
          (by have := hb1 _ hk; have := hb2 _ hk; have := hb3 _ hk; have := hb4 _ hk; have := hb5 _ hk; have := hb6 _ hk; omega)
      have : s.setBraid ((o - 0x10000) / 0x100) (s.braid ((o - 0x10000) / 0x100)) = s := by
        simp only [State.setBraid, State.braid, Sparse.set_get_self h.braids]
      simp [State.modBraid, hreg, this]
    · rw [if_neg (by omega), if_neg (by omega)]
  case pwr =>
    have := hpwr 0
    exact if_neg (by omega)
  case bel =>
    have := hbel 0
    exact if_neg (by omega)
  case lcs =>
    have h1 := hent 0
    have h2 := hpke 0
    unfold State.clearLcs
    split
    case h_3 => rfl
    all_goals omega
  case dbg =>
    have := hdbg 0
    exact if_neg (by omega)
end

theorem State.regClear_of_no_rcBits {s : State} (h : s.BarTablesOk) {off : Nat} (hoff : off < 2 ^ 26) (hrc : rcBits off = 0)
    (hclaim : ∀ t < 64, off ≠ 0x28008 + 0x40 * t) : s.regClear 0 off = s := by
  obtain ⟨b, o, ho, rfl⟩ := exists_blk_base_add hoff
  unfold State.regClear
  simp only [blkOf_base_add ho, State.clearBlk_of_no_rcBits h ho hrc hclaim, ite_self]

/-- A read of IC.CLAIM claims (R496). -/
theorem State.regClear_claim {s : State} (hbar : s.barUp = true) (hb : s.blkUp .ic = true) {t : Nat} (ht : t < 64) :
    s.regClear 0 (0x28008 + 0x40 * t) = (s.claim t).2 := by
  have ho : 0x8008 + 0x40 * t < Blk.ic.size := by simp only [Blk.size]; omega
  have hoff : 0x28008 + 0x40 * t = Blk.ic.base + (0x8008 + 0x40 * t) := by simp only [Blk.base]; omega
  have h1 : (0x8008 + 0x40 * t - 0x8000) / 0x40 = t := by omega
  have h2 : (0x8008 + 0x40 * t - 0x8000) % 0x40 = 8 := by omega
  have h3 : 0x8000 ≤ 0x8008 + 0x40 * t ∧ 0x8008 + 0x40 * t < 0x8000 + 0x40 * 192 := by omega
  rw [hoff, State.regClear_base_add ho hbar hb]
  simp only [State.clearBlk, State.clearIc, h1, h2, h3, ht, if_true, and_self]

/-- IC.CLAIM reads as the identity a claim would take. -/
theorem State.regRead_claim {s : State} (hbar : s.barUp = true) (hb : s.blkUp .ic = true) {t : Nat} (ht : t < 64) :
    s.regRead 0 (0x28008 + 0x40 * t) = BitVec.ofNat 64 ((s.bestSource t).getD 0x7FF % 2048) := by
  have ho : 0x8008 + 0x40 * t < Blk.ic.size := by simp only [Blk.size]; omega
  have hoff : 0x28008 + 0x40 * t = Blk.ic.base + (0x8008 + 0x40 * t) := by simp only [Blk.base]; omega
  have h1 : (0x8008 + 0x40 * t - 0x8000) / 0x40 = t := by omega
  have h2 : (0x8008 + 0x40 * t - 0x8000) % 0x40 = 8 := by omega
  have hi : isTarget t = true := by simp [isTarget]; omega
  rw [hoff, State.regRead_base_add ho hbar hb]
  simp only [State.readBlk, State.readIc]
  rw [if_neg (by omega), if_pos (by omega), h1, h2]
  simp [State.readTgt, hi, ht, put]

theorem State.regRead_of_no_row {s : State} {off : Nat} (hoff : off < 2 ^ 26) (hn : (readRows (blkOf off).1).has (blkOf off).2 = false) :
    s.regRead 0 off = 0 := by
  unfold State.regRead
  simp only [State.readBlk_of_no_row hn (blkOf_spec hoff).2, if_true, ite_self]

theorem State.regWrite_of_no_row {s : State} {off : Nat} (hoff : off < 2 ^ 26) (hn : (writeRows (blkOf off).1).has (blkOf off).2 = false)
    (v : W64) : s.regWrite 0 off v = s := by
  unfold State.regWrite
  simp only [State.writeBlk_of_no_row hn (blkOf_spec hoff).2, if_true, ite_self]

/-- Where a block has no register, a read finds nothing to clear. -/
theorem State.regClear_of_no_row {s : State} (h : s.BarTablesOk) {off : Nat} (hoff : off < 2 ^ 26)
    (hn : (readRows (blkOf off).1).has (blkOf off).2 = false) : s.regClear 0 off = s := by
  refine State.regClear_of_no_rcBits h hoff (by_contra fun hrc => ?_) (fun t ht he => ?_)
  · obtain ⟨r, hr, k, hk, rfl, -⟩ := exists_row_of_rcBits hrc
    obtain ⟨b, o, ho, he, hrow, -⟩ := State.clears_rcRows h r hr k hk
    rw [he, blkOf_base_add ho] at hn
    exact Bool.false_ne_true (hn.symm.trans hrow)
  · have ho : 0x8008 + 0x40 * t < Blk.ic.size := by simp only [Blk.size]; omega
    have hrow : (readRows .ic).has (0x8008 + 0x40 * t) = true := by
      simp only [RegRows.has_eq_true, readRows, List.mem_cons, exists_eq_or_imp]
      omega
    rw [he, show 0x28008 + 0x40 * t = Blk.ic.base + (0x8008 + 0x40 * t) by simp only [Blk.base]; omega, blkOf_base_add ho] at hn
    exact Bool.false_ne_true (hn.symm.trans hrow)

/-! ## Accesses as commands -/

/-- Accesses to BAR0 as commands: a write by the PF, and a read of the control port with what it clears. -/
theorem exec_registerWrite (s : State) (f : Fn) (off : BitVec 26) (v : W64) :
    exec (.registerWrite f off v) s = .next (s.regWrite f off.toNat v) := rfl

theorem exec_readClear_ctrl {s : State} (hp : s.pins.powered = true) (f : Fn) (off : BitVec 26) :
    exec (.readClear (.ctrl f) off) s = .next ((s.regClear f off.toNat).emit (.readData (s.regRead f off.toNat))) := by
  show execReadClear (.ctrl f) off s = _
  simp only [execReadClear, hp, if_true]

theorem State.powered_of_barUp {s : State} (h : s.barUp = true) : s.pins.powered = true := (Bool.and_eq_true_iff.1 h).1

theorem State.regWrite_pf {s : State} {off : Nat} (hbar : s.barUp = true) (v : W64) :
    s.regWrite 0 off v = if s.blkUp (blkOf off).1 then s.writeBlk (blkOf off).1 (blkOf off).2 v else s := by
  simp only [State.regWrite, hbar, Bool.not_true, Bool.false_eq_true, if_false, if_true]

theorem State.regClear_pf {s : State} {off : Nat} (hbar : s.barUp = true) :
    s.regClear 0 off = if s.blkUp (blkOf off).1 then s.clearBlk (blkOf off).1 (blkOf off).2 else s := by
  simp [State.regClear, hbar]

theorem State.regClear_vf {s : State} {f : Fn} (hf : f ≠ 0) (off : Nat) : s.regClear f off = s :=
  if_pos (by simp only [bne_iff_ne.2 hf, Bool.or_true])

theorem State.writeBlk_readOnly (s : State) (o : Nat) (v : W64) : ∀ b ∈ [Blk.cap, .ten, .win, .spl, .tel, .bst, .lcs], s.writeBlk b o v = s := by
  simp only [List.forall_mem_cons, List.not_mem_nil, false_implies, implies_true, State.writeBlk, and_self]

theorem State.clearBlk_noClear (s : State) (o : Nat) : ∀ b ∈ [Blk.cap, .rdy, .hq, .ten, .bst, .bbx], s.clearBlk b o = s := by
  simp only [List.forall_mem_cons, List.not_mem_nil, false_implies, implies_true, State.clearBlk, and_self]

theorem blocksTakeAccesses : Says.BlocksTakeAccesses := by
  intro s off hbar x
  have hread := exec_readClear_ctrl (State.powered_of_barUp hbar)
  refine ⟨fun v hb => ?_, fun v hx => ?_, fun v hb => ?_, fun f v hf hv => ?_, fun hb => ?_, fun hx => ?_, fun f hf => ?_, fun p hp hup => ?_⟩
  · rw [exec_registerWrite, State.regWrite_pf hbar, if_pos hb]
  · rw [exec_registerWrite, State.regWrite_pf hbar, State.writeBlk_readOnly _ _ _ _ hx, ite_self]
  · rw [exec_registerWrite, State.regWrite_pf hbar, if_neg (Bool.not_eq_true _ ▸ hb)]
  · have hoff : s.fnEnabled f = false := decide_eq_false (Nat.not_le_of_lt hv)
    simp only [exec_registerWrite, State.regWrite, if_neg hf, hoff, Bool.false_eq_true, if_false, ite_self]
  · rw [hread, State.regClear_pf hbar, if_pos hb]
  · rw [hread, State.regClear_pf hbar, State.clearBlk_noClear _ _ _ hx, ite_self]
  · rw [hread, State.regClear_vf hf]
  · have h0 : off.toNat = 0 ↔ off = 0 := by simp [← BitVec.toNat_inj]
    show execReadClear (.bulk p) off s = _
    simp only [execReadClear, State.bulkBar0, hp, hup, Bool.and_self, if_true, h0]

/-- RDY takes accesses whenever the control port decodes BAR0. -/
theorem State.regWrite_rdyCtl {s : State} (hbar : s.barUp = true) (v : W64) : s.regWrite 0 0x10010 v = s.writeRdy 0x10 v :=
  State.regWrite_base_add (b := .rdy) (o := 0x10) (by decide) hbar rfl v

theorem State.pkgReset_refused {s : State} (hctl : s.rdyCtl 0 = true) (hfree : s.allFree = false) :
    s.pkgReset 0 = { s with rdy := { s.rdy with refused := true } } := by
  simp only [State.pkgReset, hctl, hfree, Bool.not_true, Bool.false_eq_true, if_false]

/-- A withdrawal clears PENDING of an event source, and nothing else. -/
theorem State.withdraw_eq (s : State) (i : Nat) : s.withdraw i =
    if isLevel i = false ∧ (s.src i).pending = true then s.setSrc i { s.src i with pending := false } else s := by
  unfold State.withdraw
  cases isLevel i <;> cases (s.src i).pending <;> rfl

theorem onesClear : Says.OnesClear := by
  intro s v hbar
  have hrdy := State.regWrite_rdyCtl hbar v
  refine ⟨fun h8 h0 h1 => ?_, fun h0 h1 hctl hfree => ?_, fun h8 h0 h1 => ?_, fun i hi hb => ?_⟩
  · refine congrArg Host.Outcome.next (hrdy.trans ?_)
    simp [State.writeRdy, h8, h0, h1]
  · refine congrArg Host.Outcome.next (hrdy.trans ?_)
    cases h8 : bit v 8
    · simp only [State.writeRdy, h8, h0, h1, if_true, Bool.false_eq_true, if_false]
      exact State.pkgReset_refused hctl hfree
    · simp only [State.writeRdy, h8, h0, h1, if_true, Bool.false_eq_true, if_false]
      exact State.pkgReset_refused (s := { s with rdy := { s.rdy with refused := false } }) hctl hfree
  · refine congrArg Host.Outcome.next (hrdy.trans ?_)
    simp [State.writeRdy, h8, h0, h1]
  · have ho : 8 + 16 * i < Blk.ic.size := by simp only [Blk.size]; omega
    have hoff : (BitVec.ofNat 26 (0x20008 + 16 * i)).toNat = Blk.ic.base + (8 + 16 * i) := by
      simp only [BitVec.toNat_ofNat, Blk.base]; omega
    have h1 : (8 + 16 * i) / 16 = i := by omega
    have h2 : (8 + 16 * i) % 16 = 8 := by omega
    have h3 : 8 + 16 * i < 0x8000 := by omega
    rw [exec_registerWrite, hoff, State.regWrite_base_add ho hbar hb]
    refine congrArg Host.Outcome.next ?_
    simp [State.writeBlk, State.writeIc, h1, h2, h3, State.writeSrcState, State.withdraw_eq, ite_and]

/-! ## The other parts, where the tables are canonical -/

theorem Blk.base_add_lt {b : Blk} {o : Nat} (ho : o < b.size) : b.base + o < 2 ^ 26 := by
  cases b <;> simp only [Blk.base, Blk.size] at * <;> omega

theorem exec_registerWrite_ofNat (s : State) {off : Nat} (h : off < 2 ^ 26) (v : W64) :
    exec (.registerWrite 0 (BitVec.ofNat 26 off) v) s = .next (s.regWrite 0 off v) := by
  rw [exec_registerWrite, BitVec.toNat_ofNat, Nat.mod_eq_of_lt h]

theorem rwRegs_lt {s : State} (h : s.BarTablesOk) {r : Nat × Nat} (hr : r ∈ s.rwRegs) : r.1 < 2 ^ 26 := by
  obtain ⟨b, o, ho, hoff, -⟩ := State.holds_rwRegs h 0 r hr
  exact hoff ▸ Blk.base_add_lt ho

theorem SrcCfg.writable_eq (c : SrcCfg) (lock : Bool) (v : W64) : c.writable lock v = BitVec.ofNat 64
    ((if lock then 0 else 0xFF) + if (if lock then c.target.toNat else fld v 0 8) < 64 then 0x1F00 else 0) := by
  have ht : (c.written lock v).target.toNat = if lock then c.target.toNat else fld v 0 8 := by
    cases lock <;> simp only [SrcCfg.written, apply_ite SrcCfg.target, ite_self] <;> simp [fld]
  rw [SrcCfg.writable, ht]
  generalize (if lock then c.target.toNat else fld v 0 8) = n
  cases lock <;> by_cases hn : n < 64 <;> simp only [hn, if_true, if_false, Bool.false_eq_true] <;> rfl

/-- `Says.WrittenFieldsReadBack` of a state whose tables are canonical. -/
theorem writtenFieldsReadBack_of_barTablesOk {s : State} (h : s.BarTablesOk) (v : W64) (hbar : s.barUp = true) :
    (∀ r ∈ s.rwRegs, s.blkUp (blkOf r.1).1 = true → ∃ t, exec (.registerWrite 0 (BitVec.ofNat 26 r.1) v) s = .next t ∧
      t.regRead 0 r.1 = (s.regRead 0 r.1 &&& ~~~(BitVec.ofNat 64 r.2)) ||| (v &&& BitVec.ofNat 64 r.2)) ∧
    (∀ (f : Fn) (q : BitVec 2), s.hqUp = true → (s.sq f q).en = false →
      let o := 0x40000 + 0x2000 * f.toNat + 0x40 * q.toNat
      ∃ t, exec (.registerWrite 0 (BitVec.ofNat 26 o) v) s = .next t ∧ t.regRead 0 o = v &&& BitVec.ofNat 64 0xFFFFFFFFFFFFF000) ∧
    (∀ i : Nat, (srcDefault i).isSome = true → s.blkUp .ic = true →
      let o := 0x20000 + 16 * i
      let tgt := if s.ic.lock then (s.srcCfg i).target.toNat else fld v 0 8
      let m : W64 := BitVec.ofNat 64 ((if s.ic.lock then 0 else 0xFF) + if tgt < 64 then 0x1F00 else 0)
      ∃ t, exec (.registerWrite 0 (BitVec.ofNat 26 o) v) s = .next t ∧ t.regRead 0 o = (s.regRead 0 o &&& ~~~m) ||| (v &&& m)) := by
  refine ⟨fun r hr hb => ?_, fun f q hup hen => ?_, fun i hi hb => ?_⟩
  · exact ⟨_, exec_registerWrite_ofNat s (rwRegs_lt h hr) v, State.regRead_regWrite_rw h hbar v hr hb⟩
  · have hf := f.isLt
    have hq := q.isLt
    rw [Nat.add_assoc]
    exact ⟨_, exec_registerWrite_ofNat s (by omega) v, State.regRead_regWrite_sqBase h hbar v hup hen⟩
  · have hlt := lt_of_srcDefault hi
    intro o tgt m
    have hm : (s.srcCfg i).writable s.ic.lock v = m := SrcCfg.writable_eq ..
    exact ⟨_, exec_registerWrite_ofNat s (by omega) v, hm ▸ State.regRead_regWrite_srcCfg h hbar hb v hi⟩

/-- `Says.ReadsClear` of a state whose tables are canonical. -/
theorem readsClear_of_barTablesOk {s : State} (h : s.BarTablesOk) (off : BitVec 26) (hbar : s.barUp = true)
    (hb : s.blkUp (blkOf off.toNat).1 = true) :
    (rcBits off.toNat ≠ 0 → ∃ t : State, exec (.readClear (.ctrl 0) off) s = .next (t.emit (.readData (s.regRead 0 off.toNat))) ∧
      t.regRead 0 off.toNat = s.regRead 0 off.toNat &&& ~~~(BitVec.ofNat 64 (rcBits off.toNat))) ∧
    (rcBits off.toNat = 0 → (∀ t : BitVec 6, off.toNat ≠ 0x28008 + 0x40 * t.toNat) →
      exec (.readClear (.ctrl 0) off) s = .next (s.emit (.readData (s.regRead 0 off.toNat)))) ∧
    (∀ t : BitVec 6, off.toNat = 0x28008 + 0x40 * t.toNat →
      exec (.readClear (.ctrl 0) off) s = .next ((s.claim t.toNat).2.emit
        (.readData (BitVec.ofNat 64 ((s.bestSource t.toNat).getD 0x7FF % 2048))))) := by
  have hread := exec_readClear_ctrl (State.powered_of_barUp hbar) 0 off
  refine ⟨fun hrc => ⟨_, hread, State.regRead_regClear h hbar hb hrc⟩, fun hrc hclaim => ?_, fun t ht => ?_⟩
  · rw [hread, State.regClear_of_no_rcBits h off.isLt hrc fun t ht => ?_]
    simpa [Nat.mod_eq_of_lt ht] using hclaim (BitVec.ofNat 6 t)
  · have hblk : s.blkUp .ic = true := by
      rwa [ht, show 0x28008 + 0x40 * t.toNat = Blk.ic.base + (0x8008 + 0x40 * t.toNat) by simp only [Blk.base]; omega,
        blkOf_base_add (by have := t.isLt; simp only [Blk.size]; omega)] at hb
    rw [hread, ht, State.regClear_claim hbar hblk t.isLt, State.regRead_claim hbar hblk t.isLt]

/-- `Says.OtherOffsetsAreInert` of a state whose tables are canonical. -/
theorem otherOffsetsAreInert_of_barTablesOk {s : State} (h : s.BarTablesOk) (off : BitVec 26) :
    ((readRows (blkOf off.toNat).1).has (blkOf off.toNat).2 = false → s.regRead 0 off.toNat = 0 ∧
      (s.pins.powered = true → exec (.readClear (.ctrl 0) off) s = .next (s.emit (.readData 0)))) ∧
    ((writeRows (blkOf off.toNat).1).has (blkOf off.toNat).2 = false → ∀ v : W64, exec (.registerWrite 0 off v) s = .next s) := by
  refine ⟨fun hn => ?_, fun hn v => congrArg Host.Outcome.next (State.regWrite_of_no_row off.isLt hn v)⟩
  have hzero := State.regRead_of_no_row (s := s) off.isLt hn
  exact ⟨hzero, fun hp => by rw [exec_readClear_ctrl hp, hzero, State.regClear_of_no_row h off.isLt hn]⟩

/-! ## The statement fails -/

/-- A powered module with every unit ready, whose interrupt controller lists target 0 twice, with MSI-X address 1 in the second place. -/
def msixListedTwice : State :=
  { State.reset with
    pins := { Pins.init with powered := true }
    rdy := { Rdy.init with bits := 0x1FFFF }
    sys := { Sys.init with cfgLoaded := 1 }
    ic := { Ic.init with tgts := [(0, Tgt.init), (0, { Tgt.init with msixAddr := 1 })] } }

/-- The tables that `State.tablesOk` looks at are canonical there: that hypothesis would not make the statement hold. -/
theorem msixListedTwice_tablesOk : msixListedTwice.tablesOk = true := by decide

theorem msixListedTwice_takes_writes :
    msixListedTwice.barUp = true ∧ msixListedTwice.blkUp (blkOf 0x30000).1 = true ∧
      (0x30000, 0xFFFFFFFFFFFFFFFF) ∈ msixListedTwice.rwRegs := by decide

/-- A written address 0 makes entry 0 what an unlisted one reads as, so `Sparse.set` drops it, and the next one listed for the key is read. -/
theorem msixListedTwice_zero_reads_one : (msixListedTwice.regWrite 0 0x30000 0).regRead 0 0x30000 = 1 := by decide

theorem not_writtenFieldsReadBack : ¬ Says.WrittenFieldsReadBack := by
  intro h
  obtain ⟨hbar, hblk, hmem⟩ := msixListedTwice_takes_writes
  obtain ⟨t, ht, hread⟩ := (h msixListedTwice 0 hbar).1 _ hmem hblk
  obtain rfl : msixListedTwice.regWrite 0 0x30000 0 = t := Host.Outcome.next.inj ht
  rw [msixListedTwice_zero_reads_one] at hread
  exact absurd hread (by simp)

/-- Refutes O57: it speaks of every state, with no hypothesis on the tables, and the MSI-X address of an entry that the controller's table lists
twice does not read back as written (`msixListedTwice`). Nothing else fails: `writtenFieldsReadBack_of_barTablesOk`,
`readsClear_of_barTablesOk` and `otherOffsetsAreInert_of_barTablesOk` prove the three parts that need the tables canonical, the other two hold. -/
theorem not_registerAccesses : ¬ Obligations.RegisterAccesses := by
  unfold Obligations.RegisterAccesses
  rintro ⟨-, h, -⟩
  exact not_writtenFieldsReadBack h

end Sys2Proof.Machine
end

section
/-! Commands that end or are refused whole (O17). -/

namespace Sys2Proof.Machine

/-! ## Entries in the black box leave the tenancies alone -/

@[simp] theorem State.bbxPush_tens (s : State) (x : BbxEntry) : (s.bbxPush x).tens = s.tens := by
  unfold State.bbxPush; (repeat' split) <;> rfl

@[simp] theorem State.clock_tens (s : State) (d u : Nat) : (s.clock d u).2.tens = s.tens := by
  unfold State.clock; split <;> rfl

@[simp] theorem State.log_tens (s : State) (d c u e : Nat) (st : Byte) (n : Option Tid) (a : List W64) :
    (s.log d c u e st n a).tens = s.tens := by
  simp [State.log]

theorem State.ten_of_tens {s u : State} (h : u.tens = s.tens) (n : Tid) : u.ten n = s.ten n := by rw [State.ten, h, State.ten]

/-! ## A refusal -/

/-- A service of the security core that fails a common check is refused whole. -/
theorem State.secCmd_refused {s : State} {e d v : Nat} {t : Token} (hsec : s.secUp = true) (htok : s.tok e = some t)
    (hcan : s.canStart t = true) (hsel : selSvc v t.cmd = true) (hchk : s.cmdCheck t.fn t.cmd t.badDep t.id = some d)
    (run : State → Token → State) : s.secCmd e v run = (s.afterAuth t.cmd).finish e (Comp.aborted d) := by
  rw [State.secCmd, if_pos hsec, State.startCmd_refused htok hcan hsel hchk]

/-- The same of an authenticated command, in its turn. -/
theorem State.authCmd_refused {s : State} {e d v : Nat} {t : Token} (hwait : s.lcs.wait = none) (hsec : s.secUp = true)
    (htok : s.tok e = some t) (hcan : s.canStart t = true) (hsel : selSvc v t.cmd = true)
    (hchk : s.cmdCheck t.fn t.cmd t.badDep t.id = some d) (buf : HostBuf) (run : State → Token → List Byte → State) :
    s.authCmd e v buf run = (s.afterAuth t.cmd).finish e (Comp.aborted d) := by
  simp only [State.authCmd, hwait, Option.isSome_none, Bool.false_eq_true, if_false]
  exact State.secCmd_refused hsec htok hcan hsel hchk _

/-- Every command of the list is `startCmd` with the words that tell it. -/
theorem exec_poolCmds : ∀ r ∈ poolCmds, ∀ (e : Nat) (buf : HostBuf) (s : State),
    ∃ run, exec (r.1 e buf) s = .next (s.startCmd e r.2 run) := by
  simp only [poolCmds, List.cons_append, List.nil_append, List.forall_mem_cons, List.not_mem_nil, false_implies, implies_true, and_true]
  refine ⟨?_, ?_, ?_, ?_, ?_, ?_, ?_, ?_, ?_, ?_, ?_, ?_, ?_, ?_, ?_, ?_, ?_, ?_, ?_, ?_⟩ <;> exact fun e buf s => ⟨_, rfl⟩

theorem cmdAuth_of_selSvc {c : BitVec 512} {v : Nat} (hv : v ∈ [0x20, 0x21, 0x22]) (h : selSvc v c = true) : cmdAuth c = true := by
  simp only [selSvc, Bool.and_eq_true, beq_iff_eq] at h
  obtain ⟨hop, rfl⟩ := h
  simpa [cmdAuth, hop] using hv

theorem poolCmd_refused {r : (Nat → HostBuf → Instr) × (BitVec 512 → Bool)} (hr : r ∈ poolCmds) {s : State} {e d : Nat} {t : Token}
    (htok : s.tok e = some t) (hcan : s.canStart t = true) (hsel : r.2 t.cmd = true)
    (hchk : s.cmdCheck t.fn t.cmd t.badDep t.id = some d) (buf : HostBuf) :
    exec (r.1 e buf) s = .next ((s.afterAuth t.cmd).finish e (Comp.aborted d)) := by
  obtain ⟨run, hrun⟩ := exec_poolCmds r hr e buf s
  rw [hrun, State.startCmd_refused htok hcan hsel hchk]

theorem secCmd_refused {r : (Nat → HostBuf → Instr) × (BitVec 512 → Bool)} (hr : r ∈ secCmds) {s : State} {e d : Nat} {t : Token}
    (hsec : s.secUp = true) (hturn : cmdAuth t.cmd = true → s.lcs.wait = none) (htok : s.tok e = some t) (hcan : s.canStart t = true)
    (hsel : r.2 t.cmd = true) (hchk : s.cmdCheck t.fn t.cmd t.badDep t.id = some d) (buf : HostBuf) :
    exec (r.1 e buf) s = .next ((s.afterAuth t.cmd).finish e (Comp.aborted d)) := by
  have hplain := fun v h run => congrArg (Host.Outcome.next (φ := Fault) (ρ := Refusal)) (State.secCmd_refused (v := v) hsec htok hcan h hchk run)
  have hauth := fun v (hv : v ∈ [0x20, 0x21, 0x22]) h run => congrArg (Host.Outcome.next (φ := Fault) (ρ := Refusal))
    (State.authCmd_refused (v := v) (hturn (cmdAuth_of_selSvc hv h)) hsec htok hcan h hchk buf run)
  revert r
  simp only [secCmds, List.forall_mem_cons, List.not_mem_nil, false_implies, implies_true, and_true]
  exact ⟨fun h => hplain 0x01 h _, fun h => hplain 0x02 h _, fun h => hplain 0x10 h _, fun h => hplain 0x12 h _,
    fun h => hauth 0x20 (by decide) h _, fun h => hauth 0x21 (by decide) h _, fun h => hauth 0x22 (by decide) h _, fun h => hplain 0x30 h _⟩

theorem refusedWhole : Says.RefusedWhole := by
  rintro s e d buf t r (hr | ⟨hr, hsec, hturn⟩) htok hcan hsel hchk
  · exact poolCmd_refused hr htok hcan hsel hchk buf
  · exact secCmd_refused hr hsec hturn htok hcan hsel hchk buf

/-! ## An entry that ends -/

theorem Status.good_iff {st : Byte} : Status.good st = true ↔ st = 0x00 ∨ st = 0x01 := by
  simp [Status.good, Status.ok, Status.okFlagged]

/-- A tenancy that is not mirrored sends no record. -/
theorem State.sendRecord_of_not_mirrored {s : State} {n : Tid} (h : (s.ten n).mirrored = false) (r : CommitRecord) :
    s.sendRecord n r = s := by simp [State.sendRecord, h]

/-- A completion is discarded of a closing tenancy only. -/
theorem State.discards_of_not_closing {s : State} {n : Tid} (h : (s.ten n).closing = none) : s.discards n = false := by
  simp [State.discards, h]

/-- The entry joins the completions that may be written, where nothing holds or discards its completion; `s` is the state with the
entry RETIRING and the failure logged. -/
theorem State.retire_orders {s : State} {e : Nat} {t : Token} (c : Comp) (pc haddr : W64) (htok : s.tok e = some t) (hst : t.st ≠ .retiring)
    (hmir : (s.ten t.ten).mirrored = false) (horph : (s.ten t.ten).st ≠ .orphaned) (hclose : (s.ten t.ten).closing = none) :
    let s1 := s.modTok e (fun _ => { t with st := .retiring, comp := c, held := false })
    let s2 := if Status.good c.status then s1 else s1.log Dom.sched 2 cleatDie 0x10 c.status (some t.ten)
      [t.fn.setWidth 64, put 0 2 t.ring.toNat ||| put 32 32 t.seq.toNat, t.set.setWidth 64, pc, haddr]
    s.retire e c [] pc haddr = { s2 with sch := { s2.sch with order := s2.sch.order ++ [e] } } := by
  intro s1 s2
  have hten : s2.ten t.ten = s.ten t.ten := by
    refine State.ten_of_tens ?_ _
    simp only [s2, s1]
    split
    · rfl
    · rw [State.log_tens]; rfl
  have hsend := fun r => State.sendRecord_of_not_mirrored (s := s2) (n := t.ten) (by rw [hten, hmir]) r
  have hdisc := State.discards_of_not_closing (s := s2) (n := t.ten) (by rw [hten, hclose])
  have hfalse : ((s.ten t.ten).st == .orphaned) = false := beq_false_of_ne horph
  simp only [State.retire, htok, beq_false_of_ne hst, Bool.false_eq_true, if_false, hmir, Bool.false_and, hfalse]
  show (if (s2.discards t.ten && _) = true then _ else (fun u : State => { u with sch := { u.sch with order := u.sch.order ++ [e] } })
    (s2.sendRecord t.ten _)) = _
  rw [hdisc, Bool.false_and, if_neg Bool.false_ne_true, hsend]

theorem entryRetires : Says.EntryRetires := by
  intro s e t c htok hst hmir horph hclose s1
  rw [State.finish, State.finishAt, State.retire_orders c 0 0 htok hst hmir horph hclose]
  by_cases hc : c.status = 0x00 ∨ c.status = 0x01
  · simp only [if_pos hc, Status.good_iff.2 hc, if_true]
    rfl
  · simp only [if_neg hc, Bool.eq_false_iff.2 (mt Status.good_iff.1 hc), Bool.false_eq_true, if_false]
    rfl

theorem barrierCompletes : Says.BarrierCompletes := by
  intro s e t h
  obtain ⟨htok, -⟩ := State.starts_iff.1 h
  obtain rfl := State.tok_id htok
  exact congrArg Host.Outcome.next (State.startCmd_starts h _)

/-- Settles O17: a command that runs by `startCmd` ends by it when a common check fails; what is not mirrored, orphaned or wiped sends no record
and holds or discards no completion. -/
theorem commandsEndOrRefuse : Obligations.CommandsEndOrRefuse := ⟨refusedWhole, entryRetires, barrierCompletes⟩

end Sys2Proof.Machine
end

section
/-! Backings and scrubs (O24). -/

namespace Sys2Proof

section
variable {α : Type} {d : α}

/-- A table reads as the default or as an entry listed. -/
theorem Sparse.get_mem (m : Sparse α) (k : Nat) : Sparse.get d m k = d ∨ ∃ e ∈ m, Sparse.get d m k = e.2 := by
  induction m with
  | nil => exact .inl rfl
  | cons e m ih =>
    rw [Sparse.get]
    split
    · exact .inr ⟨e, List.mem_cons_self, rfl⟩
    · split
      · exact .inl rfl
      · exact ih.imp id fun ⟨x, hx, hget⟩ => ⟨x, List.mem_cons_of_mem _ hx, hget⟩
end

end Sys2Proof

namespace Sys2Proof.Machine

/-! ## A page-table entry read back -/

/-- What `State.tablesOk` says of device memory, frames, braids, splices and tenancies. -/
theorem State.wf_of_tablesOk {s : State} (h : s.tablesOk = true) :
    s.mem.wf = true ∧ Sparse.wf none s.mem.use = true ∧ Sparse.wf Braid.init s.braids = true ∧ Sparse.wf Splice.init s.splices = true ∧
      Sparse.wf Ten.init s.tens = true ∧
      ∀ e ∈ s.tens, Sparse.wf none e.2.ptes = true ∧ ∀ g ∈ e.2.ptes, Sparse.wf Pte.init (g.2.getD []) = true := by
  simp only [State.tablesOk, Bool.and_eq_true, List.all_eq_true] at h
  obtain ⟨⟨⟨⟨⟨⟨⟨⟨⟨⟨⟨⟨⟨⟨hmem, huse⟩, -⟩, hbraids⟩, htens⟩, hptes⟩, -⟩, hsplices⟩, -⟩, -⟩, -⟩, -⟩, -⟩, -⟩, -⟩ := h
  exact ⟨hmem, huse, hbraids, hsplices, htens, hptes⟩

/-- The page tables of any tenancy, listed or not, are canonical. -/
theorem State.ten_ptes_wf {s : State} (h : s.tablesOk = true) (n : Tid) : Sparse.wf none (s.ten n).ptes = true ∧
    ∀ page, Sparse.wf Pte.init (((s.ten n).table page).getD []) = true := by
  obtain ⟨-, -, -, -, -, hptes⟩ := State.wf_of_tablesOk h
  rcases Sparse.get_mem (d := Ten.init) s.tens n.toNat with hn | ⟨e, he, hn⟩ <;> simp only [State.ten, Ten.table, hn]
  · exact ⟨rfl, fun _ => rfl⟩
  · obtain ⟨hwf, htab⟩ := hptes e he
    refine ⟨hwf, fun page => ?_⟩
    rcases Sparse.get_mem (d := none) e.2.ptes (page / 8192) with hp | ⟨g, hg, hp⟩ <;> rw [hp]
    · rfl
    · exact htab g hg

theorem State.pte_setPte {s : State} (h : s.tablesOk = true) (n : Tid) (page : Nat) (p : Pte) : (s.setPte n page p).pte n page = p := by
  obtain ⟨-, -, -, -, htens, -⟩ := State.wf_of_tablesOk h
  obtain ⟨hptes, htab⟩ := State.ten_ptes_wf h n
  have hten : (s.setPte n page p).ten n = (s.ten n).setPte page p := Sparse.get_set_self htens _ _
  rw [State.pte, hten, Ten.pte, Ten.table, Ten.setPte, Sparse.get_set_self hptes, Option.getD_some, Sparse.get_set_self (htab page)]

/-- A backing with a frame leaves the page BACKED in it. -/
theorem State.finishBacking_pte {s : State} {b : Backing} {h : Bool} {set frame : Nat} (hok : s.tablesOk = true)
    (hplace : b.place = some (h, set, frame)) :
    (s.finishBacking b).pte b.ten b.page = { s.pte b.ten b.page with
      state := .backed, bulk := b.bulk, hawser := h, set := BitVec.ofNat 4 set, frame := BitVec.ofNat 16 frame
      home := b.homeFor (s.pte b.ten b.page), homeft := false, poison := false, ref := false } := by
  rw [State.finishBacking, hplace]
  exact State.pte_setPte (s := { s with mem := { s.mem with backing := _ } }) hok _ _ _

theorem Backing.homeFor_eq (b : Backing) (p : Pte) : b.homeFor p = if b.cmd.isSome ∨ p.homeft then b.hawser else p.home := by
  unfold Backing.homeFor Pte.homeFor
  cases b.cmd.isSome <;> cases p.homeft <;> rfl

/-! ## What a transfer of a scrub leaves alone -/

/-- The tenancies, the bytes and open entries of device memory, the use of its frames and the backings. -/
def State.scrubLeaves (s : State) : Sparse Ten × List (Nat × Byte) × List WcEntry × Sparse (Option FrameUse) × List Backing :=
  (s.tens, s.mem.cells, s.mem.wc, s.mem.use, s.mem.backing)

theorem State.scrubLeaves_of_tens_mem {s u : State} (ht : u.tens = s.tens) (hm : u.mem = s.mem) : u.scrubLeaves = s.scrubLeaves := by
  rw [State.scrubLeaves, ht, hm, State.scrubLeaves]

@[simp] theorem State.modTier_scrubLeaves (s : State) (b h : Bool) (f : TierSt → TierSt) : (s.modTier b h f).scrubLeaves = s.scrubLeaves := rfl

@[simp] theorem State.raise_tens (s : State) (i : Nat) : (s.raise i).tens = s.tens := by
  unfold State.raise; split <;> rfl

@[simp] theorem State.raise_scrubLeaves (s : State) (i : Nat) : (s.raise i).scrubLeaves = s.scrubLeaves :=
  State.scrubLeaves_of_tens_mem (by simp) (by simp)

@[simp] theorem State.log_scrubLeaves (s : State) (d c u e : Nat) (st : Byte) (n : Option Tid) (a : List W64) :
    (s.log d c u e st n a).scrubLeaves = s.scrubLeaves := State.scrubLeaves_of_tens_mem (by simp) (by simp)

@[simp] theorem State.corrected_tens (s : State) (d u c k : Nat) : (s.corrected d u c k).tens = s.tens := by
  unfold State.corrected
  simp only [apply_ite State.tens, State.bbxPush_tens, State.clock_tens, ite_self]

@[simp] theorem State.corrected_scrubLeaves (s : State) (d u c k : Nat) : (s.corrected d u c k).scrubLeaves = s.scrubLeaves :=
  State.scrubLeaves_of_tens_mem (by simp) (by simp)

/-- A granule that no page is named for is poisoned in its hawser's table alone. -/
theorem State.poisonGran_scrubLeaves (s : State) (n : Option Tid) (g : Nat) (a : W64) :
    (s.poisonGran n g none a).scrubLeaves = s.scrubLeaves := by
  unfold State.poisonGran
  simp only [State.raise_scrubLeaves, State.log_scrubLeaves, State.modTier_scrubLeaves]
  split <;> rfl

theorem State.transferGran_scrubLeaves (s : State) (n : Option Tid) (g : Nat) (a : W64) (w : Bool) :
    (s.transferGran n g none a w).scrubLeaves = s.scrubLeaves := by
  unfold State.transferGran
  dsimp only
  split
  · rfl
  · split <;> simp only [State.poisonGran_scrubLeaves, State.corrected_scrubLeaves, State.modTier_scrubLeaves] <;> rfl

/-- A scrub clears the frame's bytes and open entries, and leaves the rest. -/
theorem State.scrubFrame_scrubLeaves (s : State) (n : Tid) (id : Nat) :
    (s.scrubFrame n id).scrubLeaves = (s.zeroFrame id).scrubLeaves := by
  have hfold : ∀ (gs : List Nat) (u : State),
      (gs.foldl (fun s g => (s.free.2).transferGran (some n) g none s.free.1 true) u).scrubLeaves = u.scrubLeaves := by
    intro gs
    induction gs with
    | nil => exact fun _ => rfl
    | cons g gs ih => exact fun u => (ih _).trans (State.transferGran_scrubLeaves u.free.2 _ _ _ _)
  exact hfold (s.retryGrans (· == id)) { s.zeroFrame id with mem := { (s.zeroFrame id).mem with soft := s.mem.soft } }

/-- The open entries over a byte once a frame is cleared. -/
theorem State.zeroFrame_over (s : State) (id a : Nat) :
    (s.zeroFrame id).mem.over a = if a / 2 ^ 21 = id then none else s.mem.over a := by
  have hline : a / 64 / 2 ^ 15 = a / 2 ^ 21 := Nat.div_div_eq_div_mul _ _ _
  simp only [Mem.over, State.zeroFrame, List.filter_filter]
  split
  case isTrue h =>
    rw [List.filter_eq_nil_iff.2]
    · rfl
    · rintro e - he
      simp only [Bool.and_eq_true, beq_iff_eq, bne_iff_ne] at he
      obtain ⟨⟨hl, -⟩, hid⟩ := he
      exact hid (by rw [hl, hline, h])
  case isFalse h =>
    congr 2
    refine List.filter_congr fun e _ => ?_
    by_cases hl : e.line = a / 64
    · rw [hl, hline, bne_iff_ne.2 h, Bool.and_true]
    · rw [beq_false_of_ne hl, Bool.false_and, Bool.false_and]

theorem State.zeroFrame_byte {s : State} (h : s.mem.wf = true) (id a : Nat) :
    (s.zeroFrame id).mem.byte a = if a / 2 ^ 21 = id then 0 else s.mem.byte a := by
  have hcells : Sparse.get 0 (s.zeroFrame id).mem.cells a = if a / 2 ^ 21 == id then 0 else Sparse.get 0 s.mem.cells a :=
    Sparse.get_dropKeys h (fun a => a / 2 ^ 21 == id) a
  rw [Mem.byte, State.zeroFrame_over, hcells]
  simp only [beq_iff_eq]
  split <;> rfl

/-! ## What follows the scrub where nothing waits -/

theorem State.serveWaiting_of_no_waiters {s : State} {bulk : Bool} (h : s.waiters bulk = []) : s.serveWaiting bulk = s := by
  simp [State.serveWaiting, h]

theorem State.applyWaiting_of_inboxes_empty {s : State} (h : ∀ x ∈ s.tens, x.2.mir.inbox = []) : s.applyWaiting = s := by
  have hten : ∀ n : Tid, (s.ten n).mir.inbox = [] := fun n => by
    rcases Sparse.get_mem (d := Ten.init) s.tens n.toNat with hn | ⟨e, he, hn⟩ <;> rw [State.ten, hn]
    · rfl
    · exact h e he
  unfold State.applyWaiting
  generalize s.tensOf _ = ns
  induction ns with
  | nil => rfl
  | cons n ns ih => rw [List.foldl_cons, hten, List.length_nil, State.drainInbox, ih]

/-! ## The channel of a chunk -/

theorem channelOf_frameBase {id k o : Nat} (hk : k < 8192) (ho : o < 256) :
    channelOf (frameBase id + 256 * k + o) = (k + id % 65536) % 4 := by
  have hchunk : (id * 2 ^ 21 + 256 * k + o) % 2 ^ 21 / 256 = k := by omega
  have hframe : (id * 2 ^ 21 + 256 * k + o) / 2 ^ 21 = id := by omega
  rw [frameBase, channelOf, hchunk, hframe]

theorem frameId_mod {bulk hawser : Bool} {set frame : Nat} (h : frame < 65536) : frameId bulk hawser set frame % 65536 = frame := by
  rw [frameId, Nat.mul_add_mod_self_right, Nat.mod_eq_of_lt h]

/-! ## The statement -/

/-- PAGE_BACKING_DONE of a backing that has its frame. -/
theorem exec_pageBackingDone {s : State} {n : Tid} {page : BitVec 27} {b : Backing} {h : Bool} {set frame : Nat} (hlive : s.live = true)
    (hok : s.tablesOk = true) (hb : s.mem.backing.find? (fun b => b.ten == n && b.page == page.toNat && b.place.isSome) = some b)
    (hplace : b.place = some (h, set, frame)) :
    exec (.pageBackingDone n page) s = .next (((s.finishBacking b).allocAll n).pageReady n page.toNat) ∧
    (s.finishBacking b).pte n page.toNat = { s.pte n page.toNat with
      state := .backed, bulk := b.bulk, hawser := h, set := BitVec.ofNat 4 set, frame := BitVec.ofNat 16 frame
      home := if b.cmd.isSome ∨ (s.pte n page.toNat).homeft then b.hawser else (s.pte n page.toNat).home
      homeft := false, poison := false, ref := false } := by
  have hfound := List.find?_some hb
  simp only [Bool.and_eq_true, beq_iff_eq] at hfound
  obtain ⟨⟨hten, hpage⟩, -⟩ := hfound
  constructor
  · show Host.Outcome.next (if s.live then s.backingDone n page.toNat else s) = _
    rw [if_pos hlive, State.backingDone, hb]
  · rw [← hten, ← hpage, State.finishBacking_pte hok hplace, Backing.homeFor_eq]

/-- FRAME_SCRUB_DONE, where no backing waits for a frame of the tier and no record of a standby waits. -/
theorem exec_frameScrubDone {s : State} {id : Nat} {n : Tid} (hlive : s.live = true) (huse : s.frameUse id = some (.scrubbing n))
    (hwait : s.mem.backing.find? (fun b => b.bulk == idBulk id && b.place.isNone) = none) (hinbox : ∀ x ∈ s.tens, x.2.mir.inbox = []) :
    exec (.frameScrubDone id) s = .next ((s.scrubFrame n id).setUse id none) := by
  have hleaves := State.scrubFrame_scrubLeaves s n id
  simp only [State.scrubLeaves, Prod.mk.injEq] at hleaves
  obtain ⟨htens, -, -, -, hback⟩ := hleaves
  have hserve : ((s.scrubFrame n id).setUse id none).serveWaiting (idBulk id) = (s.scrubFrame n id).setUse id none :=
    State.serveWaiting_of_no_waiters (List.filter_eq_nil_iff.2 fun b hb => List.find?_eq_none.1 hwait b (hback ▸ hb))
  show Host.Outcome.next (if s.live then (s.scrubDone id).applyWaiting else s) = _
  rw [if_pos hlive, State.scrubDone, huse]
  show Host.Outcome.next ((((s.scrubFrame n id).setUse id none).serveWaiting (idBulk id)).applyWaiting) = _
  have htens' : ((s.scrubFrame n id).setUse id none).tens = s.tens := htens
  rw [hserve, State.applyWaiting_of_inboxes_empty (htens' ▸ hinbox)]

/-- A scrubbed frame is free and its bytes zero; every other byte is as it was. -/
theorem State.scrubFrame_setUse {s : State} (h : s.tablesOk = true) (n : Tid) (id : Nat) :
    ((s.scrubFrame n id).setUse id none).frameUse id = none ∧
    ∀ a, ((s.scrubFrame n id).setUse id none).mem.byte a = if a / 2 ^ 21 = id then 0 else s.mem.byte a := by
  obtain ⟨hmem, huse, -⟩ := State.wf_of_tablesOk h
  have hleaves := State.scrubFrame_scrubLeaves s n id
  simp only [State.scrubLeaves, Prod.mk.injEq] at hleaves
  obtain ⟨-, hcells, hwc, huse', -⟩ := hleaves
  constructor
  · show Sparse.get none (Sparse.set none (s.scrubFrame n id).mem.use id none) id = none
    rw [huse']
    exact Sparse.get_set_self huse id none
  · intro a
    rw [← State.zeroFrame_byte hmem id a]
    simp only [State.setUse, Mem.byte, Mem.over, hcells, hwc]

/-- Settles O24: a backing writes its page's entry alone, a scrub meets the links and leaves every other frame. -/
theorem backingsAndScrubsEnd : Obligations.BackingsAndScrubsEnd := by
  refine ⟨fun s n page b h set frame hlive hok hb hplace => exec_pageBackingDone hlive hok hb hplace, ?_, ?_⟩
  · intro s id n hlive hok huse hwait hinbox
    exact ⟨_, exec_frameScrubDone hlive huse hwait hinbox, State.scrubFrame_setUse hok n id⟩
  · intro bulk hawser set frame k o _ hframe hk ho
    rw [channelOf_frameBase hk ho, frameId_mod hframe]

end Sys2Proof.Machine
end

section
/-! How a token ends (O38). -/

namespace Sys2Proof.Machine

/-! ## Retirement and failure -/

/-- TOKEN_RETIRE of a token that may. -/
theorem State.tokenRetire_of_mayRetire {s : State} {i e : Nat} {t : Token} (hb : (s.braid i).tok = some e) (htok : s.tok e = some t)
    (hmay : s.mayRetire i e = true) :
    let w := if (s.braid i).dmaWaits then s.endDmaWait i .ended else s
    let f := (w.modBraid i (fun b => b.endDrain.retireRings.rest)).leaveGroups i
    s.tokenRetire i = ((((f.writeHeaders t t.dests).fenceTok e).rankCommitted e).finish e
      { status := if t.flagged then 0x01 else 0x00, detail := 0, position := 0, value := 0 }).closeStep t.ten := by
  intro w f
  simp only [State.tokenRetire, hb, htok, hmay, Bool.not_true, Bool.false_eq_true, if_false]
  rfl

/-- TOKEN_FAIL of a token whose kernel has stopped. -/
theorem State.tokenFail_of_failure {s : State} {i e : Nat} {r : StopRec} (hlive : s.live = true) (hb : (s.braid i).tok = some e)
    (hr : s.failure i = some r) : s.tokenFail i = s.failTok i e r := by simp only [State.tokenFail, hlive, hb, hr]

/-! ## A notice that arrives -/

/-- Issue is over in no phase in which a kernel is loaded or issues. -/
theorem Braid.issueOver_eq_false {b : Braid} (h : b.phase = .loading ∨ b.phase = .issuing) : b.issueOver = false := by
  rcases h with h | h <;> simp [Braid.issueOver, h]

section
variable {s : State} {i : Nat} {st : Byte} (hlive : s.live = true) (hst : (s.braid i).notice = some st)
include hlive hst

/-- What a notice does, by the phase of the braid that it meets. -/
theorem State.noticeArrives_eq : s.noticeArrives i =
    if (s.braid i).phase == .saving && !(s.braid i).issueOver then s
    else if (s.braid i).phase == .idle || (s.braid i).issueOver || (s.braid i).phase == .stopped then
      s.setBraid i { s.braid i with notice := none }
    else if (s.braid i).phase == .issuing && !(s.braid i).issued.isEmpty then
      s.setBraid i (if (s.braid i).stop.isSome then { s.braid i with notice := none }
        else { s.braid i with notice := none, stop := some { status := st, pc := (s.braid i).pc, clause := 6 } })
    else s.afterBraid i ({ s.braid i with notice := none }.stopNow st 6) := by
  simp only [State.noticeArrives, hst, hlive, Bool.not_true, Bool.false_or]
  rfl

/-- Issue stands between cycles: the kernel stops. -/
theorem State.noticeArrives_stops (h : (s.braid i).phase = .loading ∨ (s.braid i).phase = .issuing ∧ (s.braid i).issued = []) :
    s.noticeArrives i = s.afterBraid i ({ s.braid i with notice := none }.stopNow st 6) := by
  have hover := Braid.issueOver_eq_false (h.imp_right And.left)
  rw [State.noticeArrives_eq hlive hst]
  rcases h with h | ⟨h, hiss⟩
  · rw [if_neg (by simp [h]), if_neg (by simp [h, hover]), if_neg (by simp [h])]
  · rw [if_neg (by simp [h]), if_neg (by simp [h, hover]), if_neg (by simp [hiss])]

/-- A cycle is in issue: the stop waits for its rest. -/
theorem State.noticeArrives_waits (h : (s.braid i).phase = .issuing) (hiss : (s.braid i).issued ≠ []) (hstop : (s.braid i).stop = none) :
    s.noticeArrives i = s.setBraid i { s.braid i with notice := none, stop := some { status := st, pc := (s.braid i).pc, clause := 6 } } := by
  have hover := Braid.issueOver_eq_false (.inr h)
  rw [State.noticeArrives_eq hlive hst, if_neg (by simp [h]), if_neg (by simp [h, hover]), if_pos (by simp [h, hiss]),
    if_neg (by simp [hstop])]

/-- Issue has ended: nothing stops. -/
theorem State.noticeArrives_of_issueOver (h : (s.braid i).issueOver = true) :
    s.noticeArrives i = s.setBraid i { s.braid i with notice := none } := by
  rw [State.noticeArrives_eq hlive hst, if_neg (by simp [h]), if_pos (by simp [h])]
end

/-- The count of a running token ends. -/
theorem State.timeoutExpiry_running {s : State} {e i : Nat} {t : Token} (htok : s.tok e = some t) (hup : s.schedUp = true)
    (hbraid : t.braid = some i) (hrun : t.st = .running) (hrem : t.remain ≠ 0) (hb : (s.braid i).tok = some e) :
    s.timeoutExpiry e = (s.modTok e (fun t => { t with remain := 0 })).sendNotice i Status.timeout := by
  have hrem : (t.remain != 0) = true := bne_iff_ne.2 hrem
  simp only [State.timeoutExpiry, htok, hbraid, hup, hrun, hrem, hb, beq_self_eq_true, Bool.and_self, if_true]

/-- Settles O38, one row of the table for each clause. -/
theorem tokensEnd : Obligations.TokensEnd := by
  intro s i e t hlive htok b
  refine ⟨?_, ?_, ?_, ?_, ?_, ?_⟩
  · exact fun hb hmay => congrArg Host.Outcome.next (State.tokenRetire_of_mayRetire hb htok hmay)
  · exact fun r hb hr => congrArg Host.Outcome.next (State.tokenFail_of_failure hlive hb hr)
  · exact fun st hst h => congrArg Host.Outcome.next (State.noticeArrives_stops hlive hst h)
  · exact fun st hst h hiss hstop => congrArg Host.Outcome.next (State.noticeArrives_waits hlive hst h hiss hstop)
  · exact fun st hst h => congrArg Host.Outcome.next (State.noticeArrives_of_issueOver hlive hst h)
  · exact fun hup hbraid hrun hrem hb => congrArg Host.Outcome.next (State.timeoutExpiry_running htok hup hbraid hrun hrem hb)

end Sys2Proof.Machine
end

section
/-! Dispatch leaves the splices as they are (O35): what is read, written, sent and closed on the way to a token's placing or refusal does not
name them. -/

namespace Sys2Proof.Machine

/-- A fold of operations that leave the splices leaves them. -/
@[simp] theorem foldl_splices {α : Type} (f : State → α → State) (h : ∀ s x, (f s x).splices = s.splices) (l : List α) (s : State) :
    (l.foldl f s).splices = s.splices := by
  induction l generalizing s with
  | nil => rfl
  | cons x l ih => rw [List.foldl_cons, ih, h]

/-- The same of a fold that carries other data beside the state. -/
theorem foldl_fst_splices {α β : Type} (f : State × β → α → State × β) (h : ∀ x a, (f x a).1.splices = x.1.splices) (l : List α)
    (x : State × β) : (l.foldl f x).1.splices = x.1.splices := by
  induction l generalizing x with
  | nil => rfl
  | cons a l ih => rw [List.foldl_cons, ih, h]

/-! ## Updates of one table, the log and the sources -/

@[simp] theorem State.free_splices (s : State) : s.free.2.splices = s.splices := rfl
@[simp] theorem State.modTen_splices (s : State) (n : Tid) (f : Ten → Ten) : (s.modTen n f).splices = s.splices := rfl
@[simp] theorem State.modMir_splices (s : State) (n : Tid) (f : Mirror → Mirror) : (s.modMir n f).splices = s.splices := rfl
@[simp] theorem State.modBraid_splices (s : State) (i : Nat) (f : Braid → Braid) : (s.modBraid i f).splices = s.splices := rfl
@[simp] theorem State.modTier_splices (s : State) (b h : Bool) (f : TierSt → TierSt) : (s.modTier b h f).splices = s.splices := rfl
@[simp] theorem State.modPager_splices (s : State) (h : Bool) (f : Pager → Pager) : (s.modPager h f).splices = s.splices := rfl
@[simp] theorem State.countMoved_splices (s : State) (h : Bool) (n : Nat) : (s.countMoved h n).splices = s.splices := rfl
@[simp] theorem State.noteReady_splices (s : State) : s.noteReady.splices = s.splices := rfl
@[simp] theorem State.charge_splices (s : State) (n : Tid) (bulk : Bool) : (s.charge n bulk).splices = s.splices := rfl
@[simp] theorem State.discharge_splices (s : State) (n : Tid) (bulk : Bool) : (s.discharge n bulk).splices = s.splices := rfl
@[simp] theorem State.toScrub_splices (s : State) (n : Tid) (id : Nat) : (s.toScrub n id).splices = s.splices := rfl
@[simp] theorem State.freeCtx_splices (s : State) (n : Tid) (id : Nat) : (s.freeCtx n id).splices = s.splices := rfl
@[simp] theorem State.tokWrote_splices (s : State) (e : Nat) (n : Tid) (gs : List Nat) : (s.tokWrote e n gs).splices = s.splices := rfl
@[simp] theorem State.addGroup_splices (s : State) (n : Tid) (h : Bool) (g : Gathered) : (s.addGroup n h g).splices = s.splices := rfl

@[simp] theorem State.bbxPush_splices (s : State) (x : BbxEntry) : (s.bbxPush x).splices = s.splices := by
  unfold State.bbxPush; (repeat' split) <;> rfl

@[simp] theorem State.clock_splices (s : State) (d u : Nat) : (s.clock d u).2.splices = s.splices := by
  unfold State.clock; split <;> rfl

@[simp] theorem State.log_splices (s : State) (d c u e : Nat) (st : Byte) (n : Option Tid) (a : List W64) :
    (s.log d c u e st n a).splices = s.splices := by
  simp [State.log]

@[simp] theorem State.raise_splices (s : State) (i : Nat) : (s.raise i).splices = s.splices := by
  unfold State.raise; split <;> rfl

@[simp] theorem State.corrected_splices (s : State) (d u c k : Nat) : (s.corrected d u c k).splices = s.splices := by
  simp [State.corrected, apply_ite State.splices]

/-! ## Reads of memory -/

@[simp] theorem State.poisonGran_splices (s : State) (n : Option Tid) (g : Nat) (page : Option Nat) (a : W64) :
    (s.poisonGran n g page a).splices = s.splices := by
  unfold State.poisonGran
  simp only [State.raise_splices, State.log_splices, State.modTier_splices]
  split
  · rfl
  · split <;> rfl

@[simp] theorem State.transferGran_splices (s : State) (n : Option Tid) (g : Nat) (page : Option Nat) (a : W64) (w : Bool) :
    (s.transferGran n g page a w).splices = s.splices := by
  simp [State.transferGran, apply_ite State.splices]

@[simp] theorem State.transfer_splices (s : State) (n : Tid) (tva : Nat) (w : Bool) : (s.transfer n tva w).splices = s.splices := by
  simp [State.transfer]

@[simp] theorem State.touchGranule_splices (s : State) (n : Tid) (g : Nat) : (s.touchGranule n g).splices = s.splices := by
  simp [State.touchGranule, State.poisonRead, apply_ite State.splices]

@[simp] theorem State.readMem_splices (s : State) (n : Tid) (tva len : Nat) : (s.readMem n tva len).1.splices = s.splices := by
  simp [State.readMem]

@[simp] theorem State.readItem_splices (s : State) (n : Tid) (tva len : Nat) : (s.readItem n tva len).1.splices = s.splices := by
  unfold State.readItem; (repeat' split) <;> simp

@[simp] theorem State.readHeader_splices (s : State) (n : Tid) (tva : Nat) : (s.readHeader n tva).1.splices = s.splices := by
  unfold State.readHeader; split <;> simp

@[simp] theorem State.readHeaders_splices (s : State) (t : Token) (slots : List Nat) : (s.readHeaders t slots).1.splices = s.splices :=
  foldl_fst_splices _ (fun _ _ => by simp) _ _

@[simp] theorem State.planFor_splices (s : State) (t : Token) (d : BitVec 512) (keys : List (BitVec 32)) (force : Option Byte) :
    (s.planFor t d keys force).1.splices = s.splices := by
  simp [State.planFor]

@[simp] theorem State.plan_splices (s : State) (t : Token) : (s.plan t).1.splices = s.splices := by
  unfold State.plan
  dsimp only
  split
  · simp
  · split <;> simp [apply_ite Prod.fst, apply_ite State.splices]

/-! ## Pages and writes of memory -/

@[simp] theorem State.finishBacking_splices (s : State) (b : Backing) : (s.finishBacking b).splices = s.splices := by
  unfold State.finishBacking; split <;> rfl

theorem State.takeFrame_splices {s : State} {bulk hawser : Bool} {u : FrameUse} {r : (Nat × Nat) × State}
    (h : s.takeFrame bulk hawser u = some r) : r.2.splices = s.splices := by
  unfold State.takeFrame at h
  split at h
  · cases h
  · dsimp only at h
    split at h
    · cases h
    · cases h; rfl

theorem State.placePage_splices {s : State} {n : Tid} {page : Nat} {bulk home : Bool} {r : (Bool × Nat × Nat) × State}
    (h : s.placePage n page bulk home = some r) : r.2.splices = s.splices := by
  unfold State.placePage at h
  split at h
  case h_1 x hx => cases h; exact State.takeFrame_splices hx
  case h_2 =>
    split at h
    case h_1 x hx => cases h; exact State.takeFrame_splices hx
    case h_2 => cases h

@[simp] theorem State.startBacking_splices (s : State) (n : Tid) (page : Nat) (hw bulk home : Bool) (cmd : Option Nat) :
    (s.startBacking n page hw bulk home cmd).splices = s.splices := by
  unfold State.startBacking
  dsimp only
  split
  case h_1 r hr => exact State.placePage_splices (s := s.charge n bulk) hr
  case h_2 => rfl

@[simp] theorem State.touchWrite_splices (s : State) (n : Tid) (page : Nat) (hw : Bool) : (s.touchWrite n page hw).1.splices = s.splices := by
  unfold State.touchWrite; dsimp only; (repeat' split) <;> simp

@[simp] theorem State.backNow_splices (s : State) (n : Tid) (page : Nat) (hw : Bool) : (s.backNow n page hw).splices = s.splices := by
  unfold State.backNow; dsimp only; (repeat' split) <;> simp

@[simp] theorem State.copyFrame_splices (s : State) (n : Tid) (page src dst : Nat) : (s.copyFrame n page src dst).splices = s.splices := by
  simp [State.copyFrame, apply_ite State.splices]

@[simp] theorem State.commitMig_splices (s : State) (n : Tid) (page : Nat) (m : Mig) : (s.commitMig n page m).splices = s.splices := by
  simp [State.commitMig, apply_ite State.splices]

@[simp] theorem State.dropMig_splices (s : State) (n : Tid) (page : Nat) : (s.dropMig n page).splices = s.splices := by
  simp [State.dropMig, apply_ite State.splices]

@[simp] theorem State.endMig_splices (s : State) (n : Tid) (page : Nat) (m : Mig) : (s.endMig n page m).splices = s.splices := by
  simp [State.endMig, State.abortMig, apply_ite State.splices]

@[simp] theorem State.flushEntry_splices (s : State) (e : WcEntry) : (s.flushEntry e).splices = s.splices := by
  unfold State.flushEntry
  split
  · simp only [apply_ite State.splices, State.transfer_splices, ite_self]
  · rfl

@[simp] theorem State.flushWhere_splices (s : State) (p : WcEntry → Bool) : (s.flushWhere p).splices = s.splices := by
  simp [State.flushWhere]

@[simp] theorem State.endBlocked_splices (s : State) (n : Tid) (page : Nat) : (s.endBlocked n page).splices = s.splices := by
  unfold State.endBlocked; dsimp only; (repeat' split) <;> simp

@[simp] theorem State.wcRoom_splices (s : State) (line : Nat) (n : Tid) : (s.wcRoom line n).splices = s.splices := by
  unfold State.wcRoom; dsimp only; (repeat' split) <;> simp

@[simp] theorem State.wcWrite_splices (s : State) (n : Tid) (f dev : Nat) (data : List Byte) : (s.wcWrite n f dev data).splices = s.splices := by
  induction f generalizing s dev data with
  | zero => rfl
  | succ f ih =>
    unfold State.wcWrite
    split
    · rfl
    · exact (ih _ _ _).trans (State.wcRoom_splices s _ n)

@[simp] theorem State.writeBacked_splices (s : State) (n : Tid) (tva : Nat) (data : List Byte) : (s.writeBacked n tva data).splices = s.splices := by
  simp [State.writeBacked, apply_ite State.splices]

@[simp] theorem State.writeOwn_splices (s : State) (n : Tid) (hw : Option Bool) (tva : Nat) (data : List Byte) :
    (s.writeOwn n hw tva data).splices = s.splices := by
  simp [State.writeOwn, apply_ite State.splices]

@[simp] theorem State.writeHeaders_splices (s : State) (t : Token) (hs : List (Nat × BitVec 512)) :
    (s.writeHeaders t hs).splices = s.splices := by
  simp [State.writeHeaders, apply_ite State.splices]

@[simp] theorem State.fenceTok_splices (s : State) (id : Nat) : (s.fenceTok id).splices = s.splices := by
  unfold State.fenceTok; split <;> simp [State.fence]

/-! ## The end of an entry -/

@[simp] theorem State.belCarry_splices (s : State) : s.belCarry.splices = s.splices := by
  unfold State.belCarry; split <;> simp

@[simp] theorem State.leaveUp_splices (s : State) (next : BitVec 3) : (s.leaveUp next).splices = s.splices := by
  unfold State.leaveUp
  simp only [State.raise_splices, State.log_splices, State.free_splices]
  exact foldl_splices _ (by intro _ _; rfl) _ _

@[simp] theorem State.sendOver_splices (s : State) (r : CommitRecord) : (s.sendOver r).1.splices = s.splices := by
  unfold State.sendOver State.sendItem; (repeat' split) <;> simp

@[simp] theorem State.sendUnsent_splices (s : State) (n : Tid) : (s.sendUnsent n).splices = s.splices := by
  simp [State.sendUnsent, apply_ite State.splices]

@[simp] theorem State.sendRecord_splices (s : State) (n : Tid) (r : CommitRecord) : (s.sendRecord n r).splices = s.splices := by
  simp [State.sendRecord, apply_ite State.splices]

@[simp] theorem State.finish_splices (s : State) (id : Nat) (c : Comp) : (s.finish id c).splices = s.splices := by
  unfold State.finish State.finishAt State.retire
  split
  · simp
  · simp [apply_ite State.splices]

/-! ## The end of a close -/

@[simp] theorem State.dropBacking_splices (s : State) (n : Tid) (page : Nat) : (s.dropBacking n page).splices = s.splices := by
  unfold State.dropBacking
  split
  · rfl
  · dsimp only; split <;> rfl

@[simp] theorem State.unmapPage_splices (s : State) (n : Tid) (page : Nat) : (s.unmapPage n page).splices = s.splices := by
  simp [State.unmapPage, State.freePage, apply_ite State.splices]

theorem State.wipeTen_splices (s : State) (n : Tid) : (s.wipeTen n).splices = s.splices := by
  unfold State.wipeTen
  rw [State.modTen_splices, foldl_splices, foldl_splices]
  · rfl
  · exact fun s k => State.unmapPage_splices s n k
  · intro s e; dsimp only; split <;> simp

@[simp] theorem State.closeStep_splices (s : State) (n : Tid) : (s.closeStep n).splices = s.splices := by
  unfold State.closeStep; split <;> simp [State.wipeTen_splices, apply_ite State.splices]

/-! ## A token placed or refused -/

@[simp] theorem State.refuse_splices (s : State) (t : Token) (p : Plan) (st : Byte) : (s.refuse t p st).splices = s.splices := by
  simp [State.refuse, apply_ite State.splices]

@[simp] theorem State.withdrawFor_splices (s : State) (e : Nat) : (s.withdrawFor e).splices = s.splices :=
  foldl_splices _ (by intro _ _; rfl) _ _

@[simp] theorem State.dispatch_splices (s : State) (t : Token) (i : Nat) (gs : List KeySig) (srcs dests : List (Nat × BitVec 512))
    (flagged : Bool) : (s.dispatch t i gs srcs dests flagged).splices = s.splices :=
  State.withdrawFor_splices _ _

@[simp] theorem State.takeMembers_splices (s : State) (h : Bool) (lead : Nat) (ts : List Token) (ms : List KeyTok) :
    (s.takeMembers h lead ts ms).1.splices = s.splices := by
  induction ts generalizing s ms with
  | nil => rfl
  | cons t ts ih => unfold State.takeMembers; dsimp only; (repeat' split) <;> simp [ih]

@[simp] theorem State.formGroups_splices (s : State) (n : Tid) (h : Bool) (ts : List KeyTok) : (s.formGroups n h ts).splices = s.splices :=
  foldl_splices _ (by intro _ _; rfl) _ _

@[simp] theorem State.joinGroups_splices (s : State) (n : Tid) (h : Bool) (others : List Token) (ms : List KeyTok) :
    (s.joinGroups n h others ms).splices = s.splices := by
  unfold State.joinGroups
  split
  · rfl
  · exact (State.formGroups_splices _ _ _ _).trans (State.takeMembers_splices s h _ _ ms)

end Sys2Proof.Machine
end

section
/-! Tokens and their placing (O35). -/

namespace Sys2Proof.Machine

/-! ## KERNEL commands (R322, R323) -/

@[simp] theorem State.makeTokens_pool_length (s : State) (x : Fetched) (rs : List (List Byte)) :
    (s.makeTokens x rs).sch.pool.length = s.sch.pool.length + rs.length := by
  simp [State.makeTokens, State.noteReady, State.setPool]

section
variable {s : State} {c : Nat} {x : Fetched} (hup : s.schedUp = true) (hdue : s.kernelDue c = some x)
include hup hdue

/-- A KERNEL that passes the common checks, and whose sets are readable and clean, becomes its tokens. -/
theorem State.kernelCmd_makes (hchk : s.cmdCheck x.fn x.cmd x.badDep s.sch.nextId = none)
    {t : Token} (ht : t = entryOf 0 x.cmdId x.fn x.ring (s.sq x.fn x.ring) x.cmd (x.deps, x.badDep))
    (htvas : t.kTvas = true) (hpages : s.kernelPages t = true) {bs : List Byte}
    (hread : (s.readItem t.ten t.kSets (128 * kernelSets x.cmd)).2 = .ok bs) (hclean : ∀ y ∈ opSets x.cmd bs, setClean y = true) :
    s.kernelCmd c = (s.readItem t.ten t.kSets (128 * kernelSets x.cmd)).1.makeTokens x (opSets x.cmd bs) := by
  subst ht
  simp only [State.kernelCmd, hdue, hup, hchk, htvas, hpages, hread, List.all_eq_true.2 hclean, Bool.not_true, Bool.false_eq_true, if_false,
    if_true]

/-- A KERNEL that fails a common check, other than on a dependency that has failed, is refused whole. -/
theorem State.kernelCmd_refuses {d : Nat} (hchk : s.cmdCheck x.fn x.cmd x.badDep s.sch.nextId = some d) (hdep : x.badDep.toNat ≠ d) :
    s.kernelCmd c = s.refuseKernel x Status.aborted d (fun s _ => s) := by
  simp only [State.kernelCmd, hdue, hup, hchk, hdep, Bool.not_true, Bool.false_eq_true, if_false]
end

theorem kernelsBecomeTokens : Says.KernelsBecomeTokens := by
  intro s c x hup hdue t r
  refine ⟨fun bs hchk htvas hpages hread hclean => ⟨?_, State.makeTokens_pool_length _ _ _⟩, fun d hchk hdep => ?_⟩
  · exact congrArg Host.Outcome.next (State.kernelCmd_makes hup hdue hchk rfl htvas hpages hread hclean)
  · exact congrArg Host.Outcome.next (State.kernelCmd_refuses hup hdue hchk hdep)

/-! ## The braid that R42 chooses -/

/-- `cs` are the braids of `bs` that stand highest by `f`. -/
structure Favours (f : Nat → Nat) (bs cs : List Nat) : Prop where
  sublist : cs.Sublist bs
  ne_nil  : bs ≠ [] → cs ≠ []
  best    : ∀ i ∈ cs, ∀ j ∈ bs, f j ≤ f i ∧ (f j = f i → j ∈ cs)

theorem Favours.all (bs : List Nat) : Favours (fun _ => 0) bs bs := ⟨.refl _, id, fun _ _ _ hj => ⟨le_rfl, fun _ => hj⟩⟩

/-- A further criterion decides among those that stand equal before it. -/
theorem Favours.prefer {f : Nat → Nat} {bs cs : List Nat} (h : Favours f bs cs) (p : Nat → Bool) :
    Favours (fun i => 2 * f i + (p i).toNat) bs (prefer p cs) := by
  unfold Machine.prefer
  split
  case isTrue hany =>
    obtain ⟨k, hk, hpk⟩ := List.any_eq_true.1 hany
    refine ⟨List.filter_sublist.trans h.sublist, fun _ => List.ne_nil_of_mem (List.mem_filter.2 ⟨hk, hpk⟩), fun i hi j hj => ?_⟩
    obtain ⟨hic, hpi⟩ := List.mem_filter.1 hi
    obtain ⟨hle, heq⟩ := h.best i hic j hj
    have hpj := Bool.toNat_le (p j)
    simp only [hpi, Bool.toNat_true]
    refine ⟨by omega, fun he => List.mem_filter.2 ⟨heq (by omega), ?_⟩⟩
    exact Bool.toNat_eq_one.1 (by omega)
  case isFalse hany =>
    have hnone : ∀ k ∈ cs, (p k).toNat = 0 := fun k hk =>
      Bool.toNat_eq_zero.2 (Bool.eq_false_iff.2 fun hpk => hany (List.any_eq_true.2 ⟨k, hk, hpk⟩))
    refine ⟨h.sublist, h.ne_nil, fun i hi j hj => ?_⟩
    obtain ⟨hle, heq⟩ := h.best i hi j hj
    have hpj := Bool.toNat_le (p j)
    have hpi := hnone i hi
    by_cases he : f j = f i
    · have hpj := hnone j (heq he)
      exact ⟨by omega, fun _ => heq he⟩
    · exact ⟨by omega, fun h2 => absurd h2 (by omega)⟩

/-- The first of them, in a rising list, stands highest, and of those equal to it has the lowest number. -/
theorem Favours.head {f : Nat → Nat} {bs cs : List Nat} {i : Nat} (h : Favours f bs cs) (hbs : bs.Pairwise (· < ·)) (hi : cs.head? = some i) :
    i ∈ bs ∧ ∀ j ∈ bs, f j ≤ f i ∧ (f j = f i → i ≤ j) := by
  obtain ⟨l, rfl⟩ := List.head?_eq_some_iff.1 hi
  have hmem : i ∈ i :: l := List.mem_cons_self
  refine ⟨h.sublist.subset hmem, fun j hj => ?_⟩
  obtain ⟨hle, heq⟩ := h.best i hmem j hj
  refine ⟨hle, fun he => ?_⟩
  rcases List.mem_cons.1 (heq he) with rfl | hjl
  · exact le_rfl
  · exact le_of_lt (List.rel_of_pairwise_cons (hbs.sublist h.sublist) hjl)

/-- The braid lies on the hawser that a home names. -/
def nearHome (h : Option Bool) (j : Nat) : Bool := match h with | some h => braidHawser j == h | none => false

theorem nearHome_none : nearHome none = fun _ => false := rfl
theorem nearHome_some (h : Bool) : nearHome (some h) = fun j => braidHawser j == h := rfl

theorem prefer_false (bs : List Nat) : prefer (fun _ => false) bs = bs := by simp [prefer]

/-- R42's criteria one after the other, each a preference. -/
theorem State.chooseBraid_eq (s : State) (t : Token) (gs : List KeySig) (hs : List (Nat × BitVec 512)) (bs : List Nat) :
    s.chooseBraid t gs hs bs = (prefer (fun j => (s.braid j).ten == some t.ten) (prefer (nearHome (s.operandHome t.ten hs))
      (prefer (fun j => !gs.isEmpty && nearHome (t.keyHome.getD none) j)
        (prefer (fun j => !gs.isEmpty && (s.braid j).holdsKey t.ten gs) bs)))).head? := by
  unfold State.chooseBraid
  cases s.operandHome t.ten hs <;> cases t.keyHome.getD none <;> cases gs.isEmpty <;> simp [nearHome_none, nearHome_some, prefer_false]

/-- How a braid stands by the criteria of R42. -/
def State.braidScore (s : State) (t : Token) (gs : List KeySig) (hs : List (Nat × BitVec 512)) (j : Nat) : Nat :=
  8 * (!gs.isEmpty && (s.braid j).holdsKey t.ten gs).toNat + 4 * (!gs.isEmpty && nearHome (t.keyHome.getD none) j).toNat +
    2 * (nearHome (s.operandHome t.ten hs) j).toNat + ((s.braid j).ten == some t.ten).toNat

/-- The candidates left by the criteria of R42 are the braids of the highest score. -/
theorem State.favours_braidScore (s : State) (t : Token) (gs : List KeySig) (hs : List (Nat × BitVec 512)) (bs : List Nat) :
    ∃ cs, Favours (s.braidScore t gs hs) bs cs ∧ s.chooseBraid t gs hs bs = cs.head? := by
  refine ⟨_, ?_, s.chooseBraid_eq t gs hs bs⟩
  have h := ((((Favours.all bs).prefer fun j => !gs.isEmpty && (s.braid j).holdsKey t.ten gs).prefer fun j =>
    !gs.isEmpty && nearHome (t.keyHome.getD none) j).prefer (nearHome (s.operandHome t.ten hs))).prefer fun j => (s.braid j).ten == some t.ten
  refine cast (congrArg (fun f => Favours f bs _) (funext fun j => ?_)) h
  simp only [State.braidScore]
  omega

theorem State.chooseBraid_best {s : State} {t : Token} {gs : List KeySig} {hs : List (Nat × BitVec 512)} {bs : List Nat} {i : Nat}
    (hbs : bs.Pairwise (· < ·)) (hi : s.chooseBraid t gs hs bs = some i) :
    i ∈ bs ∧ ∀ j ∈ bs, s.braidScore t gs hs j ≤ s.braidScore t gs hs i ∧ (s.braidScore t gs hs j = s.braidScore t gs hs i → i ≤ j) := by
  obtain ⟨cs, hcs, heq⟩ := s.favours_braidScore t gs hs bs
  exact hcs.head hbs (heq ▸ hi)

theorem State.chooseBraid_mem {s : State} {t : Token} {gs : List KeySig} {hs : List (Nat × BitVec 512)} {bs : List Nat} {i : Nat}
    (hi : s.chooseBraid t gs hs bs = some i) : i ∈ bs := by
  obtain ⟨cs, hcs, heq⟩ := s.favours_braidScore t gs hs bs
  exact hcs.sublist.subset (List.mem_of_head? (heq ▸ hi))

theorem State.eq_nil_of_chooseBraid {s : State} {t : Token} {gs : List KeySig} {hs : List (Nat × BitVec 512)} {bs : List Nat}
    (h : s.chooseBraid t gs hs bs = none) : bs = [] := by
  obtain ⟨cs, hcs, heq⟩ := s.favours_braidScore t gs hs bs
  by_contra hne
  exact hcs.ne_nil hne (List.head?_eq_none_iff.1 (heq ▸ h))

/-! ## Free braids, and the braids of ranks -/

theorem State.freeBraids_pairwise (s : State) (n : Tid) (safe : Bool) : (s.freeBraids n safe).Pairwise (· < ·) :=
  List.pairwise_lt_range.filter _

theorem State.mem_freeBraids {s : State} {n : Tid} {safe : Bool} {i : Nat} : i ∈ s.freeBraids n safe ↔
    i < 64 ∧ s.cap.braids.getLsbD i = true ∧ s.rdy.braids.getLsbD i = true ∧ (s.braid i).phase = .idle ∧
      (s.braid i).tok = none ∧ (s.braid i).pllUp = true ∧ (s.braid i).held = false ∧ (s.braid i).linkDown = false ∧
      s.bist.infield ≠ some (BitVec.ofNat 6 i) ∧ (s.ten n).braids.getLsbD i = true ∧ (s.cap.fold.getLsbD i = true → safe = true) := by
  have hfold : (!s.cap.fold.getLsbD i || safe) = true ↔ (s.cap.fold.getLsbD i = true → safe = true) := by
    cases s.cap.fold.getLsbD i <;> simp
  simp only [State.freeBraids, State.braidFree, State.permits, bit, List.mem_filter, List.mem_range, Bool.and_eq_true, beq_iff_eq, bne_iff_ne,
    Option.isNone_iff_eq_none, Bool.not_eq_true', hfold, and_assoc]

/-- The ranks' braids are all different, of those offered, and each permitted to its rank. -/
theorem State.rankBraids_spec {s : State} {ts : List Token} {bs out : List Nat} (h : s.rankBraids ts bs = some out) (hbs : bs.Nodup) :
    out.length = ts.length ∧ out.Nodup ∧ (∀ i ∈ out, i ∈ bs) ∧
      ∀ x ∈ ts.zip out, s.permits x.1.ten (kFoldSafe (s.peekDesc x.1)) x.2 = true := by
  induction ts generalizing bs out with
  | nil => cases h; simp
  | cons t ts ih =>
    rw [State.rankBraids] at h
    split at h
    case h_1 => cases h
    case h_2 i hi =>
      obtain ⟨rest, hrest, rfl⟩ := Option.map_eq_some_iff.1 h
      obtain ⟨hlen, hnodup, hmem, hperm⟩ := ih hrest (hbs.filter _)
      obtain ⟨hibs, hip⟩ := List.mem_filter.1 (State.chooseBraid_mem hi)
      have hother : ∀ j ∈ rest, j ∈ bs ∧ j ≠ i := fun j hj => by simpa using List.mem_filter.1 (hmem j hj)
      refine ⟨by simp [hlen], List.nodup_cons.2 ⟨fun hi => (hother i hi).2 rfl, hnodup⟩, ?_, ?_⟩
      · exact List.forall_mem_cons.2 ⟨hibs, fun j hj => (hother j hj).1⟩
      · rw [List.zip_cons_cons]
        exact List.forall_mem_cons.2 ⟨hip, hperm⟩

/-! ## A decision (R325–R327) -/

section
variable {s : State} (hup : s.schedUp = true) (hpend : s.lcs.pending = none)
include hup hpend

theorem exec_dispatchDecision : exec .dispatchDecision s = .next (State.decideFrom [7, 6, 5, 4, 3, 2, 1, 0] s.wakeSaved) := by
  show Host.Outcome.next (if s.schedUp && s.lcs.pending.isNone then _ else s) = _
  rw [hup, hpend]
  rfl
end

/-- Without a candidate every priority takes its 256 free values and no token. -/
theorem State.decideFrom_of_no_candidates {s : State} (h : s.candidates = []) (ps : List Nat) :
    State.decideFrom ps s = { s with draws := s.draws + 256 * ps.length } := by
  induction ps generalizing s with
  | nil => rfl
  | cons p ps ih =>
    have hnone : s.decideAt p = ({ s with draws := s.draws + 256 }, false) := by simp [State.decideAt, h, sortBy, State.considerAll]
    have hrest := ih (s := { s with draws := s.draws + 256 }) h
    rw [State.decideFrom, hnone]
    simp only [Bool.false_eq_true, if_false, hrest, List.length_cons, Nat.mul_succ, Nat.add_assoc, Nat.add_comm]

theorem insertBy_perm {α : Type} (lt : α → α → Bool) (x : α) (l : List α) : (insertBy lt x l).Perm (x :: l) := by
  induction l with
  | nil => exact .refl _
  | cons y l ih =>
    rw [insertBy]
    split
    · exact .refl _
    · exact (ih.cons y).trans (.swap x y l)

/-- No token is lost or made by the order of R325. -/
theorem sortBy_perm {α : Type} (lt : α → α → Bool) (l : List α) : (sortBy lt l).Perm l := by
  have hfold : ∀ (l acc : List α), (l.foldl (fun l x => insertBy lt x l) acc).Perm (l ++ acc) := by
    intro l
    induction l with
    | nil => exact fun _ => .refl _
    | cons x l ih => exact fun acc => (ih _).trans (((insertBy_perm lt x acc).append_left l).trans List.perm_middle)
  simpa [sortBy] using hfold l []

/-- A decision whose candidates are all of one tenancy, of priority 7, ends with the first of them in its order where that one is taken. -/
theorem exec_dispatchDecision_takes {s : State} {n : Tid} {c c' : List Token} {t : Token} {u : State} (hup : s.schedUp = true)
    (hpend : s.lcs.pending = none) (hcand : s.wakeSaved.candidates = c) (hten : ∀ u ∈ c, u.ten = n) (hprio : (s.ten n).prio = 7)
    {g d : State} (hg : g = s.wakeSaved.modTen n (fun x => { x with deficit := x.deficit + x.weight.toNat }))
    (hd : d = { g with draws := g.draws + 256 }) (hsort : sortBy g.before c = t :: c') (htake : d.consider t (t :: c') = (u, true)) :
    exec .dispatchDecision s = .next u := by
  have hne : c.length ≠ 0 := by
    rintro h0
    rw [List.length_eq_zero_iff.1 h0] at hsort
    cases hsort
  have hmine : s.wakeSaved.candidates.filter (fun t => (s.wakeSaved.ten t.ten).prio.toNat == 7) = c := by
    rw [hcand]
    refine List.filter_eq_self.2 fun v hv => ?_
    have : s.wakeSaved.ten v.ten = s.ten n := by rw [hten v hv]; rfl
    rw [this, hprio]; rfl
  have htens : (c.map (·.ten)).dedup = [n] := by
    rw [List.map_eq_replicate_iff.2 hten, List.replicate_dedup hne]
  have hat : s.wakeSaved.decideAt 7 = (u, true) := by
    rw [State.decideAt, hmine, htens]
    simp only [List.foldl_cons, List.foldl_nil, ← hg, hsort]
    rw [State.considerAll, ← hd, htake]
    rfl
  rw [exec_dispatchDecision hup hpend, State.decideFrom, hat]
  rfl

/-! ## One token of a decision -/

section
variable {s : State} {t : Token} {c : List Token}

theorem State.consider_failsSaved (hctx : t.ctx ≠ none) (hfold : s.imageFold t = false) (hall : s.allFold t.ten = true) :
    s.consider t c = (s.failSaved t Status.foldUnsafe, true) := by
  simp [State.consider, Option.isSome_iff_ne_none.2 hctx, hfold, hall]

theorem State.consider_placesSaved {i : Nat} (hctx : t.ctx ≠ none) (hfold : s.imageFold t = true ∨ s.allFold t.ten = false)
    (hi : s.chooseBraid t (s.tokSigs t) (t.srcs ++ t.dests) (s.freeBraids t.ten (s.imageFold t)) = some i) :
    s.consider t c = (s.placeSaved t i, true) := by
  have hno : (!s.imageFold t && s.allFold t.ten) = false := by rcases hfold with h | h <;> simp [h]
  simp only [State.consider, Option.isSome_iff_ne_none.2 hctx, hno, hi, if_true, Bool.false_eq_true, if_false]

theorem State.consider_dispatchesRanks {ts : List Token} {bs : List Nat} (hctx : t.ctx = none) (hrank : s.isRank t = true)
    (hok : s.rankOk t = true) (hready : s.ranksReady t.kSplice t.ten c = some ts) (hbs : s.rankBraids ts (s.freeBraids t.ten true) = some bs) :
    s.consider t c = (s.dispatchRanks t.kSplice ts bs c, true) := by
  simp [State.consider, hctx, hrank, hok, hready, hbs]

theorem State.consider_places {i : Nat} (hctx : t.ctx = none) (hrank : s.isRank t = false)
    (hgood : Status.good ((s.plan t).1.tokStatus t (s.plan t).2) = true)
    (hi : (s.plan t).1.chooseBraid t ((s.plan t).1.sigs t (s.plan t).2.desc (s.plan t).2.srcs) ((s.plan t).2.srcs ++ (s.plan t).2.dests)
      ((s.plan t).1.freeBraids t.ten (kFoldSafe (s.plan t).2.desc)) = some i) :
    s.consider t c = ((s.plan t).1.place t (s.plan t).2 ((s.plan t).1.tokStatus t (s.plan t).2) i c, true) := by
  simp [State.consider, hctx, hrank, hgood, hi]

theorem State.consider_refuses (hctx : t.ctx = none) (hrank : s.isRank t = false)
    (hbad : Status.good ((s.plan t).1.tokStatus t (s.plan t).2) = false) :
    s.consider t c = ((s.plan t).1.refuse t (s.plan t).2 ((s.plan t).1.tokStatus t (s.plan t).2), true) := by
  simp [State.consider, hctx, hrank, hbad]
end

theorem decisionPlacesAToken : Says.DecisionPlacesAToken := by
  constructor
  · intro s hup hpend hcand
    rw [exec_dispatchDecision hup hpend, State.decideFrom_of_no_candidates hcand]
    rfl
  · intro s t i hup hpend hcand hprio g d p st hctx hrank
    have htakes := fun u => exec_dispatchDecision_takes (u := u) hup hpend hcand (by simp) hprio (g := g) rfl (d := d) rfl
      (c' := []) (t := t) rfl
    exact ⟨fun hgood hi => htakes _ (State.consider_places hctx hrank hgood hi), fun hbad => htakes _ (State.consider_refuses hctx hrank hbad)⟩

/-! ## A saved token on its braid -/

theorem State.braid_modBraid {s : State} (h : Sparse.wf Braid.init s.braids = true) (i j : Nat) (f : Braid → Braid) :
    (s.modBraid j f).braid i = if i = j then f (s.braid i) else s.braid i := by
  split
  case isTrue he => subst he; exact Sparse.get_set_self h _ _
  case isFalse hne => exact Sparse.get_set_ne h _ hne

/-- A withdrawal changes nothing of a braid but the token that asks for it. -/
theorem State.withdrawFor_braid {s : State} (h : Sparse.wf Braid.init s.braids = true) (e i : Nat) :
    ∃ q, (s.withdrawFor e).braid i = { s.braid i with preempt := q } := by
  unfold State.withdrawFor
  generalize s.braids.filter _ = l
  induction l generalizing s with
  | nil => exact ⟨_, rfl⟩
  | cons b l ih =>
    obtain ⟨q, hq⟩ := ih (s := s.modBraid b.1 (fun b => { b with preempt := none })) (Sparse.set_wf h _ _)
    rw [List.foldl_cons, hq, State.braid_modBraid h]
    split <;> exact ⟨q, rfl⟩

/-- The braid that a dispatch puts back, once the token's own request is withdrawn. -/
theorem State.braid_of_dispatched {s : State} (h : Sparse.wf Braid.init s.braids = true) (i e n : Nat) (b : Braid) (f : Token → Token)
    (m : Tid) (g : Ten → Ten) :
    ∃ q, ((((s.setBraid i b).modTok e f).withdrawFor n).modTen m g).braid i = { b with preempt := q } := by
  obtain ⟨q, hq⟩ := State.withdrawFor_braid (s := (s.setBraid i b).modTok e f) (Sparse.set_wf h _ _) n i
  have hb : ((s.setBraid i b).modTok e f).braid i = b := Sparse.get_set_self h i b
  rw [hb] at hq
  exact ⟨q, hq⟩

/-- A saved token placed on a braid is its token, to be restored once the scratchpads are wiped. -/
theorem State.placeSaved_braid {s : State} (h : Sparse.wf Braid.init s.braids = true) {t : Token} (hctx : t.ctx ≠ none) (i : Nat) :
    ((s.placeSaved t i).braid i).tok = some t.id ∧ ((s.placeSaved t i).braid i).restore = true ∧
      ((s.placeSaved t i).braid i).phase = .wiping := by
  have hsome := Option.isSome_iff_ne_none.2 hctx
  obtain ⟨q, hq⟩ : ∃ q, (s.placeSaved t i).braid i = _ := State.braid_of_dispatched h i _ _ _ _ _ _
  rw [hq]
  refine ⟨rfl, hsome, ?_⟩
  simp [hsome]

/-! ## The ranks of a splice (R290) -/

theorem foldl_plan_splices (ts : List Token) (r : State × List (Token × Plan)) :
    (ts.foldl (fun (r : State × List (Token × Plan)) t => ((r.1.plan t).1, r.2 ++ [(t, (r.1.plan t).2)])) r).1.splices = r.1.splices :=
  foldl_fst_splices _ (by intro r t; exact State.plan_splices r.1 t) ts r

theorem State.splice_modSplice {s : State} (h : Sparse.wf Splice.init s.splices = true) (k : Nat) (f : Splice → Splice) :
    (s.modSplice k f).splice k = f (s.splice k) := Sparse.get_set_self h _ _

theorem State.splice_of_splices {s u : State} (h : u.splices = s.splices) (k : Nat) : u.splice k = s.splice k := by
  rw [State.splice, h, State.splice]

/-- The ranks of a splice are dispatched together, or the splice fails. -/
theorem State.dispatchRanks_splice {s : State} (h : Sparse.wf Splice.init s.splices = true) (k : Nat) {ts : List Token} {bs : List Nat}
    (others : List Token) (hlen : bs.length = ts.length) :
    (((s.dispatchRanks k ts bs others).splice k).st = .running ∧
      ((s.dispatchRanks k ts bs others).splice k).ranks = (ts.zip bs).map (fun y => (y.1.rank.toNat, y.1.id, y.2))) ∨
    ((s.dispatchRanks k ts bs others).splice k).st = .failed := by
  unfold State.dispatchRanks
  dsimp only
  have hplan := foldl_plan_splices ts (s, [])
  generalize List.foldl _ (s, []) ts = r at hplan ⊢
  have hwf : Sparse.wf Splice.init r.1.splices = true := hplan ▸ h
  split
  case h_1 f _ =>
    refine .inr ?_
    rw [State.splice_of_splices (foldl_splices _ (by intro u x; exact State.refuse_splices _ _ _ _) _ _),
      State.splice_modSplice hwf]
  case h_2 =>
    refine .inl ?_
    rw [if_neg (by omega)]
    rw [State.splice_of_splices (foldl_splices _ (by intro u x; exact State.joinGroups_splices _ _ _ _ _) _ _), State.splice_modSplice]
    · exact ⟨rfl, rfl⟩
    · rw [foldl_splices]
      · exact hwf
      · intro u x; exact State.dispatch_splices _ _ _ _ _ _ _

theorem braidsAreChosen : Says.BraidsAreChosen := by
  refine ⟨?_, ?_, ?_, ?_, ?_, ?_⟩
  · intro s t gs hs bs i hbs hi key near one score
    have hscore : score = s.braidScore t gs hs := by
      funext j
      simp only [score, one, State.braidScore, Bool.toNat, cond_eq_ite]
      rfl
    rw [hscore]
    exact State.chooseBraid_best hbs hi
  · exact fun s t gs hs bs h => State.eq_nil_of_chooseBraid h
  · exact fun s n safe => ⟨s.freeBraids_pairwise n safe, fun i => State.mem_freeBraids⟩
  · exact fun s ts bs out hbs h => State.rankBraids_spec h hbs
  · intro s c c' t n hup hpend hcand hten hprio g d hsort
    have htakes := fun u => exec_dispatchDecision_takes (u := u) hup hpend hcand hten hprio (g := g) rfl (d := d) rfl hsort
    have htn : t.ten = n := hten t ((sortBy_perm g.before c).mem_iff.1 (hsort ▸ List.mem_cons_self))
    subst htn
    refine ⟨?_, ?_, ?_⟩
    · exact fun hctx hrank hok ts bs hready hbs => htakes _ (State.consider_dispatchesRanks hctx hrank hok hready hbs)
    · intro hctx hfold i hi
      refine ⟨htakes _ (State.consider_placesSaved hctx hfold hi), fun hok => ?_⟩
      obtain ⟨-, -, hbraids, -⟩ := State.wf_of_tablesOk hok
      exact State.placeSaved_braid (s := d) hbraids hctx i
    · exact fun hctx hfold hall => htakes _ (State.consider_failsSaved hctx hfold hall)
  · intro s k ts bs others hok _ hlen u
    obtain ⟨-, -, -, hsplices, -⟩ := State.wf_of_tablesOk hok
    exact State.dispatchRanks_splice hsplices k others hlen

/-- Settles O35: each criterion of R42 is a preference that keeps the braids standing highest so far (`Favours.prefer`), and what follows the
running of a splice leaves it as it is (`State.joinGroups_splices`). -/
theorem tokensArePlaced : Obligations.TokensArePlaced := ⟨kernelsBecomeTokens, decisionPlacesAToken, braidsAreChosen⟩

end Sys2Proof.Machine
end

section
/-! Residue arithmetic is exact (O5). -/

namespace Sys2Proof.Arith

/-! ## The reduction of R53 -/

theorem bitlen_eq_size (q : Nat) : bitlen q = Nat.size q := by
  unfold bitlen
  split
  case isTrue h => rw [h, Nat.size_zero]
  case isFalse h =>
    refine le_antisymm ?_ (Nat.size_le.2 Nat.lt_log2_self)
    exact Nat.succ_le_of_lt (Nat.lt_size.2 (Nat.log2_self_le h))

/-! R54, with `a` = 2^(k−1) and `b` = 2^(k+1), so that `a * b` = 2^(2k): the estimate of ⌊x / q⌋ is at most ⌊x / q⌋ and falls short of it
by at most 2. -/

theorem quotientEstimate_mul_le {a b : Nat} (ha : 0 < a) (hb : 0 < b) (q x : Nat) : x / a * (a * b / q) / b * q ≤ x := by
  have ht : x / a * a ≤ x := Nat.div_mul_le_self x a
  have hm : a * b / q * q ≤ a * b := Nat.div_mul_le_self _ q
  have hh : x / a * (a * b / q) / b * b ≤ x / a * (a * b / q) := Nat.div_mul_le_self _ b
  generalize x / a = t at *
  generalize a * b / q = m at *
  generalize t * m / b = h at *
  refine Nat.le_of_mul_le_mul_right ?_ (Nat.mul_pos ha hb)
  calc h * q * (a * b) = h * b * (a * q) := by ring
    _ ≤ t * m * (a * q) := Nat.mul_le_mul_right _ hh
    _ = t * a * (m * q) := by ring
    _ ≤ x * (a * b) := Nat.mul_le_mul ht hm

theorem lt_quotientEstimate_add_three_mul {a b q x : Nat} (ha : 0 < a) (hb : 0 < b) (haq : a ≤ q) (hx : x < a * b) :
    x < (x / a * (a * b / q) / b + 3) * q := by
  have ht : x < x / a * a + a := Nat.lt_div_mul_add ha
  have hta : x / a * a ≤ x := Nat.div_mul_le_self x a
  have hm : a * b < a * b / q * q + q := Nat.lt_div_mul_add (ha.trans_le haq)
  have hh : x / a * (a * b / q) < x / a * (a * b / q) / b * b + b := Nat.lt_div_mul_add hb
  generalize x / a = t at *
  generalize a * b / q = m at *
  generalize t * m / b = h at *
  refine Nat.lt_of_mul_lt_mul_right (a := a * b) ?_
  calc x * (a * b) ≤ (t * a + a) * (a * b) := Nat.mul_le_mul_right _ ht.le
    _ = t * a * (a * b) + a * (a * b) := by ring
    _ ≤ t * a * (m * q + q) + q * (a * b) := Nat.add_le_add (Nat.mul_le_mul_left _ hm.le) (Nat.mul_le_mul_right _ haq)
    _ = t * m * (a * q) + t * a * q + q * (a * b) := by ring
    _ < (h * b + b) * (a * q) + a * b * q + q * (a * b) := by
      have haq0 : 0 < a * q := Nat.mul_pos ha (ha.trans_le haq)
      exact Nat.add_lt_add_right (Nat.add_lt_add_of_lt_of_le (Nat.mul_lt_mul_of_pos_right hh haq0)
        (Nat.mul_le_mul_right _ (hta.trans hx.le))) _
    _ = (h + 3) * q * (a * b) := by ring

/-- The two corrections of R53 bring a number below 3q to its residue. -/
theorem correctTwice_eq_mod {q r : Nat} (h : r < 3 * q) :
    (let r' := if q ≤ r then r - q else r
     if q ≤ r' then r' - q else r') = r % q := by
  dsimp only
  split
  case isFalse => rw [Nat.mod_eq_of_lt (by omega)]
  case isTrue h1 =>
    rw [Nat.mod_eq_sub_mod h1]
    split
    case isFalse => rw [Nat.mod_eq_of_lt (by omega)]
    case isTrue h2 => rw [Nat.mod_eq_sub_mod h2, Nat.mod_eq_of_lt (by omega)]

theorem barrett_eq_mod {q x : Nat} (hq : 0 < q) (hx : x < 2 ^ (2 * Nat.size q)) : barrett q x = x % q := by
  obtain ⟨k, hk⟩ : ∃ k, Nat.size q = k + 1 := Nat.exists_eq_succ_of_ne_zero (Nat.size_pos.2 hq).ne'
  have hpow : 2 ^ (2 * (k + 1)) = 2 ^ k * 2 ^ (k + 1 + 1) := by rw [← pow_add]; congr 1; omega
  have hkq : 2 ^ k ≤ q := Nat.lt_size.1 (by omega)
  rw [hk, hpow] at hx
  have hle := quotientEstimate_mul_le (Nat.two_pow_pos k) (Nat.two_pow_pos (k + 1 + 1)) q x
  have hlt := lt_quotientEstimate_add_three_mul (Nat.two_pow_pos k) (Nat.two_pow_pos (k + 1 + 1)) hkq hx
  simp only [barrett, mu, bitlen_eq_size, hk, Nat.add_sub_cancel, hpow, Nat.mod_eq_of_lt hx]
  generalize x / 2 ^ k * (2 ^ k * 2 ^ (k + 1 + 1) / q) / 2 ^ (k + 1 + 1) = h at hle hlt ⊢
  have hr : x - h * q < 3 * q := by rw [add_mul] at hlt; omega
  rw [correctTwice_eq_mod hr, mul_comm h q, Nat.sub_mul_mod (mul_comm h q ▸ hle)]

/-! ## The lanes of R55 and R56 -/

theorem mul_add_lt_of_lt {k a b c : Nat} (ha : a < 2 ^ k) (hb : b < 2 ^ k) (hc : c < 2 ^ k) : a * b + c < 2 ^ (2 * k) := by
  calc a * b + c < a * 2 ^ k + 2 ^ k := Nat.add_lt_add_of_le_of_lt (Nat.mul_le_mul_left a hb.le) hc
    _ = (a + 1) * 2 ^ k := by ring
    _ ≤ 2 ^ k * 2 ^ k := Nat.mul_le_mul_right _ ha
    _ = 2 ^ (2 * k) := by rw [two_mul, pow_add]

theorem addL_eq_mod {w q a b : Nat} (hw : q < 2 ^ w) (ha : a < q) (hb : b < q) : addL w (some q) a b = (a + b) % q := by
  have h : (if q ≤ a + b then a + b - q else a + b) = (a + b) % q := by
    split
    case isTrue h => rw [Nat.mod_eq_sub_mod h, Nat.mod_eq_of_lt (by omega)]
    case isFalse => rw [Nat.mod_eq_of_lt (by omega)]
  rw [addL, h, Nat.mod_eq_of_lt ((Nat.mod_lt _ (by omega)).trans hw)]

theorem subL_eq_mod {w q a b : Nat} (hw : q < 2 ^ w) (ha : a < q) (hb : b < q) : subL w (some q) a b = (a + q - b) % q := by
  have h : (if (q : Int) ≤ (a : Int) - b + q then (a : Int) - b + q - q else (a : Int) - b + q) = ((a + q - b) % q : Nat) := by
    split
    case isTrue => rw [Nat.mod_eq_sub_mod (by omega), Nat.mod_eq_of_lt (by omega)]; omega
    case isFalse => rw [Nat.mod_eq_of_lt (by omega)]; omega
  have hlt : (a + q - b) % q < 2 ^ w := (Nat.mod_lt _ (by omega)).trans hw
  simp only [subL, h]
  rw [show (2 ^ w : Int) = ((2 ^ w : Nat) : Int) by push_cast; rfl, ← Int.natCast_mod, Nat.mod_eq_of_lt hlt, Int.toNat_natCast]

/-- Settles O5: the estimate of R53 falls short of ⌊x / q⌋ by at most 2 (`lt_quotientEstimate_add_three_mul`), so that two corrections give the
residue (`barrett_eq_mod`), and products of lanes below 2^k lie in its range (`mul_add_lt_of_lt`). -/
theorem residueLanesExact : Obligations.ResidueLanesExact := by
  intro q hq
  refine ⟨fun x => barrett_eq_mod hq.pos, fun w a b hw ha hb => ⟨addL_eq_mod hw ha hb, subL_eq_mod hw ha hb⟩, ?_,
    fun w a b => barrett_eq_mod hq.pos⟩
  intro w a b c ha hb hc
  exact ⟨barrett_eq_mod hq.pos (mul_add_lt_of_lt ha hb (Nat.two_pow_pos _)), barrett_eq_mod hq.pos (mul_add_lt_of_lt ha hb hc)⟩

end Sys2Proof.Arith
end

section
/-! Prime tables and roots (O40). -/

namespace Sys2Proof.Arith

/-! ## Powers by repeated squaring -/

theorem powModAux_eq {a m e : Nat} : ∀ (n : Nat) {acc : Nat}, acc = a ^ (e / 2 ^ n) % m → powModAux a m e n acc = a ^ e % m
  | 0, acc, h => by simpa [powModAux] using h
  | n + 1, acc, h => by
    have hsq : acc * acc % m = a ^ (2 * (e / 2 ^ (n + 1))) % m := by rw [h, ← Nat.mul_mod, ← pow_add, two_mul]
    have hdiv : e / 2 ^ n = 2 * (e / 2 ^ (n + 1)) + e / 2 ^ n % 2 := by
      rw [pow_succ, ← Nat.div_div_eq_div_mul, Nat.div_add_mod]
    refine powModAux_eq n ?_
    split
    case isTrue hbit => rw [hsq, Nat.mod_mul_mod, hdiv, hbit, pow_succ a]
    case isFalse hbit => rw [hsq, hdiv, Nat.mod_two_ne_one.1 hbit, add_zero]

theorem powMod_eq (a e m : Nat) : powMod a e m = a ^ e % m := by
  have hzero : e / 2 ^ bitlen e = 0 := Nat.div_eq_of_lt (bitlen_eq_size e ▸ Nat.lt_size_self e)
  rw [powMod, powModAux_eq _ (by rw [hzero, pow_zero]), ← Nat.pow_mod]

theorem pow_two_pow_sub_mod_pow (a q : Nat) {c l : Nat} (h : c ≤ l) : (a ^ (2 ^ (l - c)) % q) ^ (2 ^ c) % q = a ^ (2 ^ l) % q := by
  rw [← Nat.pow_mod, ← pow_mul, ← pow_add, Nat.sub_add_cancel h]

end Sys2Proof.Arith

namespace Sys2Proof.Machine

/-! ## The records of a load (R59, R60) -/

/-- What the checks of R60 let through, of the record itself and of the table it joins. -/
theorem primeCheck_none {ps : List Prime} {r : List Byte} (h : primeCheck ps r = none) :
    let q := leAt r 0 8
    (q % 2 = 1 ∧ 3 ≤ q ∧ q < 2 ^ 60 ∧ Arith.mrPrime q = true) ∧ (∀ p ∈ ps, p.q.toNat ≠ q) ∧ ps.length < 128 := by
  simp only [primeCheck, ite_eq_iff, reduceCtorEq, and_false, false_or, and_true, not_or, Bool.not_eq_true', Bool.not_eq_false, not_le,
    List.any_eq_true, beq_iff_eq, not_exists, not_and] at h
  obtain ⟨-, ⟨hodd, h3⟩, h60, hmr, -, -, hnew, hroom⟩ := h
  exact ⟨⟨by omega, by omega, h60, hmr⟩, hnew, hroom⟩

theorem primeOf_q_toNat {r : List Byte} (h : leAt r 0 8 < 2 ^ 60) : (primeOf r).q.toNat = leAt r 0 8 :=
  BitVec.toNat_ofNat .. |>.trans (Nat.mod_eq_of_lt (by omega))

theorem primesOf_cons_ok {ps qs : List Prime} {k : Nat} {r : List Byte} {rs : List (List Byte)} :
    primesOf ps k (r :: rs) = .ok qs ↔ primeCheck ps r = none ∧ primesOf (ps ++ [primeOf r]) (k + 1) rs = .ok qs := by
  rw [primesOf]
  split <;> simp [*]

theorem primesOf_cons_error {ps : List Prime} {k : Nat} {r : List Byte} {rs : List (List Byte)} {x : Nat × Nat} :
    primesOf ps k (r :: rs) = .error x ↔ (∃ d, primeCheck ps r = some d ∧ x = (k, d)) ∨
      primeCheck ps r = none ∧ primesOf (ps ++ [primeOf r]) (k + 1) rs = .error x := by
  rw [primesOf]
  split <;> simp [*, eq_comm]

theorem primesOf_ok_eq {ps qs : List Prime} {k : Nat} {rs : List (List Byte)} (h : primesOf ps k rs = .ok qs) : qs = ps ++ rs.map primeOf := by
  induction rs generalizing ps k with
  | nil => simpa [primesOf, eq_comm] using h
  | cons r rs ih => rw [ih (primesOf_cons_ok.1 h).2]; simp

/-- What every accepted record keeps, the load keeps. -/
theorem primesOf_ok_induction {P : List Prime → Prop} (hstep : ∀ ps r, primeCheck ps r = none → P ps → P (ps ++ [primeOf r]))
    {ps qs : List Prime} {k : Nat} {rs : List (List Byte)} (h : primesOf ps k rs = .ok qs) (hps : P ps) : P qs := by
  induction rs generalizing ps k with
  | nil => cases h; exact hps
  | cons r rs ih =>
    obtain ⟨hr, hrs⟩ := primesOf_cons_ok.1 h
    exact ih hrs (hstep ps r hr hps)

theorem primesOf_ok_checked {ps qs : List Prime} {k : Nat} {rs : List (List Byte)} (h : primesOf ps k rs = .ok qs) :
    ∀ p ∈ rs.map primeOf, p.q.toNat % 2 = 1 ∧ 3 ≤ p.q.toNat ∧ p.q.toNat < 2 ^ 60 ∧ Arith.mrPrime p.q.toNat = true := by
  induction rs generalizing ps k with
  | nil => simp
  | cons r rs ih =>
    obtain ⟨hr, hrs⟩ := primesOf_cons_ok.1 h
    obtain ⟨⟨hodd, h3, h60, hmr⟩, -, -⟩ := primeCheck_none hr
    rw [List.map_cons, List.forall_mem_cons, primeOf_q_toNat h60]
    exact ⟨⟨hodd, h3, h60, hmr⟩, ih hrs⟩

theorem nodup_append_primeOf {ps : List Prime} {r : List Byte} (h : primeCheck ps r = none) (hps : (ps.map (·.q)).Nodup) :
    ((ps ++ [primeOf r]).map (·.q)).Nodup := by
  obtain ⟨⟨-, -, h60, -⟩, hnew, -⟩ := primeCheck_none h
  rw [List.map_append, List.map_singleton, ← List.concat_eq_append, List.nodup_concat]
  refine ⟨fun hmem => ?_, hps⟩
  obtain ⟨p, hp, hpq⟩ := List.mem_map.1 hmem
  exact hnew p hp (by rw [hpq, primeOf_q_toNat h60])

theorem length_append_primeOf_le {ps : List Prime} {r : List Byte} (h : primeCheck ps r = none) : (ps ++ [primeOf r]).length ≤ 128 := by
  obtain ⟨-, -, hroom⟩ := primeCheck_none h
  simpa using hroom

theorem primesOf_error_first {ps : List Prime} {k n d : Nat} {rs : List (List Byte)} (h : primesOf ps k rs = .error (n, d)) :
    ∃ i r qs, rs[i]? = some r ∧ n = k + i ∧ primesOf ps k (rs.take i) = .ok qs ∧ primeCheck qs r = some d := by
  induction rs generalizing ps k with
  | nil => simp [primesOf] at h
  | cons r rs ih =>
    obtain ⟨d', hd, heq⟩ | ⟨hr, hrs⟩ := primesOf_cons_error.1 h
    · cases heq
      exact ⟨0, r, ps, rfl, rfl, rfl, hd⟩
    · obtain ⟨i, r', qs, hget, hn, hok, hd⟩ := ih hrs
      exact ⟨i + 1, r', qs, hget, by omega, primesOf_cons_ok.2 ⟨hr, hok⟩, hd⟩

/-! ## Roots (R63) -/

theorem Ten.rootAt_of_limb {x : Ten} {c : ChainD} {j i : Nat} {p : Prime} (hj : c.limbs[j]? = some i) (hi : x.primes[i]? = some p) :
    x.rootAt c j = p.psi.toNat ^ (2 ^ (p.log2n.toNat - c.log2n)) % p.q.toNat := by
  simp [Ten.rootAt, List.getD_eq_getElem?_getD, hj, hi, Arith.powMod_eq]

/-- Settles O40: every record the load takes has passed R60 against the table as it then stands (`primeCheck_none`), so each record keeps the
table's primes distinct and 128 at most (`primesOf_ok_induction`); the first record that fails ends the load; powers of PSI multiply. -/
theorem primesAreChecked : Obligations.PrimesAreChecked := by
  refine ⟨fun ps qs rs k h => ⟨⟨_, primesOf_ok_eq h, rfl, primesOf_ok_checked h⟩, ?_, ?_⟩, fun ps rs k n d => primesOf_error_first, ?_⟩
  · exact primesOf_ok_induction (P := fun l => (l.map (·.q)).Nodup) (fun _ _ => nodup_append_primeOf) h
  · exact primesOf_ok_induction (P := fun l => l.length ≤ 128) (fun _ _ hr _ => length_append_primeOf_le hr) h
  · intro x c j i p hj hi hc _ _ hpsi
    refine ⟨Ten.rootAt_of_limb hj hi, ?_⟩
    rw [Ten.rootAt_of_limb hj hi, Arith.pow_two_pow_sub_mod_pow _ _ hc, ← Arith.powMod_eq, hpsi]

end Sys2Proof.Machine
end

section
/-! Clauses as they issue (R106, R126): which clause each command issues, and scalar clauses one by one (O3, O4, O12). -/

namespace Sys2Proof.Machine

/-! ## A command and its clause -/

/-- Every command of the list issues the clause that its row names, if the clause is of the row's operation. -/
theorem exec_clauseCmds : ∀ r ∈ clauseCmds, ∃ run, ∀ (i : Bid) (s : State), exec (r.1 i) s = .next (s.clause i.toNat r.2.1 r.2.2 run) := by
  simp only [clauseCmds, List.cons_append, List.nil_append, List.forall_mem_cons, List.not_mem_nil, false_implies, implies_true, and_true]
  and_intros <;> exact ⟨_, fun i s => rfl⟩

@[simp] theorem Braid.opening_cur (b : Braid) : b.opening.cur = b.cur := by unfold Braid.opening; split <;> rfl
@[simp] theorem Braid.opening_iter (b : Braid) : b.opening.iter = b.iter := by unfold Braid.opening; split <;> rfl

/-- What `issues` says. -/
theorem State.issues_iff {s : State} {i n : Nat} {ok : BitVec 96 → Bool} : s.issues i n ok = true ↔ s.live = true ∧ (s.braid i).canIssue = true ∧
    (s.braid i).todo.head? = some n ∧ ok (clauseOf (s.braid i).cur n) = true ∧ (s.braid i).exportHeld = false ∧
    ((s.braid i).issued.isEmpty = true → (s.braid i).failing = none) := by
  simp only [State.issues, Bool.and_eq_true, beq_iff_eq, Bool.not_eq_true', Bool.or_eq_true, Option.isNone_iff_eq_none, and_assoc]
  cases (s.braid i).issued.isEmpty <;> simp

/-- A clause that is due and fails no check issues. -/
theorem Braid.issueClause_issues {b : Braid} {n : Nat} {ok : BitVec 96 → Bool} {run : Braid → BitVec 96 → Nat → Braid} (hcan : b.canIssue = true)
    (htodo : b.todo.head? = some n) (hop : ok (clauseOf b.cur n) = true) (hheld : b.exportHeld = false)
    (hfail : b.issued.isEmpty = true → b.failing = none) : b.issueClause n ok run =
      ((run b.opening (clauseOf b.cur n) b.iter).issuedClause n (b.iter == 0 && b.issued.isEmpty), true) := by
  have hchk : (if b.issued.isEmpty = true then b.failing else none) = none := by
    split
    case isTrue he => exact hfail he
    case isFalse => rfl
  unfold Braid.issueClause
  simp only [hcan, htodo, hop, hheld, hchk, beq_self_eq_true, Bool.not_false, Bool.and_self, if_true, Braid.opening]
  cases b.issued.isEmpty <;> rfl

/-- A clause that issues has the effect on the braid that its meaning has, however that is written. -/
theorem State.clause_eq_issued {s : State} {i n : Nat} {ok : BitVec 96 → Bool} {run : Braid → BitVec 96 → Nat → Braid} {f : Braid → Braid}
    (h : s.issues i n ok = true) (hf : ∀ b : Braid, ok (clauseOf b.cur n) = true → run b (clauseOf b.cur n) b.iter = f b) :
    s.clause i n ok run = s.issued i n f := by
  obtain ⟨-, -, -, hok, -⟩ := State.issues_iff.1 h
  have hrun := hf (s.braid i).opening (by rw [Braid.opening_cur]; exact hok)
  rw [Braid.opening_cur, Braid.opening_iter] at hrun
  rw [State.clause_issued run h]
  simp only [State.issued, hrun]

/-- The same of the command whose meaning the clause is. -/
theorem exec_issued {c : Instr} {s : State} {i n : Nat} {ok : BitVec 96 → Bool} {run : Braid → BitVec 96 → Nat → Braid} {f : Braid → Braid}
    (hc : exec c s = .next (s.clause i n ok run)) (h : s.issues i n ok = true)
    (hf : ∀ b : Braid, ok (clauseOf b.cur n) = true → run b (clauseOf b.cur n) b.iter = f b) : exec c s = .next (s.issued i n f) := by
  rw [hc, State.clause_eq_issued h hf]

/-! ## A check that fails (O12) -/

/-- Settles O12: the commands of the list are one and the same shared issue, `State.clause_fails`. -/
theorem failedCheckStops : Obligations.FailedCheckStops := by
  intro s i r st m hr b hlive hcan htodo hok hheld hissued hfail
  obtain ⟨run, hrun⟩ := exec_clauseCmds r hr
  rw [hrun, State.clause_fails run hlive hcan htodo hok hheld hissued hfail]
  rfl

/-! ## Operands of a scalar clause (R115) -/

/-- The signed reading of a whole word is its two's complement. -/
theorem sgn_toNat {w : Nat} (x : BitVec w) : sgn w x.toNat = x.toInt := by
  rcases Nat.eq_zero_or_pos w with rfl | hw
  · simp [BitVec.of_length_zero, sgn]
  · have hp : 2 ^ w = 2 * 2 ^ (w - 1) := by rw [← pow_succ']; congr 1; omega
    have hx := x.isLt
    rw [sgn, BitVec.toInt, Nat.mod_eq_of_lt hx]
    split <;> split <;> omega

theorem SClause.simm_eq (c : BitVec 96) : (sClause c).simm = (BitVec.ofNat 24 (fld c 17 24)).signExtend 64 := by
  rw [SClause.simm, sgn_toNat]; rfl

theorem Braid.opB_sClause (b : Braid) (c : BitVec 96) (k : Nat) : b.opB (sClause c) k = b.operandB c k := by
  rw [Braid.opB, SClause.simm_eq]; rfl

theorem Braid.sumAB_sClause (b : Braid) (c : BitVec 96) (k : Nat) :
    b.sumAB (sClause c) k = (b.getS k (fld c 47 5)).val + (b.operandB c k).val := by
  rw [Braid.sumAB, Braid.opB_sClause]; rfl

/-! ## Two operands (O3) -/

theorem aluShl_eq (a b : W64) : aluShl a b = a <<< (b.toNat % 64) := by simp [aluShl, fld]
theorem aluShr_eq (a b : W64) : aluShr a b = a >>> (b.toNat % 64) := by simp [aluShr, fld]
theorem aluSar_eq (a b : W64) : aluSar a b = a.sshiftRight (b.toNat % 64) := by simp [aluSar, fld]

theorem aluMin_eq (a b : W64) : aluMin a b = if a.toNat < b.toNat then a else b := by
  by_cases h : a = b
  case pos => simp [aluMin, h]
  case neg =>
    have hlt : a.toNat ≤ b.toNat ↔ a.toNat < b.toNat := (Nat.lt_iff_le_and_ne.trans (and_iff_left (mt BitVec.eq_of_toNat_eq h))).symm
    simp only [aluMin, hlt]

theorem aluMax_eq (a b : W64) : aluMax a b = if a.toNat < b.toNat then b else a := by
  by_cases h : a = b
  case pos => simp [aluMax, h]
  case neg =>
    have hlt : a.toNat ≤ b.toNat ↔ a.toNat < b.toNat := (Nat.lt_iff_le_and_ne.trans (and_iff_left (mt BitVec.eq_of_toNat_eq h))).symm
    simp only [aluMax, hlt]

/-- Every row of the table issues the clause of its operation, with a function that is the row's. -/
theorem exec_aluRows : ∀ r ∈ aluRows, ∃ f, (∀ a b, f a b = r.fn a b) ∧
    ∀ (i : Bid) (s : State), exec (r.cmd i) s = .next (s.clause i.toNat 1 (coreOp r.op) (runAlu f)) := by
  simp only [aluRows, List.forall_mem_cons, List.not_mem_nil, false_implies, implies_true, and_true]
  exact ⟨⟨_, fun _ _ => rfl, fun _ _ => rfl⟩, ⟨_, fun _ _ => rfl, fun _ _ => rfl⟩, ⟨_, fun _ _ => rfl, fun _ _ => rfl⟩,
    ⟨_, fun _ _ => rfl, fun _ _ => rfl⟩, ⟨_, fun _ _ => rfl, fun _ _ => rfl⟩, ⟨aluShl, aluShl_eq, fun _ _ => rfl⟩,
    ⟨aluShr, aluShr_eq, fun _ _ => rfl⟩, ⟨aluSar, aluSar_eq, fun _ _ => rfl⟩, ⟨(· * ·), fun _ _ => rfl, fun _ _ => rfl⟩,
    ⟨aluMin, aluMin_eq, fun _ _ => rfl⟩, ⟨aluMax, aluMax_eq, fun _ _ => rfl⟩⟩

/-- Settles O3: the eleven operations are one clause, `runAlu`, of eleven functions. -/
theorem aluClauses : Obligations.AluClauses := by
  intro s i r hr h
  obtain ⟨f, hf, hexec⟩ := exec_aluRows r hr
  refine exec_issued (hexec i s) h fun b _ => ?_
  simp only [runAlu, Braid.opB_sClause, hf]
  rfl

end Sys2Proof.Machine
end

section
/-! Scalar clauses that move, address and control (O4). -/

namespace Sys2Proof.Machine

/-! ## Moves (R115) -/

theorem fld_lt {w : Nat} (x : BitVec w) (lo n : Nat) : fld x lo n < 2 ^ n := Nat.mod_lt _ (Nat.two_pow_pos n)

/-- The low bits of a field are a shorter field. -/
theorem fld_mod {w : Nat} (x : BitVec w) (lo : Nat) {n m : Nat} (h : m ≤ n) : fld x lo n % 2 ^ m = fld x lo m :=
  Nat.mod_mod_of_dvd _ (pow_dvd_pow 2 h)

theorem shiftLeft_or_imm (x : W64) {n : Nat} (h : n < 2 ^ 24) :
    x <<< 24 ||| (BitVec.ofNat 24 n).setWidth 64 = x * 2 ^ 24 ||| BitVec.ofNat 64 n := by
  have hpow : BitVec.twoPow 64 24 = 2 ^ 24 := by decide
  have himm : (BitVec.ofNat 24 n).setWidth 64 = BitVec.ofNat 64 n := by
    apply BitVec.eq_of_toNat_eq
    rw [BitVec.toNat_setWidth, BitVec.toNat_ofNat, BitVec.toNat_ofNat, Nat.mod_eq_of_lt h]
  rw [BitVec.shiftLeft_eq_mul_twoPow, hpow, himm]

theorem moveClauses : Says.MoveClauses := by
  intro s i
  refine ⟨?_, ?_, ?_, ?_, ?_, ?_, ?_⟩ <;> intro h
  · refine exec_issued rfl h fun b _ => ?_
    simp only [runMovi, SClause.simm_eq]; rfl
  · refine exec_issued rfl h fun b _ => ?_
    simp only [← shiftLeft_or_imm _ (fld_lt _ _ _)]; rfl
  · refine exec_issued rfl h fun b _ => ?_
    simp only [runScalarCmp, Braid.opB_sClause]; rfl
  · exact exec_issued rfl h fun b _ => rfl
  · refine exec_issued rfl h fun b _ => ?_
    simp only [← fld_mod b.scalar 47 (show 3 ≤ 5 by omega)]; rfl
  · refine exec_issued rfl h fun b _ => ?_
    simp only [← fld_mod b.scalar 47 (show 2 ≤ 5 by omega)]; rfl
  · refine exec_issued rfl h fun b _ => ?_
    simp only [← fld_mod b.scalar 47 (show 4 ≤ 5 by omega)]; rfl

/-! ## Address registers (R100) -/

theorem AReg.adv_toNat (a : AReg) (d : Int) : (a.adv d).toNat =
    (((a.offset.toNat : Int) + d) % (if a.wrap = 0 then 2 ^ 22 else Nat.min a.wrap.toNat (2 ^ 22) : Int)).toNat % 2 ^ 22 := by
  rw [AReg.adv, BitVec.toNat_ofNat]
  split <;> rfl

theorem addressClauses : Says.AddressClauses := by
  intro s i sum
  have hsum (b : Braid) (k : Nat) : b.sumAB (sClause b.scalar) k = sum b k := Braid.sumAB_sClause b b.scalar k
  have hreg (b : Braid) : (sClause b.scalar).d % 16 = fld b.scalar 52 4 := fld_mod b.scalar 52 (show 4 ≤ 5 by omega)
  have hfld (x : W64) (n : Nat) : fld x 0 n = x.toNat % 2 ^ n := by simp [fld]
  refine ⟨?_, ?_, ?_, ?_⟩ <;> intro h
  · refine exec_issued rfl h fun b _ => ?_
    change runSeta b b.scalar b.iter = _
    simp only [runSeta, hsum, hreg, hfld]; rfl
  · refine exec_issued rfl h fun b _ => ?_
    change runSetstr b b.scalar b.iter = _
    simp only [runSetstr, hsum, hreg, hfld]; rfl
  · refine exec_issued rfl h fun b _ => ?_
    change runSetwrap b b.scalar b.iter = _
    simp only [runSetwrap, hsum, hreg, hfld]; rfl
  · refine exec_issued rfl h fun b _ => ?_
    change runAdda b b.scalar b.iter = _
    simp only [runAdda, hsum, hreg, sgn_toNat, AReg.adv_toNat]; rfl

/-! ## The sequencer (R116, R117) -/

/-- A sum clamped to 16 bits (R116). -/
theorem ofInt_clamp (x : Int) : BitVec.ofInt 16 (max 0 (min x 65535)) = BitVec.ofNat 16 (if x < 0 then 0 else Nat.min x.toNat 65535) := by
  split
  case isTrue hneg => rw [max_eq_left (by omega)]; rfl
  case isFalse hpos =>
    rw [max_eq_right (by omega), ← BitVec.ofInt_natCast]
    congr 1
    show _ = ((min x.toNat 65535 : Nat) : Int)
    omega

/-- The count that SETLC writes (R116). -/
theorem setlc_value (g : Bool) (f : Nat) {n : Nat} (h : n < 2 ^ 16) :
    BitVec.ofNat 16 (if g then (if (f : Int) + sgn 16 n < 0 then 0 else Nat.min ((f : Int) + sgn 16 n).toNat 65535) else n) =
      if g then BitVec.ofInt 16 (max 0 (min ((f : Int) + (BitVec.ofNat 16 n).toInt) 65535)) else BitVec.ofNat 16 n := by
  cases g
  case false => rfl
  case true =>
    rw [← sgn_toNat, BitVec.toNat_ofNat, Nat.mod_eq_of_lt h, if_pos rfl, if_pos rfl, ofInt_clamp]

theorem controlClauses : Says.ControlClauses := by
  intro s i
  refine ⟨?_, ?_, ?_, ?_, ?_⟩ <;> intro h
  · exact exec_issued rfl h fun b _ => rfl
  · refine exec_issued rfl h fun b _ => ?_
    change runSetlc b b.scalar b.iter = _
    simp only [runSetlc, setlc_value _ _ (fld_lt _ _ _)]; rfl
  · exact exec_issued rfl h fun b _ => rfl
  · exact exec_issued rfl h fun b _ => rfl
  · exact exec_issued rfl h fun b _ => rfl

/-- Settles O4: each clause has the effect its row gives, field by field; the two readings of a sum agree (`AReg.adv_toNat`, `ofInt_clamp`). -/
theorem coreTargetClauses : Obligations.CoreTargetClauses := ⟨moveClauses, addressClauses, controlClauses⟩

end Sys2Proof.Machine
end

section
/-! Sync clauses but SREL and WEAVE (O7): what they change after their cycle, and the waits of SWAIT. -/

namespace Sys2Proof

/-- A table without the keys that satisfy `p` reads as the default there, canonical or not. -/
theorem Sparse.get_dropKeys_dropped {α : Type} (d : α) (m : Sparse α) {p : Nat → Bool} {k : Nat} (hk : p k = true) :
    Sparse.get d (Sparse.dropKeys m p) k = d := by
  induction m with
  | nil => rfl
  | cons e m ih =>
    simp only [Sparse.dropKeys, List.filter_cons] at ih ⊢
    split
    case isFalse => exact ih
    case isTrue hp =>
      have hne : k ≠ e.1 := by rintro rfl; simp [hk] at hp
      simp only [Sparse.get, hne, if_false, ih, ite_self]

end Sys2Proof

namespace Sys2Proof.Machine

/-! ## The end of the cycle (R114, R167, R174) -/

theorem Braid.mapOf_sync (b : Braid) (c : BitVec 96) : b.mapOf (BitVec.ofNat 16 (fld c 0 16)) =
    if b.fold then BitVec.ofNat 16 (fld c 0 8 * 257) else BitVec.ofNat 16 (fld c 0 16) := by
  have hlow : fld (BitVec.ofNat 16 (fld c 0 16)) 0 8 = fld c 0 8 := by simp [fld]
  rw [Braid.mapOf, hlow]

theorem Braid.clearT3_open (b : Braid) (k : Nat) {r : Nat} (_ : r < 16) : b.clearT3.getT k 3 r = 0 ∧ (b.clearT3.getTF k 3).sealed = false := by
  constructor
  · exact Sparse.get_dropKeys_dropped (p := fun k => k / 16 % 4 == 3) 0 b.t (beq_iff_eq.2 (by omega))
  · have htf : b.clearT3.getTF k 3 = TFlag.init :=
      Sparse.get_dropKeys_dropped (p := fun k => k % 4 == 3) TFlag.init b.tf (beq_iff_eq.2 (by omega))
    rw [htf]; rfl

theorem getLsbD_oneBit {r g : Nat} (hg : g < 64) : (oneBit r).getLsbD g = (r == g) := by
  rw [oneBit, BitVec.getLsbD_ofNat, decide_eq_true hg, Bool.true_and, Nat.testBit_two_pow]; rfl

section
variable {b : Braid}

theorem Braid.syncLate_bankmap (hop : clauseOp 0 (clauseOf b.cur 0) = 2) :
    b.syncLate = { b with bankMap := b.mapOf (BitVec.ofNat 16 (fld (clauseOf b.cur 0) 0 16)) } := by
  simp only [Braid.syncLate, hop]

theorem Braid.syncLate_spliceOn (hop : clauseOp 0 (clauseOf b.cur 0) = 5) (hon : bit (clauseOf b.cur 0) 0 = true) :
    b.syncLate = { b.clearT3 with spliceEn := true } := by
  simp only [Braid.syncLate, hop, hon, if_true]

theorem Braid.syncLate_spliceOff (hop : clauseOp 0 (clauseOf b.cur 0) = 5) (hoff : bit (clauseOf b.cur 0) 0 = false) :
    b.syncLate = { b with spliceEn := false } := by
  simp only [Braid.syncLate, hop, hoff, Bool.false_eq_true, if_false]

theorem Braid.syncLate_seal (hop : clauseOp 0 (clauseOf b.cur 0) = 7) : b.syncLate = b.doSeal (clauseOf b.cur 0) := by
  simp only [Braid.syncLate, hop]
end

/-- SEAL with CASE 1 seals the regions that it names and no other. -/
theorem Braid.getLsbD_sealAll (lo : Nat) {g : Nat} (hg : g < 64) (l : List Nat) {b : Braid} (hf : b.fold = false) :
    (l.foldl (fun (b : Braid) i => b.sealOne true (b.sealRegion (lo + i))) b).sealMap.getLsbD g =
      (b.sealMap.getLsbD g || l.any (fun i => lo + i == g)) := by
  induction l generalizing b with
  | nil => simp
  | cons i l ih =>
    have hreg : b.sealRegion (lo + i) = lo + i := by simp [Braid.sealRegion, hf]
    have hmap : (b.sealOne true (lo + i)).sealMap = b.sealMap ||| oneBit (lo + i) := rfl
    rw [List.foldl_cons, hreg, ih (show (b.sealOne true (lo + i)).fold = false from hf), hmap, BitVec.getLsbD_or, getLsbD_oneBit hg,
      List.any_cons, Bool.or_assoc]

theorem Braid.getLsbD_doSeal {b : Braid} {c : BitVec 96} {g : Nat} (hf : b.fold = false) (hcase : bit c 12 = true) (hlo : fld c 0 6 ≤ g)
    (hhi : g ≤ fld c 0 6 + fld c 6 6) (hg : g < 64) : (b.doSeal c).sealMap.getLsbD g = true := by
  rw [Braid.doSeal, hcase, Braid.getLsbD_sealAll _ hg _ hf, List.any_eq_true.2, Bool.or_true]
  exact ⟨g - fld c 0 6, List.mem_range.2 (by omega), beq_iff_eq.2 (by omega)⟩

/-- SEAL with CASE 0 opens nothing yet: it queues clearings. -/
theorem Braid.sealOne_false_sealMap (b : Braid) (r : Nat) : (b.sealOne false r).sealMap = b.sealMap := by
  unfold Braid.sealOne
  simp only [Bool.false_eq_true, if_false]
  split <;> rfl

theorem Braid.doSeal_false_sealMap {b : Braid} {c : BitVec 96} (hc : bit c 12 = false) : (b.doSeal c).sealMap = b.sealMap := by
  unfold Braid.doSeal
  rw [hc]
  generalize List.range (fld c 6 6 + 1) = l
  induction l generalizing b with
  | nil => rfl
  | cons i l ih => rw [List.foldl_cons, ih, Braid.sealOne_false_sealMap]

/-! ## The end of the sentence (R111, R129) -/

@[simp] theorem Braid.advanceTo_issueAt (b : Braid) (t d : Nat) : (b.advanceTo t d).issueAt = t := rfl

@[simp] theorem Braid.endIssue_issueAt (b : Braid) : b.endIssue.issueAt = b.issueAt := by unfold Braid.endIssue; split <;> rfl

/-- IDLE holds the next sentence N cycles more. -/
theorem Braid.finishSentence_issueAt_idle {b : Braid} (hop : clauseOp 0 (clauseOf b.cur 0) = 8) (hctl : b.ctl = .none) :
    b.finishSentence.issueAt = b.issueAt + 1 + fld (clauseOf b.cur 0) 0 12 := by
  have hnext : b.nextPc.2.2 = 0 := by simp [Braid.nextPc, hctl]
  unfold Braid.finishSentence
  simp only [hop, hnext]
  (repeat' split) <;> simp_all

/-- HITCH begins to drain. -/
theorem Braid.finishSentence_hitch {b : Braid} (hop : clauseOp 0 (clauseOf b.cur 0) = 1) :
    b.finishSentence.phase = .draining ∧ b.finishSentence.hitchReq = true := by
  unfold Braid.finishSentence
  simp [hop]

theorem syncClauses : Says.SyncClauses := by
  constructor
  · intro s i r hr h
    refine exec_issued (run := runSync) ?_ h fun _ _ => rfl
    fin_cases hr <;> rfl
  · intro b c
    refine ⟨?_, ?_, ?_, ?_, ?_, Braid.finishSentence_issueAt_idle, Braid.finishSentence_hitch⟩
    · intro hop
      rw [Braid.syncLate_bankmap hop, Braid.mapOf_sync]
    · intro hop hon
      rw [Braid.syncLate_spliceOn hop hon]
      exact ⟨rfl, fun k r _ hr => b.clearT3_open k hr⟩
    · exact fun hop hoff => Braid.syncLate_spliceOff hop hoff
    · intro hop hf hcase g hlo hhi hg
      rw [Braid.syncLate_seal hop]
      exact Braid.getLsbD_doSeal hf hcase hlo hhi hg
    · intro hop hcase
      rw [Braid.syncLate_seal hop]
      exact Braid.doSeal_false_sealMap hcase

/-! ## The start of a SWAIT (R112, R214, R216) -/

section
variable {b : Braid} {f : Bool}

/-- What `swaits` says. -/
theorem Braid.swaits_iff : b.swaits = true ↔ b.canIssue = true ∧ b.todo.head? = some 0 ∧ opIs 0 3 (clauseOf b.cur 0) = true ∧
    b.exportHeld = false ∧ (b.issued.isEmpty = true → b.failing = none) := by
  simp only [Braid.swaits, Bool.and_eq_true, beq_iff_eq, Bool.not_eq_true', Bool.or_eq_true, Option.isNone_iff_eq_none, and_assoc]
  cases b.issued.isEmpty <;> simp

theorem Braid.swaitIssues_with (w : Option Bool) : ({ b with waitDone := w } : Braid).swaitIssues f = b.swaitIssues f := by
  unfold Braid.swaitIssues Braid.opening
  cases b.issued.isEmpty <;> rfl

/-- A wait that is over issues its sentence where the SWAIT is due. -/
theorem Braid.swaitIssue_of_swaits (hd : b.waitDone = some f) (h : b.swaits = true) : b.swaitIssue = b.swaitIssues f := by
  obtain ⟨hcan, htodo, hop, hheld, hfail⟩ := Braid.swaits_iff.1 h
  unfold Braid.swaitIssue
  split
  case h_1 hnone => cases hd.symm.trans hnone
  case h_2 g hg =>
    cases hd.symm.trans hg
    rw [Braid.issueClause_issues hcan htodo hop hheld hfail]
    rfl

theorem Braid.swaitIssue_withDone (h : b.swaits = true) : ({ b with waitDone := some f } : Braid).swaitIssue = b.swaitIssues f :=
  (Braid.swaitIssue_of_swaits (b := { b with waitDone := some f }) rfl h).trans (Braid.swaitIssues_with _)

/-- Where the braid may not issue, a wait that is over stays so. -/
theorem Braid.swaitIssue_of_not_canIssue (hd : b.waitDone = some f) (h : b.canIssue = false) : b.swaitIssue = b := by
  unfold Braid.swaitIssue
  simp [hd, Braid.issueClause, h]

section
variable (hd : b.waitDone = none) (h : b.swaits = true) (cause : Nat)
include hd h

/-- On a ring that is not armed the SWAIT issues as if by timeout. -/
theorem Braid.swaitStart_unarmed (hr : (b.ring b.swaitOf.1).armed = false) : b.swaitStart cause = b.countUnarmed.swaitIssues true := by
  obtain ⟨hcan, htodo, hop, hheld, -⟩ := Braid.swaits_iff.1 h
  rw [← Braid.swaitIssue_withDone (b := b.countUnarmed) h]
  simp [Braid.swaitStart, hd, hcan, htodo, hop, hheld, hr]

/-- The braid, with a slot count above SIZE counted as clamped (R216). -/
def Braid.clampedFor (b : Braid) : Braid := if (b.ring b.swaitOf.1).size < b.swaitOf.2.1 then b.countClamped 1 else b

/-- With its slots ready the SWAIT issues at once. -/
theorem Braid.swaitStart_ready (hr : (b.ring b.swaitOf.1).armed = true) (hw : (b.ring b.swaitOf.1).waitOver b.swaitOf.2.1 = true) :
    b.swaitStart cause = b.clampedFor.swaitIssues false := by
  obtain ⟨hcan, htodo, hop, hheld, -⟩ := Braid.swaits_iff.1 h
  have hs : b.clampedFor.swaits = true := by unfold Braid.clampedFor; split <;> exact h
  rw [← Braid.swaitIssue_withDone hs]
  simp [Braid.swaitStart, Braid.clampedFor, hd, hcan, htodo, hop, hheld, hr, hw]

/-- Otherwise it waits from its cycle on. -/
theorem Braid.swaitStart_waits (hr : (b.ring b.swaitOf.1).armed = true) (hw : (b.ring b.swaitOf.1).waitOver b.swaitOf.2.1 = false) :
    b.swaitStart cause = { b.clampedFor with phase := .waiting, waitAt := b.issueAt, waitFor := [cause], holds := [], dmaUpTo := 0 } := by
  obtain ⟨hcan, htodo, hop, hheld, -⟩ := Braid.swaits_iff.1 h
  have hat : b.clampedFor.issueAt = b.issueAt := by unfold Braid.clampedFor; split <;> rfl
  rw [← hat]
  simp [Braid.swaitStart, Braid.clampedFor, hd, hcan, htodo, hop, hheld, hr, hw]
end
end

/-- SWAIT of a live module is the start of its wait. -/
theorem exec_swait {s : State} (hlive : s.live = true) (i : Bid) :
    exec (.swait i) s = .next (s.afterBraid i.toNat ((s.braid i.toNat).swaitStart (s.stallCause i.toNat))) :=
  congrArg Host.Outcome.next (State.braidStep_live i.toNat _ hlive)

theorem swaitStarts : Says.SwaitStarts := by
  intro s i hlive h b c r n b1
  simp only [exec_swait hlive]
  refine ⟨?_, ?_, ?_, ?_⟩
  · intro f hd
    have hstart : b.swaitStart (s.stallCause i.toNat) = b.swaitIssue := by simp [Braid.swaitStart, hd]
    rw [hstart, Braid.swaitIssue_of_swaits hd h]; rfl
  · intro hd hr
    rw [Braid.swaitStart_unarmed hd h _ hr]; rfl
  · intro hd hr hw
    rw [Braid.swaitStart_ready hd h _ hr hw]; rfl
  · intro hd hr hw
    rw [Braid.swaitStart_waits hd h _ hr hw]; rfl

/-! ## The end of a wait (R214, R215, R220, R221) -/

/-- The shares of a wait are drawn from the free values, and nothing else changes. -/
theorem State.shares_fst (s : State) (i : Nat) : ∃ n, (s.shares i).1 = { s with draws := n } := by
  unfold State.shares
  generalize List.range _ = l
  suffices ∀ r : State × List Nat, (∃ n, r.1 = { s with draws := n }) →
      ∃ n, (l.foldl (fun r _ => (r.1.free.2, r.2 ++ [r.1.free.1.toNat])) r).1 = { s with draws := n } from this _ ⟨s.draws, rfl⟩
  induction l with
  | nil => exact fun r h => h
  | cons x l ih =>
    rintro r ⟨n, hr⟩
    refine ih _ ⟨n + 1, ?_⟩
    show r.1.free.2 = _
    rw [hr]; rfl

/-- A step of a SWAIT of a live module. -/
theorem State.swaitStep_live {s : State} {i : Nat} (hlive : s.live = true) (f : Braid → List Nat → Braid) :
    s.swaitStep i f = (s.shares i).1.afterBraid i (f (s.braid i) (s.shares i).2) := by
  obtain ⟨n, hn⟩ := s.shares_fst i
  have hb : (s.shares i).1.braid i = s.braid i := by rw [hn]; rfl
  rw [State.swaitStep, State.braidStep_live _ _ (by rw [hn]; exact hlive), hb]

/-- What `waits` says. -/
theorem State.waits_iff {s : State} {i n : Nat} : s.waits i n = true ↔ s.live = true ∧ (s.braid i).phase = .waiting ∧ (s.braid i).pllUp = true ∧
    (s.braid i).linkDown = false ∧ (s.braid i).cycle ≤ (s.braid i).waitAt + n ∧ (s.braid i).landedBy ((s.braid i).waitAt + n) = true := by
  simp [State.waits, and_assoc]

theorem Braid.swaitOver_eq {b : Braid} {n : Nat} (hpll : b.pllUp = true) (hlink : b.linkDown = false) (hland : b.landedBy (b.waitAt + n) = true)
    (timeout : Bool) (shares : List Nat) : b.swaitOver n timeout shares = (b.waited n timeout shares).swaitIssue := by
  simp only [Braid.swaitOver, hpll, hlink, hland, Bool.not_false, Bool.and_self, if_true]
  rfl

theorem swaitEnds : Says.SwaitEnds := by
  refine ⟨?_, fun b f hd => ⟨Braid.swaitIssue_of_swaits hd, Braid.swaitIssue_of_not_canIssue hd⟩⟩
  intro s i b c r n tmo x
  constructor
  · intro w hwaits hover htmo
    obtain ⟨hlive, hphase, hpll, hlink, hcyc, hland⟩ := State.waits_iff.1 hwaits
    have hend : b.swaitEnd w.toNat x.2 = b.swaitOver w.toNat false x.2 := by
      refine if_pos ?_
      simp only [Bool.and_eq_true, beq_iff_eq, Bool.or_eq_true, decide_eq_true_eq]
      exact ⟨⟨⟨hphase, hover⟩, htmo⟩, hcyc⟩
    refine congrArg Host.Outcome.next ((State.swaitStep_live hlive _).trans ?_)
    rw [← Braid.swaitOver_eq hpll hlink hland, ← hend]
  · intro hwaits htmo
    obtain ⟨hlive, hphase, hpll, hlink, hcyc, hland⟩ := State.waits_iff.1 hwaits
    have hend : b.swaitTimeout x.2 = b.swaitOver tmo (!(r.armed && r.waitOver n)) x.2 := by
      have hmet : (b.waitMet && decide (b.cycle ≤ b.waitAt + tmo)) = (r.armed && r.waitOver n) := by
        rw [decide_eq_true hcyc, Bool.and_true]; rfl
      rw [← hmet]
      refine if_pos ?_
      simp only [Bool.and_eq_true, beq_iff_eq, bne_iff_ne]
      exact ⟨hphase, htmo⟩
    refine congrArg Host.Outcome.next ((State.swaitStep_live hlive _).trans ?_)
    rw [← Braid.swaitOver_eq hpll hlink hland, ← hend]

/-- Settles O7: the clauses that act late do nothing at issue (`exec_issued`), and each start and each end of a wait is one case of
`Braid.swaitStart` and `Braid.swaitOver`. -/
theorem syncSlotClauses : Obligations.SyncSlotClauses := ⟨syncClauses, swaitStarts, swaitEnds⟩

end Sys2Proof.Machine
end

section
/-! Vector clauses lane by lane (O8). -/

namespace Sys2Proof.Machine

open Sys2Proof.Arith

/-! ## Lanes (R49) -/

theorem zipLanes_eq (m32 : Bool) (f : Nat → Nat → Nat) (x y : VReg) :
    zipLanes m32 f x y = ofLanes m32 ((List.range (laneN m32)).map (fun j => f (lane m32 x j) (lane m32 y j))) := by
  rw [zipLanes, lanes, lanes, List.zipWith_map, List.zipWith_self]

theorem zipLanes3_eq (m32 : Bool) (f : Nat → Nat → Nat → Nat) (x y z : VReg) : zipLanes3 m32 f x y z =
    ofLanes m32 ((List.range (laneN m32)).map (fun j => f (lane m32 x j) (lane m32 y j) (lane m32 z j))) := by
  rw [zipLanes3, lanes, lanes, lanes, List.zip_map', List.zipWith_map, List.zipWith_self]

/-- The compare into a predicate takes its lanes in turn. -/
theorem cmpBits_eq (m32 : Bool) (q : Option Nat) (cond : Nat) (x y : VReg) : cmpBits m32 q cond x y =
    (List.range (laneN m32)).foldl (fun n j => if condL (laneW m32) q cond (lane m32 x j) (lane m32 y j) then n + 2 ^ j else n) 0 := by
  have hidx : ∀ f : Nat → Bool, ((List.range (laneN m32)).map f).zipIdx = (List.range (laneN m32)).map (fun j => (f j, j)) := by
    intro f
    rw [List.zipIdx_eq_zip_range', List.length_map, List.length_range, ← List.range_eq_range', List.zip_eq_zipWith, List.zipWith_map_left,
      List.zipWith_self]
  rw [cmpBits, lanes, lanes, List.zipWith_map, List.zipWith_self, hidx, List.foldl_map]

/-! ## A vector clause (R118, R142) -/

/-- What an operation of the sources gives on core `k`: the value, and the case and poison of the sources it follows (R79, R158). -/
def Braid.vecOf (b : Braid) (uses : Nat) (f : VClause → Option Nat → Nat → VReg → VReg → VReg → VReg) (c : BitVec 96) (it : Nat)
    (second : Bool) (k : Nat) : VReg × Bool × Bool :=
  let x := b.vecSrc c it second k
  (f (vClause c) (b.vecQ c) k x.1.val x.2.1.val x.2.2.val,
    x.1.sealed || (decide (2 ≤ uses) && x.2.1.sealed) || (decide (3 ≤ uses) && x.2.2.sealed),
    x.1.poison || (decide (2 ≤ uses) && x.2.1.poison) || (decide (3 ≤ uses) && x.2.2.poison))

theorem runVec_eq (uses : Nat) (f : VClause → Option Nat → Nat → VReg → VReg → VReg → VReg) (b : Braid) (c : BitVec 96) (it : Nat) :
    runVec uses f b c it =
      let b1 := b.vecLands c it 0 0 (b.vecOf uses f c it false)
      if (vClause c).dual then b1.vecLands c it 1 0 (b.vecOf uses f c it true) else b1 := rfl

theorem VClause.dual_eq_false {v : VClause} (h : v.op ≠ 3 ∧ v.op ≠ 4 ∧ v.op ≠ 9 ∧ v.op ≠ 10) : v.dual = false := by
  simp [VClause.dual, h]

section
variable (b : Braid) (f : VClause → Option Nat → Nat → VReg → VReg → VReg → VReg) (c : BitVec 96) (it : Nat) (second : Bool)

theorem Braid.vecOf_one : b.vecOf 1 f c it second = fun k =>
    let x := b.vecSrc c it second k
    (f (vClause c) (b.vecQ c) k x.1.val x.2.1.val x.2.2.val, x.1.sealed, x.1.poison) := by
  funext k; simp [Braid.vecOf]

theorem Braid.vecOf_two : b.vecOf 2 f c it second = fun k =>
    let x := b.vecSrc c it second k
    (f (vClause c) (b.vecQ c) k x.1.val x.2.1.val x.2.2.val, x.1.sealed || x.2.1.sealed, x.1.poison || x.2.1.poison) := by
  funext k; simp [Braid.vecOf]
end

/-! ## Lane by lane (R139) -/

theorem laneRows_uses : ∀ r ∈ laneRows, r.uses = 2 ∨ r.uses = 3 := by decide

/-- Every row of the table issues the clause of its operation, which is the row's lane by lane. -/
theorem exec_laneRows : ∀ r ∈ laneRows, ∃ f : Bool → Option Nat → VReg → VReg → VReg → VReg,
    (∀ m32 q x y z, f m32 q x y z = ofLanes m32 ((List.range (laneN m32)).map (fun j =>
      r.fn (laneW m32) q (lane m32 x j) (lane m32 y j) (lane m32 z j)))) ∧
    ∀ (i : Bid) (s : State), exec (r.cmd i) s = .next (s.clause i.toNat 2 (opIs 2 r.op) (vec r.uses f)) := by
  simp only [laneRows, List.forall_mem_cons, List.not_mem_nil, false_implies, implies_true, and_true]
  exact ⟨⟨_, fun _ _ _ _ _ => zipLanes_eq _ _ _ _, fun _ _ => rfl⟩, ⟨_, fun _ _ _ _ _ => zipLanes_eq _ _ _ _, fun _ _ => rfl⟩,
    ⟨_, fun _ _ _ _ _ => zipLanes_eq _ _ _ _, fun _ _ => rfl⟩, ⟨_, fun _ _ _ _ _ => zipLanes3_eq _ _ _ _ _, fun _ _ => rfl⟩,
    ⟨_, fun _ _ _ _ _ => zipLanes3_eq _ _ _ _ _, fun _ _ => rfl⟩, ⟨_, fun _ _ _ _ _ => zipLanes_eq _ _ _ _, fun _ _ => rfl⟩,
    ⟨_, fun _ _ _ _ _ => zipLanes_eq _ _ _ _, fun _ _ => rfl⟩, ⟨_, fun _ _ _ _ _ => zipLanes_eq _ _ _ _, fun _ _ => rfl⟩⟩

theorem laneClauses : Says.LaneClauses := by
  intro s i r hr h
  obtain ⟨f, hf, hexec⟩ := exec_laneRows r hr
  refine exec_issued (hexec i s) h fun b _ => ?_
  have hlane (second : Bool) :
      b.vecOf r.uses (fun _ q _ x y z => f b.m32 q x y z) (clauseOf b.cur 2) b.iter second = b.laneResult r (clauseOf b.cur 2) b.iter second := by
    funext k
    rcases laneRows_uses r hr with hu | hu <;> simp [Braid.vecOf, Braid.laneResult, hu, hf]
  rw [vec, runVec_eq, hlane, hlane]

/-! ## CMP (R140) -/

theorem op_of_opIs {c : BitVec 96} {n : Nat} (h : opIs 2 n c = true) : (vClause c).op = n := beq_iff_eq.1 h

/-- An operation with no dual form works once. -/
theorem runVec_eq_of_single {uses : Nat} {f : VClause → Option Nat → Nat → VReg → VReg → VReg → VReg} {b : Braid} {c : BitVec 96} {it : Nat}
    (h : (vClause c).dual = false) : runVec uses f b c it = b.vecLands c it 0 0 (b.vecOf uses f c it false) := by
  rw [runVec_eq, h]; rfl

theorem vectorCompare : Says.VectorCompare := by
  intro s i h
  refine exec_issued (run := runVecCmp) rfl h fun b hop => ?_
  have hsingle : (vClause (clauseOf b.cur 2)).dual = false := VClause.dual_eq_false (by rw [op_of_opIs hop]; decide)
  unfold runVecCmp
  dsimp only
  split
  case isTrue hp =>
    simp only [cmpBits_eq]
    rfl
  case isFalse hp =>
    simp only [runVec_eq_of_single hsingle, Braid.vecOf_two, vecCmp, zipLanes_eq]
    rfl

/-! ## MOV, SPLAT and REVEAL (R88, R90, R145) -/

theorem vecMov_eq (m32 : Bool) (q : Option Nat) (sub : Nat) (x y : VReg) : vecMov m32 q sub x y =
    if sub.testBit 1 then ofLanes m32 ((List.range (laneN m32)).map (fun j =>
      if sub.testBit 2 && (lane m32 y j).testBit 7 then negL (laneW m32) q (lane m32 x (lane m32 y j % laneN m32))
      else lane m32 x (lane m32 y j % laneN m32)))
    else x := by
  have hbit : sub.testBit 1 = true ↔ ¬ sub / 2 % 2 = 0 := by rw [Nat.testBit_eq_decide_div_mod_eq, decide_eq_true_iff]; omega
  have hneg (p : Nat) : (sub.testBit 2 && p.testBit 7) = true ↔ sub / 4 % 2 = 1 ∧ p / 128 % 2 = 1 := by
    simp [Nat.testBit_eq_decide_div_mod_eq]
  simp only [vecMov, hbit, hneg, ite_not, lanes, List.map_map, Function.comp_def]

theorem moveLanes : Says.MoveLanes := by
  intro s i
  refine ⟨?_, ?_, ?_⟩ <;> intro h
  · refine exec_issued (run := runMov) rfl h fun b hop => ?_
    have hsingle : (vClause (clauseOf b.cur 2)).dual = false := VClause.dual_eq_false (by rw [op_of_opIs hop]; decide)
    have huses : ((vClause (clauseOf b.cur 2)).sub / 2 % 2 = 1) = ((vClause (clauseOf b.cur 2)).sub.testBit 1 = true) := by
      rw [Nat.testBit_eq_decide_div_mod_eq, decide_eq_true_iff]
    simp only [runMov, huses, runVec_eq_of_single hsingle, vecMov_eq]
    cases hperm : (vClause (clauseOf b.cur 2)).sub.testBit 1 <;> simp only [Bool.false_eq_true, if_false, if_true]
    case false => rw [Braid.vecOf_one]; simp only [hperm]; rfl
    case true => rw [Braid.vecOf_two]; simp only [hperm]; rfl
  · exact exec_issued (run := runSplat) rfl h fun b _ => rfl
  · intro t
    obtain ⟨hlive, hcan, htodo, hop, hheld, hfail⟩ := State.issues_iff.1 h
    have ht : s.clause i.toNat 2 (opIs 2 13) runReveal = t := State.clause_eq_issued h fun b _ => rfl
    have hreveal : s.revealClause i.toNat = if (s.braid i.toNat).iter == 0 then
        match (s.braid i.toNat).ten with
        | some n => t.modTen n (fun x => { x with reveals := x.reveals + 1 })
        | none => t
        else t := by
      simp only [State.revealClause, ht, hlive, Braid.issueClause_issues hcan htodo hop hheld hfail, Bool.true_and, Bool.and_true]
        <;> rfl
    show Host.Outcome.next (s.revealClause i.toNat) = _
    rw [hreveal]
    rcases (s.braid i.toNat).iter with _ | k <;> rcases (s.braid i.toNat).ten with _ | n <;> rfl

/-- Settles O8: each operation is one function of the lanes of its sources (`zipLanes_eq`, `Braid.vecOf`), and a dual form does it a second time on
the next registers (`runVec_eq`). -/
theorem vectorLaneClauses : Obligations.VectorLaneClauses := ⟨laneClauses, vectorCompare, moveLanes⟩

end Sys2Proof.Machine
end

section
/-! Loads and stores (O10). -/

namespace Sys2Proof

/-! ## Bytes of a word, little end first (R12) -/

theorem leNat_append (xs ys : List Byte) : leNat (xs ++ ys) = leNat xs + 256 ^ xs.length * leNat ys := by
  induction xs with
  | nil => simp [leNat]
  | cons x xs ih => rw [List.cons_append, leNat, leNat, ih, List.length_cons, pow_succ]; ring

theorem leNat_digits (n x : Nat) : leNat ((List.range n).map (fun j => BitVec.ofNat 8 (x / 256 ^ j))) = x % 256 ^ n := by
  induction n generalizing x with
  | zero => simp [leNat, Nat.mod_one]
  | succ n ih =>
    have htail (j : Nat) : x / 256 ^ (j + 1) = x / 256 / 256 ^ j := by rw [pow_succ', Nat.div_div_eq_div_mul]
    simp only [List.range_succ_eq_map, List.map_cons, List.map_map, Function.comp_def, leNat, htail, ih, BitVec.toNat_ofNat, pow_zero, Nat.div_one]
    rw [pow_succ' 256 n, Nat.mod_mul]

/-- The bytes of a field, little end first, are the field. -/
theorem leNat_fld {w : Nat} (x : BitVec w) (o n : Nat) :
    leNat ((List.range n).map (fun j => BitVec.ofNat 8 (fld x (8 * (o + j)) 8))) = fld x (8 * o) (8 * n) := by
  have hbyte (j : Nat) : BitVec.ofNat 8 (fld x (8 * (o + j)) 8) = BitVec.ofNat 8 ((x >>> (8 * o)).toNat / 256 ^ j) := by
    apply BitVec.eq_of_toNat_eq
    rw [fld, BitVec.toNat_ofNat, BitVec.toNat_ofNat, Nat.mod_mod, BitVec.toNat_ushiftRight, BitVec.toNat_ushiftRight, Nat.shiftRight_eq_div_pow,
      Nat.shiftRight_eq_div_pow, Nat.div_div_eq_div_mul, mul_add, pow_add, pow_mul 2 8 j]
    rfl
  simp only [hbyte, leNat_digits]
  rw [fld, pow_mul 2 8 n]
  rfl

end Sys2Proof

namespace Sys2Proof.Machine

/-! ## What ports note of scratchpads (R168, R170, R171, R198) -/

/-- The braid without what an access of a core port notes beside its effect: errors of scratchpad words and their counters, poison and written
bits of regions, the banks touched. -/
def Braid.bare (b : Braid) : Braid :=
  { b with spPoison := [], written := [], ecc1 := [], ecc2 := [], touched := [], touchedAt := 0, deferred := [], tel := Braid.init.tel }

@[simp] theorem Braid.eccHit_bare (b : Braid) (dma : Bool) (key : Nat) : (b.eccHit dma key).bare = b.bare := rfl
@[simp] theorem Braid.eccFresh_bare (b : Braid) (keys : List Nat) : (b.eccFresh keys).bare = b.bare := rfl
@[simp] theorem Braid.setWritten_bare (b : Braid) (c a : Nat) : (b.setWritten c a).bare = b.bare := rfl
@[simp] theorem Braid.touchAt_bare (b : Braid) (t : Nat) (banks : List Nat) : (b.touchAt t banks).bare = b.bare := rfl
@[simp] theorem Braid.touch_bare (b : Braid) (addrs : List Nat) : (b.touch addrs).bare = b.bare := rfl

/-- A fold of operations that only note something. -/
theorem foldl_bare {α : Type} (f : Braid → α → Braid) (h : ∀ b x, (f b x).bare = b.bare) (l : List α) (b : Braid) :
    (l.foldl f b).bare = b.bare := by
  induction l generalizing b with
  | nil => rfl
  | cons x l ih => rw [List.foldl_cons, ih, h]

@[simp] theorem Braid.eccRead_bare (b : Braid) (keys : List Nat) (dma : Bool) : (b.eccRead keys dma).1.bare = b.bare :=
  foldl_bare (Braid.eccHit · dma) (fun b k => b.eccHit_bare dma k) _ _

@[simp] theorem Braid.eccWrite_bare (b : Braid) (xs : List (Nat × Nat)) (dma : Bool) : (b.eccWrite xs dma).1.bare = b.bare := by
  simp [Braid.eccWrite]

theorem Braid.eccRead_snd (b : Braid) (keys : List Nat) (dma : Bool) : (b.eccRead keys dma).2 = keys.any b.ecc2.has := by
  show (!(keys.filter b.ecc2.has).isEmpty) = _
  rw [Bool.eq_iff_iff, Bool.not_eq_true', List.isEmpty_eq_false_iff_exists_mem, List.any_eq_true]
  exact exists_congr fun k => List.mem_filter

/-- Without an uncorrectable word every write is made. -/
theorem Braid.eccWrite_snd {b : Braid} (h : b.ecc2 = []) (xs : List (Nat × Nat)) (dma : Bool) : (b.eccWrite xs dma).2 = [] := by
  simp [Braid.eccWrite, h, NatSet.has]

@[simp] theorem Braid.result_bare (b : Braid) (n lat : Nat) (d : Dest) (ps : List Part) : (b.result n lat d ps).bare = b.bare.result n lat d ps := rfl

@[simp] theorem Braid.autoInc_bare (b : Braid) (n : Nat) (l : LClause) : (b.autoInc n l).bare = b.bare.autoInc n l :=
  apply_ite Braid.bare _ _ _

@[simp] theorem Braid.stopLater_bare (b : Braid) (st : Byte) (n : Nat) (a : Option FaultAddr) :
    (b.stopLater st n a).bare = b.bare.stopLater st n a := apply_ite Braid.bare _ _ _

/-! ## Addresses (R120, R132) -/

theorem LClause.unit_cases (l : LClause) : l.op = 3 ∧ l.unit = 8 ∨ l.op ≠ 3 ∧ l.unit = 128 := by
  unfold LClause.unit; split <;> simp [*]

/-- An access is aligned to its unit. -/
theorem Braid.unit_dvd_lsAddr (b : Braid) (l : LClause) (k : Nat) : l.unit ∣ b.lsAddr l k := by
  have hmap (a u : Nat) (hu : u = 8 ∨ u = 128) : u ∣ b.mapAddr (a / u * u) := by
    unfold Braid.mapAddr Braid.mapIn
    rcases hu with rfl | rfl <;> (repeat' split) <;> omega
  obtain ⟨-, hu⟩ | ⟨-, hu⟩ := l.unit_cases <;> rw [hu] <;> unfold Braid.lsAddr <;> simp only [hu]
  · exact hmap _ 8 (.inl rfl)
  · exact hmap _ 128 (.inr rfl)

/-! ## What a load reads (R120) -/

theorem spKey_add_lt {k a j : Nat} (h : a % 16 + j < 16) : spKey k (a + j) = spKey k a := by unfold spKey; omega
theorem spKey_add_16 (k a : Nat) : spKey k (a + 16) = spKey k a + 1 := by unfold spKey; omega

/-- Bytes of one ECC word. -/
theorem Braid.leNat_spBytes (b : Braid) (k : Nat) {a n : Nat} (h : a % 16 + n ≤ 16) :
    leNat ((List.range n).map (fun j => b.spByte k (a + j))) = fld (Sparse.get 0 b.sp (spKey k a)) (8 * (a % 16)) (8 * n) := by
  rw [← leNat_fld]
  congr 1
  refine List.map_congr_left fun j hj => ?_
  have hj := List.mem_range.1 hj
  rw [Braid.spByte, spKey_add_lt (by omega), show (a + j) % 16 = a % 16 + j by omega]

/-- Bytes of whole ECC words. -/
theorem Braid.leNat_spWords (b : Braid) (k : Nat) (n : Nat) {a : Nat} (h : a % 16 = 0) :
    leNat ((List.range (16 * n)).map (fun j => b.spByte k (a + j))) =
      packWords ((List.range n).map (fun i => Sparse.get 0 b.sp (spKey k a + i))) := by
  induction n generalizing a with
  | zero => rfl
  | succ n ih =>
    have hrange : List.range (16 * (n + 1)) = List.range 16 ++ (List.range (16 * n)).map (16 + ·) := by
      rw [← List.range_add, mul_add, add_comm]
    have hfirst : leNat ((List.range 16).map (fun j => b.spByte k (a + j))) = (Sparse.get 0 b.sp (spKey k a)).toNat := by
      rw [b.leNat_spBytes k (by omega), h, fld]
      exact Nat.mod_eq_of_lt (BitVec.isLt _)
    have hrest := ih (a := a + 16) (by omega)
    simp only [spKey_add_16, Nat.add_assoc, Nat.add_comm 1] at hrest
    rw [hrange, List.map_append, leNat_append, hfirst, List.map_map, List.length_map, List.length_range, List.range_succ_eq_map, List.map_cons,
      packWords, List.map_map]
    simp only [Function.comp_def, Nat.add_zero, ← hrest]
    rfl

/-- The value that a load reads on core `k` at an aligned address is that of its bytes. -/
theorem Braid.loadValue_eq (b : Braid) (k : Nat) {a u : Nat} (ha : u ∣ a) (hu : u = 8 ∨ u = 128) : b.loadValue k a u =
    if u = 8 then (if b.clearingAt a then 0 else fld (Sparse.get 0 b.sp (spKey k a)) (8 * (a % 16)) 64) else packWords (b.readWords k a 8) := by
  unfold Braid.loadValue
  rcases hu with rfl | rfl
  · rw [b.leNat_spBytes k (by omega)]; rfl
  · rw [b.leNat_spWords k 8 (by omega), if_neg (show ¬ (128 = 8) by decide), Braid.readWords, apply_ite packWords]
    rfl

/-! ## Loads -/

/-- Where a load of iteration `it` lands (R120). -/
def LClause.loadDest (l : LClause) (it : Nat) : Dest :=
  if l.op = 1 then .v (l.reg it % 32) else if l.op = 2 then .row l.td (l.reg it % 16) else .s (l.reg it % 32)

/-- What a load brings to core `k` (R79, R110). -/
def Braid.loadPart (b : Braid) (l : LClause) (k : Nat) : Part :=
  { core := k, val := BitVec.ofNat 1024 (b.loadValue k (b.lsAddr l k) l.unit), hi := 0, mask := b.lsMask l k
    full := l.op == 1 && b.lsMask l k == allLanes b.m32 || l.op == 3 && b.lsMask l k == 1
    sealed := b.sealedAt (b.lsAddr l k), poison := false, addr := b.lsAddr l k, bytes := [] }

/-- The ECC words that a load reads on all cores. -/
def Braid.loadWords (b : Braid) (l : LClause) : List Nat := b.cores.flatMap (fun k => wordsOf k (b.lsAddr l k) l.unit)

theorem runLoad_bare (b : Braid) (c : BitVec 96) (it : Nat) : (runLoad b c it).bare =
    let l := lClause c
    let b1 := (b.bare.result 4 8 (l.loadDest it) (b.cores.map (b.loadPart l))).autoInc 4 l
    if (b.loadWords l).any b.ecc2.has then b1.stopLater Status.eccUncorrected 4 (b.badWord (b.loadWords l)) else b1 := by
  have hval (k : Nat) := b.loadValue_eq k (b.unit_dvd_lsAddr (lClause c) k) ((lClause c).unit_cases.imp And.right And.right)
  have hwords : (b.cores.map (fun k => (k, b.lsAddr (lClause c) k))).flatMap (fun x => wordsOf x.1 x.2 (lClause c).unit) =
      b.loadWords (lClause c) := List.flatMap_map _ _ _
  simp only [runLoad, apply_ite Braid.bare, Braid.stopLater_bare, Braid.autoInc_bare, Braid.result_bare, Braid.touch_bare, Braid.eccRead_bare,
    hwords, Braid.eccRead_snd, List.map_map]
  unfold Braid.loadPart
  simp only [hval]
  rfl

/-- A result put in flight, and after it the advance of the address register (R109). -/
theorem Braid.flights_result_autoInc (b : Braid) (n lat : Nat) (d : Dest) (ps : List Part) (l : LClause) :
    ((b.result n lat d ps).autoInc n l).flights = b.flights ++
      [{ due := b.issueAt + lat, clause := n, order := b.order, dest := d, merge := .replace, parts := ps, xport := none }] ++
      (if l.inc then
        [{ due := b.issueAt + 1, clause := n, order := b.order + 1, dest := .aOffset l.areg, merge := .replace, xport := none
           parts := b.cores.map (fun k => wordPart k ((b.getA k l.areg).adv (b.getA k l.areg).step).toNat false) }] else []) := by
  unfold Braid.autoInc
  split
  · rfl
  · exact (List.append_nil _).symm

/-- Registers, scratchpads and seal map of a braid. -/
def Braid.store (b : Braid) :
    Sparse SReg × Sparse AReg × Sparse VCell × Sparse VReg × Sparse (BitVec 32) × Sparse (BitVec 128) × W64 :=
  (b.s, b.a, b.v, b.t, b.p, b.sp, b.sealMap)

theorem Braid.store_eq_iff {b x : Braid} : x.store = b.store ↔
    x.s = b.s ∧ x.a = b.a ∧ x.v = b.v ∧ x.t = b.t ∧ x.p = b.p ∧ x.sp = b.sp ∧ x.sealMap = b.sealMap := by
  simp [Braid.store]

@[simp] theorem Braid.bare_store (b : Braid) : b.bare.store = b.store := rfl
@[simp] theorem Braid.result_store (b : Braid) (n lat : Nat) (d : Dest) (ps : List Part) : (b.result n lat d ps).store = b.store := rfl

@[simp] theorem Braid.autoInc_store (b : Braid) (n : Nat) (l : LClause) : (b.autoInc n l).store = b.store := by
  unfold Braid.autoInc; split <;> rfl

@[simp] theorem Braid.autoInc_stop (b : Braid) (n : Nat) (l : LClause) : (b.autoInc n l).stop = b.stop := by
  unfold Braid.autoInc; split <;> rfl

@[simp] theorem Braid.autoInc_pc (b : Braid) (n : Nat) (l : LClause) : (b.autoInc n l).pc = b.pc := by
  unfold Braid.autoInc; split <;> rfl

@[simp] theorem Braid.stopLater_store (b : Braid) (st : Byte) (n : Nat) (a : Option FaultAddr) : (b.stopLater st n a).store = b.store := by
  unfold Braid.stopLater; split <;> rfl

@[simp] theorem Braid.stopLater_flights (b : Braid) (st : Byte) (n : Nat) (a : Option FaultAddr) : (b.stopLater st n a).flights = b.flights := by
  unfold Braid.stopLater; split <;> rfl

theorem Braid.stopLater_stop {b : Braid} (h : b.stop = none) (st : Byte) (n : Nat) (a : Option FaultAddr) :
    (b.stopLater st n a).stop = some { status := st, pc := b.pc, clause := BitVec.ofNat 3 n } := by
  simp [Braid.stopLater, h]

section
variable (b : Braid) (c : BitVec 96) (it : Nat)

/-- What a load puts in flight. -/
theorem runLoad_flights : (runLoad b c it).flights =
    ((b.bare.result 4 8 ((lClause c).loadDest it) (b.cores.map (b.loadPart (lClause c)))).autoInc 4 (lClause c)).flights := by
  have h := congrArg Braid.flights (runLoad_bare b c it)
  simp only [apply_ite Braid.flights, Braid.stopLater_flights, ite_self] at h
  exact h

/-- No register and no byte changes in the cycle of a load (R109). -/
theorem runLoad_store : (runLoad b c it).store = b.store := by
  rw [← Braid.bare_store, runLoad_bare]
  simp [apply_ite Braid.store]

/-- An uncorrectable word stops the kernel (R171). -/
theorem runLoad_stop : (runLoad b c it).stop = if (b.loadWords (lClause c)).any b.ecc2.has then
    ((b.bare.result 4 8 ((lClause c).loadDest it) (b.cores.map (b.loadPart (lClause c)))).autoInc 4 (lClause c)).stopLater Status.eccUncorrected 4
      (b.badWord (b.loadWords (lClause c))) |>.stop else b.stop := by
  have h := congrArg Braid.stop (runLoad_bare b c it)
  simp only [apply_ite Braid.stop, Braid.autoInc_stop] at h
  exact h
end

theorem loadClauses : Says.LoadClauses := by
  intro s i r hr h
  obtain ⟨-, -, -, hok, -⟩ := State.issues_iff.1 h
  refine ⟨fun b => runLoad b (clauseOf b.cur 4) b.iter, exec_issued (run := runLoad) (by fin_cases hr <;> rfl) h fun _ _ => rfl, ?_⟩
  obtain ⟨cmd, op⟩ := r
  dsimp only at hok ⊢
  rw [← Braid.opening_cur] at hok
  generalize (s.braid i.toNat).opening = b at hok ⊢
  obtain rfl : (lClause (clauseOf b.cur 4)).op = op := beq_iff_eq.1 hok
  obtain ⟨hs, ha, hv, ht, hp, hsp, hmap⟩ := Braid.store_eq_iff.1 (runLoad_store b (clauseOf b.cur 4) b.iter)
  refine ⟨?_, hs, ha, hv, ht, hp, hsp, hmap, ?_, ?_⟩
  · rw [runLoad_flights, Braid.flights_result_autoInc]
    rfl
  · intro hecc
    have hnone : (b.loadWords (lClause (clauseOf b.cur 4))).any b.ecc2.has = false := by simp [hecc, NatSet.has]
    rw [runLoad_stop, hnone]
    rfl
  · rintro ⟨k, hk, w, hw, hbad⟩ hstop
    have hany : (b.loadWords (lClause (clauseOf b.cur 4))).any b.ecc2.has = true :=
      List.any_eq_true.2 ⟨w, List.mem_flatMap.2 ⟨k, hk, hw⟩, List.contains_iff_mem.2 hbad⟩
    rw [runLoad_stop, hany, if_pos rfl, Braid.stopLater_stop]
    · rw [Braid.autoInc_pc]; rfl
    · rw [Braid.autoInc_stop]; exact hstop

/-! ## Stores -/

/-- The selected lanes of a value, byte by byte. -/
theorem laneBytes_eq {wb : Nat} (hwb : 0 < wb) (mask : BitVec 32) (n a : Nat) (v : VReg) : laneBytes wb mask n a v =
    ((List.range (wb * n)).filter (fun j => bit mask (j / wb))).map (fun j => (a + j, BitVec.ofNat 8 (fld v (8 * j) 8))) := by
  induction n with
  | zero => rfl
  | succ n ih =>
    have hrest : ((List.range wb).map (wb * n + ·)).filter (fun j => bit mask (j / wb)) =
        if bit mask n then (List.range wb).map (wb * n + ·) else [] := by
      have hlane : ∀ j ∈ (List.range wb).map (wb * n + ·), bit mask (j / wb) = bit mask n := by
        intro j hj
        obtain ⟨k, hk, rfl⟩ := List.mem_map.1 hj
        rw [Nat.mul_add_div hwb, Nat.div_eq_of_lt (List.mem_range.1 hk), Nat.add_zero]
      rw [List.filter_congr hlane]
      cases bit mask n <;> simp
    rw [laneBytes, List.range_succ, List.flatMap_append, ← laneBytes, ih, mul_add_one, List.range_add, List.filter_append, List.map_append, hrest]
    congr 1
    cases hm : bit mask n <;> simp [hm, Function.comp_def, Nat.add_assoc]

/-- The bytes of a store on core `k`. -/
theorem Braid.storeBytes_eq (b : Braid) (l : LClause) (i k : Nat) : b.storeBytes l i k =
    if b.clearingAt (b.lsAddr l k) then [] else
      laneBytes (if l.op = 3 then 8 else Arith.laneW b.m32 / 8) (b.lsMask l k) (if l.op = 3 then 1 else Arith.laneN b.m32) (b.lsAddr l k)
        (b.storeSource l i k).1 := by
  have hunit : (if l.op = 3 then 8 else Arith.laneW b.m32 / 8) * (if l.op = 3 then 1 else Arith.laneN b.m32) = l.unit := by
    unfold LClause.unit
    split
    · rfl
    · cases b.m32 <;> rfl
  have hpos : 0 < if l.op = 3 then 8 else Arith.laneW b.m32 / 8 := by
    split
    · decide
    · cases b.m32 <;> decide
  rw [laneBytes_eq hpos, hunit]
  rfl

/-- What a store does on each core: core, address, bytes, poison of the source. -/
def Braid.storeActs (b : Braid) (l : LClause) (i : Nat) : List (Nat × Nat × List (Nat × Byte) × Bool) :=
  b.cores.map (fun k => (k, b.lsAddr l k, b.storeBytes l i k, (b.storeSource l i k).2))

/-- What a store leaves on core `k` of those acts, the words `lost` unwritten. -/
def storePart (lost : List Nat) (x : Nat × Nat × List (Nat × Byte) × Bool) : Part :=
  { wordPart x.1 0 false with
    addr := x.2.1, poison := x.2.2.2 && !x.2.2.1.isEmpty, bytes := x.2.2.1.filter (fun y => !lost.contains (spKey x.1 y.1)) }

theorem runStore_eq (b : Braid) (c : BitVec 96) (it : Nat) : runStore b c it =
    let l := lClause c
    let acts := b.storeActs l (l.reg it)
    let merged := b.eccWrite (acts.flatMap (fun x => x.2.2.1.map (fun y => (x.1, y.1)))) false
    let b1 := acts.foldl (fun b x => x.2.2.1.foldl (fun b y => b.setWritten x.1 y.1) b) merged.1
    let b2 := ((b1.touch (acts.map (fun x => x.2.1))).result 5 8 .mem (acts.map (storePart merged.2))).autoInc 5 l
    if !merged.2.isEmpty then b2.stopLater Status.eccUncorrected 5 (b.badWord merged.2) else b2 := by
  unfold Braid.storeActs
  simp only [Braid.storeBytes_eq]
  rfl

theorem runStore_bare {b : Braid} (hecc : b.ecc2 = []) (c : BitVec 96) (it : Nat) : (runStore b c it).bare =
    (b.bare.result 5 8 .mem ((b.storeActs (lClause c) ((lClause c).reg it)).map (storePart []))).autoInc 5 (lClause c) := by
  have hcore (k : Nat) (bs : List (Nat × Byte)) (x : Braid) : (bs.foldl (fun b y => b.setWritten k y.1) x).bare = x.bare :=
    foldl_bare (fun b y => b.setWritten k y.1) (fun b y => b.setWritten_bare k y.1) bs x
  have hnoted (acts : List (Nat × Nat × List (Nat × Byte) × Bool)) (x : Braid) :
      (acts.foldl (fun b x => x.2.2.1.foldl (fun b y => b.setWritten x.1 y.1) b) x).bare = x.bare :=
    foldl_bare (fun b x => x.2.2.1.foldl (fun b y => b.setWritten x.1 y.1) b) (fun b x => hcore x.1 x.2.2.1 b) acts x
  simp only [runStore_eq, Braid.eccWrite_snd hecc, List.isEmpty_nil, Bool.not_true, Bool.false_eq_true, if_false, Braid.autoInc_bare,
    Braid.result_bare, Braid.touch_bare, hnoted, Braid.eccWrite_bare]

theorem storeClauses : Says.StoreClauses := by
  intro s i r hr h hecc
  obtain ⟨-, -, -, hok, -⟩ := State.issues_iff.1 h
  refine ⟨fun b => runStore b (clauseOf b.cur 5) b.iter, exec_issued (run := runStore) (by fin_cases hr <;> rfl) h fun _ _ => rfl, ?_⟩
  have hecc : (s.braid i.toNat).opening.ecc2 = [] := by unfold Braid.opening; split <;> exact hecc
  dsimp only
  generalize (s.braid i.toNat).opening = b at hecc ⊢
  have hbare := runStore_bare hecc (clauseOf b.cur 5) b.iter
  have hstore : (runStore b (clauseOf b.cur 5) b.iter).store = b.store := by rw [← Braid.bare_store, hbare]; simp
  obtain ⟨hs, ha, hv, ht, hp, hsp, hmap⟩ := Braid.store_eq_iff.1 hstore
  refine ⟨?_, hs, ha, hv, ht, hp, hsp, hmap, ?_⟩
  · refine (congrArg Braid.flights hbare).trans ?_
    rw [Braid.flights_result_autoInc, Braid.storeActs, List.map_map]
    have hpart (k : Nat) (bs : List (Nat × Byte)) : bs.filter (fun y => !([] : List Nat).contains (spKey k y.1)) = bs := by simp
    simp only [Function.comp_def, storePart, hpart]
    rfl
  · exact (congrArg Braid.stop hbare).trans (Braid.autoInc_stop _ _ _)

/-- Settles O10: beside what it notes of the scratchpads (`Braid.bare`), a load or store puts one result in flight and, with INC, the advance of its
address register (`Braid.flights_result_autoInc`). -/
theorem memoryClauses : Obligations.MemoryClauses := ⟨loadClauses, storeClauses⟩

end Sys2Proof.Machine
end

section
/-! Results in flight land (O13); drains, clearings and wipes end (O14). -/

namespace Sys2Proof.Machine

/-! ## A scalar result lands (R124) -/

/-- The low bits of a word are those of its number. -/
theorem fld_ofNat {w n : Nat} (v : Nat) (h : n ≤ w) : fld (BitVec.ofNat w v) 0 n = v % 2 ^ n := by
  rw [fld, BitVec.ushiftRight_zero, BitVec.toNat_ofNat, Nat.mod_mod_of_dvd _ (pow_dvd_pow 2 h)]

/-- The parts of a result land one by one. -/
theorem Braid.landOne_cons (st : Braid × Sparse (BitVec 32) × NatSet) (f : Landing) (p : Part) (ps : List Part) :
    Braid.landOne st { f with parts := p :: ps } = Braid.landOne (Braid.landOne st { f with parts := [p] }) { f with parts := ps } := by
  obtain ⟨due, clause, order, dest, merge, parts, xport, run⟩ := f
  cases dest <;> rfl

section
variable {f : Landing} {r : Nat} (hdest : f.dest = .s r)
include hdest

/-- A word for a scalar register that no other result of the cycle has claimed is the register's value and case. -/
theorem Braid.landOne_word {x : Braid} {claims : Sparse (BitVec 32)} {lost : NatSet} {k : Nat} (v : Nat) (c : Bool)
    (hfree : Sparse.get 0 claims (r * 64 + k) = 0) : Braid.landOne (x, claims, lost) { f with parts := [wordPart k v c] } =
      (x.setS k r { val := BitVec.ofNat 64 v, sealed := c }, Sparse.set 0 claims (r * 64 + k) 1, lost) := by
  have hval : BitVec.ofNat 64 (fld (BitVec.ofNat 1024 v) 0 64) = BitVec.ofNat 64 v := by
    rw [fld_ofNat v (by decide)]
    exact BitVec.eq_of_toNat_eq (by simp only [BitVec.toNat_ofNat, Nat.mod_mod])
  obtain ⟨due, clause, order, dest, merge, parts, xport, run⟩ := f
  obtain rfl : dest = .s r := hdest
  have hkey : Sparse.get 0 claims (([r].headD 0) * 64 + (wordPart k v c).core) = 0 := hfree
  have hmask : (wordPart k v c).mask = 1 := rfl
  simp only [Braid.landOne, List.foldl_cons, List.foldl_nil, Dest.keys, hkey, hmask, Bool.false_and, Bool.false_eq_true, if_false]
  rw [← hval]
  rfl

/-- The words of distinct cores all become their registers' values. -/
theorem Braid.landOne_words (val : Nat → Nat) (sealed : Nat → Bool) {cs : List Nat} (hcs : cs.Nodup) {x : Braid} {claims : Sparse (BitVec 32)}
    {lost : NatSet} (hwf : Sparse.wf 0 claims = true) (hfree : ∀ k ∈ cs, Sparse.get 0 claims (r * 64 + k) = 0) :
    ∃ m, Braid.landOne (x, claims, lost) { f with parts := cs.map (fun k => wordPart k (val k) (sealed k)) } =
      (cs.foldl (fun y k => y.setS k r { val := BitVec.ofNat 64 (val k), sealed := sealed k }) x, m, lost) := by
  induction cs generalizing x claims with
  | nil => exact ⟨claims, rfl⟩
  | cons k cs ih =>
    obtain ⟨hk, hcs⟩ := List.nodup_cons.1 hcs
    rw [List.map_cons, Braid.landOne_cons, Braid.landOne_word hdest _ _ (hfree k List.mem_cons_self)]
    refine ih hcs (Sparse.set_wf hwf _ _) fun j hj => ?_
    have hne : j ≠ k := by rintro rfl; exact hk hj
    rw [Sparse.get_set_ne hwf _ (by omega)]
    exact hfree j (List.mem_cons_of_mem _ hj)
end

theorem Braid.foldl_setS (r : Nat) (w : Nat → SReg) (cs : List Nat) (x : Braid) :
    cs.foldl (fun y k => y.setS k r (w k)) x = { x with s := cs.foldl (fun m k => Sparse.set SReg.init m (k * 32 + r % 32) (w k)) x.s } := by
  induction cs generalizing x with
  | nil => rfl
  | cons k cs ih => rw [List.foldl_cons, ih]; rfl

theorem Braid.cores_nodup (b : Braid) : b.cores.Nodup := List.nodup_range

/-- A scalar result that lands alone. -/
theorem Braid.land_word {b : Braid} {d r : Nat} (i n o : Nat) (val : Nat → Nat) (sealed : Nat → Bool) (hr : r < 32) (hweave : b.weave = none)
    (hf : b.flights = [{ due := d, clause := n, order := o, dest := .s r, merge := .replace, xport := none
                         parts := b.cores.map (fun k => wordPart k (val k) (sealed k)) }]) :
    (b.land i d).flights = [] ∧
    (b.land i d).s = b.cores.foldl (fun m k => Sparse.set SReg.init m (k * 32 + r) { val := BitVec.ofNat 64 (val k), sealed := sealed k }) b.s := by
  obtain ⟨m, hm⟩ := Braid.landOne_words (f := { due := d, clause := n, order := o, dest := .s r, merge := .replace, xport := none, parts := [] })
    (r := r) rfl val sealed b.cores_nodup (x := { b with flights := [], cycle := Nat.max b.cycle d, weave := none }) (claims := []) (lost := []) rfl (fun _ _ => rfl)
  have hland : b.land i d = { b.cores.foldl (fun y k => y.setS k r { val := BitVec.ofNat 64 (val k), sealed := sealed k })
      { b with flights := [], cycle := Nat.max b.cycle d, weave := none } with tel := (b.land i d).tel } := by
    unfold Braid.land
    simp only [hweave, hf, List.filter_cons, beq_self_eq_true, if_true, List.filter_nil, List.foldl_cons, List.foldl_nil, insertLanding, bne_self_eq_false,
      Bool.false_eq_true, if_false, hm, List.filterMap_cons, List.filterMap_nil, List.isEmpty_nil]
  rw [hland, Braid.foldl_setS, Nat.mod_eq_of_lt hr]
  exact ⟨rfl, rfl⟩

theorem resultLands : Says.ResultLands := by
  refine ⟨?_, fun b i d r n o val sealed hr hweave hf => Braid.land_word i n o val sealed hr hweave hf⟩
  intro s i d hlive b hdue hmay
  obtain ⟨hweave, hreach⟩ := Bool.and_eq_true_iff.1 hmay
  have hfirst : (match b.weave with | none => false | some w => decide (w.due < d)) = false := by
    cases h : b.weave with
    | none => rfl
    | some w => rw [h] at hweave; simpa using hweave
  have hland : b.landNext i.toNat = (b.land i.toNat d).holdTo d := by
    simp only [Braid.landNext, hdue, hreach, Bool.not_true, Bool.or_false, ite_eq_right_iff]
    intro h
    exact absurd (h.symm.trans hfirst) (by decide)
  calc exec (.resultLanding i) s = .next (s.braidStep i.toNat (·.landNext i.toNat)) := rfl
    _ = .next (s.afterBraid i.toNat ((b.land i.toNat d).holdTo d)) := by rw [State.braidStep_live _ _ hlive, hland]

/-! ## The exchange of a WEAVE (R113, R177–R179) -/

/-- A WEAVE beside what its reads note: the exchange is in flight, and an uncorrectable word stops the kernel. -/
theorem runWeave_bare {b : Braid} (hecc : b.ecc2 = []) (c : BitVec 96) (it : Nat) : (runWeave b c it).bare =
    { b.bare with
      weave := some
        { due := b.issueAt + 24 + (if b.fold then 2 * (fld c 40 10 + 1) else fld c 40 10 + 1), issuedAt := b.issueAt, pc := b.pc
          runs := (b.weavePlan c).map (fun x =>
            { core := x.dst, addr := x.da, step := weaveStepOf b.m32 c
              data := chunks (if b.m32 then 4 else 8) x.n ((List.range x.n).map (fun k => b.weaveByte x.src (x.sa + k))) }) } } := by
  have hread (t : Nat) (banks keys : List Nat) : ((b.touchAt t banks).eccRead keys false).2 = false := by
    rw [Braid.eccRead_snd, List.any_eq_false]
    have htouch : (b.touchAt t banks).ecc2 = [] := hecc
    exact fun k _ => by simp [htouch, NatSet.has]
  have hbare (t : Nat) (banks keys : List Nat) : ((b.touchAt t banks).eccRead keys false).1.bare = b.bare := by
    rw [Braid.eccRead_bare, Braid.touchAt_bare]
  simp only [runWeave, hread, Bool.false_eq_true, if_false]
  rw [← hbare]
  rfl

/-- Bytes written change the scratchpads alone. -/
theorem Braid.foldl_putByte (ws : List (Nat × Nat × Byte)) (b : Braid) : ws.foldl (fun (x : Braid) y => x.putByte y.1 y.2.1 y.2.2) b =
    { b with sp := (ws.foldl (fun (x : Braid) y => x.putByte y.1 y.2.1 y.2.2) b).sp } := by
  induction ws generalizing b with
  | nil => rfl
  | cons w ws ih => exact (ih _).trans rfl

/-- The write of bytes, each noted as written, beside the notes. -/
theorem Braid.foldl_putByte_bare (ws : List (Nat × Nat × Byte)) (b : Braid) :
    (ws.foldl (fun (b : Braid) x => (b.putByte x.1 x.2.1 x.2.2).setWritten x.1 x.2.1) b).bare =
      ws.foldl (fun (x : Braid) y => x.putByte y.1 y.2.1 y.2.2) b.bare := by
  induction ws generalizing b with
  | nil => rfl
  | cons w ws ih => exact (ih _).trans rfl

/-- Bytes written, and the notes taken away after it or before. -/
theorem Braid.bare_foldl_putByte (ws : List (Nat × Nat × Byte)) (b : Braid) :
    (ws.foldl (fun (x : Braid) y => x.putByte y.1 y.2.1 y.2.2) b).bare = ws.foldl (fun (x : Braid) y => x.putByte y.1 y.2.1 y.2.2) b.bare := by
  induction ws generalizing b with
  | nil => rfl
  | cons w ws ih => exact (ih _).trans rfl

/-- With nothing else in flight, no clearing and no uncorrectable word, an exchange writes every byte (R177). -/
theorem Braid.weaveWrite_bare {b : Braid} {w : WeaveFlight} (hf : b.flights = []) (hclear : b.clear = []) (hecc : b.ecc2 = []) :
    (b.weaveWrite w).bare =
      let y := ((b.weaveBytes w).foldl (fun (x : Braid) y => x.putByte y.1 y.2.1 y.2.2) b).bare
      { y with weave := none, cycle := Nat.max y.cycle w.due } := by
  have hwins (ws : List (Nat × Nat)) : b.weaveWins w.due ws = b := by simp [Braid.weaveWins, hf]
  have hopen (a : Nat) : b.clearingAt a = false := by rw [Braid.clearingAt, hclear]; rfl
  have hall (ws : List (Nat × Nat × Byte)) : ws.filter (fun _ => !false) = ws := by simp
  have hnone (ws : List (Nat × Nat × Byte)) : ws.filter (fun x => !([] : List Nat).contains (spKey x.1 x.2.1)) = ws := by simp
  simp only [Braid.weaveWrite, hwins, hopen, hall, Braid.eccWrite_snd hecc, hnone, List.isEmpty_nil, if_true, Braid.touchAt_bare]
  rw [Braid.bare_foldl_putByte, ← Braid.eccWrite_bare b (((b.weaveBytes w)).map (fun x => (x.1, x.2.1))) false, ← Braid.foldl_putByte_bare]
  rfl

/-- Issue that is held moves on: its cycle and its counters change. -/
theorem Braid.holdTo_eq (b : Braid) (d : Nat) : b.holdTo d = { b with issueAt := (b.holdTo d).issueAt, tel := (b.holdTo d).tel } := by
  unfold Braid.holdTo Braid.advanceTo
  split
  · split <;> rfl
  · rfl

theorem weaveExchanges : Says.WeaveExchanges := by
  constructor
  · intro s i h hecc
    refine ⟨fun b => runWeave b (clauseOf b.cur 0) b.iter, exec_issued (run := runWeave) rfl h fun _ _ => rfl, ?_⟩
    have hecc : (s.braid i.toNat).opening.ecc2 = [] := by unfold Braid.opening; split <;> exact hecc
    have h := runWeave_bare hecc (clauseOf (s.braid i.toNat).opening.cur 0) (s.braid i.toNat).opening.iter
    exact ⟨congrArg Braid.weave h, (congrArg Braid.sp h :), (congrArg Braid.flights h :), (congrArg Braid.s h :), (congrArg Braid.v h :),
      (congrArg Braid.stop h :)⟩
  · intro s i w hlive b hweave hf hclear hecc hreach
    have hland : b.landWeave = (b.weaveWrite w).holdTo w.due := by
      simp [Braid.landWeave, hweave, hf, hreach]
    have h := Braid.weaveWrite_bare (w := w) hf hclear hecc
    rw [Braid.foldl_putByte] at h
    refine ⟨(b.weaveWrite w).holdTo w.due, ?_, ?_⟩
    · calc exec (.weaveLanding i) s = .next (s.braidStep i.toNat Braid.landWeave) := rfl
        _ = .next (s.afterBraid i.toNat ((b.weaveWrite w).holdTo w.due)) := by rw [State.braidStep_live _ _ hlive, hland]
    · rw [Braid.holdTo_eq]
      exact ⟨(congrArg Braid.weave h :), (congrArg Braid.sp h :), (congrArg Braid.s h :), (congrArg Braid.v h :), (congrArg Braid.sealMap h :)⟩

/-- Settles O13: results of the earliest due cycle land, a scalar word in the register of each core, and an exchange writes its bytes; what the
accesses of the core ports note beside that is set apart by `Braid.bare`. -/
theorem resultsLand : Obligations.ResultsLand := ⟨resultLands, weaveExchanges⟩

end Sys2Proof.Machine
end

section
/-! The end of a drain at a hitch point, of a clearing and of the context-switch wipe (O14). -/

namespace Sys2Proof.Machine

theorem Braid.advanceTo_eq (b : Braid) (t : Nat) : b.advanceTo t = { b with issueAt := t, tel := (b.advanceTo t).tel } := by
  unfold Braid.advanceTo; split <;> rfl

/-- What the end of a drain makes of a braid where no fold pass is due (R129, R132): the hitch points are counted with the drain, and the
braid issues again, or its issue has ended where the kernel ends. -/
theorem Braid.drainOver_eq {b : Braid} (h : b.passDue = false) : b.drainOver =
    let x := b.advanceTo b.drainEnd
    let y := { x with cycle := b.drainEnd
                      tel := { x.tel with hitch := b.tel.hitch + ((if b.hitchReq then 1 else 0) + (if b.atEnd then 1 else 0))
                                          drain := b.tel.drain + BitVec.ofNat 32 (b.drainEnd - b.drainAt) } }
    if b.atEnd then { y with phase := .ended }
    else Braid.settle settleFuel
      { y with phase := .issuing, hitchReq := false, pass := false, mark := { pc := b.pc, loops := b.loops, lcs := b.lcs } } := by
  simp only [Braid.drainOver, h, Bool.and_false, Bool.false_eq_true, if_false]
  rw [Braid.advanceTo_eq]
  rfl

/-- Where nobody preempts, a hitch point goes on once its drain is over (R129). -/
theorem State.hitchEnd_onward {s : State} {i : Nat} (hlive : s.live = true) (hdrained : (s.braid i).drained = true)
    (hpll : (s.braid i).pllUp = true) (hlink : (s.braid i).linkDown = false) (hpre : (s.braid i).preempt = none) :
    s.hitchEnd i = s.afterBraid i (s.braid i).drainOver := by
  simp only [State.hitchEnd, hlive, hdrained, hpll, hlink, hpre, Bool.not_false, Bool.and_self, Bool.not_true, Bool.false_eq_true, if_false]
  cases (s.braid i).tok.bind s.tok <;> rfl

/-- The clearing at the front of a bank's queue ends: its region is zero, and open unless it stays sealed (R175, R176). -/
theorem Braid.clearDone_cons {b : Braid} {k : Nat} {c : Clearing} {q : List Clearing} (h : Sparse.get [] b.clear k = c :: q) :
    (b.clearDone k).sp = b.sp.filter (fun e => e.1 % 2 ^ 18 / 4096 != c.region) ∧
    (b.clearDone k).sealMap = (if c.keep then b.sealMap else b.sealMap &&& ~~~(BitVec.ofNat 64 (2 ^ c.region))) ∧
    (b.clearDone k).clear = Sparse.set [] b.clear k q ∧
    (b.clearDone k).s = b.s ∧ (b.clearDone k).v = b.v ∧ (b.clearDone k).t = b.t := by
  unfold Braid.clearDone
  rw [h]
  exact ⟨rfl, rfl, rfl, rfl, rfl, rfl⟩

/-- Settles O14: each of the three events is said once of the braid, and a live module does it to the braid named. -/
theorem drainsAndWipesEnd : Obligations.DrainsAndWipesEnd := by
  intro s i b
  refine ⟨fun hlive hdrained hpll hlink hpass hpre => ?_, fun k c q hlive hq => ?_, fun hlive hphase hpll => ?_⟩
  · calc exec (.hitchDrainEnd i) s = .next (s.hitchEnd i.toNat) := rfl
      _ = .next (s.afterBraid i.toNat b.drainOver) := by rw [State.hitchEnd_onward hlive hdrained hpll hlink hpre]
      _ = _ := by rw [Braid.drainOver_eq hpass]
  · refine ⟨b.clearDone k.toNat, ?_, Braid.clearDone_cons hq⟩
    calc exec (.sealClearingDone i k) s = .next ((s.braidStep i.toNat (·.clearDone k.toNat)).noteStalls) := rfl
      _ = .next ((s.afterBraid i.toNat (b.clearDone k.toNat)).noteStalls) := by rw [State.braidStep_live _ _ hlive]
  · have hwiping : (s.live && (s.braid i.toNat).phase == .wiping && (s.braid i.toNat).pllUp) = true := by
      rw [hlive, hphase, hpll]; rfl
    calc exec (.scratchpadWipeDone i) s = .next (s.modBraid i.toNat Braid.wipe) :=
          congrArg Host.Outcome.next (if_pos hwiping)
      _ = _ := rfl

end Sys2Proof.Machine
end

section
/-! What a clause leaves alone (O11). -/

namespace Sys2Proof.Machine

/-! ## Outside the braids (R137, R138) -/

/-- The state without what a clause may change outside its braid: interrupt sources, the black box, the hazard watch's counters, free draws
and multicast groups. -/
def State.aside (s : State) : State :=
  { s with ic := Ic.init, bbx := Bbx.init, dbg := Dbg.init, draws := 0, sch := { s.sch with groups := [] } }

/-- The braids as well are left out. -/
def State.outside (s : State) : State := { s.aside with braids := [] }

/-- What `State.outside` leaves out, taken from `t`. -/
def State.within (s t : State) : State :=
  { s with braids := t.braids, ic := t.ic, bbx := t.bbx, dbg := t.dbg, draws := t.draws, sch := { s.sch with groups := t.sch.groups } }

theorem State.sameOutside_iff {s t : State} : s.sameOutside t ↔ t.outside = s.outside := by
  constructor
  · intro h
    exact (congrArg State.outside h).trans rfl
  · intro h
    calc t = t.outside.within t := rfl
      _ = s.outside.within t := by rw [h]
      _ = s.within t := rfl

@[simp] theorem State.free_aside (s : State) : s.free.2.aside = s.aside := rfl
@[simp] theorem State.setSrc_aside (s : State) (i : Nat) (x : SrcSt) : (s.setSrc i x).aside = s.aside := rfl
@[simp] theorem State.leaveGroups_aside (s : State) (i : Nat) : (s.leaveGroups i).aside = s.aside := rfl
@[simp] theorem State.leaveAtEnd_aside (s : State) (i : Nat) : (s.leaveAtEnd i).aside = s.aside := rfl

@[simp] theorem State.raise_aside (s : State) (i : Nat) : (s.raise i).aside = s.aside := by
  unfold State.raise; split <;> simp

@[simp] theorem State.clock_aside (s : State) (d u : Nat) : (s.clock d u).2.aside = s.aside := by
  unfold State.clock; split <;> rfl

@[simp] theorem State.bbxPush_aside (s : State) (e : BbxEntry) : (s.bbxPush e).aside = s.aside := by
  unfold State.bbxPush; split_ifs <;> rfl

@[simp] theorem State.log_aside (s : State) (d c u e : Nat) (st : Byte) (n : Option Tid) (args : List W64) :
    (s.log d c u e st n args).aside = s.aside := by simp [State.log]

@[simp] theorem State.corrected_aside (s : State) (d u c k : Nat) : (s.corrected d u c k).aside = s.aside := by
  have hbbx (t : State) (x : Bbx) : ({ t with bbx := x } : State).aside = t.aside := rfl
  simp only [State.corrected, apply_ite State.aside, State.bbxPush_aside, hbbx, State.clock_aside, ite_self]

/-! ## One braid changes -/

/-- From `s` to `t` nothing changed but braid `i` and what a clause may change outside the braids. -/
structure State.Near (i : Nat) (s t : State) : Prop where
  outside : s.sameOutside t
  wf : Sparse.wf Braid.init t.braids = true
  others : ∀ j, j ≠ i → t.braid j = s.braid j

namespace State.Near
variable {i : Nat} {s t u : State}

theorem refl (h : Sparse.wf Braid.init s.braids = true) : s.Near i s := ⟨rfl, h, fun _ _ => rfl⟩

theorem of_aside (h : s.Near i t) (e : u.aside = t.aside) : s.Near i u := by
  have hb : u.braids = t.braids := (congrArg State.braids e :)
  refine ⟨?_, hb ▸ h.wf, fun j hj => ?_⟩
  · rw [State.sameOutside_iff, State.outside, e]
    exact State.sameOutside_iff.1 h.outside
  · exact (congrArg (Sparse.get Braid.init · j) hb).trans (h.others j hj)

theorem setBraid (h : s.Near i t) (b : Braid) : s.Near i (t.setBraid i b) := by
  refine ⟨?_, Sparse.set_wf h.wf i b, fun j hj => ?_⟩
  · rw [State.sameOutside_iff, ← State.sameOutside_iff.1 h.outside]; rfl
  · exact (Sparse.get_set_ne h.wf b hj).trans (h.others j hj)

theorem modBraid (h : s.Near i t) (f : Braid → Braid) : s.Near i (t.modBraid i f) := h.setBraid _

theorem ite {c : Prop} [Decidable c] (ht : s.Near i t) (hu : s.Near i u) : s.Near i (if c then t else u) :=
  iteInduction (fun _ => ht) (fun _ => hu)

theorem foldl {α : Type} {f : State → α → State} (hf : ∀ t x, s.Near i t → s.Near i (f t x)) (l : List α) (h : s.Near i t) :
    s.Near i (l.foldl f t) := List.foldlRecOn l f h fun t ht x _ => hf t x ht

theorem raise (h : s.Near i t) (k : Nat) : s.Near i (t.raise k) := h.of_aside (t.raise_aside k)

theorem corrected (h : s.Near i t) (d n c k : Nat) : s.Near i (t.corrected d n c k) := h.of_aside (t.corrected_aside d n c k)

theorem putBraid (h : s.Near i t) (b : Braid) : s.Near i (t.putBraid i b) := by
  have hput := (h.setBraid b).corrected Dom.braid i i (b.tel.eccCorr.toNat - (t.braid i).tel.eccCorr.toNat)
  have hstop := ite (c := (b.phase == .stopped && (t.braid i).phase != .stopped) = true) (hput.raise (4 * i)) hput
  exact (hstop.raise (4 * i + 3)).ite hstop

theorem cutWait (h : s.Near i t) : s.Near i (t.cutWait i) := by
  obtain ⟨n, hn⟩ := t.free.2.shares_fst i
  have hshares : (t.free.2.shares i).1.aside = t.aside := by rw [hn]; rfl
  unfold State.cutWait
  exact (h.of_aside hshares).modBraid _

theorem endDmaWait (h : s.Near i t) (ph : SeqPhase) : s.Near i (t.endDmaWait i ph) :=
  h.ite ((h.of_aside t.free_aside).modBraid _)

theorem afterBraid (h : s.Near i t) (b : Braid) : s.Near i (t.afterBraid i b) := by
  unfold State.afterBraid
  extract_lets old stops ends b1 freed b2 t1 t2 t3
  have h1 : s.Near i t1 := h.putBraid b2
  have h2 : s.Near i t2 := h1.cutWait.ite h1
  have h3 : s.Near i t3 := (h2.endDmaWait _).ite h2
  exact (h3.of_aside (t3.leaveGroups_aside i)).ite ((h3.of_aside (t3.leaveAtEnd_aside i)).ite h3)

theorem hazard (h : s.Near i t) (args : List W64) : s.Near i (t.hazard i args) :=
  ((h.setBraid _).of_aside (State.log_aside ..)).ite (h.of_aside rfl)

theorem watch (h : s.Near i t) (n : Nat) : s.Near i (t.watch i n) :=
  h.ite (foldl (fun _ _ ht => ht.ite (ht.hazard _)) _ (foldl (fun _ _ ht => ht.ite (ht.hazard _)) _ h))

theorem braidStep (h : s.Near i t) (f : Braid → Braid) : s.Near i (t.braidStep i f) := h.ite (h.afterBraid _)

theorem clause (h : s.Near i t) (n : Nat) (ok : BitVec 96 → Bool) (run : Braid → BitVec 96 → Nat → Braid) : s.Near i (t.clause i n ok run) :=
  h.ite (((h.watch n).afterBraid _).ite (h.afterBraid _))
end State.Near

/-! ## The clauses -/

/-- A REVEAL is a clause that also counts itself for the tenancy of its braid (R145). -/
theorem State.revealClause_eq (s : State) (i : Nat) : s.revealClause i = s.clause i 2 (opIs 2 13) runReveal ∨
    ∃ n : Tid, s.revealClause i = (s.clause i 2 (opIs 2 13) runReveal).modTen n (fun x => { x with reveals := x.reveals + 1 }) := by
  unfold State.revealClause
  dsimp only
  split
  · cases (s.braid i).ten with
    | none => exact .inl rfl
    | some n => exact .inr ⟨n, rfl⟩
  · exact .inl rfl

/-- The tenancies are outside the braids. -/
theorem State.Near.tens {i : Nat} {s t : State} (h : s.Near i t) : t.tens = s.tens :=
  (congrArg State.tens (State.sameOutside_iff.1 h.outside) :)

/-- Settles O11: every step of a clause keeps `State.Near`, which a REVEAL leaves only by the count of its tenancy. -/
theorem clauseFrame : Obligations.ClauseFrame := by
  intro s t i htables
  obtain ⟨-, -, hwf, -⟩ := State.wf_of_tablesOk htables
  have hrefl : s.Near i.toNat s := .refl hwf
  constructor
  · intro c hc hstep
    suffices h : s.Near i.toNat t from ⟨h.outside, h.others⟩
    rcases hc with hc | rfl
    · obtain ⟨r, hr, rfl⟩ := List.mem_map.1 hc
      obtain ⟨run, hrun⟩ := exec_clauseCmds r hr
      cases (hrun i s).symm.trans hstep
      exact hrefl.clause ..
    · cases hstep
      exact hrefl.braidStep _
  · intro hstep
    obtain rfl : s.revealClause i.toNat = t := by cases hstep; rfl
    have h := hrefl.clause 2 (opIs 2 13) runReveal
    have houter (u : State) (hu : { u with tens := s.tens } = { s.clause i.toNat 2 (opIs 2 13) runReveal with tens := s.tens }) :
        s.sameOutside { u with tens := s.tens } := by
      rw [hu, ← h.tens]
      exact h.outside
    rcases s.revealClause_eq i.toNat with heq | ⟨n, heq⟩ <;> rw [heq]
    · exact ⟨.inl h.tens, houter _ rfl, h.others⟩
    · refine ⟨.inr ⟨n, ?_⟩, houter _ rfl, h.others⟩
      simp only [State.modTen, State.setTen, State.ten, h.tens]

end Sys2Proof.Machine
end

section
/-! What writes by the module's own firmware leave of the tenancies (R255, log 22). -/

namespace Sys2Proof.Machine

/-- Every tenancy stands as in `s`. -/
structure State.KeepsSt (s t : State) : Prop where
  wf : Sparse.wf Ten.init t.tens = true
  st : ∀ n, (t.ten n).st = (s.ten n).st

namespace State.KeepsSt
variable {s t u : State} {n : Tid}

theorem refl (h : Sparse.wf Ten.init s.tens = true) : s.KeepsSt s := ⟨h, fun _ => rfl⟩

theorem of_tens (h : s.KeepsSt t) (e : u.tens = t.tens) : s.KeepsSt u :=
  ⟨e ▸ h.wf, fun n => (congrArg (fun m => (Sparse.get Ten.init m n.toNat).st) e).trans (h.st n)⟩

theorem modTen (h : s.KeepsSt t) (n : Tid) {f : Ten → Ten} (hf : ∀ x, (f x).st = x.st) : s.KeepsSt (t.modTen n f) := by
  refine ⟨Sparse.set_wf h.wf _ _, fun m => ?_⟩
  rw [← h.st m]
  by_cases hm : m = n
  · subst hm
    exact (congrArg Ten.st (Sparse.get_set_self h.wf _ _)).trans (hf _)
  · exact congrArg Ten.st (Sparse.get_set_ne h.wf _ (fun e => hm (BitVec.eq_of_toNat_eq e)))

theorem ite {c : Prop} {_ : Decidable c} (ht : s.KeepsSt t) (hu : s.KeepsSt u) : s.KeepsSt (if c then t else u) :=
  iteInduction (fun _ => ht) (fun _ => hu)

theorem foldl {α : Type} {f : State → α → State} (hf : ∀ t x, s.KeepsSt t → s.KeepsSt (f t x)) (l : List α) (h : s.KeepsSt t) :
    s.KeepsSt (l.foldl f t) := List.foldlRecOn l f h fun t ht x _ => hf t x ht

theorem withMem (h : s.KeepsSt t) (m : Mem) : s.KeepsSt { t with mem := m } := h.of_tens rfl

theorem modTier (h : s.KeepsSt t) (b hw : Bool) (f : TierSt → TierSt) : s.KeepsSt (t.modTier b hw f) := h.of_tens rfl

theorem modPager (h : s.KeepsSt t) (hw : Bool) (f : Pager → Pager) : s.KeepsSt (t.modPager hw f) := h.of_tens rfl

theorem setUse (h : s.KeepsSt t) (id : Nat) (x : Option FrameUse) : s.KeepsSt (t.setUse id x) := h.of_tens rfl

theorem toScrub (h : s.KeepsSt t) (n : Tid) (id : Nat) : s.KeepsSt (t.toScrub n id) := h.of_tens rfl

theorem modTok (h : s.KeepsSt t) (e : Nat) (f : Token → Token) : s.KeepsSt (t.modTok e f) := h.of_tens rfl

theorem modBraid (h : s.KeepsSt t) (i : Nat) (f : Braid → Braid) : s.KeepsSt (t.modBraid i f) := h.of_tens rfl

theorem free (h : s.KeepsSt t) : s.KeepsSt t.free.2 := h.of_tens rfl

theorem countMoved (h : s.KeepsSt t) (hw : Bool) (k : Nat) : s.KeepsSt (t.countMoved hw k) := h.of_tens rfl

theorem raise (h : s.KeepsSt t) (i : Nat) : s.KeepsSt (t.raise i) := h.of_tens (State.raise_tens _ _)

theorem log (h : s.KeepsSt t) (d c u e : Nat) (st : Byte) (n : Option Tid) (args : List W64) : s.KeepsSt (t.log d c u e st n args) :=
  h.of_tens (State.log_tens ..)

theorem corrected (h : s.KeepsSt t) (d u c k : Nat) : s.KeepsSt (t.corrected d u c k) := h.of_tens (State.corrected_tens ..)

/-! ## Page tables and quotas -/

theorem setPte (h : s.KeepsSt t) (n : Tid) (page : Nat) (p : Pte) : s.KeepsSt (t.setPte n page p) := h.modTen n fun _ => rfl

theorem charge (h : s.KeepsSt t) (n : Tid) (bulk : Bool) : s.KeepsSt (t.charge n bulk) :=
  h.modTen n fun _ => (apply_ite Ten.st _ _ _).trans (ite_self _)

theorem discharge (h : s.KeepsSt t) (n : Tid) (bulk : Bool) : s.KeepsSt (t.discharge n bulk) :=
  h.modTen n fun _ => (apply_ite Ten.st _ _ _).trans (ite_self _)

/-! ## Transfers (R275) -/

theorem poisonGran (h : s.KeepsSt t) (n : Option Tid) (g : Nat) (page : Option Nat) (a : W64) : s.KeepsSt (t.poisonGran n g page a) := by
  unfold State.poisonGran
  refine raise (log (modTier (ite (withMem (withMem h _) _) ?_) _ _ _) _ _ _ _ _ _ _) _
  split
  · exact (withMem h _).setPte _ _ _
  · exact withMem h _

theorem transferGran (h : s.KeepsSt t) (n : Option Tid) (g : Nat) (page : Option Nat) (a : W64) (w : Bool) :
    s.KeepsSt (t.transferGran n g page a w) := by
  unfold State.transferGran
  refine h.ite (ite (poisonGran ?_ _ _ _ _) ?_) <;> exact ((((h.withMem _).modTier _ _ _).corrected _ _ _ _).corrected _ _ _ _)

theorem transfer (h : s.KeepsSt t) (n : Tid) (tva : Nat) (w : Bool) : s.KeepsSt (t.transfer n tva w) := h.transferGran ..

/-! ## Write combining (R271, R272) -/

theorem flushEntry (h : s.KeepsSt t) (e : WcEntry) : s.KeepsSt (t.flushEntry e) := by
  unfold State.flushEntry
  split
  next n page _ =>
    have h1 : s.KeepsSt ((if decide (e.mask = BitVec.allOnes 64) = true then t
        else t.transfer n (page * 2 ^ 21 + e.line % 2 ^ 15 * 64) false).transfer n (page * 2 ^ 21 + e.line % 2 ^ 15 * 64) true) :=
      (h.ite (h.transfer ..)).transfer ..
    exact (h1.withMem _).ite (h1.ite (h1.withMem _))
  · exact h.withMem _

theorem flushWhere (h : s.KeepsSt t) (p : WcEntry → Bool) : s.KeepsSt (t.flushWhere p) :=
  foldl (fun _ e ht => ht.flushEntry e) _ (h.withMem _)

theorem wcRoom (h : s.KeepsSt t) (line : Nat) (n : Tid) : s.KeepsSt (t.wcRoom line n) := by
  unfold State.wcRoom
  refine h.ite ?_
  split
  · exact h
  · exact ((h.withMem _).flushEntry _).modTier _ _ _

theorem wcWrite (n : Tid) (k : Nat) (h : s.KeepsSt t) (dev : Nat) (data : List Byte) : s.KeepsSt (t.wcWrite n k dev data) := by
  induction k generalizing t dev data with
  | zero => exact h
  | succ k ih => exact h.ite (ih ((h.wcRoom _ n).withMem _) _ _)

theorem writeBacked (h : s.KeepsSt t) (n : Tid) (tva : Nat) (data : List Byte) : s.KeepsSt (t.writeBacked n tva data) := by
  have h1 := h.countMoved (t.pte n (pageOf tva)).hawser data.length
  unfold State.writeBacked
  exact wcWrite n _ (ite ((h1.ite (h1.setPte ..)).free.withMem _) (h1.ite (h1.setPte ..))) _ _

/-! ## Backing (R255–R258) -/

theorem takeFrame (h : s.KeepsSt t) {bulk hw : Bool} {x : FrameUse} {r : (Nat × Nat) × State} (hr : t.takeFrame bulk hw x = some r) :
    s.KeepsSt r.2 := by
  unfold State.takeFrame at hr
  split at hr
  · cases hr
  · dsimp only at hr
    split at hr
    · cases hr
    · cases hr; exact (h.free.modTier _ _ _).setUse _ _

theorem placePage (h : s.KeepsSt t) {page : Nat} {bulk home : Bool} {r : (Bool × Nat × Nat) × State}
    (hr : t.placePage n page bulk home = some r) : s.KeepsSt r.2 := by
  unfold State.placePage at hr
  split at hr
  next hx => cases hr; exact h.takeFrame hx
  · split at hr
    next hx =>
      cases hr
      dsimp only
      exact (h.takeFrame hx).modTier _ _ _
    · cases hr

theorem startBacking (h : s.KeepsSt t) (n : Tid) (page : Nat) (hw bulk home : Bool) (cmd : Option Nat) :
    s.KeepsSt (t.startBacking n page hw bulk home cmd) := by
  have hc := h.charge n bulk
  unfold State.startBacking
  dsimp only
  split
  next hr => exact (hc.placePage hr).withMem _
  · exact hc.withMem _

theorem touchWrite (h : s.KeepsSt t) (n : Tid) (page : Nat) (hw : Bool) : s.KeepsSt (t.touchWrite n page hw).1 := by
  unfold State.touchWrite
  simp only [apply_ite Prod.fst]
  exact h.ite ((h.startBacking ..).ite ((h.startBacking ..).ite h))

theorem finishBacking (h : s.KeepsSt t) (b : Backing) : s.KeepsSt (t.finishBacking b) := by
  unfold State.finishBacking
  split
  · exact h
  · exact (h.withMem _).setPte _ _ _

theorem backNow (h : s.KeepsSt t) (n : Tid) (page : Nat) (hw : Bool) : s.KeepsSt (t.backNow n page hw) := by
  unfold State.backNow
  refine h.ite ?_
  dsimp only
  split
  · exact (h.touchWrite ..).finishBacking _
  · exact h.touchWrite ..

/-! ## The end of a migration (R267–R269) -/

theorem dropMig (h : s.KeepsSt t) (n : Tid) (page : Nat) : s.KeepsSt (t.dropMig n page) := h.ite (((h.withMem _).toScrub _ _).setPte _ _ _)

theorem copyFrame (h : s.KeepsSt t) (n : Tid) (page src dst : Nat) : s.KeepsSt (t.copyFrame n page src dst) :=
  foldl (fun _ _ ht => ht.transferGran ..) _ (foldl (fun _ _ ht => (ht.withMem _).ite (ht.setPte _ _ _)) _ (h.withMem _))

theorem commitMig (h : s.KeepsSt t) (n : Tid) (page : Nat) (m : Mig) : s.KeepsSt (t.commitMig n page m) := by
  have hcopy := h.copyFrame n page (t.pte n page).id (t.pte n page).destId
  unfold State.commitMig
  exact modPager (withMem (toScrub (setUse (setPte (ite ((hcopy.charge _ _).discharge _ _) hcopy) _ _ _) _ _) _ _) _) _ _

theorem endMig (h : s.KeepsSt t) (n : Tid) (page : Nat) (m : Mig) : s.KeepsSt (t.endMig n page m) :=
  (h.commitMig n page m).ite ((h.dropMig n page).modPager _ _)

theorem endBlocked (h : s.KeepsSt t) (n : Tid) (page : Nat) : s.KeepsSt (t.endBlocked n page) := by
  unfold State.endBlocked
  split
  · exact h
  · exact h.ite ((h.flushWhere _).endMig ..)

/-! ## Writes -/

theorem writeOwn (h : s.KeepsSt t) (n : Tid) (hw : Option Bool) (tva : Nat) (data : List Byte) : s.KeepsSt (t.writeOwn n hw tva data) :=
  foldl (fun _ _ ht => (((ht.backNow ..).endBlocked ..).writeBacked ..).ite ((ht.backNow ..).endBlocked ..)) _ h

theorem writeImage (h : s.KeepsSt t) (i k : Nat) (x : Token) : s.KeepsSt (t.writeImage i k x) :=
  foldl (fun _ _ ht => ht.writeOwn ..) _ (h.writeOwn ..)
end State.KeepsSt

end Sys2Proof.Machine
end

section
/-! Kernel start, the end of a save, export and import of contexts (O37). -/

namespace Sys2Proof.Machine

/-! ## Kernel start (R104, R163, R204) -/

/-- KERNEL_START of a token that begins reads and checks, and then fails or starts. -/
theorem exec_kernelStart_fresh {s : State} {i : Bid} {t : Token} (hlive : s.live = true) (htok : (s.braid i.toNat).tok.bind s.tok = some t)
    (hphase : (s.braid i.toNat).phase = .loading) (hpll : (s.braid i.toNat).pllUp = true) (hlink : (s.braid i.toNat).linkDown = false)
    (hrestore : (s.braid i.toNat).restore = false) : exec (.kernelStart i) s = .next (s.freshStart i.toNat t) := by
  have hready : (s.live && (s.braid i.toNat).phase == .loading && (s.braid i.toNat).pllUp && !(s.braid i.toNat).linkDown) = true := by
    rw [hlive, hphase, hpll, hlink]; rfl
  show Host.Outcome.next (s.kernelStart i.toNat) = _
  simp only [State.kernelStart, htok, hready, hrestore, Bool.not_true, Bool.false_eq_true, if_false]

theorem State.freshStart_error {s : State} {i : Nat} {t : Token} {st : Byte} (h : (s.startChecks i t 0).2 = .error st) :
    s.freshStart i t = (s.startChecks i t 0).1.startFail i st ((s.startChecks i t 0).1.startFault t st) := by
  simp only [State.freshStart, h]

theorem State.freshStart_ok {s : State} {i : Nat} {t : Token} {x : Loaded} (h : (s.startChecks i t 0).2 = .ok x) :
    s.freshStart i t =
      let r := (s.startChecks i t 0).1
      if x.aux.listen && !(r.braid i).listOpen x.aux then r.startFail i Status.aborted none
      else (r.armMembers i x.present).afterBraid i ((((r.braid i).putList x.aux x.present).loadKernel t x
        ((r.ten t.ten).limbPrimes x.chain)).armAll x.table (t.srcs ++ t.dests)).begin := by
  simp only [State.freshStart, h]

theorem Braid.listOpen_iff (b : Braid) (a : AuxD) :
    b.listOpen a = true ↔ ∀ g ∈ b.regionsOf a.addr (4 * a.max), b.sealMap.getLsbD g = false := by
  simp [Braid.listOpen, bit]

theorem Braid.putList_silent (b : Braid) {a : AuxD} (ps : List (BitVec 32)) (h : a.listen = false) : b.putList a ps = b := by
  simp [Braid.putList, h]

theorem Braid.putList_listen (b : Braid) {a : AuxD} (ps : List (BitVec 32)) (h : a.listen = true) : b.putList a ps =
    (List.range 64).foldl (fun y c => y.fillAt c a.addr (ps.flatMap (fun p => leBytes 4 p.toNat))) b := by
  simp [Braid.putList, h]

/-- A braid that has started listens in every one of its groups (R204). -/
theorem State.armMembers_armed (s : State) (i : Nat) (ps : List (BitVec 32)) :
    ∀ g ∈ (s.armMembers i ps).sch.groups, ∀ m ∈ g.members, m.braid = i → m.armed = true := by
  intro g' hg m' hm hi
  obtain ⟨g, -, rfl⟩ := List.mem_map.1 hg
  split at hm
  · obtain ⟨m, -, rfl⟩ := List.mem_map.1 hm
    split
    · rfl
    next hne => exact absurd hi (by rwa [if_neg hne])
  next hnone => exact (hnone (List.any_eq_true.2 ⟨m', hm, beq_iff_eq.2 hi⟩)).elim

theorem kernelStarts : Says.KernelStarts := by
  intro s i t b r hlive htok hphase hpll hlink hrestore
  have hfresh := exec_kernelStart_fresh hlive htok hphase hpll hlink hrestore
  refine ⟨fun x hx => ?_, fun st hst => by rw [hfresh, State.freshStart_error hst]⟩
  have hstart := State.freshStart_ok hx
  refine ⟨fun hopen => ?_, fun hlisten hsealed => ?_, Braid.putList_silent _ _, Braid.putList_listen _ _, rfl, rfl, State.armMembers_armed _ _ _⟩
  · have hgo : ¬ (x.aux.listen && !(r.1.braid i.toNat).listOpen x.aux) = true := by
      intro h
      obtain ⟨hlisten, hclosed⟩ := Bool.and_eq_true_iff.1 h
      rw [(Braid.listOpen_iff _ _).2 (hopen hlisten)] at hclosed
      exact absurd hclosed (by decide)
    rw [hfresh, hstart]
    exact congrArg Host.Outcome.next (if_neg hgo)
  · have hfail : (x.aux.listen && !(r.1.braid i.toNat).listOpen x.aux) = true := by
      rw [hlisten, Bool.true_and, Bool.not_eq_true', Bool.eq_false_iff]
      exact fun h => hsealed ((Braid.listOpen_iff _ _).1 h)
    rw [hfresh, hstart]
    exact congrArg Host.Outcome.next (if_pos hfail)

/-! ## The end of a save (R337–R343) -/

section
variable {s : State} {i : Nat} {t : Token} (hlive : s.live = true) (hready : (s.braid i).saveReady = true)
  (htok : (s.braid i).tok.bind s.tok = some t)
include hlive hready htok

/-- A stop notice that meets the save before issue has ended takes its place (R329, log 97). -/
theorem State.saveDone_notice {st : Byte} (hst : (s.braid i).notice = some st) (hover : (s.braid i).issueOver = false) :
    s.saveDone i = s.saveStopped i t st := by
  simp only [State.saveDone, htok, hlive, hready, hst, hover, Bool.and_self, Bool.not_true, Bool.false_eq_true, if_false]

/-- The save goes on where no notice meets it, or issue has ended. -/
theorem State.saveDone_saved (h : (s.braid i).notice = none ∨ (s.braid i).issueOver = true) :
    let left : W64 := if t.remain = 0 then 0 else BitVec.ofNat 64 ((Config.free s.draws).toNat % t.remain.toNat + 1)
    let w := ((({ s with draws := s.draws + 1 } : State).writeImage i (s.braid i).saveSlot
      { t with remain := left, ctx := some (s.braid i).saveSlot, st := .saved, braid := none, keyHome := none }).modTok t.id (fun u =>
        { u with remain := left, ctx := some (s.braid i).saveSlot, st := .saved, braid := none, keyHome := none })).modBraid i
      (fun b => { b.disarmAll.rest with keySigs := [] })
    s.saveDone i = if (w.ten t.ten).st == .closing then ((w.freeCtx t.ten t.id).finish t.id (Comp.ofStatus Status.preempted 0)).closeStep t.ten
      else match (s.braid i).preempt with
        | some q => w.dispatchOn q i
        | none => w := by
  have hgo : (if (s.braid i).issueOver then none else (s.braid i).notice) = none := by
    rcases h with h | h <;> simp [h]
  simp only [State.saveDone, htok, hlive, hready, hgo, Bool.and_self, Bool.not_true, Bool.false_eq_true, if_false] <;> rfl
end

theorem savesEnd : Says.SavesEnd := by
  intro s i t b htables hlive hready htok
  constructor
  · intro hgo left w
    have hdone := State.saveDone_saved hlive hready htok hgo
    obtain ⟨-, -, -, -, hwf, -⟩ := State.wf_of_tablesOk htables
    have hdrawn : s.KeepsSt { s with draws := s.draws + 1 } := (State.KeepsSt.refl hwf).free
    have hkeeps : s.KeepsSt w := ((hdrawn.writeImage i.toNat b.saveSlot _).modTok _ _).modBraid _ _
    have hst := hkeeps.st t.ten
    constructor <;> intro hclosing <;> show Host.Outcome.next (s.saveDone i.toNat) = _ <;> rw [hdone]
    · exact congrArg Host.Outcome.next (if_neg (by rwa [hst, beq_iff_eq]))
    · exact congrArg Host.Outcome.next (if_pos (by rwa [hst, beq_iff_eq]))
  · intro st hst hover
    exact congrArg Host.Outcome.next (State.saveDone_notice hlive hready htok hst hover)

/-! ## Contexts that leave and enter (R344, R371) -/

theorem imageRecords_pos (safe : Bool) : 0 < imageRecords safe := Nat.add_pos_left (by decide) _

/-- A run that ends within the address space and holds something starts within it. -/
theorem start_lt_of_end_le {a len top : Nat} (h : a + len ≤ top) (hlen : 0 < len) : a < top := by omega

/-- CTX_EXPORT whose checks pass. -/
theorem State.ctxExportCmd_moves {s : State} {t u : Token} {key : BitVec 256} (hki : t.body 16 1 < 4)
    (hdest : t.body 8 8 + frameLen * imageRecords (s.imageFold u) ≤ 2 ^ 48) (hmig : s.migKey t.ten (t.body 16 1) = some key)
    (hfind : s.sch.pool.find? (fun u => t.exTok u && u.st == .saved) = some u)
    (hctx : inCtx (t.body 8 8) (frameLen * imageRecords (s.imageFold u)) = false)
    (hunm : s.anyUnmapped t.ten (t.body 8 8) (frameLen * imageRecords (s.imageFold u)) = false)
    (hsealed : s.anySealedPage t.ten (t.body 8 8) (frameLen * imageRecords (s.imageFold u)) = false)
    (hroom : s.needPages t.ten (t.body 8 8) (frameLen * imageRecords (s.imageFold u)) ≤ s.tierRoom t.ten false + s.tierRoom t.ten true) :
    let n := imageRecords (s.imageFold u)
    let r := s.exportImage t.ten (u.ctx.getD 0) (t.body 8 8) n key
    s.ctxExportCmd t = if r.2 then r.1.finish t.id (Comp.ofStatus Status.poisonedOperand 0)
      else ((r.1.endSaved u Status.preempted).tokWrote t.id t.ten ((granulesOf (t.body 8 8) (frameLen * n)).map (· / 4096))).finish t.id
        (Comp.okv 0 n) := by
  have hstart := start_lt_of_end_le hdest (Nat.mul_pos (by decide) (imageRecords_pos _))
  have hbody : ¬ (3 < t.body 16 1 ∨ 2 ^ 48 ≤ t.body 8 8) := by omega
  simp only [State.ctxExportCmd, if_neg hbody, hmig, hfind, if_neg (Nat.not_lt.2 hdest), hctx, hunm, hsealed, if_neg (Nat.not_lt.2 hroom),
    Bool.or_self, Bool.false_eq_true, if_false]

/-- CTX_IMPORT whose first checks pass. -/
theorem State.ctxImportCmd_opens {s : State} {t : Token} {k : Nat} {key : BitVec 256} (hki : t.body 12 1 < 4)
    (hsrc : t.body 0 8 + frameLen * t.body 8 4 ≤ 2 ^ 48) (hn : t.body 8 4 = imageRecords true ∨ t.body 8 4 = imageRecords false)
    (hmig : s.migKey t.ten (t.body 12 1) = some key) (hslot : s.freeSlotOf t.ten = some k)
    (hctx : inCtx (t.body 0 8) (frameLen * t.body 8 4) = false) (hunm : s.anyUnmapped t.ten (t.body 0 8) (frameLen * t.body 8 4) = false)
    (hsealed : s.anySealedPage t.ten (t.body 0 8) (frameLen * t.body 8 4) = false) :
    let r := s.openRecords t.ten (t.body 0 8) (t.body 8 4) key
    s.ctxImportCmd t = match r.2 with
      | some ps => r.1.importImage t k ps
      | none => r.1.finish t.id (Comp.ofStatus Status.recordAuthFail 0) := by
  have hbody : ¬ (3 < t.body 12 1 ∨ 2 ^ 48 < t.body 0 8 + frameLen * t.body 8 4 ∨
      (t.body 8 4 ≠ imageRecords true ∧ t.body 8 4 ≠ imageRecords false)) := by omega
  simp only [State.ctxImportCmd, if_neg hbody, hmig, hslot, hctx, hunm, hsealed, Bool.or_self, Bool.false_eq_true, if_false]
  cases (s.openRecords t.ten (t.body 0 8) (t.body 8 4) key).2 <;> rfl

theorem contextsMove : Says.ContextsMove := by
  constructor
  · intro s e t u key hstarts b v dest n r hki hdest hmig hfind hctx hunm hsealed hroom
    calc exec (.ctxExport e) s = .next (s.startCmd e (selOp 0x38) State.ctxExportCmd) := rfl
      _ = .next (b.ctxExportCmd v) := by rw [State.startCmd_starts hstarts]
      _ = _ := congrArg Host.Outcome.next (State.ctxExportCmd_moves (t := v) hki hdest hmig hfind hctx hunm hsealed hroom)
  · intro s e k t key hstarts hroom b src n r hki hsrc hn hmig hslot hctx hunm hsealed
    obtain ⟨htok, -⟩ := State.starts_iff.1 hstarts
    have hexec : exec (.ctxImport e) s = .next (s.startCmd e (selOp 0x39) State.ctxImportCmd) := by
      show Host.Outcome.next _ = _
      rw [htok]
      exact congrArg Host.Outcome.next (if_neg hroom)
    calc exec (.ctxImport e) s = .next (s.startCmd e (selOp 0x39) State.ctxImportCmd) := hexec
      _ = .next (b.ctxImportCmd t.begun) := by rw [State.startCmd_starts hstarts]
      _ = _ := congrArg Host.Outcome.next (State.ctxImportCmd_opens (t := t.begun) hki hsrc hn hmig hslot hctx hunm hsealed)

/-- Settles O37: each of the four commands is said once as a function of the state, and its conditions choose the branch. -/
theorem kernelsStartSaveAndMove : Obligations.KernelsStartSaveAndMove := ⟨kernelStarts, savesEnd, contextsMove⟩

end Sys2Proof.Machine
end

section
/-! Butterflies, element programs and the generator; the tile operations and base conversion (O9). -/

namespace Sys2Proof.Machine

open Sys2Proof.Arith

/-! ## Butterflies (R142, R144) -/

/-- A butterfly whose pair is `fn` on core `k`: the two results, and the case and poison of its three sources (R79, R158). -/
def Braid.bflyOf (b : Braid) (fn : Nat → Option Nat → Nat → Nat → Nat → Nat × Nat) (c : BitVec 96) (it : Nat) (second : Bool) (k : Nat) :
    (VReg × VReg) × Bool × Bool :=
  let v := vClause c
  let x := b.vecSrc c it second k
  (butterfly b.m32 (fn (laneW b.m32) (some (b.limbs.getD (b.limbSel v.limb v.ladd v.lloop) 0).toNat)) (v.sub / 2 % 8) x.1.val x.2.1.val x.2.2.val,
    x.1.sealed || x.2.1.sealed || x.2.2.sealed, x.1.poison || x.2.1.poison || x.2.2.poison)

/-- The two results of a butterfly land in a register pair, `off` registers above the destination. -/
def Braid.bflyLands (b : Braid) (c : BitVec 96) (it off : Nat) (r : Nat → (VReg × VReg) × Bool × Bool) : Braid :=
  (b.vecLands c it off 0 (fun k => ((r k).1.1, (r k).2))).vecLands c it (off + 1) 0 (fun k => ((r k).1.2, (r k).2))

theorem runBfly_eq (fn : Nat → Option Nat → Nat → Nat → Nat → Nat × Nat) (b : Braid) (c : BitVec 96) (it : Nat) :
    runBfly (fun w q => fn w (some q)) b c it =
      let b1 := b.bflyLands c it 0 (b.bflyOf fn c it false)
      if (vClause c).dual then b1.bflyLands c it 2 (b.bflyOf fn c it true) else b1 := by
  simp only [runBfly, List.map_map]
  rfl

/-! ## The vector engine (R144, R149, R150, R454, R455) -/

theorem butterflyAndProgramClauses : Says.ButterflyAndProgramClauses := by
  intro s i
  refine ⟨?bfly, fun h => ?eprog, fun h => ?sgen⟩
  case bfly =>
    intro r hr h
    refine exec_issued (run := runBfly fun w q => r.2.2 w (some q)) ?_ h fun b _ => ?_
    · fin_cases hr <;> rfl
    · rw [runBfly_eq]; rfl
  case eprog => exact exec_issued (run := runEprog) rfl h fun b _ => rfl
  case sgen =>
    refine exec_issued (run := runSgen) rfl h fun b _ => ?_
    simp only [runSgen, zipLanes_eq]
    rfl

/-! ## Tiles (R151–R153) -/

@[simp] theorem blockRows_snd (m32 : Bool) (tblk : Nat) : (blockRows m32 tblk).2 = if m32 then 8 else 4 := by cases m32 <;> rfl

@[simp] theorem blockRows_fst (m32 : Bool) (tblk : Nat) :
    (blockRows m32 tblk).1 = if m32 then 8 * (tblk / 8 % 2) else 4 * (tblk / 4 % 4) := by cases m32 <;> rfl

theorem groupA_eq (m32 : Bool) (qa : Nat) : groupA m32 qa = (if m32 then 8 else 4) * qa := by cases m32 <;> rfl

/-- The number a clause computes modulo: 2^w in ring form, the selected prime otherwise (R51). -/
def Braid.modOf (b : Braid) (m : MClause) : Nat :=
  if m.ring then 2 ^ laneW b.m32 else (b.limbs.getD (b.limbSel m.limb m.ladd m.lloop) 0).toNat

theorem getD_map_range {α : Type} (f : Nat → α) (d : α) {n j : Nat} (h : j < n) : ((List.range n).map f).getD j d = f j := by simp [h]

/-- Lane `j` of TRED on core `k`: the sum of a row, or of a column (R153). -/
def Braid.tredLane (b : Braid) (m : MClause) (k j : Nat) : Nat :=
  if m.axis then
    (if j < 16 then ((List.range (laneN b.m32)).map (fun x => lane b.m32 (b.getT k m.td j) x)).sum % b.modOf m else 0)
  else ((List.range 16).map (fun x => lane b.m32 (b.getT k m.td x) j)).sum % b.modOf m

theorem runTred_eq (b : Braid) (c : BitVec 96) (it : Nat) : runTred b c it =
    b.result 3 8 (.v (mClause c).vd) (b.cores.map (fun k =>
      { wordPart k 0 false with
        val := ofLanes b.m32 ((List.range (laneN b.m32)).map (b.tredLane (mClause c) k))
        mask := allLanes b.m32, sealed := (b.getTF k (mClause c).td).sealed, poison := (b.getTF k (mClause c).td).poison })) := by
  unfold runTred
  extract_lets m w q md
  have hmd : md = b.modOf m := by simp only [md, q, Braid.modulus, Braid.modOf]; cases m.ring <;> rfl
  refine congrArg (b.result 3 8 (.v m.vd)) (List.map_congr_left fun k _ => ?_)
  extract_lets tf rows out
  have hout : out = (List.range (laneN b.m32)).map (b.tredLane m k) := by
    refine List.map_congr_left fun j hj => ?_
    have hcol : rows.map (fun r => r.getD j 0) = (List.range 16).map (fun x => lane b.m32 (b.getT k m.td x) j) := by
      rw [List.map_map]
      exact List.map_congr_left fun x _ => getD_map_range _ _ (List.mem_range.1 hj)
    have hrow (hj : j < 16) : rows.getD j [] = (List.range (laneN b.m32)).map (fun x => lane b.m32 (b.getT k m.td j) x) :=
      getD_map_range _ _ hj
    unfold Braid.tredLane
    rw [hcol, hmd, List.sum_eq_foldl_nat, List.sum_eq_foldl_nat]
    split
    case isFalse => rfl
    case isTrue =>
      split
      case isFalse => rfl
      case isTrue hj => rw [hrow hj]
  rw [hout]

/-! ## Base conversion (R155–R157) -/

theorem foldl_add_eq (l : List Nat) (a : Nat) : l.foldl (· + ·) a = l.sum + a := by
  have h : (a :: l).sum = l.foldl (· + ·) (0 + a) := List.sum_eq_foldl_nat
  rw [List.sum_cons, Nat.zero_add] at h
  omega

theorem zipIdx_map_range {α : Type} (f : Nat → α) (n : Nat) : ((List.range n).map f).zipIdx = (List.range n).map (fun i => (f i, i)) := by
  apply List.ext_getElem <;> simp

@[simp] theorem lane_zero (m32 : Bool) (j : Nat) : lane m32 0 j = 0 := by
  rw [lane, fld, show (0 : VReg) = 0#1024 from rfl, BitVec.zero_ushiftRight, BitVec.toNat_zero, Nat.zero_mod]

/-- The sum S that BCONV forms in lane `j` of core `k` (R155, R156). -/
def Braid.bconvSum (b : Braid) (m : MClause) (k j : Nat) : Nat :=
  let low := if b.m32 then 2 ^ 30 else 2 ^ 60
  ((List.range (m.scnt + 1)).map (fun x => (lane b.m32 (b.getV k (m.va + x)).val j % low) *
    ((Sparse.get 0 b.consts ((m.cset + x / 8) * 8 + x % 8)).toNat % low))).sum + (if m.acc then lane b.m32 (b.getV k m.vd).val j % low else 0)

/-- What BCONV brings to core `k`: S modulo its modulus lane by lane, and the most sealed case and the poison of its sources (R79, R158). -/
def Braid.bconvPart (b : Braid) (m : MClause) (k : Nat) : Part :=
  let srcs := (List.range (m.scnt + 1)).map (fun x => b.getV k (m.va + x))
  { wordPart k 0 false with
    val := ofLanes b.m32 ((List.range (laneN b.m32)).map (fun j => b.bconvSum m k j % b.modOf m))
    mask := allLanes b.m32, sealed := srcs.any (·.sealed) || (m.acc && (b.getV k m.vd).sealed)
    poison := srcs.any (·.poison) || (m.acc && (b.getV k m.vd).poison) }

/-- One more base conversion in the braid's telemetry (R159). -/
def Braid.countConv (b : Braid) : Braid := { b with tel := { b.tel with bcuConv := b.tel.bcuConv + 1 } }

@[simp] theorem Braid.opening_bcuFlip (b : Braid) : b.opening.bcuFlip = b.bcuFlip := by unfold Braid.opening; split <;> rfl

/-- The effect of a clause counts on the braid as it stands when the clause issues, and on no other. -/
theorem State.issued_congr {s : State} {i n : Nat} {f g : Braid → Braid} (h : f (s.braid i).opening = g (s.braid i).opening) :
    s.issued i n f = s.issued i n g := by
  simp only [State.issued, h]

/-- A base conversion in a unit without fault: its check agrees, since h·m + r is S itself (R157). -/
theorem runBconv_eq {b : Braid} (hflip : b.bcuFlip = []) (c : BitVec 96) (it : Nat) : runBconv b c it =
    (b.result 3 (17 + (mClause c).scnt) (.v (mClause c).vd) (b.cores.map (b.bconvPart (mClause c)))).countConv := by
  unfold runBconv
  extract_lets m w low md idx k0 res fails b1 t b2
  have hmd : md = b.modOf m := by simp only [md, Braid.modulus, Braid.modOf]; cases m.ring <;> rfl
  have hsum (k j : Nat) : (((idx.map (fun i => b.getV k (m.va + i))).zipIdx).map (fun x => (lane b.m32 x.1.val j % low) * k0 x.2)).foldl (· + ·)
      (if m.acc then lane b.m32 (b.getV k m.vd).val j % low else 0) = b.bconvSum m k j := by
    rw [foldl_add_eq, zipIdx_map_range, List.map_map]
    rfl
  have hxor (n k j : Nat) : Nat.xor n (lane b.m32 (Sparse.get 0 b.bcuFlip k) j) = n := by
    rw [hflip, Sparse.get, lane_zero]
    exact Nat.xor_zero n
  have hall : (List.range (laneN b.m32)).all (fun _ => true) = true := List.all_eq_true.2 fun _ _ => rfl
  have hres : res = b.cores.map (fun k => (k, (List.range (laneN b.m32)).map (fun j => b.bconvSum m k j % b.modOf m), true,
      (b.bconvPart m k).sealed, (b.bconvPart m k).poison)) := by
    refine List.map_congr_left fun k _ => ?_
    simp only [hsum, hxor, Nat.div_add_mod', hmd, decide_true, List.map_map, List.all_map]
    simp only [Function.comp_def, hall]
    rfl
  have hfails : fails = [] := by simp [fails, hres]
  have hlat : 16 + (m.scnt + 1) = 17 + m.scnt := by omega
  rw [hfails]
  show b1.countConv = _
  simp only [b1, hres, hlat, List.map_map]
  simp only [Function.comp_def, Bool.not_true, Bool.or_false]
  rfl

theorem matrixClauses : Says.MatrixClauses := by
  intro s i
  refine ⟨fun h => ?tmac, fun h => ?tzero, fun h => ?tred, fun h hflip => ?bconv⟩
  case tmac =>
    refine exec_issued (run := runTmac) rfl h fun b _ => ?_
    simp only [runTmac, blockRows_snd, blockRows_fst, groupA_eq]
    rfl
  case tzero => exact exec_issued (run := runTzero) rfl h fun b _ => rfl
  case tred => exact exec_issued (run := runTred) rfl h fun b _ => runTred_eq b _ _
  case bconv =>
    have hopen : (s.braid i.toNat).opening.bcuFlip = [] := by rw [Braid.opening_bcuFlip, hflip]
    refine (exec_issued (run := runBconv) rfl h fun _ _ => rfl).trans (congrArg Host.Outcome.next (State.issued_congr ?_))
    exact runBconv_eq hopen _ _

/-- Settles O9: a butterfly is one pair of results of its sources (`Braid.bflyOf`), done a second time on the next registers in dual form
(`runBfly_eq`); the sums of TRED are those of a row or a column (`runTred_eq`), and a base conversion in a unit without fault passes its own
check, so that it lands its residues and only counts (`runBconv_eq`). -/
theorem butterflyMatrixClauses : Obligations.ButterflyMatrixClauses := ⟨butterflyAndProgramClauses, matrixClauses⟩

end Sys2Proof.Machine
end

section
/-! The release of slots by SREL (O6). -/

namespace Sys2Proof.Machine

/-- On a ring that is not armed SREL only counts (R218). -/
theorem runSrel_unarmed {b : Braid} {c : BitVec 96} (h : (b.ring (fld c 53 5)).armed = false) (it : Nat) : runSrel b c it = b.countUnarmed := by
  simp [runSrel, h]

/-- On an armed ring SREL hands over the run of ready slots from HEAD and counts the shortfall (R217). -/
theorem runSrel_armed {b : Braid} {c : BitVec 96} (h : (b.ring (fld c 53 5)).armed = true) (it : Nat) : runSrel b c it =
    (let n := fld c 49 4 + 1
     let r := b.ring (fld c 53 5)
     let k := r.run n
     (b.setRing (fld c 53 5) { r with
       head := r.head + BitVec.ofNat 16 k
       slots := r.slots.zipIdx.map (fun x => if (List.range k).any (fun j => (r.head.toNat + j) % r.size == x.2) then
         { x.1 with braid := if r.kind = 1 then .full else .free } else x.1) }).countClamped (n - k)) := by
  simp [runSrel, h]

/-- Settles O6: SREL issues with the effect of `runSrel`, which depends only on whether the ring is armed. -/
theorem srelReleases : Obligations.SrelReleases := by
  intro s i h
  refine exec_issued (run := runSrel) rfl h fun b _ => ?_
  cases harmed : (b.ring (fld (clauseOf b.cur 0) 53 5)).armed with
  | false => rw [runSrel_unarmed harmed, if_neg (by rw [harmed]; exact Bool.false_ne_true)]
  | true => rw [runSrel_armed harmed, if_pos harmed]

end Sys2Proof.Machine
end

section
/-! Stream rings (O15): slots that change hands, and streams that go on. -/

namespace Sys2Proof

/-- A value other than the default is read back where it was written, canonical or not. -/
theorem Sparse.get_set_of_ne {α : Type} [DecidableEq α] {d v : α} (hv : v ≠ d) (m : Sparse α) (k : Nat) :
    Sparse.get d (Sparse.set d m k v) k = v := by
  induction m with
  | nil => simp [Sparse.set, Sparse.get, hv]
  | cons e m ih =>
    simp only [Sparse.set, hv, if_false]
    split_ifs <;> simp [Sparse.get, *]

end Sys2Proof

namespace Sys2Proof.Machine

/-! ## Slots (R206–R208, R242) -/

section
variable {b : Braid} {r : Nat} {x : Xfer}

/-- A change of the transfer of a ring that has one. -/
theorem Braid.modXfer_eq (h : (b.ring r).xfer = some x) (f : Xfer → Xfer) :
    b.modXfer r f = b.setRing r { b.ring r with xfer := some (f x) } := by
  rw [Braid.modXfer, h]; rfl

/-- A transfer that is done gives its slot to the braid, full, or free on a drain, before a re-arm and after the end of issue (R206, R225). -/
theorem Braid.slotDone_done (h : (b.ring r).xfer = some x) (hdone : x.wait = .done) : b.slotDone r = b.setRing r (
    let y := { b.ring r with
      xfer := none
      slots := (b.ring r).slots.set x.slot
        ⟨.inflight, if (b.ring r).kind = 1 ∨ (b.ring r).rearm ∨ b.phase = SeqPhase.ended then .free else .full⟩ }
    if (b.ring r).rearm then y else y.advance (if (b.ring r).kind = 3 then 1 else x.descs.length)) := by
  simp only [Braid.slotDone, h, hdone, bne_self_eq_false, Bool.false_eq_true, if_false]; rfl

/-- On an armed ring the changes of all slots cross at once (R208, log 30). -/
theorem Braid.cross_armed (h : (b.ring r).armed = true) : b.cross r = b.setRing r
    { b.ring r with slots := (b.ring r).slots.map (fun k =>
        if k.braid = .inflight then { k with braid := k.engine } else { k with engine := k.braid }) } := by
  simp only [Braid.cross, h, Bool.not_true, Bool.false_eq_true, if_false, beq_iff_eq]

/-- The hold of a key ring that waits for a re-arm ends with the ring disarmed (R242). -/
theorem Braid.holdEnd_waiting (harmed : (b.ring r).armed = true) (hrearm : (b.ring r).rearm = true) (hkind : (b.ring r).kind = 2) :
    b.holdEnd r = b.setRing r { Ring.init with stall := (b.ring r).stall } := by
  simp only [Braid.holdEnd, harmed, hrearm, hkind, beq_self_eq_true, Bool.and_self, if_true, Braid.disarm]
end

/-- The mover does not move a transfer that does not run (R201). -/
theorem State.finishXfer_of_not_run {s : State} {i r : Nat} {x : Xfer} (h : ((s.braid i).ring r).xfer = some x) (hwait : x.wait ≠ .run) :
    s.finishXfer i r = s := by
  have hruns : (s.braid i).moverRuns r = false := by simp [Braid.moverRuns, h, hwait]
  have hrounds (f : Nat) : State.moverRounds i r f s = s := by cases f <;> simp [State.moverRounds, hruns]
  simp only [State.finishXfer, h, hrounds]

/-- The end of a transfer that is done changes its slot and nothing else. -/
theorem State.slotFinish_done {s : State} {i r : Nat} {x : Xfer} (hlive : s.live = true) (hx : ((s.braid i).ring r).xfer = some x)
    (hdone : x.wait = .done) : s.slotFinish i r = s.afterBraid i ((s.braid i).slotDone r) := by
  have hfinished : s.finishXfer i r = s := State.finishXfer_of_not_run hx (by rw [hdone]; decide)
  rw [State.slotFinish, hlive, hfinished, State.braidStep_live _ _ hlive]; rfl

/-- A transfer whose descriptors are read and pass every check takes the slot at TAIL and moves (R206, R209). -/
theorem State.slotStart_checked {s : State} {i r : Nat} {q : Ring} (hq : (s.braid i).ring r = q) {c : List (BitVec 512) × Bool}
    (hlive : s.live = true) (hmay : (s.braid i).mayStart r = true) (hkind : q.kind = 0 ∨ q.kind = 1 ∨ q.kind = 5)
    (hc : q.collect 17 q.next = some c)
    (hchk : s.checkXfer (s.braid i) ((s.braid i).ten.getD 0) q (c.1.map (q.slice (q.newXfer c.1).slot)) c.2 = none) :
    s.slotStart i r = (s.setBraid i ((s.braid i).setRing r (q.take (q.newXfer c.1)))).moveOn i r := by
  have hkind3 : q.kind ≠ 3 := by omega
  simp only [State.slotStart, hq, hlive, hmay, hc, hchk, hkind3, if_pos hkind, Bool.not_true, Bool.or_self, Bool.false_eq_true, if_false]

theorem slotsChangeHands : Says.SlotsChangeHands := by
  intro s i r hlive b q
  refine ⟨fun c hmay hkind hc hchk => ?start, fun x hx hdone => ?done, fun harmed => ?crossing, fun harmed hrearm hkind => ?hold⟩
  case start =>
    calc exec (.slotTransferStart i r) s = .next (s.slotStart i.toNat r.toNat) := rfl
      _ = _ := by rw [State.slotStart_checked rfl hlive hmay hkind hc hchk]; rfl
  case done =>
    calc exec (.slotTransferDone i r) s = .next (s.slotFinish i.toNat r.toNat) := rfl
      _ = _ := by rw [State.slotFinish_done hlive hx hdone, Braid.slotDone_done hx hdone]
  case crossing =>
    calc exec (.slotCrossing i r) s = .next (s.braidStep i.toNat (·.cross r.toNat)) := rfl
      _ = _ := by rw [State.braidStep_live _ _ hlive, Braid.cross_armed harmed]
  case hold =>
    calc exec (.affinityHoldExpiry i r) s = .next (s.braidStep i.toNat (·.holdEnd r.toNat)) := rfl
      _ = _ := by rw [State.braidStep_live _ _ hlive, Braid.holdEnd_waiting harmed hrearm hkind]

/-! ## Accesses that wait for a bank (R168, R169) -/

/-- An access takes place at once where every bank it touches is the engine's, has no clearing and is not touched by a core port. -/
theorem Braid.dmaWait?_eq_none_iff {b : Braid} {addrs : List Nat} : b.dmaWait? addrs = none ↔
    ∀ a ∈ addrs, bit b.bankMap (a / 2 ^ 18) = true ∧ Sparse.get [] b.clear (a / 2 ^ 18) = [] ∧ a / 2 ^ 18 ∉ b.busyBanks := by
  have hbanks (p : Nat → Bool) : (banksOf addrs).any p = true ↔ ∃ a ∈ addrs, p (a / 2 ^ 18) = true := by simp [banksOf]
  simp only [Braid.dmaWait?, hbanks, ite_eq_iff, reduceCtorEq, and_false, false_or, and_true, not_exists, not_and, ← forall_and]
  refine forall₂_congr fun a _ => ?_
  simp [and_assoc]

/-- A wait that ends while issue goes on has been counted as time moved (log 28). -/
theorem State.endDmaWait_issuing (s : State) (i : Nat) : s.endDmaWait i .issuing = s := rfl

theorem State.braid_setBraid_of_ne {b : Braid} (hb : b ≠ Braid.init) (s : State) (i : Nat) : (s.setBraid i b).braid i = b :=
  Sparse.get_set_of_ne hb s.braids i

/-- A braid that issues is read back issuing. -/
theorem State.phase_setBraid_issuing {b : Braid} (h : b.phase = .issuing) (s : State) (i : Nat) :
    ((s.setBraid i b).braid i).phase = .issuing := by
  have hb : b ≠ Braid.init := by rintro rfl; exact absurd h (by decide)
  rw [State.braid_setBraid_of_ne hb, h]

section
variable {s : State} {i r : Nat} {x : Xfer}

/-- An access that waits for a bank waits on while the bank is not free to it. -/
theorem State.deferred_holds {w : XferWait} (hlive : s.live = true) (hx : ((s.braid i).ring r).xfer = some x)
    (hkind : ((s.braid i).ring r).kind ≠ 2) (hwait : x.wait = .deferred ∨ x.wait = .owner)
    (hbank : (s.braid i).dmaWait? ((s.braid i).waitAddrs r x) = some w) :
    s.deferred i r = s.holdXfer i r w ((s.braid i).waitAddrs r x) := by
  have hw : (x.wait == .deferred || x.wait == .owner) = true := by simpa using hwait
  simp [State.deferred, hx, hlive, hkind, hw, hbank]

/-- An access that waits for a bank takes place once the bank is free to it; the end of a wait for the bank's owner is counted. -/
theorem State.deferred_goesOn (hlive : s.live = true) (hx : ((s.braid i).ring r).xfer = some x)
    (hkind : ((s.braid i).ring r).kind ≠ 2) (hwait : x.wait = .deferred ∨ x.wait = .owner)
    (hbank : (s.braid i).dmaWait? ((s.braid i).waitAddrs r x) = none) : s.deferred i r =
      (let t := s.setBraid i ((s.braid i).setRing r { (s.braid i).ring r with xfer := some { x with wait := .run } })
       ((if x.wait = .owner ∧ !(t.braid i).dmaWaits then t.endDmaWait i (t.braid i).phase else t).moveOn i r).noteStalls) := by
  have hw : (x.wait == .deferred || x.wait == .owner) = true := by simpa using hwait
  simp only [State.deferred, hx, hlive, hw, hbank, Braid.modXfer_eq hx, beq_eq_false_iff_ne.2 hkind, Bool.not_true, Bool.or_self,
    Bool.false_eq_true, if_false]
end

/-! ## Descriptor bursts and halted streams (R212, R223) -/

/-- The cache of a ring after a burst of the descriptors `ds`, of which the first is number `k`: they stand alone where the next descriptor
was not in it, else they follow those not used yet. -/
def Ring.loadBurst (q : Ring) (k : Nat) (ds : List (BitVec 512)) : Ring :=
  if (q.desc q.next).isNone then { q with cache := ds, cacheAt := k }
  else { q with cache := q.cache.drop (q.next - q.cacheAt) ++ ds, cacheAt := q.next }

/-- A burst of an open, mapped program without poison goes into the ring's cache (R212). -/
theorem State.burstFetch_reads {s : State} {i r k : Nat} {q : Ring} {n : Tid} (hq : (s.braid i).ring r = q) (hn : (s.braid i).ten.getD 0 = n)
    (hlive : s.live = true) (harmed : q.armed = true) (hrearm : q.rearm = false) (hkind : q.kind = 0 ∨ q.kind = 1 ∨ q.kind = 5)
    (hphase : (s.braid i).phase ≠ .stopped) (hk : q.burst = some k) {len : Nat} (hlen : Nat.min 16 (q.progLen - k) = len)
    (hmapped : s.anyUnmapped n (q.prog + 64 * k) (64 * len) = false) (hopen : s.anySealedPage n (q.prog + 64 * k) (64 * len) = false)
    (hpoison : (s.readMem n (q.prog + 64 * k) (64 * len)).2.2 = false) :
    s.burstFetch i r = (s.readMem n (q.prog + 64 * k) (64 * len)).1.modBraid i (fun b => b.setRing r
      ((b.ring r).loadBurst k ((chunks 64 len (s.readMem n (q.prog + 64 * k) (64 * len)).2.1).map rec64))) := by
  have hkinds : (q.kind == 0 || q.kind == 1 || q.kind == 5) = true := by simpa [or_assoc] using hkind
  simp only [State.burstFetch, hq, hn, hlive, harmed, hrearm, hkinds, beq_eq_false_iff_ne.2 hphase, hk, hlen, hmapped, hopen, hpoison,
    Bool.not_true, Bool.or_self, Bool.false_eq_true, if_false, Ring.loadBurst, apply_ite (Braid.setRing _ r)]

/-- A halted stream goes on once no page that it waits for keeps writes waiting (R223). -/
theorem State.streamResume_resident {s : State} {i r : Nat} (hlive : s.live = true) (harmed : ((s.braid i).ring r).armed = true)
    (hhalted : ((s.braid i).ring r).halted = true) (hxfer : ((s.braid i).ring r).xfer.isSome = true)
    (hpages : ∀ p ∈ ((s.braid i).ring r).haltPages, s.pageWaits ((s.braid i).ten.getD 0) p = false) :
    s.streamResume i r = (s.setBraid i ((s.braid i).setRing r { (s.braid i).ring r with halted := false })).moveOn i r := by
  have hall : ((s.braid i).ring r).haltPages.all (fun p => !s.pageWaits ((s.braid i).ten.getD 0) p) = true :=
    List.all_eq_true.2 fun p hp => by rw [hpages p hp]; rfl
  simp only [State.streamResume, hlive, harmed, hhalted, hxfer, hall, Bool.and_self, if_true]

theorem streamsGoOn : Says.StreamsGoOn := by
  intro s i r hlive b q n
  refine ⟨fun x hx hkind hbank => ?goesOn, fun x w hx hkind hwait hbank => ?holds, fun b addrs hbank a ha hmap hlt => ?bank,
    fun k harmed hrearm hkind hphase hk => ?burst, fun harmed hhalted hxfer hpages => ?resume⟩
  case goesOn =>
    intro t
    have hgoes (hwait : x.wait = .deferred ∨ x.wait = .owner) : exec (.deferredDmaAccess i r) s = .next
        (((if x.wait = .owner ∧ !(t.braid i.toNat).dmaWaits then t.endDmaWait i.toNat (t.braid i.toNat).phase else t).moveOn
          i.toNat r.toNat).noteStalls) := congrArg Host.Outcome.next (State.deferred_goesOn hlive hx hkind hwait hbank)
    refine ⟨fun hwait => ?_, fun hwait hissuing => ?_⟩
    · rw [hgoes (.inl hwait), if_neg (by simp [hwait])]
    · have hphase : (t.braid i.toNat).phase = .issuing := State.phase_setBraid_issuing (b := b.setRing r.toNat _) hissuing _ _
      rw [hgoes (.inr hwait), hphase, State.endDmaWait_issuing, ite_self]
  case holds =>
    calc exec (.deferredDmaAccess i r) s = .next (s.deferred i.toNat r.toNat) := rfl
      _ = _ := by rw [State.deferred_holds hlive hx hkind hwait hbank]
  case bank =>
    obtain ⟨-, hclear, hbusy⟩ := Braid.dmaWait?_eq_none_iff.1 hbank a ha
    exact ⟨hbusy, hclear⟩
  case burst =>
    intro len hmapped hopen hpoison
    calc exec (.descriptorBurstFetch i r) s = .next (s.burstFetch i.toNat r.toNat) := rfl
      _ = _ := by rw [State.burstFetch_reads rfl rfl hlive harmed hrearm hkind hphase hk rfl hmapped hopen hpoison]; rfl
  case resume =>
    calc exec (.streamResume i r) s = .next (s.streamResume i.toNat r.toNat) := rfl
      _ = _ := by
        rw [State.streamResume_resident hlive harmed hhalted hxfer fun p hp => ?_]
        obtain ⟨hbacking, hmig⟩ := hpages p hp
        rw [State.pageWaits, hbacking, hmig]; rfl

/-- Settles O15: each event of a ring is said once of the braid or of the state, and its conditions choose the branch. A wait for a bank's
owner that ends while issue goes on counts nothing more, as the braid put back is read back issuing (`State.phase_setBraid_issuing`). -/
theorem ringsMoveOn : Obligations.RingsMoveOn := ⟨slotsChangeHands, streamsGoOn⟩

end Sys2Proof.Machine
end

section
/-! Key pages and their multicast groups (O16). -/

namespace Sys2Proof.Machine

section
variable {s : State} {id : Nat} {g : Group}

/-- A group starts once every member has armed its ring (R239). -/
theorem State.groupStart_armed (hlive : s.live = true) (hg : s.group id = some g) (hstarted : g.started = false)
    (hmembers : ∀ m ∈ g.members, m.armed = true) :
    s.groupStart id = (s.modGroup id (fun g => { g with started := true })).noteStalls := by
  have hall : g.members.all (·.armed) = true := List.all_eq_true.2 hmembers
  simp only [State.groupStart, hg, hlive, hstarted, hall, Bool.not_false, Bool.and_self, if_true]

/-- A page whose object header and page header are read and pass their checks, and which writes no sealed key into an open slot, is in
read (R231–R233, R240). -/
theorem State.keyPageStart_checked {c : ChainD} {kt tva : Nat} {dj : Nat × Nat} {o h : State × List Byte × Bool}
    (hg : s.group id = some g) (hready : s.groupReady g = true) (hkey : s.keyTva g = some kt)
    (hc : ((s.ten g.ten).chain g.chain.toNat).getD ringChain = c) (hdj : pageAt c g.level g.order g.page = dj)
    (ho : (s.takeSlots g).readMem g.ten kt 64 = o) (htva : keyPageTva (rec64 o.2.1) c dj.1 dj.2 = tva) (hh : o.1.readMem g.ten tva 128 = h)
    (hobject : (s.takeSlots g).anyUnmapped g.ten kt 64 = false) (hobjectPoison : o.2.2 = false)
    (hpage : o.1.anyUnmapped g.ten tva 128 = false) (hpagePoison : h.2.2 = false)
    (hcheck : h.1.keyCheck g (rec64 o.2.1) h.2.1 dj.1 dj.2 = none)
    (hcase : h.1.anySealedPage g.ten tva (4096 + 2 ^ c.log2n * c.w8 * (if hSeeded (rec64 o.2.1) then 1 else 2)) = true →
      ∀ m ∈ g.members, h.1.slotOpen m = false) :
    s.keyPageStart id = h.1.modGroup id (fun g =>
      { g with read := some { digit := dj.1, pos := dj.2, tva := BitVec.ofNat 48 tva, hdr := h.2.1 } }) := by
  have hfits : (h.1.anySealedPage g.ten tva (4096 + 2 ^ c.log2n * c.w8 * (if hSeeded (rec64 o.2.1) then 1 else 2)) &&
      g.members.any (fun m => h.1.slotOpen m)) = false :=
    Bool.and_eq_false_imp.2 fun hsealed => List.any_eq_false.2 fun m hm => by simp [hcase hsealed m hm]
  simp only [State.keyPageStart, hg, hready, hkey, hc, hdj, ho, htva, hh, hobject, hobjectPoison, hpage, hpagePoison, hcheck, hfits,
    Bool.not_true, Bool.false_eq_true, if_false]

/-- Where no member waits for a bank, the page's end reads its halves (R169, R240). -/
theorem State.keyPageDone_reads {k : KeyRead} (hlive : s.live = true) (hg : s.group id = some g) (hk : g.read = some k)
    (hwait : ∀ m ∈ g.members, s.memberWait m = none) : s.keyPageDone id = s.keyRead id g k := by
  have hnone : g.members.any (fun m => !s.memberStuck m && (s.memberWait m).isSome) = false :=
    List.any_eq_false.2 fun m hm => by simp [hwait m hm]
  simp only [State.keyPageDone, hg, hk, hlive, hnone, Bool.not_true, Bool.false_eq_true, if_false]

/-- Halves that are read whole and agree with the checksum are delivered, the second expanded from the seed in a seeded page (R234–R237). -/
theorem State.keyRead_delivers {k : KeyRead} {c : ChainD} {len : Nat} {r : State × List Byte × Bool}
    (hc : ((s.ten g.ten).chain g.chain.toNat).getD ringChain = c)
    (hlen : 2 ^ c.log2n * c.w8 * (if kp k.hdr 0 63 1 = 1 then 1 else 2) = len) (hr : s.readMem g.ten (k.tva.toNat + 4096) len = r)
    (hmapped : s.anyUnmapped g.ten (k.tva.toNat + 4096) len = false) (hpoison : r.2.2 = false) (hsum : cksumOk k.hdr r.2.1 = true) :
    s.keyRead id g k =
      (let seeded := kp k.hdr 0 63 1 == 1
       let ex := if seeded then expandSeed k.hdr c else ([], 0)
       let half := 2 ^ c.log2n * c.w8
       (r.1.modLan g.hw (fun l => { l with reads := l.reads + 1 })).keyDeliver id g seeded ex.2 (r.2.1.take half)
         (if seeded then ex.1.flatMap (leBytes c.w8) else r.2.1.drop half) (passLen c g.level)) := by
  simp only [State.keyRead, hc, hlen, hr, hmapped, hpoison, State.keyChecked, hsum, Bool.not_true, Bool.false_eq_true, if_false]
end

/-- Settles O16: the group's start, the read of a page and its end are each said once of the state, and their conditions choose the branch. -/
theorem keyPagesAreDelivered : Obligations.KeyPagesAreDelivered := by
  intro s id g hlive hg c
  refine ⟨fun hstarted hmembers => ?start, fun kt hready hkey hobject => ?read, fun k hk hwait => ?done⟩
  case start =>
    calc exec (.multicastGroupStart id) s = .next (s.groupStart id) := rfl
      _ = _ := by rw [State.groupStart_armed hlive hg hstarted hmembers]
  case read =>
    intro dj o oh tva h hobjectPoison hpage hpagePoison hcheck hcase
    calc exec (.keyPageReadStart id) s = .next (s.keyPageStart id) := rfl
      _ = _ := congrArg Host.Outcome.next
        (State.keyPageStart_checked hg hready hkey rfl rfl rfl rfl rfl hobject hobjectPoison hpage hpagePoison hcheck hcase)
  case done =>
    intro half seeded len r ex hmapped hpoison hsum
    calc exec (.keyPageDone id) s = .next (s.keyPageDone id) := rfl
      _ = .next (s.keyRead id g k) := by rw [State.keyPageDone_reads hlive hg hk hwait]
      _ = _ := congrArg Host.Outcome.next (State.keyRead_delivers rfl rfl rfl hmapped hpoison hsum)

end Sys2Proof.Machine
end

section
/-! The state after reset (O60). -/

namespace Sys2Proof.Machine

/-- Settles O60: an empty table reads as its default at every key, and the reset state's tables are empty. -/
theorem resetLeaves : Obligations.ResetLeaves :=
  ⟨by decide, rfl, rfl, rfl, rfl, rfl, fun _ => rfl, fun _ => rfl, fun _ => rfl, fun _ => ⟨rfl, rfl, rfl⟩, fun _ => ⟨rfl, rfl⟩, fun _ => rfl⟩

end Sys2Proof.Machine
end

section
/-! Page commands (O23). -/

namespace Sys2Proof.Machine

/-! ## A page command that starts -/

theorem State.pageCmd_iff {s : State} {e o : Nat} {t : Token} :
    s.pageCmd e o t = true ↔ s.starts e (selOp o) t = true ∧ t.pgRange = true ∧ t.pgCtx = false := by
  simp [State.pageCmd, and_assoc]

/-- A page command whose range is right runs on the state in which its entry has begun. -/
theorem State.startCmd_pageCmd {s : State} {e o : Nat} {t : Token} (h : s.pageCmd e o t = true) (run : State → Token → State)
    (k : State → Token → State) (hrun : ∀ s t, run s t = s.pgCheck t (k s t)) :
    s.startCmd e (selOp o) run = k (s.begun t) t.begun := by
  obtain ⟨hstarts, hrange, hctx⟩ := State.pageCmd_iff.1 h
  have hrange : t.begun.pgRange = true := hrange
  have hctx : t.begun.pgCtx = false := hctx
  rw [State.startCmd_starts hstarts, hrun, State.pgCheck, hrange, hctx]
  rfl

theorem any_pte_eq_false {s : State} {n : Tid} {ks : List Nat} (h : ∀ k ∈ ks, (s.pte n k).state ≠ .unmapped) :
    ks.any (fun k => (s.pte n k).state == .unmapped) = false := by
  simpa using h

/-! ## MAP, FREE, UNMAP and PIN -/

section
variable {s : State} {e : Nat} {t : Token}

theorem exec_map (h : s.pageCmd e 0x20 t = true) : exec (.map e) s = .next (
    if t.pgList.any (fun k => ((s.begun t).pte t.ten k).state != .unmapped) then (s.begun t).pgEnd t.begun 0x40 0x0A 0
    else (t.pgList.foldl (fun s k => s.setPte t.ten k { Pte.init with
      state := .mapped, sealed := t.bodyBit 12 0, pref := t.bodyBit 12 1, home := t.bodyBit 12 2, pin := t.bodyBit 12 3
      homeft := t.bodyBit 12 4 }) (s.begun t)).pgEnd t.begun 0x00 0 t.pgCount) :=
  congrArg Host.Outcome.next (State.startCmd_pageCmd h State.mapCmd _ fun _ _ => rfl)

theorem exec_free (h : s.pageCmd e 0x22 t = true) (hmapped : ∀ k ∈ t.pgList, ((s.begun t).pte t.ten k).state ≠ .unmapped) :
    let ps := t.pgList.filter (fun k => ((s.begun t).pte t.ten k).backed)
    exec (.free e) s = .next (((ps.foldl (fun s k => s.freePage t.ten k) (s.begun t)).pgEnd t.begun 0x00 0 ps.length).runHeld) := by
  refine congrArg Host.Outcome.next ((State.startCmd_pageCmd h State.freeCmd _ fun _ _ => rfl).trans ?_)
  exact if_neg (Bool.eq_false_iff.1 (any_pte_eq_false hmapped))

theorem exec_unmap (h : s.pageCmd e 0x23 t = true) (hmapped : ∀ k ∈ t.pgList, ((s.begun t).pte t.ten k).state ≠ .unmapped)
    (hwin : (s.begun t).windowOver t.ten t.pgTva (2 ^ 21 * t.pgCount) = false) :
    exec (.unmap e) s = .next (((t.pgList.foldl (fun s k => s.unmapPage t.ten k) (s.begun t)).pgEnd t.begun 0x00 0 t.pgCount).allocAll t.ten) := by
  refine congrArg Host.Outcome.next ((State.startCmd_pageCmd h State.unmapCmd _ fun _ _ => rfl).trans ?_)
  exact (if_neg (Bool.eq_false_iff.1 (any_pte_eq_false hmapped))).trans (if_neg (Bool.eq_false_iff.1 hwin))

theorem exec_pin (h : s.pageCmd e 0x24 t = true) (hmapped : ∀ k ∈ t.pgList, ((s.begun t).pte t.ten k).state ≠ .unmapped) :
    exec (.pin e) s = .next ((s.begun t).pinGo t.begun 0 t.pgList) := by
  refine congrArg Host.Outcome.next ((State.startCmd_pageCmd h State.pinCmd _ fun _ _ => rfl).trans ?_)
  exact if_neg (Bool.eq_false_iff.1 (any_pte_eq_false hmapped))
end

/-- PIN of one page that changes, where a bulk-tier page finds quota in the ring tier (R266). -/
theorem State.pinGo_one {s : State} {t : Token} {k : Nat} (hpin : (s.pte t.ten k).pin ≠ t.bodyBit 12 0)
    (hquota : t.bodyBit 12 0 = true → (s.pte t.ten k).backed = true → (s.pte t.ten k).bulk = true → ((s.ten t.ten).book false).avail ≠ 0) :
    s.pinGo t 0 [k] = (s.setPte t.ten k { s.pte t.ten k with pin := t.bodyBit 12 0 }).pgEnd t 0x00 0 1 := by
  have hroom : (t.bodyBit 12 0 && (s.pte t.ten k).backed && (s.pte t.ten k).bulk && ((s.ten t.ten).book false).avail == 0) = false := by
    simpa [and_assoc] using hquota
  rw [State.pinGo, if_neg (mt beq_iff_eq.1 hpin)]
  simp only [hroom, Bool.false_eq_true, if_false, State.pinGo]
  rfl

theorem pageCommands : Says.PageCommands := by
  intro s e t n u b
  refine ⟨fun h hunmapped => ?_, fun h ⟨k, hk, hstate⟩ => ?_, exec_free, exec_unmap, fun k h hlist hmapped hpin hquota => ?_⟩
  · rw [exec_map h, if_neg]
    simpa using hunmapped
  · rw [exec_map h, if_pos]
    exact List.any_eq_true.2 ⟨k, hk, bne_iff_ne.2 hstate⟩
  · rw [exec_pin h (by simpa [hlist] using hmapped), hlist]
    exact congrArg Host.Outcome.next (State.pinGo_one (s := b) (t := u) hpin hquota)

/-! ## ALLOC -/

theorem exec_alloc {s : State} {e : Nat} {t : Token} (h : s.pageCmd e 0x21 t = true) (hfit : (s.begun t).tierFitted (t.bodyBit 12 0) = true)
    (hopen : (s.begun t).tierOpen (t.bodyBit 12 0) = true) :
    exec (.alloc e) s = .next ((s.begun t).allocGo t.begun 0 t.pgCount) := by
  have hfit : ¬(!(s.begun t).tierFitted (t.bodyBit 12 0)) = true := by simpa using hfit
  have hopen : ¬(!(s.begun t).tierOpen (t.bodyBit 12 0)) = true := by simpa using hopen
  refine congrArg Host.Outcome.next ((State.startCmd_pageCmd h State.allocCmd _ fun _ _ => rfl).trans ?_)
  exact (if_neg hfit).trans (if_neg hopen)

/-- The range of one page. -/
theorem Token.pgList_one {t : Token} {k : Nat} (h : t.pgList = [k]) : t.pgCount = 1 ∧ t.pgFirst = k := by
  have hcount : t.pgCount = 1 := by simpa [Token.pgList] using congrArg List.length h
  exact ⟨hcount, by simpa [Token.pgList, hcount] using h⟩

theorem Pte.backed_of_mapped {p : Pte} (h : p.state = .mapped) : p.backed = false := by
  simp [Pte.backed, h]

section
variable {s : State} {t : Token} {k : Nat} (hlist : t.pgList = [k])
include hlist

/-- ALLOC of one page that is backed. -/
theorem State.allocGo_backed (hback : (s.pte t.ten k).backed = true) : s.allocGo t 0 t.pgCount = s.pgEnd t 0x00 0 0 := by
  obtain ⟨hcount, rfl⟩ := Token.pgList_one hlist
  have hstate : ((s.pte t.ten t.pgFirst).state == .unmapped) = false := by
    rw [beq_eq_false_iff_ne]; intro h; simp [Pte.backed, h] at hback
  simp [hcount, State.allocGo, hback, hstate, Status.ok]

/-- ALLOC of one mapped page that no backing is in work for: it needs quota and a frame. -/
theorem State.allocGo_mapped (hmapped : (s.pte t.ten k).state = .mapped) (hidle : s.mem.backing = []) (hopen : s.tierOpen (t.bodyBit 12 0) = true) :
    s.allocGo t 0 t.pgCount =
      if ((s.ten t.ten).book (t.bodyBit 12 0)).avail = 0 ∨ s.tierHasFrame (t.bodyBit 12 0) = false then s.pgEnd t 0x22 0 0
      else (s.startBacking t.ten k (t.bodyBit 12 1) (t.bodyBit 12 0) (t.bodyBit 12 1) (some t.id)).modTok t.id
        (fun x => { x with comp := { x.comp with detail := 1, position := 0, value := 0 } }) := by
  obtain ⟨hcount, rfl⟩ := Token.pgList_one hlist
  have hback := Pte.backed_of_mapped hmapped
  simp [hcount, State.allocGo, hback, hmapped, hidle, hopen, Status.quotaExceeded]
end

theorem allocBacksPages : Says.AllocBacksPages := by
  intro s e k t n u b bulk home p h hlist hfit hopen
  rw [exec_alloc h hfit hopen]
  have hmapped := State.allocGo_mapped (s := b) (t := u) hlist
  refine ⟨fun hst hidle havail hframe => ?_, fun hback => ?_, fun hst hidle havail => ?_⟩
  · refine congrArg Host.Outcome.next ((hmapped hst hidle hopen).trans (if_neg ?_))
    rintro (h | h)
    · exact havail h
    · exact absurd (h.symm.trans hframe) Bool.false_ne_true
  · exact congrArg Host.Outcome.next (State.allocGo_backed (s := b) (t := u) hlist hback)
  · exact congrArg Host.Outcome.next ((hmapped hst hidle hopen).trans (if_pos (.inl havail)))

/-- Settles O23: a page command whose range is right answers what its row gives of the state in which its entry has begun. -/
theorem pagesChange : Obligations.PagesChange := ⟨pageCommands, allocBacksPages⟩

end Sys2Proof.Machine
end

section
/-! Migrations (O26). -/

namespace Sys2Proof.Machine

/-! ## Starts (R264, R265, R267, R270) -/

theorem State.roomFor_iff {s : State} {bulk h : Bool} {p : Pte} : s.roomFor bulk h p = true ↔
    s.tierOpen bulk = true ∧ (s.pager h).lowWater.toNat < s.freeFrames bulk h ∧ s.migsOn p.hawser < 4 := by
  simp [State.roomFor, and_assoc]

theorem State.promote_starts {s : State} {n : Tid} {k : Nat} (hlive : s.live = true) (hmig : s.migrates = true)
    (hprom : s.promotable n k = true) (hquota : 1 ≤ ((s.ten n).book false).avail)
    (hroom : s.roomFor false (s.destHawser false (s.pte n k).home) (s.pte n k) = true) :
    s.promote n k = s.startMig n k .promote false (s.destHawser false (s.pte n k).home) := by
  obtain ⟨hopen, hfree, hmigs⟩ := State.roomFor_iff.1 hroom
  simp [State.promote, hlive, hmig, hprom, hquota, hopen, hfree, hmigs]

theorem State.goHome_starts {s : State} {n : Tid} {k : Nat} (hlive : s.live = true) (hst : (s.pte n k).state = .backed)
    (hfar : (s.pte n k).hawser ≠ (s.pte n k).home) (hft : (s.pte n k).homeft = false)
    (hroom : s.roomFor (s.pte n k).bulk (s.pte n k).home (s.pte n k) = true) :
    s.goHome n k = s.startMig n k .home (s.pte n k).bulk (s.pte n k).home := by
  obtain ⟨hopen, hfree, hmigs⟩ := State.roomFor_iff.1 hroom
  simp [State.goHome, hlive, hst, hfar, hft, hopen, hfree, hmigs]

/-! ## The sweep (R266) -/

section
variable {s : State} {hw : Bool} {id k : Nat} {n : Tid} (huse : s.frameUse id = some (.allocated n k))
include huse

/-- What the sweep does with a frame that holds a page. -/
theorem State.sweepFrame_allocated : s.sweepFrame hw id =
    if (s.pte n k).state ≠ .backed then s.modPager hw (fun q => { q with sweep := id + 1 })
    else if (s.pte n k).ref = true then (s.modPager hw (fun q => { q with sweep := id + 1 })).setPte n k { s.pte n k with ref := false }
    else if (s.pte n k).pin = true ∨ ((s.ten n).book true).avail = 0 ∨ s.tierOpen true = false then
      s.modPager hw (fun q => { q with sweep := id + 1 })
    else (s.modPager hw (fun q => { q with sweep := id + 1 })).startMig n k .demote true (s.destHawser true (s.pte n k).home) := by
  have hframe : (s.modPager hw (fun q => { q with sweep := id + 1 })).frameUse id = some (.allocated n k) := huse
  simp only [State.sweepFrame, hframe, bne_iff_ne, Bool.or_eq_true, beq_iff_eq, Bool.not_eq_true', or_assoc]
  rfl

theorem State.sweepFrame_unbacked (hst : (s.pte n k).state ≠ .backed) :
    s.sweepFrame hw id = s.modPager hw (fun q => { q with sweep := id + 1 }) := by
  rw [State.sweepFrame_allocated huse, if_pos hst]

variable (hst : (s.pte n k).state = .backed)
include hst

theorem State.sweepFrame_ref (href : (s.pte n k).ref = true) :
    s.sweepFrame hw id = (s.modPager hw (fun q => { q with sweep := id + 1 })).setPte n k { s.pte n k with ref := false } := by
  rw [State.sweepFrame_allocated huse, if_neg (not_not_intro hst), if_pos href]

theorem State.sweepFrame_stays (href : (s.pte n k).ref = false)
    (hstay : (s.pte n k).pin = true ∨ ((s.ten n).book true).avail = 0 ∨ s.tierOpen true = false) :
    s.sweepFrame hw id = s.modPager hw (fun q => { q with sweep := id + 1 }) := by
  rw [State.sweepFrame_allocated huse, if_neg (not_not_intro hst), if_neg (Bool.eq_false_iff.1 href), if_pos hstay]

theorem State.sweepFrame_demotes (href : (s.pte n k).ref = false) (hpin : (s.pte n k).pin = false)
    (hquota : ((s.ten n).book true).avail ≠ 0) (hopen : s.tierOpen true = true) :
    s.sweepFrame hw id = (s.modPager hw (fun q => { q with sweep := id + 1 })).startMig n k .demote true
      (s.destHawser true (s.pte n k).home) := by
  rw [State.sweepFrame_allocated huse, if_neg (not_not_intro hst), if_neg (Bool.eq_false_iff.1 href), if_neg]
  simp [hpin, hquota, hopen]
end

/-- The ring-tier frames of a hawser in use, once round from where its pointer stands. -/
def State.sweepRound (s : State) (hw : Bool) : List Nat :=
  let ids := (s.mem.use.filter (fun x => x.1 / 2 ^ 20 == tierKey false hw)).map Prod.fst
  ids.filter (fun i => decide ((s.pager hw).sweep ≤ i)) ++ ids.filter (fun i => decide (i < (s.pager hw).sweep))

/-- The sweep stops: free frames have reached LOWWATER, or four migrations run. -/
def State.sweepEnds (s : State) (hw : Bool) : Prop := (s.pager hw).lowWater.toNat ≤ s.freeFrames false hw ∨ 4 ≤ s.migsOn hw

theorem exec_demotionSweep {s : State} {h : Hawser} (hlive : s.live = true) (hmig : s.migrates = true) :
    exec (.demotionSweep h) s = .next (State.sweepGo (hawserNo h) (s.sweepRound (hawserNo h)) s) := by
  show Host.Outcome.next (s.sweep (hawserNo h)) = _
  rw [State.sweep, hlive, hmig]
  rfl

/-- The sweep takes the first frames of a list, up to where it stops. -/
theorem State.sweepGo_takes (hw : Bool) (ids : List Nat) (s : State) :
    let upTo := fun j => (ids.take j).foldl (fun u id => u.sweepFrame hw id) s
    ∃ k ≤ ids.length, State.sweepGo hw ids s = upTo k ∧ (∀ j < k, ¬(upTo j).sweepEnds hw) ∧ (k = ids.length ∨ (upTo k).sweepEnds hw) := by
  induction ids generalizing s with
  | nil => exact ⟨0, Nat.le_refl 0, rfl, fun j hj => absurd hj (Nat.not_lt_zero j), .inl rfl⟩
  | cons id ids ih =>
    by_cases hend : s.sweepEnds hw
    · exact ⟨0, Nat.zero_le _, if_pos hend, fun j hj => absurd hj (Nat.not_lt_zero j), .inr hend⟩
    · obtain ⟨k, hk, hgo, hon, hstop⟩ := ih (s.sweepFrame hw id)
      refine ⟨k + 1, Nat.succ_le_succ hk, (if_neg hend).trans hgo, fun j hj => ?_, hstop.imp_left (congrArg Nat.succ)⟩
      cases j with
      | zero => exact hend
      | succ j => exact hon j (Nat.lt_of_succ_lt_succ hj)

theorem sweepGoesRound : Says.SweepGoesRound := by
  refine ⟨fun s h hlive hmig => ?_, fun s hw id k n huse => ?_⟩
  · rw [exec_demotionSweep hlive hmig]
    obtain ⟨k, hk, hgo, hon, hstop⟩ := State.sweepGo_takes (hawserNo h) (s.sweepRound (hawserNo h)) s
    exact ⟨k, hk, congrArg Host.Outcome.next hgo, hon, hstop⟩
  · exact ⟨State.sweepFrame_unbacked huse, State.sweepFrame_ref huse, State.sweepFrame_stays huse, State.sweepFrame_demotes huse⟩

/-- With one frame in use the round is that frame, wherever the pointer stands. -/
theorem State.sweepRound_one {s : State} {hw : Bool} {id : Nat} {u : Option FrameUse}
    (h : s.mem.use.filter (fun x => x.1 / 2 ^ 20 == tierKey false hw) = [(id, u)]) : s.sweepRound hw = [id] := by
  rw [State.sweepRound, h]
  by_cases hid : (s.pager hw).sweep ≤ id
  · simp [hid]
  · simp [hid, Nat.lt_of_not_le hid]

theorem exec_demotionSweep_one {s : State} {h : Hawser} {id : Nat} {u : Option FrameUse} (hlive : s.live = true) (hmig : s.migrates = true)
    (hone : s.mem.use.filter (fun x => x.1 / 2 ^ 20 == tierKey false (hawserNo h)) = [(id, u)])
    (hfree : s.freeFrames false (hawserNo h) < (s.pager (hawserNo h)).lowWater.toNat) (hmigs : s.migsOn (hawserNo h) < 4) :
    exec (.demotionSweep h) s = .next (s.sweepFrame (hawserNo h) id) := by
  rw [exec_demotionSweep hlive hmig, State.sweepRound_one hone, State.sweepGo, if_neg (by omega), State.sweepGo]

theorem migrationsStart : Says.MigrationsStart := by
  intro s hlive
  refine ⟨fun n page => ⟨?_, ?_⟩, ?_⟩
  · exact fun hmig hprom hquota hroom => congrArg Host.Outcome.next (State.promote_starts hlive hmig hprom hquota hroom)
  · exact fun hst hfar hft hroom => congrArg Host.Outcome.next (State.goHome_starts hlive hst hfar hft hroom)
  · intro h id k n p c hmig hok hone huse hst hfree hmigs
    rw [exec_demotionSweep_one hlive hmig hone hfree hmigs]
    exact ⟨fun href => congrArg Host.Outcome.next (State.sweepFrame_ref huse hst href),
      fun href hpin hquota hopen => congrArg Host.Outcome.next (State.sweepFrame_demotes huse hst href hpin hquota hopen)⟩

/-! ## Passes and commits (R267–R269) -/

/-- What pass 1 reads: the granules of the page's frame that the devices or the links hold something for. -/
theorem State.readPage_quiet {s : State} {n : Tid} {k : Nat}
    (h : ∀ g ∈ s.mem.bad ++ s.mem.soft.map Prod.fst, g / 512 ≠ (s.pte n k).id) : s.readPage n k = s := by
  rw [State.readPage, List.filter_eq_nil_iff.2 fun g hg => mt beq_iff_eq.1 (h g hg)]
  rfl

section
variable {s : State} {n : Tid} {k : Nat} {m : Mig} (hm : s.mig n k = some m)
include hm

/-- A fence that found dirty granules is followed by a pass that is not counted. -/
theorem State.passEnd_fenced (hclean : m.clean = true) (hdirty : m.dirty ≠ []) :
    s.passEnd n k = s.modMig n k (fun m' => { m' with work := m'.dirty, dirty := [], clean := false }) := by
  simp [State.passEnd, hm, hclean, hdirty]

variable (hclean : m.clean = false)
include hclean

/-- A pass that leaves nothing dirty is fenced. -/
theorem State.passEnd_clean (hdirty : m.dirty = []) :
    let r := if m.passes = 0 then s.readPage n k else s
    s.passEnd n k = (r.flushWhere (fun w => w.line / 2 ^ 15 == (r.pte n k).id)).modMig n k (fun m' =>
      { m' with clean := true, work := [], passes := Nat.max 1 m'.passes }) := by
  simp [State.passEnd, hm, hclean, hdirty]

/-- A pass that leaves dirty granules is followed by one that copies them; the fifth blocks writes. -/
theorem State.passEnd_dirty (hdirty : m.dirty ≠ []) :
    let r := if m.passes = 0 then s.readPage n k else s
    let block := decide (5 ≤ m.passes + 1) && !m.blocked
    let v := r.modMig n k (fun m' =>
      { m' with passes := m.passes + 1, work := m'.dirty, dirty := [], clean := false, blocked := m'.blocked || block })
    s.passEnd n k = if block then v.modPager (m.pager != 0) (fun q => { q with blocked := BitVec.ofNat 16 (satAdd 16 q.blocked.toNat 1) })
      else v := by
  simp only [State.passEnd, hm, hclean, List.isEmpty_eq_false_iff.2 hdirty, Bool.false_eq_true, if_false]

theorem State.passEnd_dirty_early (hdirty : m.dirty ≠ []) (hpass : m.passes < 4) :
    s.passEnd n k = (if m.passes = 0 then s.readPage n k else s).modMig n k (fun m' =>
      { m' with passes := m.passes + 1, work := m'.dirty, dirty := [], clean := false }) := by
  have hfew : decide (5 ≤ m.passes + 1) = false := decide_eq_false (by omega)
  rw [State.passEnd_dirty hm hclean hdirty, hfew]
  simp

theorem State.passEnd_dirty_blocks (hdirty : m.dirty ≠ []) (hpass : 4 ≤ m.passes) (hopen : m.blocked = false) :
    s.passEnd n k = (s.modMig n k (fun m' =>
      { m' with passes := m.passes + 1, work := m'.dirty, dirty := [], clean := false, blocked := true })).modPager (m.pager != 0) (fun q =>
        { q with blocked := BitVec.ofNat 16 (satAdd 16 q.blocked.toNat 1) }) := by
  have hmany : decide (5 ≤ m.passes + 1) = true := decide_eq_true (by omega)
  rw [State.passEnd_dirty hm hclean hdirty, hmany, hopen, if_neg (by omega : ¬m.passes = 0)]
  simp
end

section
variable {s : State} {n : Tid} {k : Nat} {m : Mig} (hlive : s.live = true) (hm : s.mig n k = some m) (hclean : m.clean = true)
  (hdirty : m.dirty = [])
include hlive hm hclean hdirty

theorem State.migCommit_ends : s.migCommit n k = (s.endMig n k m).pageReady n k := by
  simp [State.migCommit, hm, hlive, hclean, hdirty]

theorem State.migCommit_commits (hopen : s.tierOpen (s.pte n k).dbulk = true)
    (hquota : (s.pte n k).dbulk = (s.pte n k).bulk ∨ 1 ≤ ((s.ten n).book (s.pte n k).dbulk).avail) :
    s.migCommit n k = (s.commitMig n k m).pageReady n k := by
  rw [State.migCommit_ends hlive hm hclean hdirty, State.endMig, if_pos]
  simpa [hopen] using hquota

theorem State.migCommit_aborts (hfail : s.tierOpen (s.pte n k).dbulk = false ∨
      ((s.pte n k).dbulk ≠ (s.pte n k).bulk ∧ ((s.ten n).book (s.pte n k).dbulk).avail = 0)) :
    s.migCommit n k = (s.abortMig n k m).pageReady n k := by
  rw [State.migCommit_ends hlive hm hclean hdirty, State.endMig, if_neg]
  rcases hfail with hfail | ⟨hne, havail⟩
  · simp [hfail]
  · simp [hne, havail]
end

theorem exec_migrationPassEnd {s : State} (hlive : s.live = true) (n : Tid) (page : BitVec 27) :
    exec (.migrationPassEnd n page) s = .next (s.passEnd n page.toNat) := congrArg Host.Outcome.next (if_pos hlive)

theorem migrationsGoOn : Says.MigrationsGoOn := by
  refine ⟨?_, fun s h hlive => congrArg Host.Outcome.next (if_pos hlive)⟩
  intro s n page m hlive k p hm
  simp only [exec_migrationPassEnd hlive]
  refine ⟨fun hclean hpass => ?_, State.readPage_quiet, fun g hg => ?_, fun hdirty hclean hpass hfew => ?_,
    fun hdirty hclean hmany hopen => ?_, fun hdirty hclean => ?_, fun hdirty hclean hpass => ?_, ?_, ?_⟩
  · by_cases hdirty : m.dirty = []
    · rw [if_pos hdirty, State.passEnd_clean hm hclean hdirty, if_pos hpass]
    · rw [if_neg hdirty, State.passEnd_dirty_early hm hclean hdirty (by omega), if_pos hpass, hpass]
  · rw [State.readPage, hg]
    rfl
  · rw [State.passEnd_dirty_early hm hclean hdirty hfew, if_neg hpass]
  · rw [State.passEnd_dirty_blocks hm hclean hdirty hmany hopen]
  · rw [State.passEnd_fenced hm hclean hdirty]
  · rw [State.passEnd_clean hm hclean hdirty, if_neg hpass]
  · exact fun hclean hdirty hopen hquota => congrArg Host.Outcome.next (State.migCommit_commits hlive hm hclean hdirty hopen hquota)
  · exact fun hclean hdirty hfail => congrArg Host.Outcome.next (State.migCommit_aborts hlive hm hclean hdirty hfail)

/-- Settles O26: the starts by their conditions, the sweep by induction on the frames of its round, the passes by what the pass before left. -/
theorem migrationsRun : Obligations.MigrationsRun := ⟨migrationsStart, sweepGoesRound, migrationsGoOn⟩

end Sys2Proof.Machine
end

section
/-! Tenancies and their tables (O39). -/

namespace Sys2Proof.Machine

/-! ## A reseed leaves device memory, the tenancies and the part -/

theorem State.noise_memTens (f need : Nat) (s : State) : ((State.noise f need s).2.mem, (State.noise f need s).2.tens) = (s.mem, s.tens) := by
  induction f generalizing need s with
  | zero => cases need <;> rfl
  | succ f ih =>
    cases need with
    | zero => rfl
    | succ need =>
      unfold State.noise
      split
      · rfl
      · dsimp only
        split <;> exact ih _ _

theorem State.reseed_memTens (s : State) : (s.reseed.mem, s.reseed.tens) = (s.mem, s.tens) := by
  have hentropy : (s.entropy.2.mem, s.entropy.2.tens) = (s.mem, s.tens) := State.noise_memTens 6 2 s
  unfold State.reseed
  dsimp only
  split <;> exact hentropy

@[simp] theorem State.reseed_tens (s : State) : s.reseed.tens = s.tens := congrArg Prod.snd (State.reseed_memTens s)

@[simp] theorem State.reseed_mem (s : State) : s.reseed.mem = s.mem := congrArg Prod.fst (State.reseed_memTens s)

theorem State.tierFitted_of_keep {s u : State} (h : u.keep = s.keep) (bulk : Bool) : u.tierFitted bulk = s.tierFitted bulk := by
  have hfuses : u.fuses = s.fuses := congrArg Prod.snd h
  rw [State.tierFitted, hfuses, State.tierFitted]

/-! ## TEN_CREATE and TEN_SET -/

/-- The tenancy that TEN_CREATE makes, with its key and with the count of records applied in its last life (R331, R519). -/
def Token.newTen (t : Token) (bulk : Bool) (xts : BitVec 512) (applied : W64) : Ten :=
  { Ten.init with st := .active, fn := t.tcFn, prio := t.tcPrio, weight := t.tcWeight, revealOk := t.tcReveal, mirror := t.tcMirror
                  ctxslots := BitVec.ofNat 7 t.tcSlots, braids := t.tcBraids, xts := some xts
                  ring := { quota := BitVec.ofNat 24 (t.tcQuota false), alloc := 0 }, bulk := { quota := BitVec.ofNat 24 (t.tcQuota true), alloc := 0 }
                  ptes := ctxPages t.tcSlots bulk
                  mir := { Mirror.init with standby := t.tcMirror == 3, applied := applied } }

/-- TEN_CREATE whose checks pass, on the state after its reseed. -/
theorem State.tenCreateCmd_makes {s : State} {t : Token} (hrange : s.tcRange t = false) (hfree : (s.ten t.ten).st = .free)
    (htiers : s.tiersReady = true) (hlc : s.lc = 2) (hsec : s.secUp = true) (hdrbg : s.drbgOk = true) (hseed : s.reseed.drbgOk = true)
    (hmir : t.tcMirror ≠ 0 → s.cap.belay = true) :
    let d := (s.reseed.giveTen t.tcFn).drbg
    s.tenCreateCmd t = ((d.2.setTen t.ten (t.newTen (s.tierFitted true) d.1 (s.ten t.ten).mir.applied)).newCred t).finish t.id
      { status := 0, detail := 0, position := 0, value := 0 } := by
  intro d
  have hten : (s.reseed.giveTen t.tcFn).ten t.ten = s.ten t.ten := State.ten_of_tens (State.reseed_tens s) _
  have hpart : (s.reseed.giveTen t.tcFn).tierFitted true = s.tierFitted true := State.tierFitted_of_keep (State.reseed_keep s) true
  have hlink : (t.tcMirror != 0 && !s.cap.belay) = false := by simpa using hmir
  simp only [State.tenCreateCmd, hrange, hfree, htiers, hlc, hsec, hdrbg, hseed, hlink, hten, hpart, bne_self_eq_false, Bool.not_true, Bool.or_self,
    Bool.false_eq_true, if_false]
  rfl

theorem tenCreateAndSet : Says.TenanciesAreMade := by
  intro s e t n b x rq bq
  refine ⟨fun h hrange hfree htiers hlc hsec hdrbg hseed hmir => ?_, fun h hrange hfn hmir hslots => ?_⟩
  · refine congrArg Host.Outcome.next ((State.startCmd_starts h State.tenCreateCmd).trans ?_)
    exact State.tenCreateCmd_makes (s := b) (t := t.begun) hrange hfree htiers hlc hsec hdrbg hseed hmir
  · refine congrArg Host.Outcome.next ((State.startCmd_starts h State.tenSetCmd).trans (if_neg ?_))
    have hsame : (b.tcRange t || t.tcFn != x.fn || t.tcMirror != x.mirror || t.tcSlots != x.ctxslots.toNat) = false := by
      simp [hrange, hfn, hmir, hslots]
    exact Bool.eq_false_iff.1 hsame

/-! ## KEY_REGISTER, PRIME_LOAD and CHAIN_DEFINE -/

theorem State.withBuf_some (s : State) (t : Token) (bs : List Byte) (k : List Byte → State) :
    s.withBuf t (some bs) k = k (slice bs 0 (cmdHlen t.cmd)) := rfl

/-- PRIME_LOAD of whole records, one to 128 of them, runs on its host buffer. -/
theorem exec_primeLoad {s : State} {e : Nat} {t : Token} (h : s.starts e (selOp 0x18) t = true) (bs : List Byte) (hwhole : cmdHlen t.cmd % 32 = 0)
    (hpos : 0 < cmdHlen t.cmd) (hmax : cmdHlen t.cmd ≤ 4096) :
    exec (.primeLoad e (some bs)) s = .next ((s.begun t).primeLoadCmd t.begun (slice bs 0 (cmdHlen t.cmd))) := by
  refine congrArg Host.Outcome.next ((State.startCmd_starts h _).trans (if_neg ?_))
  have hlen : (cmdHlen t.cmd % 32 != 0 || decide (cmdHlen t.cmd = 0) || decide (4096 < cmdHlen t.cmd)) = false := by
    simp [hwhole, Nat.ne_of_gt hpos, hmax]
  exact Bool.eq_false_iff.1 hlen

theorem State.primeLoadCmd_ok {s : State} {t : Token} {bs : List Byte} {ps : List Prime}
    (h : primesOf (s.ten t.ten).primes 0 (chunks 32 128 bs) = .ok ps) :
    s.primeLoadCmd t bs = (s.setTen t.ten { s.ten t.ten with primes := ps }).finishWith t.id (Comp.okv 0 (s.ten t.ten).primes.length)
      [.prime (chunks 32 128 bs)] := by
  simp only [State.primeLoadCmd, h]

theorem State.primeLoadCmd_error {s : State} {t : Token} {bs : List Byte} {k d : Nat}
    (h : primesOf (s.ten t.ten).primes 0 (chunks 32 128 bs) = .error (k, d)) :
    s.primeLoadCmd t bs = s.finish t.id { status := 0x35, detail := BitVec.ofNat 8 d, position := BitVec.ofNat 32 k, value := 0 } := by
  simp only [State.primeLoadCmd, h]
  rfl

theorem State.keyRegisterCmd_eq {s : State} {t : Token} (htva : t.body 8 8 < 2 ^ 48) :
    let x := s.ten t.ten
    let ks : BitVec 16 := BitVec.ofNat 16 (t.body 0 2)
    let pu : BitVec 4 := BitVec.ofNat 4 (t.body 2 1)
    let ro : BitVec 24 := BitVec.ofNat 24 (t.body 4 3)
    let k : KeyRec := { keyset := ks, purpose := pu, rotation := ro, tva := BitVec.ofNat 48 (t.body 8 8) }
    s.keyRegisterCmd t = if 4096 ≤ x.keys.length ∨ x.keys.any (fun k => k.keyset == ks && k.purpose == pu && k.rotation == ro) = true then
        s.finish t.id { status := 0x40, detail := 0x0A, position := 0, value := 0 }
      else (s.setTen t.ten { x with keys := x.keys ++ [k] }).finishWith t.id (Comp.okv 0 (x.keys.length + 1)) [.key ks pu ro k.tva] := by
  intro x ks pu ro k
  unfold State.keyRegisterCmd
  rw [if_neg (Nat.not_le.2 htva)]
  simp only [Bool.or_eq_true, decide_eq_true_eq]
  rfl

theorem State.chainDefineCmd_ok {s : State} {t : Token} {r : List Byte} (h : chainCheck (s.ten t.ten) r = none) :
    s.chainDefineCmd t r = (s.setTen t.ten { s.ten t.ten with chains := Sparse.set [] (s.ten t.ten).chains (leAt r 0 1) r }).finishWith t.id
      (Comp.okv 0 0) [.chain r] := by
  simp only [State.chainDefineCmd, h]

theorem State.chainDefineCmd_error {s : State} {t : Token} {r : List Byte} {d : Nat} (h : chainCheck (s.ten t.ten) r = some d) :
    s.chainDefineCmd t r = s.finish t.id { status := 0x35, detail := BitVec.ofNat 8 d, position := 0, value := 0 } := by
  simp only [State.chainDefineCmd, h]
  rfl

theorem tenancyTablesFill : Says.TenancyTablesFill := by
  intro s e t bs b x ks pu ro dup
  refine ⟨fun h htva => ?_, ?_, ?_⟩
  · exact congrArg Host.Outcome.next ((State.startCmd_starts h State.keyRegisterCmd).trans
      (State.keyRegisterCmd_eq (s := b) (t := t.begun) htva))
  · intro h hwhole hpos hmax rs
    rw [exec_primeLoad h bs hwhole hpos hmax]
    exact ⟨fun ps hps => congrArg Host.Outcome.next (State.primeLoadCmd_ok (s := b) (t := t.begun) hps),
      fun k d hd => congrArg Host.Outcome.next (State.primeLoadCmd_error (s := b) (t := t.begun) hd)⟩
  · intro h r
    have hrun : exec (.chainDefine e (some bs)) s = .next (b.chainDefineCmd t.begun r) :=
      congrArg Host.Outcome.next (State.startCmd_starts h _)
    rw [hrun]
    exact ⟨fun hc => congrArg Host.Outcome.next (State.chainDefineCmd_ok (s := b) (t := t.begun) hc),
      fun d hd => congrArg Host.Outcome.next (State.chainDefineCmd_error (s := b) (t := t.begun) hd)⟩

/-- Settles O39: each command answers what its row gives once its checks pass; the reseed before TEN_CREATE leaves tenancies and part as they are. -/
theorem tenanciesAreMade : Obligations.TenanciesAreMade := ⟨tenCreateAndSet, tenancyTablesFill⟩

end Sys2Proof.Machine
end

section
/-! Memory tiers (O28). -/

namespace Sys2Proof.Machine

/-! ## Temperature (R277, R545) -/

/-- The refresh rate of R277 as the statement spells it. -/
theorem refreshRate_eq (rate c : Nat) : BitVec.ofNat 2 (refreshRate rate c) =
    if 95 ≤ c ∨ (rate = 2 ∧ 92 ≤ c) then 2 else if 85 ≤ c ∨ (1 ≤ rate ∧ 82 ≤ c) then 1 else 0 := by
  unfold refreshRate
  by_cases h95 : 95 ≤ c
  · simp [h95]
  by_cases h92 : rate = 2 ∧ 92 ≤ c
  · simp [h92]
  by_cases h85 : 85 ≤ c
  · simp [h95, h92, h85]
  by_cases h82 : 1 ≤ rate ∧ 82 ≤ c
  · simp [h95, h92, h82]
  · simp [h95, h92, h85, h82]

theorem temperatureSetsRefresh : Says.TemperatureSetsRefresh := by
  intro s m c hlive bulk h k x temps rate r s1 s2 hset
  refine congrArg Host.Outcome.next ((if_neg ?_).trans ?_)
  · simpa [hlive] using hset
  · have hr : BitVec.ofNat 2 (refreshRate rate c.toNat) = r := refreshRate_eq rate c.toNat
    simp only [s2, s1, ← hr]
    rfl

/-! ## Offline and margining (R278, R279, R286) -/

section
variable {s : State} (hlive : s.live = true)
include hlive

theorem State.offlineSet_unused {bulk : Bool} (hfit : s.tierFitted bulk = true) (hused : s.tierUsed bulk = false) (h : Bool) :
    s.offlineSet 0 bulk h =
      ((s.setTier bulk h { s.tier bulk h with offline := true }).abortInto bulk).serveWaiting bulk := by
  rw [State.offlineSet, hlive, hfit, hused]
  rfl

omit hlive in
theorem State.offlineSet_used {bulk : Bool} (hused : s.tierUsed bulk = true) (f : Fn) (h : Bool) : s.offlineSet f bulk h = s := by
  simp [State.offlineSet, hused]

theorem State.offlineClear_offline {bulk h : Bool} (hoff : (s.tier bulk h).offline = true) :
    s.offlineClear 0 bulk h = (s.setTier bulk h
      ({ s.tier bulk h with
          offline := false, ready := false, trained := (s.tier bulk h).trained &&& ~~~(s.tier bulk h).margined
          sets := (s.tier bulk h).sets &&& ~~~(s.tier bulk h).margined, margined := 0 }.wipeIfTrained
        (fittedSets s.fuses.part bulk))).setReady (State.tierBit bulk h) false := by
  rw [State.offlineClear, hlive, hoff]
  rfl

/-- MARGIN_GO with GO set, while no measurement runs. -/
theorem State.marginGo_go {v : W64} (hgo : v.getLsbD 63 = true) (hidle : s.mem.margin.getLsbD 63 = false) :
    let keep : W64 := BitVec.ofNat 64 (fld v 0 20)
    let y := s.tier (v.getLsbD 0) (v.getLsbD 1)
    s.marginGo 0 v = if (y.offline && (s.setsOf (v.getLsbD 0) (v.getLsbD 1)).contains (fld v 2 4)) = true then
        { s with mem := { s.mem with margin := keep ||| 0x8000000000000000, mDone := false, mRefuse := false } }.setTier
          (v.getLsbD 0) (v.getLsbD 1) { y with margined := y.margined ||| BitVec.ofNat 12 (2 ^ fld v 2 4) }
      else { s with mem := { s.mem with margin := keep, mDone := true, mRefuse := true } } := by
  intro keep y
  have hkeep : put 0 20 (fld v 0 20) = keep := by simp [put, keep, fld]
  have hgo : bit v 63 = true := hgo
  have hidle : bit s.mem.margin 63 = false := hidle
  by_cases hon : (y.offline && (s.setsOf (v.getLsbD 0) (v.getLsbD 1)).contains (fld v 2 4)) = true
  · obtain ⟨hoff, hset⟩ := Bool.and_eq_true_iff.1 hon
    have hoff : (s.tier (bit v 0) (bit v 1)).offline = true := hoff
    have hset : (s.setsOf (bit v 0) (bit v 1)).contains (fld v 2 4) = true := hset
    rw [if_pos hon]
    simp only [State.marginGo, hlive, hgo, hidle, hoff, hset, hkeep, beq_self_eq_true, Bool.and_self, Bool.not_true, Bool.or_self, Bool.false_eq_true,
      if_false]
    rfl
  · have hoff : (!(s.tier (bit v 0) (bit v 1)).offline || !(s.setsOf (bit v 0) (bit v 1)).contains (fld v 2 4)) = true := by
      rw [← Bool.not_and, Bool.not_eq_true']
      exact Bool.eq_false_iff.2 hon
    rw [if_neg hon]
    simp only [State.marginGo, hlive, hgo, hidle, hoff, hkeep, beq_self_eq_true, Bool.and_self, Bool.not_true, Bool.or_self, Bool.false_eq_true,
      if_false, if_true]

/-- MARGIN_DONE while a measurement runs: its count of errors is free (log 7). -/
theorem exec_marginDone (hgo : s.mem.margin.getLsbD 63 = true) : exec .marginDone s = .next { s with
    draws := s.draws + 1
    mem := { s.mem with margin := BitVec.ofNat 64 (fld s.mem.margin 0 20), mErrors := (Config.free s.draws).setWidth 32, mDone := true } } := by
  have hkeep : put 0 20 (fld s.mem.margin 0 20) = BitVec.ofNat 64 (fld s.mem.margin 0 20) := by simp [put, fld]
  have hgo : bit s.mem.margin 63 = true := hgo
  rw [← hkeep]
  exact congrArg Host.Outcome.next (if_pos (by rw [hlive, hgo]; rfl))
end

theorem tiersAreMargined : Says.TiersAreMargined := by
  intro s t h hlive bulk hw x
  refine ⟨?_, ?_, ?_, ?_, exec_marginDone hlive⟩
  · exact fun hfit hused => congrArg Host.Outcome.next (State.offlineSet_unused hlive hfit hused hw)
  · exact fun hused => congrArg Host.Outcome.next (State.offlineSet_used hused 0 hw)
  · exact fun hoff => congrArg Host.Outcome.next (State.offlineClear_offline hlive hoff)
  · exact fun v hgo hidle => congrArg Host.Outcome.next (State.marginGo_go hlive hgo hidle)

/-! ## Training and wipes (R248, R250, R284, R487) -/

/-- A set newly trained, where a ring-tier set is in service or yet to be trained. -/
theorem State.trained_new {s : State} {bulk h : Bool} {k : Nat} {ok : Bool} (hlive : s.live = true) (hserv : s.sys.unserv = false)
    (htest : s.unitsTested = true) (hfit : k < fittedSets s.fuses.part bulk) (hnew : bit (s.tier bulk h).trained k = false) :
    let x := s.tier bulk h
    let bitK : BitVec 12 := BitVec.ofNat 12 (2 ^ k)
    let s1 := s.setTier bulk h ({ x with trained := x.trained ||| bitK, sets := if ok then x.sets ||| bitK else x.sets }.wipeIfTrained
      (fittedSets s.fuses.part bulk))
    let s2 := if ok then s1 else s1.raise (0x300 + setPlace bulk h k)
    s2.noRing = false → s.trained bulk h k ok = s2 := by
  intro x bitK s1 s2 hring
  refine (if_neg ?_).trans (if_neg (Bool.eq_false_iff.1 hring))
  simp [hlive, hserv, htest, hfit, hnew]

/-- What the transfers of a wipe leave: the tenancies, the bytes, write combining, the frames, and what waits for one. -/
theorem foldl_wipe_scrubLeaves (gs : List Nat) (s : State) :
    (gs.foldl (fun s g => (s.free.2).transferGran none g none s.free.1 true) s).scrubLeaves = s.scrubLeaves := by
  induction gs generalizing s with
  | nil => rfl
  | cons g gs ih => exact (ih _).trans (State.transferGran_scrubLeaves s.free.2 _ _ _ _)

/-- The open entries over a byte, of those on lines that `q` selects. -/
theorem Mem.over_of_lines {m m' : Mem} {q : Nat → Bool} (h : m'.wc = m.wc.filter (fun e => q e.line)) (a : Nat) :
    m'.over a = if q (a / 64) then m.over a else none := by
  have hline : ∀ e : WcEntry, (e.line == a / 64 && bit e.mask (a % 64) && q e.line) = (q (a / 64) && (e.line == a / 64 && bit e.mask (a % 64))) := by
    intro e
    by_cases he : e.line = a / 64
    · rw [he, Bool.and_comm]
    · rw [beq_false_of_ne he, Bool.false_and, Bool.false_and, Bool.and_false]
  rw [Mem.over, h, List.filter_filter, funext hline, Mem.over]
  cases q (a / 64) <;> simp

/-- What the wipe leaves of memory: every byte of the tier zero, every other as it was. -/
theorem Mem.byte_of_dropped {m m' : Mem} (hwf : m.wf = true) {p : Nat → Bool} {q : Nat → Bool} (hcells : m'.cells = Sparse.dropKeys m.cells p)
    (hwc : m'.wc = m.wc.filter (fun e => q e.line)) (hpq : ∀ a, q (a / 64) = !p a) (a : Nat) :
    m'.byte a = if p a then 0 else m.byte a := by
  rw [Mem.byte, Mem.over_of_lines hwc, hcells, Sparse.get_dropKeys hwf, hpq]
  cases p a <;> rfl

theorem Rdy.B.num_lt (b : Rdy.B) : b.num < 17 := by cases b <;> decide

theorem State.ready_setReady (s : State) (b : Rdy.B) : (s.setReady b true).ready b = true := by
  have hbit : (BitVec.ofNat 17 (2 ^ b.num)).getLsbD b.num = true := by
    rw [BitVec.getLsbD_ofNat, Nat.testBit_two_pow_self, Bool.and_true, decide_eq_true b.num_lt]
  show (s.rdy.bits ||| BitVec.ofNat 17 (2 ^ b.num)).getLsbD b.num = true
  rw [BitVec.getLsbD_or, hbit, Bool.or_true]

/-- A finished wipe: the frames of the tier free, its bytes zero, the tier READY. -/
theorem State.wipeDone_leaves {s : State} {bulk h : Bool} (hlive : s.live = true) (hserv : s.sys.unserv = false) (hok : s.tablesOk = true)
    (hwiping : (s.tier bulk h).wiping = true) :
    (s.wipeDone bulk h).mem.use = s.mem.use.filter (fun x => x.1 / 2 ^ 20 != tierKey bulk h) ∧
      (s.wipeDone bulk h).ready (State.tierBit bulk h) = true ∧
      ∀ a, (s.wipeDone bulk h).mem.byte a = if a / 2 ^ 41 = tierKey bulk h then 0 else s.mem.byte a := by
  have hleaves := foldl_wipe_scrubLeaves (s.retryGrans (fun id => id / 2 ^ 20 == tierKey bulk h)) s
  simp only [State.wipeDone, hlive, hserv, hwiping, Bool.not_true, Bool.not_false, Bool.and_self, Bool.false_eq_true, if_false]
  generalize List.foldl _ s _ = w at hleaves ⊢
  simp only [State.scrubLeaves, Prod.mk.injEq] at hleaves
  obtain ⟨-, hcells, hwc, huse, -⟩ := hleaves
  obtain ⟨hmem, -⟩ := State.wf_of_tablesOk hok
  refine ⟨?_, State.ready_setReady _ _, fun a => ?_⟩
  · exact congrArg (fun u => Sparse.dropKeys u (fun id => id / 2 ^ 20 == tierKey bulk h)) huse
  · rw [Mem.byte_of_dropped (m := s.mem) (p := fun a => a / 2 ^ 41 == tierKey bulk h) (q := fun l => !(l * 64 / 2 ^ 41 == tierKey bulk h)) hmem
      (congrArg (fun c => Sparse.dropKeys c (fun a => a / 2 ^ 41 == tierKey bulk h)) hcells)
      (congrArg (List.filter (fun e : WcEntry => !(e.line * 64 / 2 ^ 41 == tierKey bulk h))) hwc)
      (fun a => by rw [show a / 64 * 64 / 2 ^ 41 = a / 2 ^ 41 by omega])]
    simp only [beq_iff_eq]

theorem tiersComeUp : Says.TiersComeUp := by
  refine ⟨?_, fun s t h hlive hserv hok hwiping => ⟨_, rfl, State.wipeDone_leaves hlive hserv hok hwiping⟩⟩
  intro s m ok hlive hserv htest bulk h k x bitK s1 s2 hfit hnew hring
  exact congrArg Host.Outcome.next (State.trained_new hlive hserv htest hfit hnew hring)

/-- Settles O28: each event of a tier answers what its rule gives where its conditions hold; the transfers that a wipe is charged for leave bytes,
entries and frames, so what it drops is all that changes. -/
theorem tiersServe : Obligations.TiersServe := ⟨temperatureSetsRefresh, tiersAreMargined, tiersComeUp⟩

end Sys2Proof.Machine
end

section
/-! What the end of an entry leaves alone (O27, O41): device memory and the life cycle's services. -/

namespace Sys2Proof.Machine

/-- Device memory and the services of the life cycle. -/
def State.memLcs (s : State) : Mem × Lcs := (s.mem, s.lcs)

theorem memLcs_eta (s : State) : (s.mem, s.lcs) = s.memLcs := rfl
theorem memLcs_mk x0 x1 x2 x3 x4 x5 x6 x7 x8 x9 x10 x11 x12 x13 x14 x15 x16 x17 x18 x19 x20 x21 x22 x23 x24 x25 x26 x27 x28 x29 x30 x31 :
    (State.mk x0 x1 x2 x3 x4 x5 x6 x7 x8 x9 x10 x11 x12 x13 x14 x15 x16 x17 x18 x19 x20 x21 x22 x23 x24 x25 x26 x27 x28 x29 x30 x31).memLcs = (x19, x11) := rfl

/-- A fold of operations that keep them keeps them. -/
theorem foldl_memLcs {α : Type} (f : State → α → State) (h : ∀ s x, (f s x).memLcs = s.memLcs) (l : List α) (s : State) :
    (l.foldl f s).memLcs = s.memLcs := by
  induction l generalizing s with
  | nil => rfl
  | cons x l ih => rw [List.foldl_cons, ih, h]

@[simp] theorem State.setTen_memLcs (s : State) (n : Tid) (t : Ten) : (s.setTen n t).memLcs = s.memLcs := rfl
@[simp] theorem State.modMir_memLcs (s : State) (n : Tid) (f : Mirror → Mirror) : (s.modMir n f).memLcs = s.memLcs := rfl
@[simp] theorem State.setBel_memLcs (s : State) (b : Belay) : (s.setBel b).memLcs = s.memLcs := rfl
@[simp] theorem State.emit_memLcs (s : State) (o : Out) : (s.emit o).memLcs = s.memLcs := rfl
@[simp] theorem State.free_memLcs (s : State) : s.free.2.memLcs = s.memLcs := rfl
@[simp] theorem State.modTok_memLcs (s : State) (e : Nat) (f : Token → Token) : (s.modTok e f).memLcs = s.memLcs := rfl
@[simp] theorem State.dropTok_memLcs (s : State) (e : Nat) : (s.dropTok e).memLcs = s.memLcs := rfl
@[simp] theorem State.noteReady_memLcs (s : State) : s.noteReady.memLcs = s.memLcs := rfl

@[simp] theorem State.raise_memLcs (s : State) (i : Nat) : (s.raise i).memLcs = s.memLcs := by
  unfold State.raise; split <;> rfl

@[simp] theorem State.bbxPush_memLcs (s : State) (x : BbxEntry) : (s.bbxPush x).memLcs = s.memLcs := by
  unfold State.bbxPush; (repeat' split) <;> rfl

@[simp] theorem State.clock_memLcs (s : State) (d u : Nat) : (s.clock d u).2.memLcs = s.memLcs := by
  unfold State.clock; split <;> rfl

@[simp] theorem State.log_memLcs (s : State) (d c u e : Nat) (st : Byte) (n : Option Tid) (a : List W64) :
    (s.log d c u e st n a).memLcs = s.memLcs := (State.bbxPush_memLcs _ _).trans (State.clock_memLcs _ _ _)

@[simp] theorem State.corrected_memLcs (s : State) (d u c k : Nat) : (s.corrected d u c k).memLcs = s.memLcs := by
  unfold State.corrected
  dsimp only
  (repeat' split) <;> simp only [memLcs_mk, memLcs_eta, State.bbxPush_memLcs, State.clock_memLcs]

/-! ## The belay link -/

@[simp] theorem State.leaveUp_memLcs (s : State) (next : BitVec 3) : (s.leaveUp next).memLcs = s.memLcs := by
  simp only [State.leaveUp, State.raise_memLcs, State.log_memLcs, State.free_memLcs]
  rw [foldl_memLcs _ fun s n => State.modMir_memLcs s n _]
  rfl

@[simp] theorem State.belCarry_memLcs (s : State) : s.belCarry.memLcs = s.memLcs := by
  unfold State.belCarry; split <;> simp

@[simp] theorem State.sendItem_memLcs (s : State) (k : Nat) (o : Out) : (s.sendItem k o).1.memLcs = s.memLcs := by
  unfold State.sendItem; (repeat' split) <;> simp

@[simp] theorem State.sendOver_memLcs (s : State) (r : CommitRecord) : (s.sendOver r).1.memLcs = s.memLcs := by
  unfold State.sendOver; dsimp only; split <;> simp

@[simp] theorem State.sendUnsent_memLcs (s : State) (n : Tid) : (s.sendUnsent n).memLcs = s.memLcs := by
  unfold State.sendUnsent
  refine foldl_memLcs _ (fun s r => ?_) _ _
  dsimp only
  split <;> simp

@[simp] theorem State.sendRecord_memLcs (s : State) (n : Tid) (r : CommitRecord) : (s.sendRecord n r).memLcs = s.memLcs := by
  unfold State.sendRecord
  dsimp only
  (repeat' split) <;> simp

/-! ## The end of an entry -/

@[simp] theorem State.retire_memLcs (s : State) (e : Nat) (c : Comp) (changes : List TableChange) (pc haddr : W64) :
    (s.retire e c changes pc haddr).memLcs = s.memLcs := by
  unfold State.retire
  dsimp only
  (repeat' split) <;> simp only [memLcs_mk, memLcs_eta, State.modTok_memLcs, State.log_memLcs, State.dropTok_memLcs, State.sendRecord_memLcs]

@[simp] theorem State.finish_memLcs (s : State) (e : Nat) (c : Comp) : (s.finish e c).memLcs = s.memLcs := State.retire_memLcs s e c [] 0 0

@[simp] theorem State.finishWith_memLcs (s : State) (e : Nat) (c : Comp) (changes : List TableChange) :
    (s.finishWith e c changes).memLcs = s.memLcs := State.retire_memLcs s e c changes 0 0

theorem State.finish_lcs (s : State) (e : Nat) (c : Comp) : (s.finish e c).lcs = s.lcs := congrArg Prod.snd (State.finish_memLcs s e c)

end Sys2Proof.Machine
end

section
/-! The ends of tenancies (O41). -/

namespace Sys2Proof.Machine

/-! ## A close and its end (R335, R391) -/

/-- A braid forgets tenancy `n`. -/
def Braid.forget (n : Tid) (b : Braid) : Braid :=
  { b with ten := if b.ten = some n then none else b.ten, storeTen := if b.storeTen = some n then none else b.storeTen }

/-- The braids that hold contents of tenancy `n` forget it, as does a test in the field. -/
def State.forgetTen (s : State) (n : Tid) : State :=
  let b := (s.braids.filter (fun x => x.2.ten == some n || x.2.storeTen == some n)).foldl (fun u x => u.modBraid x.1 (Braid.forget n)) s
  { b with bist := { b.bist with saved := b.bist.saved.filter (fun x => x.ten != n) } }

theorem foldl_forget_keeps (n : Tid) (l : Sparse Braid) (s : State) :
    (l.foldl (fun u x => u.modBraid x.1 (Braid.forget n)) s).sch = s.sch ∧ (l.foldl (fun u x => u.modBraid x.1 (Braid.forget n)) s).lcs = s.lcs := by
  induction l generalizing s with
  | nil => exact ⟨rfl, rfl⟩
  | cons x l ih => exact ih (s.modBraid x.1 (Braid.forget n))

theorem State.forgetTen_sch (s : State) (n : Tid) : (s.forgetTen n).sch = s.sch := (foldl_forget_keeps n _ s).1
theorem State.forgetTen_lcs (s : State) (n : Tid) : (s.forgetTen n).lcs = s.lcs := (foldl_forget_keeps n _ s).2

theorem State.raise_sch (s : State) (i : Nat) : (s.raise i).sch = s.sch := by
  unfold State.raise; split <;> rfl

/-- The end of a close by command of a tenancy that holds no slot of the public-key engine. -/
theorem State.closeDone_byCommand {s : State} {n : Tid} {c : Closing} {e : Nat} (hup : s.schedUp = true) (hclosing : (s.ten n).closing = some c)
    (hfreed : c.freed = true) (hbusy : s.tenBusy n = false) (hscrub : s.scrubsOf n = false) (hwiped : c.wiped = none) (htok : c.tok = some e)
    (hslots : s.slotsOf n = []) :
    s.closeDone n = (((((s.setTen n (s.ten n).freed).raise (0x120 + (s.ten n).fn.toNat)).forgetTen n).modTok e (fun u =>
      { u with deps := (s.sch.pool.filter (fun u => u.kernel && u.ten == n)).map (·.cmdId) })).finish e
        { status := 0, detail := 0, position := 0, value := 0 }) := by
  have hforget : ∀ b : Braid, ({ b with ten := if b.ten == some n then none else b.ten
                                        storeTen := if b.storeTen == some n then none else b.storeTen } : Braid) = b.forget n := by
    intro b; simp only [Braid.forget, beq_iff_eq]
  have hpool : (((s.setTen n (s.ten n).freed).raise (0x120 + (s.ten n).fn.toNat)).forgetTen n).sch.pool = s.sch.pool := by
    rw [State.forgetTen_sch, State.raise_sch]; rfl
  simp only [State.closeDone, hclosing, hup, hfreed, hbusy, hscrub, hwiped, htok, hslots, List.foldl_nil, Bool.not_false, Bool.and_self, Bool.not_true,
    Bool.false_eq_true, if_false, hforget]
  rw [← hpool]
  rfl

theorem State.closeEnd_byCommand {s : State} {n : Tid} {r : State} (hdone : s.closeDone n = r) (hlcs : r.lcs = s.lcs) :
    s.closeEnd n = match s.lcs.wait with | none => r | some w => r.lcStep w := by
  rw [State.closeEnd, hdone, hlcs]
  cases s.lcs.wait <;> rfl

theorem tenanciesClose : Says.TenanciesClose := by
  refine ⟨fun s e t h => congrArg Host.Outcome.next (State.startCmd_starts h State.tenCloseCmd), ?_⟩
  intro s n c e hup t hclosing hfreed hbusy hscrub hwiped htok hslots a b q own r
  have hdone : s.closeDone n = r := State.closeDone_byCommand hup hclosing hfreed hbusy hscrub hwiped htok hslots
  have hlcs : r.lcs = s.lcs := by
    rw [State.finish_lcs]
    show ((a.forgetTen n).lcs) = s.lcs
    rw [State.forgetTen_lcs]
    exact congrArg Prod.snd (State.raise_memLcs _ _)
  exact congrArg Host.Outcome.next (State.closeEnd_byCommand hdone hlcs)

/-! ## Lost hosts (R345, R346, R386) -/

theorem State.schedUp_of_hqUp {s : State} (h : s.hqUp = true) : s.schedUp = true := (Bool.and_eq_true_iff.1 h).1

theorem State.raise_schedUp (s : State) (i : Nat) : (s.raise i).schedUp = s.schedUp := by
  unfold State.raise; split <;> rfl

/-- A function is lost, while the scheduler runs. -/
theorem State.loseFn_eq {s : State} (hup : s.schedUp = true) (f : Fn) :
    let a := s.setFn f { s.fn f with lost := true, current := false }
    let b := if (s.fn f).lost = true then a else a.raise (0x140 + f.toNat)
    let c := if (s.fn f).lost = false ∧ f = 0 then b.pfEvent else b
    s.loseFn f = (c.tens.filter (fun x => x.2.st == .active && x.2.fn == f)).foldl (fun u x => u.orphan (BitVec.ofNat 8 x.1)) c := by
  intro a b c
  have hb : b.schedUp = true := by
    have ha : a.schedUp = true := hup
    show (if (s.fn f).lost = true then a else a.raise (0x140 + f.toNat)).schedUp = true
    split
    · exact ha
    · rw [State.raise_schedUp, ha]
  have hc : (if (!(s.fn f).lost && f == 0 && b.schedUp) = true then b.pfEvent else b) = c := by
    simp only [hb, Bool.and_true, Bool.and_eq_true, Bool.not_eq_true', beq_iff_eq]
    rfl
  rw [← hc]
  rfl

/-! ### What a tenancy event leaves alone -/

theorem State.ibi_tens_sch (s : State) : s.ibi.tens = s.tens ∧ s.ibi.sch = s.sch := by
  unfold State.ibi; split <;> exact ⟨rfl, rfl⟩

theorem State.signalEvent_tens_sch (s : State) : s.signalEvent.tens = s.tens ∧ s.signalEvent.sch = s.sch := by
  unfold State.signalEvent
  split
  · exact State.ibi_tens_sch s
  · exact ⟨rfl, rfl⟩

theorem State.holdEvent_tens_sch (s : State) (e : MgmtEvent) : (s.holdEvent e).tens = s.tens ∧ (s.holdEvent e).sch = s.sch := by
  unfold State.holdEvent
  dsimp only
  split
  · split
    · exact State.signalEvent_tens_sch { s with events := s.events ++ [e] }
    · exact ⟨rfl, rfl⟩
  · exact ⟨rfl, rfl⟩

theorem State.log_sch (s : State) (d c u e : Nat) (st : Byte) (n : Option Tid) (a : List W64) : (s.log d c u e st n a).sch = s.sch := by
  have hpush : ∀ (u : State) (x : BbxEntry), (u.bbxPush x).sch = u.sch := by
    intro u x; unfold State.bbxPush; (repeat' split) <;> rfl
  have hclock : ∀ d u, (s.clock d u).2.sch = s.sch := by
    intro d u; unfold State.clock; split <;> rfl
  exact (hpush _ _).trans (hclock d u)

theorem State.tenEvent_tens_sch (s : State) (n : Tid) (cls event : Nat) (st : Byte) (arg : Nat) :
    (s.tenEvent n cls event st arg).tens = s.tens ∧ (s.tenEvent n cls event st arg).sch = s.sch := by
  unfold State.tenEvent
  dsimp only
  generalize ht : (s.log Dom.sched cls cleatDie event st (some n) [BitVec.ofNat 64 arg]).raise (0x200 + n.toNat) = t
  have htens : t.tens = s.tens := by rw [← ht, State.raise_tens, State.log_tens]
  have hsch : t.sch = s.sch := by rw [← ht, State.raise_sch, State.log_sch]
  split
  · obtain ⟨h1, h2⟩ := State.holdEvent_tens_sch t { event := BitVec.ofNat 16 st.toNat, ten := n, fn := (t.ten n).fn.setWidth 8
                                                    seq := if t.bbxAvail then t.die.nextSeq + BitVec.ofNat 64 t.bbx.queue.length - 1 else 0 }
    exact ⟨h1.trans htens, h2.trans hsch⟩
  · exact ⟨htens, hsch⟩

/-! ### A tenancy of a lost function -/

/-- Is entry `k` one whose completion tenancy `n` holds once it is orphaned. -/
def State.holdsFor (s : State) (n : Tid) (k : Nat) : Bool := match s.tok k with | some t => t.ten == n && t.holds | none => false

theorem State.holdsFor_iff {s : State} {n : Tid} {k : Nat} {t : Token} (h : s.tok k = some t) :
    s.holdsFor n k = true ↔ t.ten = n ∧ t.holds = true := by
  simp [State.holdsFor, h]

/-- The tenancy once orphaned, and the two lists of completions. -/
theorem State.orphan_leaves (s : State) (n : Tid) :
    let v := s.modTen n (fun t => { t with st := .orphaned, grace := false, lostAt := s.sch.nextId })
    (s.orphan n).tens = v.tens ∧ (s.orphan n).sch.order = s.sch.order.filter (fun k => !s.holdsFor n k) ∧
      (s.orphan n).sch.heldQ = s.sch.heldQ ++ (s.sch.order.filter (s.holdsFor n) ++ v.heldRecords n) := by
  intro v
  unfold State.orphan
  dsimp only
  refine ⟨(State.tenEvent_tens_sch _ _ _ _ _ _).1, ?_, ?_⟩ <;> rw [(State.tenEvent_tens_sch _ _ _ _ _ _).2] <;> rfl

theorem State.orphan_ten {s : State} (hok : s.tablesOk = true) (n : Tid) :
    (s.orphan n).ten n = { s.ten n with st := .orphaned, grace := false, lostAt := s.sch.nextId } ∧ ∀ m, m ≠ n → (s.orphan n).ten m = s.ten m := by
  obtain ⟨-, -, -, -, htens, -⟩ := State.wf_of_tablesOk hok
  obtain ⟨horphan, -⟩ := State.orphan_leaves s n
  simp only [State.ten, horphan]
  exact ⟨Sparse.get_set_self htens _ _, fun m hm => Sparse.get_set_ne htens _ (mt BitVec.eq_of_toNat_eq hm)⟩

theorem State.orphan_order {s : State} {n : Tid} {k : Nat} {t : Token} (htok : s.tok k = some t) (hk : k ∈ s.sch.order) :
    (k ∈ (s.orphan n).sch.order ↔ ¬(t.ten = n ∧ t.holds = true)) ∧ (t.ten = n → t.holds = true → k ∈ (s.orphan n).sch.heldQ) := by
  obtain ⟨-, horder, hheld⟩ := State.orphan_leaves s n
  have hiff := State.holdsFor_iff (n := n) htok
  rw [horder, hheld]
  constructor
  · rw [List.mem_filter, ← hiff, Bool.not_eq_true', Bool.not_eq_true]
    exact and_iff_right hk
  · intro hten hholds
    exact List.mem_append_right _ (List.mem_append_left _ (List.mem_filter.2 ⟨hk, hiff.2 ⟨hten, hholds⟩⟩))

theorem State.ibi_events (s : State) : s.ibi.events = s.events := by
  unfold State.ibi; split <;> rfl

theorem State.holdEvent_events {s : State} (h : s.events.length < 64) (e : MgmtEvent) : (s.holdEvent e).events = s.events ++ [e] := by
  have hsignal : ∀ u : State, u.signalEvent.events = u.events := by
    intro u
    unfold State.signalEvent
    split
    · exact State.ibi_events u
    · rfl
  rw [State.holdEvent, if_pos h]
  dsimp only
  split
  · exact hsignal _
  · rfl

/-- The PF's event joins those that wait, where there is room. -/
theorem State.pfEvent_events (s : State) :
    ∃ q : W64, s.events.length < 64 → s.pfEvent.events = s.events ++ [{ event := 1, ten := 0xFF, fn := 0, seq := q }] := by
  cases h : s.bbxAvail with
  | true => exact ⟨s.free.1, fun hlen => by rw [State.pfEvent, h]; exact State.holdEvent_events (s := s.free.2) hlen _⟩
  | false => exact ⟨0, fun hlen => by rw [State.pfEvent, h]; exact State.holdEvent_events (s := s) hlen _⟩

/-! ## Errors in a tenancy's tables (R502) -/

theorem State.closeFatally_eq {s : State} {n : Tid} {x : Ten} {c : Closing} {st : Byte} (hten : s.ten n = x) (hclosing : x.closing = some c) :
    s.closeFatally n st = (s.setTen n { x with closing := some { c with force := true, status := st, wiped := some 1 } }).stopRunning n st := by
  subst hten
  simp only [State.closeFatally, State.modTen, hclosing]
  rfl

section
variable {s : State} {n : Tid} (hup : s.schedUp = true) (table : Byte) (ecc : Bool)
include hup

/-- The first error of a tenancy that does not close. -/
theorem State.tenFatal_closes (hfree : (s.ten n).st ≠ .free) (hst : (s.ten n).st ≠ .closing) (hnone : (s.ten n).closing = none) :
    let st : Byte := if ecc then 0x50 else 0x7F
    s.tenFatal n table ecc = ((s.log Dom.sched 3 cleatDie 0x32 st (some n) [table.setWidth 64]).raise (0x200 + n.toNat)).beginClose n true st none
      (some 1) := by
  simp only [State.tenFatal, hup, beq_false_of_ne hfree, beq_false_of_ne hst, hnone, Option.any_none, Bool.not_true, Bool.or_self, Bool.false_eq_true,
    if_false]
  rfl

/-- The first error of a tenancy that closes for another reason (log 117). -/
theorem State.tenFatal_closing {c : Closing} (hst : (s.ten n).st = .closing) (hclosing : (s.ten n).closing = some c) (hwiped : c.wiped = none) :
    let st : Byte := if ecc then 0x50 else 0x7F
    s.tenFatal n table ecc = (((s.log Dom.sched 3 cleatDie 0x32 st (some n) [table.setWidth 64]).raise (0x200 + n.toNat)).setTen n
      { s.ten n with closing := some { c with force := true, status := st, wiped := some 1 } }).stopRunning n st := by
  intro st
  have hten : ((s.log Dom.sched 3 cleatDie 0x32 st (some n) [table.setWidth 64]).raise (0x200 + n.toNat)).ten n = s.ten n :=
    State.ten_of_tens (by rw [State.raise_tens, State.log_tens]) n
  have hgo : (!s.schedUp || (s.ten n).st == .free || (s.ten n).closing.any (fun c => c.wiped.isSome)) = false := by
    simp [hup, hst, hclosing, hwiped]
  exact (if_neg (Bool.eq_false_iff.1 hgo)).trans ((if_pos (beq_iff_eq.2 hst)).trans (State.closeFatally_eq hten hclosing))
end

/-! ## REATTACH (R347, R348) -/

section
variable {s : State} {t : Token} (hcur : (s.fn t.fn).current = true) (hst : (s.ten t.ten).st = .orphaned) (hsec : s.secUp = true)
  (hdrbg : s.drbgOk = true)
include hcur hst hsec hdrbg

theorem State.reattachCmd_right (h : leNat (Crypto.sha512 (leBytes 32 (t.body 0 32))) = (s.ten t.ten).cred.toNat) :
    let a := ((s.setTen t.ten { s.ten t.ten with st := .active, fn := t.fn }).newCred t).modFn t.fn (fun y => { y with lost := false, current := true })
    s.reattachCmd t = ((a.giveHeld t.ten t.fn).1.finish t.id (Comp.okv 0 (a.giveHeld t.ten t.fn).2)).wmRestarts t.ten := by
  simp only [State.reattachCmd, hcur, hst, hsec, hdrbg, h, bne_self_eq_false, Bool.not_true, Bool.or_self, Bool.false_eq_true, if_false]
  rfl

theorem State.reattachCmd_wrong (h : ¬leNat (Crypto.sha512 (leBytes 32 (t.body 0 32))) = (s.ten t.ten).cred.toNat) :
    let a := (s.setTen t.ten { s.ten t.ten with fails := (s.ten t.ten).fails + 1 }).finish t.id { status := 0x40, detail := 0, position := 0, value := 0 }
    s.reattachCmd t = if (s.ten t.ten).fails.toNat = 7 then a.graceEnd t.ten else a := by
  have horphaned : ((s.ten t.ten).st != .orphaned) = false := by simp [hst]
  simp only [State.reattachCmd, hcur, horphaned, hsec, hdrbg, bne_iff_ne.2 h, Bool.not_true, Bool.or_self, Bool.false_eq_true, if_false,
    if_true]
  rfl
end

theorem hostsAreLost : Says.HostsAreLost := by
  intro s hq
  have hup := State.schedUp_of_hqUp hq
  refine ⟨fun f => congrArg Host.Outcome.next (if_pos hq), ?_, fun n hok => ?_, State.pfEvent_events s, ?_, ?_, ?_⟩
  · intro f hint hcur a b c
    refine congrArg Host.Outcome.next ((if_pos ?_).trans (State.loseFn_eq hup f))
    rw [hup, hcur, bne_iff_ne.2 hint]
    rfl
  · obtain ⟨hn, hother⟩ := State.orphan_ten hok n
    exact ⟨hn, hother, fun k t htok hk => State.orphan_order htok hk⟩
  · intro n hst
    refine congrArg Host.Outcome.next ((if_pos hup).trans (if_neg ?_))
    simp [hst]
  · intro n table ecc hfree st a
    exact ⟨fun hst hnone => congrArg Host.Outcome.next (State.tenFatal_closes hup table ecc hfree hst hnone),
      fun c hst hclosing hwiped => congrArg Host.Outcome.next (State.tenFatal_closing hup table ecc hst hclosing hwiped)⟩
  · intro e t h b x v hcur hst hsec hdrbg right
    have hrun : exec (.reattach e) s = .next (b.reattachCmd v) := congrArg Host.Outcome.next (State.startCmd_starts h State.reattachCmd)
    rw [hrun]
    exact ⟨fun hr => congrArg Host.Outcome.next (State.reattachCmd_right (s := b) (t := v) hcur hst hsec hdrbg hr),
      fun hw => congrArg Host.Outcome.next (State.reattachCmd_wrong (s := b) (t := v) hcur hst hsec hdrbg hw)⟩

/-- Settles O41: a close begins and ends by its command's row; the loss of a function writes its tenancies and the two lists of completions, and
the event that reports it leaves both. -/
theorem tenanciesEnd : Obligations.TenanciesEnd := ⟨tenanciesClose, hostsAreLost⟩

end Sys2Proof.Machine
end

section
/-! Write combining (O25, O27): what the open entries of a line show, and what a write and a flush do to it (R271–R273). -/

namespace Sys2Proof.Machine

/-! ## Bytes in a word -/

theorem testBit_leNat (bs : List Byte) (q : Nat) {j : Nat} (hj : j < 8) : (leNat bs).testBit (8 * q + j) = (bs.getD q 0).getLsbD j := by
  induction bs generalizing q with
  | nil => simp [leNat]
  | cons b bs ih =>
    rw [leNat, Nat.add_comm, show (256 : Nat) = 2 ^ 8 by rfl, Nat.testBit_two_pow_mul_add _ b.isLt]
    cases q with
    | zero => rw [Nat.mul_zero, Nat.zero_add, if_pos hj]; rfl
    | succ q =>
      rw [if_neg (by omega), show 8 * (q + 1) + j - 8 = 8 * q + j by omega, ih]
      rfl

theorem WcEntry.getLsbD_byte (e : WcEntry) (i : Nat) {j : Nat} (hj : j < 8) : (e.byte i).getLsbD j = e.data.getLsbD (8 * i + j) := by
  rw [WcEntry.byte, fld, BitVec.getLsbD_ofNat, Nat.testBit_mod_two_pow, BitVec.testBit_toNat, BitVec.getLsbD_ushiftRight]
  simp [hj]

/-- Bytes placed from byte `off` of a line on. -/
def lineBytes (off : Nat) (data : List Byte) : BitVec 512 := BitVec.ofNat 512 (leNat data * 2 ^ (8 * off))

/-- The bits of those bytes. -/
def lineKeep (off n : Nat) : BitVec 512 := BitVec.ofNat 512 ((2 ^ (8 * n) - 1) * 2 ^ (8 * off))

theorem bit_lineMask (off n : Nat) {i : Nat} (hi : i < 64) : bit (lineMask off n) i = (decide (off ≤ i) && decide (i < off + n)) := by
  rw [bit, lineMask, BitVec.getLsbD_ofNat, Nat.testBit_mul_two_pow, Nat.testBit_two_pow_sub_one, decide_eq_true hi, Bool.true_and]
  by_cases h : off ≤ i
  · simp only [h, decide_true, Bool.true_and, decide_eq_decide]; omega
  · simp [h]

theorem getLsbD_lineKeep (off n : Nat) {i j : Nat} (hi : i < 64) (hj : j < 8) :
    (lineKeep off n).getLsbD (8 * i + j) = (decide (off ≤ i) && decide (i < off + n)) := by
  rw [lineKeep, BitVec.getLsbD_ofNat, Nat.testBit_mul_two_pow, Nat.testBit_two_pow_sub_one, decide_eq_true (show 8 * i + j < 512 by omega),
    Bool.true_and]
  by_cases h : off ≤ i
  · simp only [h, show 8 * off ≤ 8 * i + j by omega, decide_true, Bool.true_and, decide_eq_decide]; omega
  · simp [h, show ¬8 * off ≤ 8 * i + j by omega]

theorem getLsbD_lineBytes (off : Nat) (data : List Byte) {i j : Nat} (hi : i < 64) (hj : j < 8) :
    (lineBytes off data).getLsbD (8 * i + j) = (decide (off ≤ i) && (data.getD (i - off) 0).getLsbD j) := by
  rw [lineBytes, BitVec.getLsbD_ofNat, Nat.testBit_mul_two_pow, decide_eq_true (show 8 * i + j < 512 by omega), Bool.true_and]
  by_cases h : off ≤ i
  · rw [show 8 * i + j - 8 * off = 8 * (i - off) + j by omega, testBit_leNat _ _ hj]
    simp [h, show 8 * off ≤ 8 * i + j by omega]
  · simp [h, show ¬8 * off ≤ 8 * i + j by omega]

/-! ## A write merged into an entry -/

/-- The entry with bytes merged from byte `off` on (R271). -/
def WcEntry.merge (e : WcEntry) (off : Nat) (data : List Byte) : WcEntry :=
  { e with mask := e.mask ||| lineMask off data.length, data := (e.data &&& ~~~lineKeep off data.length) ||| lineBytes off data }

theorem WcEntry.merge_bit (e : WcEntry) (off : Nat) (data : List Byte) {i : Nat} (hi : i < 64) :
    bit (e.merge off data).mask i = (bit e.mask i || (decide (off ≤ i) && decide (i < off + data.length))) := by
  rw [← bit_lineMask off data.length hi]
  exact BitVec.getLsbD_or

theorem WcEntry.merge_byte (e : WcEntry) (off : Nat) (data : List Byte) {i : Nat} (hi : i < 64) :
    (e.merge off data).byte i = if off ≤ i ∧ i < off + data.length then data.getD (i - off) 0 else e.byte i := by
  apply BitVec.eq_of_getLsbD_eq
  intro j hj
  have hbit : ((e.merge off data).byte i).getLsbD j = (e.data.getLsbD (8 * i + j) && !(decide (off ≤ i) && decide (i < off + data.length)) ||
      (decide (off ≤ i) && (data.getD (i - off) 0).getLsbD j)) := by
    rw [WcEntry.getLsbD_byte _ _ hj, WcEntry.merge, BitVec.getLsbD_or, BitVec.getLsbD_and, BitVec.getLsbD_not, getLsbD_lineKeep _ _ hi hj,
      getLsbD_lineBytes _ _ hi hj, decide_eq_true (show 8 * i + j < 512 by omega), Bool.true_and]
  rw [hbit]
  by_cases hin : off ≤ i ∧ i < off + data.length
  · simp [hin]
  · rw [if_neg hin, WcEntry.getLsbD_byte _ _ hj]
    by_cases hoff : off ≤ i
    · have hbeyond : data.getD (i - off) 0 = 0 := List.getD_eq_default _ _ (by omega)
      have hlt : ¬i < off + data.length := fun h => hin ⟨hoff, h⟩
      rw [hbeyond]
      simp [hlt]
    · simp [hoff]

/-! ## The open entries over a byte (R273) -/

/-- Does an entry hold a byte for a device address. -/
def WcEntry.covers (a : Nat) (e : WcEntry) : Bool := e.line == a / 64 && bit e.mask (a % 64)

theorem WcEntry.covers_iff {a : Nat} {e : WcEntry} : e.covers a = true ↔ e.line = a / 64 ∧ bit e.mask (a % 64) = true := by
  simp [WcEntry.covers]

/-- The newest entry over a byte is the first found from the end. -/
theorem Mem.over_eq_find (m : Mem) (a : Nat) : m.over a = (m.wc.reverse.find? (WcEntry.covers a)).map (fun e => e.byte (a % 64)) := by
  rw [← List.head?_filter, List.filter_reverse, List.head?_reverse]
  rfl

theorem Mem.over_congr {m m' : Mem} (h : m'.wc = m.wc) (a : Nat) : m'.over a = m.over a := by rw [Mem.over, h, Mem.over]

@[simp] theorem Mem.wholeLine_wc (m : Mem) (line : Nat) : (m.wholeLine line).wc = m.wc := by
  unfold Mem.wholeLine; split <;> rfl

/-- An entry as a write of `data` from byte `off` of a line leaves it: merged where it is the tenancy's entry of the line (R271). -/
def WcEntry.take (line off : Nat) (data : List Byte) (n : Tid) (e : WcEntry) : WcEntry :=
  if e.line = line ∧ e.ten = n then e.merge off data else e

@[simp] theorem WcEntry.take_line (line off : Nat) (data : List Byte) (n : Tid) (e : WcEntry) : (e.take line off data n).line = e.line := by
  unfold WcEntry.take; split <;> rfl

@[simp] theorem WcEntry.take_ten (line off : Nat) (data : List Byte) (n : Tid) (e : WcEntry) : (e.take line off data n).ten = e.ten := by
  unfold WcEntry.take; split <;> rfl

/-- The device bytes that a write of `len` bytes from byte `off` of a line reaches. -/
abbrev inWrite (line off len a : Nat) : Prop := a / 64 = line ∧ off ≤ a % 64 ∧ a % 64 < off + len

section
variable {line off a : Nat} {data : List Byte} {n : Tid} {e : WcEntry}

/-- Over a byte written stands every entry of the line. -/
theorem WcEntry.covers_take_in (hin : inWrite line off data.length a) (hown : e.line = line → e.ten = n) :
    (e.take line off data n).covers a = true ↔ e.line = line := by
  obtain ⟨rfl, hoff, hlen⟩ := hin
  rw [WcEntry.covers_iff, WcEntry.take_line]
  refine ⟨And.left, fun hl => ⟨hl, ?_⟩⟩
  rw [WcEntry.take, if_pos ⟨hl, hown hl⟩, WcEntry.merge_bit e off data (Nat.mod_lt _ (by decide))]
  simp [hoff, hlen]

theorem WcEntry.byte_take_in (hin : inWrite line off data.length a) (hl : e.line = line) (hten : e.ten = n) :
    (e.take line off data n).byte (a % 64) = data.getD (a % 64 - off) 0 := by
  rw [WcEntry.take, if_pos ⟨hl, hten⟩, WcEntry.merge_byte e off data (Nat.mod_lt _ (by decide)), if_pos hin.2]

/-- Over any other byte the entries stand as before. -/
theorem WcEntry.covers_take_out (hout : ¬inWrite line off data.length a) : (e.take line off data n).covers a = e.covers a := by
  by_cases hl : e.line = line ∧ e.ten = n
  · by_cases ha : a / 64 = line
    · have hrange : ¬(off ≤ a % 64 ∧ a % 64 < off + data.length) := fun h => hout ⟨ha, h⟩
      rw [WcEntry.covers, WcEntry.take_line, WcEntry.take, if_pos hl, WcEntry.merge_bit e off data (Nat.mod_lt _ (by decide)), ← Bool.decide_and,
        decide_eq_false hrange, Bool.or_false, WcEntry.covers]
    · have hne : (e.line == a / 64) = false := by simpa [hl.1] using Ne.symm ha
      rw [WcEntry.covers, WcEntry.take_line, hne, WcEntry.covers, hne, Bool.false_and, Bool.false_and]
  · rw [WcEntry.take, if_neg hl]

theorem WcEntry.byte_take_out (hout : ¬inWrite line off data.length a) (hcov : e.covers a = true) :
    (e.take line off data n).byte (a % 64) = e.byte (a % 64) := by
  obtain ⟨hl, -⟩ := WcEntry.covers_iff.1 hcov
  unfold WcEntry.take
  split
  next h => rw [WcEntry.merge_byte e off data (Nat.mod_lt _ (by decide)), if_neg fun hr => hout ⟨hl.symm.trans h.1, hr⟩]
  · rfl
end

/-- What a write of one line does to the open entries (R271): bytes are merged into the tenancy's entry of the line, or a new one. -/
theorem Mem.wcPut_wc (m : Mem) (line off : Nat) (data : List Byte) (n : Tid) : (m.wcPut line off data n).wc =
    if m.wc.any (fun e => e.line == line && e.ten == n) then m.wc.map (WcEntry.take line off data n)
    else m.wc ++ [(WcEntry.mk line 0 0 n).take line off data n] := by
  have hm : (if data.length = 64 then m.wholeLine line else m).wc = m.wc := by split <;> simp
  have hnew : (WcEntry.mk line 0 0 n).take line off data n = ⟨line, lineMask off data.length, lineBytes off data, n⟩ := by
    simp [WcEntry.take, WcEntry.merge]
  unfold Mem.wcPut
  dsimp only
  rw [hm, hnew]
  split <;> rfl

theorem Mem.wholeLine_use (m : Mem) (line : Nat) : (m.wholeLine line).use = m.use := by
  unfold Mem.wholeLine; split <;> rfl

theorem Mem.wcPut_use (m : Mem) (line off : Nat) (data : List Byte) (n : Tid) : (m.wcPut line off data n).use = m.use := by
  have hm : (if data.length = 64 then m.wholeLine line else m).use = m.use := by
    split
    · exact Mem.wholeLine_use m line
    · rfl
  unfold Mem.wcPut
  dsimp only
  generalize (if data.length = 64 then m.wholeLine line else m) = u at hm ⊢
  split <;> exact hm

/-- A byte after a write of one line whose open entries are all the tenancy's: the byte written, or what it was. -/
theorem Mem.over_wcPut {m : Mem} {line off : Nat} {data : List Byte} {n : Tid} (hmine : ∀ w ∈ m.wc, w.line = line → w.ten = n) (a : Nat) :
    (m.wcPut line off data n).over a = if inWrite line off data.length a then some (data.getD (a % 64 - off) 0) else m.over a := by
  rw [Mem.over_eq_find, Mem.over_eq_find, Mem.wcPut_wc]
  by_cases hopen : m.wc.any (fun e => e.line == line && e.ten == n) = true
  · rw [if_pos hopen, ← List.map_reverse, List.find?_map]
    by_cases hin : inWrite line off data.length a
    · obtain ⟨w, hw, hwl⟩ := List.any_eq_true.1 hopen
      simp only [Bool.and_eq_true, beq_iff_eq] at hwl
      rw [if_pos hin]
      cases hf : m.wc.reverse.find? (WcEntry.covers a ∘ WcEntry.take line off data n) with
      | none => exact absurd ((WcEntry.covers_take_in hin fun _ => hwl.2).2 hwl.1) (List.find?_eq_none.1 hf w (List.mem_reverse.2 hw))
      | some e =>
        have hown := hmine e (List.mem_reverse.1 (List.mem_of_find?_eq_some hf))
        have hl := (WcEntry.covers_take_in hin hown).1 (List.find?_some (p := WcEntry.covers a ∘ WcEntry.take line off data n) hf)
        exact congrArg some (WcEntry.byte_take_in hin hl (hown hl))
    · have hcov : WcEntry.covers a ∘ WcEntry.take line off data n = WcEntry.covers a := funext fun e => WcEntry.covers_take_out hin
      rw [if_neg hin, hcov, Option.map_map]
      exact Option.map_congr fun e he => WcEntry.byte_take_out hin (List.find?_some he)
  · rw [if_neg hopen, List.reverse_append, List.reverse_singleton, List.singleton_append, List.find?_cons]
    by_cases hin : inWrite line off data.length a
    · have hcov := (WcEntry.covers_take_in (e := ⟨line, 0, 0, n⟩) hin fun _ => rfl).2 rfl
      rw [hcov, if_pos hin]
      exact congrArg some (WcEntry.byte_take_in hin rfl rfl)
    · have hcov : ((WcEntry.mk line 0 0 n).take line off data n).covers a = false := by
        rw [WcEntry.covers_take_out hin]
        simp [WcEntry.covers, bit]
      rw [hcov, if_neg hin]

/-- The entries of a write are those there were, their bytes apart, and at most one of its own line. -/
theorem Mem.mem_wcPut {m : Mem} {line off : Nat} {data : List Byte} {n : Tid} {w : WcEntry} (hw : w ∈ (m.wcPut line off data n).wc) :
    (∃ v ∈ m.wc, w.line = v.line ∧ w.ten = v.ten) ∨ (w.line = line ∧ w.ten = n) := by
  rw [Mem.wcPut_wc] at hw
  split at hw
  · obtain ⟨v, hv, rfl⟩ := List.mem_map.1 hw
    exact .inl ⟨v, hv, WcEntry.take_line .., WcEntry.take_ten ..⟩
  · rcases List.mem_append.1 hw with hv | hv
    · exact .inl ⟨w, hv, rfl, rfl⟩
    · obtain rfl := List.mem_singleton.1 hv
      exact .inr ⟨WcEntry.take_line .., WcEntry.take_ten ..⟩

theorem Mem.length_wcPut (m : Mem) (line off : Nat) (data : List Byte) (n : Tid) (q : Nat → Bool) :
    ((m.wcPut line off data n).wc.filter (fun w => q w.line)).length ≤ (m.wc.filter (fun w => q w.line)).length + 1 := by
  rw [Mem.wcPut_wc]
  split
  · rw [List.filter_map, List.length_map]
    simp [Function.comp_def]
  · rw [List.filter_append, List.length_append]
    exact Nat.add_le_add_left (List.length_filter_le _ _) _

/-! ## An entry put into the devices (R272) -/

/-- A byte of the devices after an entry is put into them. -/
theorem Mem.get_put {m : Mem} (hwf : m.wf = true) (e : WcEntry) (a : Nat) :
    Sparse.get 0 (m.put e).cells a = if e.covers a then e.byte (a % 64) else Sparse.get 0 m.cells a := by
  have hfold : ∀ k ≤ 64, Sparse.get 0 ((List.range k).foldl (fun c i =>
      if bit e.mask i then Sparse.set 0 c (e.line * 64 + i) (e.byte i) else c) m.cells) a =
      if a % 64 < k ∧ e.covers a then e.byte (a % 64) else Sparse.get 0 m.cells a := by
    intro k hk
    induction k with
    | zero => simp
    | succ k ih =>
      have hcells : Sparse.wf (0 : Byte) ((List.range k).foldl (fun c i =>
          if bit e.mask i then Sparse.set 0 c (e.line * 64 + i) (e.byte i) else c) m.cells) = true :=
        Sparse.foldl_wf _ (fun c i hc => by split; exacts [Sparse.set_wf hc _ _, hc]) _ hwf
      have ih := ih (by omega)
      rw [List.range_succ, List.foldl_append, List.foldl_cons, List.foldl_nil]
      by_cases hbit : bit e.mask k = true
      · rw [if_pos hbit]
        by_cases ha : a = e.line * 64 + k
        · have hcov : e.covers a = true := WcEntry.covers_iff.2 ⟨by omega, by rw [show a % 64 = k by omega]; exact hbit⟩
          rw [if_pos ⟨by omega, hcov⟩, ha, Sparse.get_set_self hcells, show (e.line * 64 + k) % 64 = k by omega]
        · rw [Sparse.get_set_ne hcells _ ha, ih]
          refine if_congr ?_ rfl rfl
          refine and_congr_left fun hcov => ?_
          have hl := (WcEntry.covers_iff.1 hcov).1
          omega
      · rw [if_neg hbit, ih]
        refine if_congr ?_ rfl rfl
        refine and_congr_left fun hcov => ?_
        obtain ⟨-, hb⟩ := WcEntry.covers_iff.1 hcov
        have hne : a % 64 ≠ k := fun h => hbit (h ▸ hb)
        omega
  refine (hfold 64 (Nat.le_refl _)).trans (if_congr ?_ rfl rfl)
  exact and_iff_right (Nat.mod_lt _ (by decide))

@[simp] theorem Mem.put_wc (m : Mem) (e : WcEntry) : (m.put e).wc = m.wc := rfl

/-- The open entries over a byte, the oldest one of its line told apart. -/
theorem Mem.over_oldest {m m' : Mem} {as bs : List WcEntry} {e : WcEntry} (hwc : m.wc = as ++ e :: bs) (hfirst : ∀ w ∈ as, w.line ≠ e.line)
    (hwc' : m'.wc = as ++ bs) (a : Nat) : m.over a = (m'.over a).or (if e.covers a then some (e.byte (a % 64)) else none) := by
  rw [Mem.over_eq_find, Mem.over_eq_find, hwc, hwc']
  simp only [List.reverse_append, List.reverse_cons, List.append_assoc, List.singleton_append, List.find?_append, List.find?_cons]
  cases bs.reverse.find? (WcEntry.covers a) with
  | some w => rfl
  | none =>
    cases hcov : e.covers a with
    | false => simp
    | true =>
      have hnone : as.reverse.find? (WcEntry.covers a) = none := by
        refine List.find?_eq_none.2 fun w hw hc => hfirst w (List.mem_reverse.1 hw) ?_
        rw [(WcEntry.covers_iff.1 hc).1, (WcEntry.covers_iff.1 hcov).1]
      rw [hnone]
      rfl

/-- The oldest entry of a line put into the devices changes no byte that a read sees. -/
theorem Mem.byte_put_oldest {m m' : Mem} {as bs : List WcEntry} {e : WcEntry} (hwf : m.wf = true) (hwc : m.wc = as ++ e :: bs)
    (hfirst : ∀ w ∈ as, w.line ≠ e.line) (hcells : m'.cells = (m.put e).cells) (hwc' : m'.wc = as ++ bs) (a : Nat) : m'.byte a = m.byte a := by
  rw [Mem.byte, Mem.byte, Mem.over_oldest hwc hfirst hwc' a, hcells, Mem.get_put hwf]
  cases m'.over a with
  | some v => rfl
  | none => split <;> rfl

/-- The first entry that `q` selects, where `q` selects every entry of its line, and what is left without it. -/
theorem find_oldest {l : List WcEntry} {q : WcEntry → Bool} {e : WcEntry} (h : l.find? q = some e) (hline : ∀ w : WcEntry, w.line = e.line → q w = true) :
    ∃ as bs, l = as ++ e :: bs ∧ l.erase e = as ++ bs ∧ ∀ w ∈ as, w.line ≠ e.line := by
  obtain ⟨-, as, bs, rfl, has⟩ := List.find?_eq_some_iff_append.1 h
  have hfirst : ∀ w ∈ as, w.line ≠ e.line := fun w hw hl => by simpa [hline w hl] using has w hw
  exact ⟨as, bs, rfl, by rw [List.erase_append_right _ fun he => hfirst e he rfl, List.erase_cons_head], hfirst⟩

/-! ## What the accesses of the memory system leave of the page tables -/

/-- A page-table entry but for the two marks that accesses leave on it. -/
def Pte.place (p : Pte) : Pte := { p with poison := false, ref := false }

theorem Pte.backed_of_place {p q : Pte} (h : p.place = q.place) : p.backed = q.backed := show p.place.backed = q.place.backed from congrArg Pte.backed h
theorem Pte.sealed_of_place {p q : Pte} (h : p.place = q.place) : p.sealed = q.sealed := show p.place.sealed = q.place.sealed from congrArg Pte.sealed h
theorem Pte.id_of_place {p q : Pte} (h : p.place = q.place) : p.id = q.id := show p.place.id = q.place.id from congrArg Pte.id h

/-- In `t` every page lies where it lies in `s`, under the same key. -/
structure State.KeepsPages (s t : State) : Prop where
  tens : Sparse.wf Ten.init t.tens = true
  ptes : ∀ n, Sparse.wf none (t.ten n).ptes = true ∧ ∀ page, Sparse.wf Pte.init (((t.ten n).table page).getD []) = true
  place : ∀ n k, (t.pte n k).place = (s.pte n k).place
  xts : ∀ n, (t.ten n).xts = (s.ten n).xts

theorem Ten.table_setPte {t : Ten} (h : Sparse.wf none t.ptes = true) (page k : Nat) (p : Pte) : (t.setPte page p).table k =
    if k / 8192 = page / 8192 then some (Sparse.set Pte.init ((t.table page).getD []) (page % 8192) p) else t.table k := by
  unfold Ten.table Ten.setPte
  split
  next hk => rw [hk]; exact Sparse.get_set_self h _ _
  next hk => exact Sparse.get_set_ne h _ hk

theorem Ten.pte_setPte {t : Ten} (h : Sparse.wf none t.ptes = true) (htab : ∀ page, Sparse.wf Pte.init ((t.table page).getD []) = true)
    (page k : Nat) (p : Pte) : (t.setPte page p).pte k = if k = page then p else t.pte k := by
  unfold Ten.pte
  rw [Ten.table_setPte h]
  by_cases hk : k / 8192 = page / 8192
  · rw [if_pos hk, Option.getD_some]
    by_cases hr : k = page
    · subst hr
      rw [if_pos rfl, Sparse.get_set_self (htab k)]
    · have hmod : k % 8192 ≠ page % 8192 := by omega
      have htable : t.table k = t.table page := by unfold Ten.table; rw [hk]
      rw [if_neg hr, Sparse.get_set_ne (htab page) _ hmod, htable]
  · have hne : k ≠ page := fun hr => hk (congrArg (· / 8192) hr)
    rw [if_neg hk, if_neg hne]

namespace State.KeepsPages
variable {s t u : State}

theorem refl (h : s.tablesOk = true) : s.KeepsPages s := by
  obtain ⟨-, -, -, -, htens, -⟩ := State.wf_of_tablesOk h
  exact ⟨htens, State.ten_ptes_wf h, fun _ _ => rfl, fun _ => rfl⟩

theorem trans (h : s.KeepsPages t) (h' : t.KeepsPages u) : s.KeepsPages u :=
  ⟨h'.tens, h'.ptes, fun n k => (h'.place n k).trans (h.place n k), fun n => (h'.xts n).trans (h.xts n)⟩

theorem of_tens (h : s.KeepsPages t) (e : u.tens = t.tens) : s.KeepsPages u := by
  have hten : ∀ n, u.ten n = t.ten n := State.ten_of_tens e
  refine ⟨e ▸ h.tens, fun n => hten n ▸ h.ptes n, fun n k => ?_, fun n => hten n ▸ h.xts n⟩
  rw [State.pte, hten]
  exact h.place n k

theorem setPte (h : s.KeepsPages t) {n : Tid} {k : Nat} {p : Pte} (hp : p.place = (t.pte n k).place) : s.KeepsPages (t.setPte n k p) := by
  obtain ⟨hptes, htab⟩ := h.ptes n
  have hself : (t.setPte n k p).ten n = (t.ten n).setPte k p := Sparse.get_set_self h.tens _ _
  have hother : ∀ m, m ≠ n → (t.setPte n k p).ten m = t.ten m := fun m hm => Sparse.get_set_ne h.tens _ (mt BitVec.eq_of_toNat_eq hm)
  refine ⟨Sparse.set_wf h.tens _ _, fun m => ?_, fun m j => ?_, fun m => ?_⟩ <;> by_cases hm : m = n
  · subst hm
    rw [hself]
    refine ⟨Sparse.set_wf hptes _ _, fun page => ?_⟩
    rw [Ten.table_setPte hptes]
    split
    · exact Sparse.set_wf (htab k) _ _
    · exact htab page
  · rw [hother m hm]
    exact h.ptes m
  · subst hm
    rw [State.pte, hself, Ten.pte_setPte hptes htab, ← h.place m j]
    split
    next hj => rw [hj]; exact hp
    · rfl
  · rw [State.pte, hother m hm]
    exact h.place m j
  · subst hm
    rw [hself]
    exact h.xts m
  · rw [hother m hm]
    exact h.xts m

theorem ite {c : Prop} {_ : Decidable c} (ht : s.KeepsPages t) (hu : s.KeepsPages u) : s.KeepsPages (if c then t else u) :=
  iteInduction (fun _ => ht) (fun _ => hu)

theorem withMem (h : s.KeepsPages t) (m : Mem) : s.KeepsPages { t with mem := m } := h.of_tens rfl

theorem modTier (h : s.KeepsPages t) (b hw : Bool) (f : TierSt → TierSt) : s.KeepsPages (t.modTier b hw f) := h.of_tens rfl

theorem poisonGran (h : s.KeepsPages t) (n : Option Tid) (g : Nat) (page : Option Nat) (a : W64) : s.KeepsPages (t.poisonGran n g page a) := by
  unfold State.poisonGran
  refine of_tens ?_ ((State.raise_tens _ _).trans (State.log_tens ..))
  refine modTier (ite ((h.withMem _).withMem _) ?_) _ _ _
  split
  · exact (h.withMem _).setPte rfl
  · exact h.withMem _

theorem transferGran (h : s.KeepsPages t) (n : Option Tid) (g : Nat) (page : Option Nat) (a : W64) (w : Bool) :
    s.KeepsPages (t.transferGran n g page a w) := by
  have hcorrected : ∀ {u : State} (d x c k : Nat), s.KeepsPages u → s.KeepsPages (u.corrected d x c k) :=
    fun d x c k hu => hu.of_tens (State.corrected_tens ..)
  unfold State.transferGran
  refine h.ite (ite (poisonGran ?_ _ _ _ _) ?_) <;> exact hcorrected _ _ _ _ (hcorrected _ _ _ _ ((h.withMem _).modTier _ _ _))

theorem transfer (h : s.KeepsPages t) (n : Tid) (tva : Nat) (w : Bool) : s.KeepsPages (t.transfer n tva w) := h.transferGran ..

end State.KeepsPages

/-! ## Transfers leave bytes, open entries and frames -/

/-- The bytes, the open entries and the frames of device memory. -/
def Mem.stored (m : Mem) : List (Nat × Byte) × List WcEntry × Sparse (Option FrameUse) := (m.cells, m.wc, m.use)

theorem State.modTier_stored (s : State) (b h : Bool) (f : TierSt → TierSt) : (s.modTier b h f).mem.stored = s.mem.stored := rfl

theorem State.poisonGran_stored (s : State) (n : Option Tid) (g : Nat) (page : Option Nat) (a : W64) :
    (s.poisonGran n g page a).mem.stored = s.mem.stored := by
  unfold State.poisonGran
  dsimp only
  rw [State.raise_mem, State.log_mem, State.modTier_stored]
  (repeat' split) <;> rfl

theorem State.transferGran_stored (s : State) (n : Option Tid) (g : Nat) (page : Option Nat) (a : W64) (w : Bool) :
    (s.transferGran n g page a w).mem.stored = s.mem.stored := by
  unfold State.transferGran
  dsimp only
  split
  · rfl
  · split
    · rw [State.poisonGran_stored, State.corrected_mem, State.corrected_mem]
      rfl
    · rw [State.corrected_mem, State.corrected_mem]
      rfl

theorem State.transfer_stored (s : State) (n : Tid) (tva : Nat) (w : Bool) : (s.transfer n tva w).mem.stored = s.mem.stored :=
  State.transferGran_stored ..

/-- The transfers of a flush: a read of the line where the entry is not whole, and the write (R272). -/
def State.flushMoves (s : State) (e : WcEntry) (n : Tid) (tva : Nat) : State :=
  (if decide (e.mask = BitVec.allOnes 64) then s else s.transfer n tva false).transfer n tva true

theorem State.flushMoves_stored (s : State) (e : WcEntry) (n : Tid) (tva : Nat) : (s.flushMoves e n tva).mem.stored = s.mem.stored := by
  rw [State.flushMoves, State.transfer_stored]
  split
  · rfl
  · exact State.transfer_stored ..

theorem State.KeepsPages.flushMoves {s t : State} (h : s.KeepsPages t) (e : WcEntry) (n : Tid) (tva : Nat) :
    s.KeepsPages (t.flushMoves e n tva) := (h.ite (h.transfer ..)).transfer ..

/-- The pages of no allocated frame on the line are sealed. -/
def State.openLine (s : State) (line : Nat) : Prop :=
  ∀ m k, s.frameUse (line / 2 ^ 15) = some (.allocated m k) → (s.pte m k).sealed = false

theorem State.openLine_of {s t u : State} (ht : s.KeepsPages t) (hu : s.KeepsPages u) (huse : u.mem.use = t.mem.use) {line : Nat}
    (h : t.openLine line) : u.openLine line := by
  intro m k hk
  rw [Pte.sealed_of_place (hu.place m k), ← Pte.sealed_of_place (ht.place m k)]
  rw [State.frameUse, huse] at hk
  exact h m k hk

/-- A flush of an entry of an allocated frame, as the page's case decides (R281, R283). -/
theorem State.flushEntry_allocated {s : State} {e : WcEntry} {n : Tid} {page : Nat}
    (huse : s.frameUse (e.line / 2 ^ 15) = some (.allocated n page)) :
    let tva := page * 2 ^ 21 + e.line % 2 ^ 15 * 64
    let v := s.flushMoves e n tva
    let m := v.mem.put (v.sealEntry n tva e)
    s.flushEntry e = if (v.pte n page).sealed = false then { v with mem := v.mem.flush e }
      else if (v.ten n).xts = none then v
      else { v with mem := if decide (e.mask = BitVec.allOnes 64) then m.wholeLine e.line else m } := by
  simp only [State.flushEntry, huse, Bool.not_eq_true', Option.isNone_iff_eq_none]
  rfl

theorem State.flushEntry_unallocated {s : State} {e : WcEntry} (h : ¬∃ n page, s.frameUse (e.line / 2 ^ 15) = some (.allocated n page)) :
    s.flushEntry e = { s with mem := s.mem.flush e } := by
  unfold State.flushEntry
  split
  next n page huse => exact absurd ⟨n, page, huse⟩ h
  · rfl

/-- A flush that puts the entry into the devices as it is. -/
theorem Mem.flush_leaves (m : Mem) (e : WcEntry) : (m.flush e).cells = (m.put e).cells ∧ (m.flush e).wc = m.wc ∧ (m.flush e).use = m.use := by
  unfold Mem.flush
  dsimp only
  split
  · exact ⟨Mem.wholeLine_cells _ _, Mem.wholeLine_wc _ _, Mem.wholeLine_use _ _⟩
  · exact ⟨rfl, rfl, rfl⟩

theorem Mem.put_cells_congr {m m' : Mem} (h : m'.cells = m.cells) (e : WcEntry) : (m'.put e).cells = (m.put e).cells := by
  simp only [Mem.put, h]

theorem State.KeepsPages.flushEntry {s t : State} (h : s.KeepsPages t) (e : WcEntry) : s.KeepsPages (t.flushEntry e) := by
  by_cases hframe : ∃ n page, t.frameUse (e.line / 2 ^ 15) = some (.allocated n page)
  · obtain ⟨n, page, huse⟩ := hframe
    have hmoves := h.flushMoves e n (page * 2 ^ 21 + e.line % 2 ^ 15 * 64)
    rw [State.flushEntry_allocated huse]
    exact (hmoves.withMem _).ite (hmoves.ite (hmoves.withMem _))
  · rw [State.flushEntry_unallocated hframe]
    exact h.withMem _

/-- An entry of an open page flushed: its bytes are put into the devices. -/
theorem State.flushEntry_open {s t : State} (hpages : s.KeepsPages t) {e : WcEntry} (hopen : t.openLine e.line) :
    (t.flushEntry e).mem.cells = (t.mem.put e).cells ∧ (t.flushEntry e).mem.wc = t.mem.wc ∧
      (t.flushEntry e).mem.use = t.mem.use := by
  by_cases hframe : ∃ n page, t.frameUse (e.line / 2 ^ 15) = some (.allocated n page)
  · obtain ⟨n, page, huse⟩ := hframe
    have hkeep := hpages.flushMoves e n (page * 2 ^ 21 + e.line % 2 ^ 15 * 64)
    have hstored := t.flushMoves_stored e n (page * 2 ^ 21 + e.line % 2 ^ 15 * 64)
    rw [State.flushEntry_allocated huse, if_pos]
    · simp only [Mem.stored, Prod.mk.injEq] at hstored
      obtain ⟨hcells, hwc, huse⟩ := hstored
      obtain ⟨hfcells, hfwc, hfuse⟩ := Mem.flush_leaves (t.flushMoves e n (page * 2 ^ 21 + e.line % 2 ^ 15 * 64)).mem e
      exact ⟨hfcells.trans (Mem.put_cells_congr hcells e), hfwc.trans hwc, hfuse.trans huse⟩
    · rw [Pte.sealed_of_place (hkeep.place n page), ← Pte.sealed_of_place (hpages.place n page)]
      exact hopen n page huse
  · rw [State.flushEntry_unallocated hframe]
    exact Mem.flush_leaves t.mem e

end Sys2Proof.Machine
end

section
/-! Bytes written to a backed page (O25). -/

namespace Sys2Proof.Machine

/-! ## Room for an entry (R272) -/

theorem State.wcRoom_room {s : State} {line : Nat} {n : Tid} (h : (s.mem.wc.filter (fun w => lineSet w.line == lineSet line)).length < 256) :
    s.wcRoom line n = s := by
  unfold State.wcRoom
  dsimp only
  rw [if_pos]
  rw [decide_eq_true h, Bool.or_true]

theorem State.KeepsPages.wcRoom {s t : State} (h : s.KeepsPages t) (line : Nat) (n : Tid) : s.KeepsPages (t.wcRoom line n) := by
  unfold State.wcRoom
  refine h.ite ?_
  split
  · exact h
  · exact ((h.withMem _).flushEntry _).modTier _ _ _

theorem State.KeepsPages.wcWrite {s t : State} (n : Tid) (f : Nat) (h : s.KeepsPages t) (dev : Nat) (data : List Byte) :
    s.KeepsPages (t.wcWrite n f dev data) := by
  induction f generalizing t dev data with
  | zero => exact h
  | succ f ih => exact h.ite (ih ((h.wcRoom _ n).withMem _) _ _)

/-- Room made on a controller whose open entries are all of open pages: the oldest is flushed, which changes no byte that a read sees. -/
theorem State.wcRoom_open {s t : State} (hpages : s.KeepsPages t) (hwf : t.mem.wf = true) {line : Nat}
    (hopen : ∀ w ∈ t.mem.wc, lineSet w.line = lineSet line → t.openLine w.line) (n : Tid) :
    (∀ a, (t.wcRoom line n).mem.byte a = t.mem.byte a) ∧ (t.wcRoom line n).mem.use = t.mem.use ∧
      ∀ w ∈ (t.wcRoom line n).mem.wc, w ∈ t.mem.wc := by
  unfold State.wcRoom
  dsimp only
  split
  · exact ⟨fun _ => rfl, rfl, fun _ hw => hw⟩
  · cases hold : t.mem.wc.find? (fun w => lineSet w.line == lineSet line) with
    | none => exact ⟨fun _ => rfl, rfl, fun _ hw => hw⟩
    | some e =>
      have he : e ∈ t.mem.wc := List.mem_of_find?_eq_some hold
      have hset : lineSet e.line = lineSet line := by simpa using List.find?_some hold
      obtain ⟨as, bs, hwc, herase, hfirst⟩ := find_oldest hold fun w hw => by rw [hw, beq_iff_eq.2 hset]
      obtain ⟨hcells, hwc', huse⟩ := State.flushEntry_open (t := { t with mem := { t.mem with wc := t.mem.wc.erase e } }) (hpages.withMem _)
        (hopen e he hset)
      refine ⟨fun a => ?_, huse, fun w hw => List.mem_of_mem_erase (hwc' ▸ hw)⟩
      exact Mem.byte_put_oldest hwf hwc hfirst (hcells.trans (Mem.put_cells_congr rfl e)) (hwc'.trans herase) a

/-! ## A write, line by line -/

theorem inWrite_iff {dev k a : Nat} (h : dev % 64 + k ≤ 64) : inWrite (dev / 64) (dev % 64) k a ↔ dev ≤ a ∧ a < dev + k := by
  unfold inWrite; omega

/-- The first `k` bytes of a write, which lie in one line, put into its entry. -/
def State.putRun (s : State) (n : Tid) (dev k : Nat) (data : List Byte) : State :=
  { s with mem := s.mem.wcPut (dev / 64) (dev % 64) (data.take k) n }

/-- A write goes line by line: room is made for the first, its bytes are put, and the rest follows. -/
theorem State.wcWrite_step (s : State) (n : Tid) (f dev : Nat) {data : List Byte} (hdata : data ≠ []) :
    ∃ k, 0 < k ∧ k ≤ data.length ∧ dev % 64 + k ≤ 64 ∧ (k = data.length ∨ dev % 64 + k = 64) ∧
      s.wcWrite n (f + 1) dev data = ((s.wcRoom (dev / 64) n).putRun n dev k data).wcWrite n f (dev + k) (data.drop k) := by
  have hpos : 0 < data.length := List.length_pos_iff.2 hdata
  refine ⟨min data.length (64 - dev % 64), by omega, by omega, by omega, by omega, ?_⟩
  rw [State.wcWrite, if_neg (by simpa using hdata)]
  rfl

/-- The bytes over a run in two parts: those of the first part, then those of the rest, over what was there. -/
theorem run_split {α : Type} {f : Byte → α} {dev k a : Nat} {data : List Byte} {x : α} (hk : k ≤ data.length) :
    (if dev + k ≤ a ∧ a < dev + k + (data.drop k).length then f ((data.drop k).getD (a - (dev + k)) 0)
      else if dev ≤ a ∧ a < dev + k then f ((data.take k).getD (a - dev) 0) else x) =
      if dev ≤ a ∧ a < dev + data.length then f (data.getD (a - dev) 0) else x := by
  rw [List.length_drop]
  by_cases hrest : dev + k ≤ a ∧ a < dev + k + (data.length - k)
  · rw [if_pos hrest, if_pos (by omega)]
    simp only [List.getD_eq_getElem?_getD, List.getElem?_drop]
    rw [show k + (a - (dev + k)) = a - dev by omega]
  · rw [if_neg hrest]
    by_cases hfirst : dev ≤ a ∧ a < dev + k
    · rw [if_pos hfirst, if_pos (by omega)]
      simp only [List.getD_eq_getElem?_getD, List.getElem?_take, if_pos (show a - dev < k by omega)]
    · rw [if_neg hfirst, if_neg (by omega)]

/-- The open entries over a byte after the part of a write that lies in its first line. -/
theorem Mem.over_wcPut_run {m : Mem} {dev k : Nat} {data : List Byte} {n : Tid} (hk : dev % 64 + k ≤ 64) (hlen : k ≤ data.length)
    (hmine : ∀ w ∈ m.wc, w.line = dev / 64 → w.ten = n) (a : Nat) :
    (m.wcPut (dev / 64) (dev % 64) (data.take k) n).over a =
      if dev ≤ a ∧ a < dev + k then some ((data.take k).getD (a - dev) 0) else m.over a := by
  have htake : (data.take k).length = k := by rw [List.length_take, Nat.min_eq_left hlen]
  rw [Mem.over_wcPut hmine, htake]
  by_cases hin : dev ≤ a ∧ a < dev + k
  · rw [if_pos ((inWrite_iff hk).2 hin), if_pos hin, show a % 64 - dev % 64 = a - dev by omega]
  · rw [if_neg (mt (inWrite_iff hk).1 hin), if_neg hin]

/-- A byte after that part. -/
theorem Mem.byte_wcPut_run {m : Mem} {dev k : Nat} {data : List Byte} {n : Tid} (hk : dev % 64 + k ≤ 64) (hlen : k ≤ data.length)
    (hmine : ∀ w ∈ m.wc, w.line = dev / 64 → w.ten = n) (a : Nat) :
    (m.wcPut (dev / 64) (dev % 64) (data.take k) n).byte a = if dev ≤ a ∧ a < dev + k then (data.take k).getD (a - dev) 0 else m.byte a := by
  rw [Mem.byte, Mem.over_wcPut_run hk hlen hmine, Mem.wcPut_cells, Mem.byte]
  split <;> rfl

section
variable {n : Tid} {id : Nat}

/-- The line of a byte of a frame lies in the frame and in its controller. -/
theorem line_of_frame {dev : Nat} (hlow : id * 2 ^ 21 ≤ dev) (hhigh : dev < (id + 1) * 2 ^ 21) :
    dev / 64 / 2 ^ 15 = id ∧ lineSet (dev / 64) = lineSet (id * 2 ^ 15) := by
  have hline : dev / 64 / 2 ^ 15 = id := by omega
  exact ⟨hline, by unfold lineSet; rw [hline, Nat.mul_div_cancel _ (by decide)]⟩

/-- After a part of a write the entries of the frame are still the tenancy's. -/
theorem State.putRun_mine {s : State} (hmine : ∀ w ∈ s.mem.wc, w.line / 2 ^ 15 = id → w.ten = n) (dev k : Nat) (data : List Byte) :
    ∀ w ∈ (s.putRun n dev k data).mem.wc, w.line / 2 ^ 15 = id → w.ten = n := by
  intro w hw hl
  rcases Mem.mem_wcPut hw with ⟨v, hv, hvl, hvt⟩ | ⟨-, ht⟩
  · exact hvt.trans (hmine v hv (hvl ▸ hl))
  · exact ht

/-- Nothing to write. -/
theorem run_nil {α : Type} {f : Byte → α} {dev a : Nat} {x : α} :
    x = if dev ≤ a ∧ a < dev + ([] : List Byte).length then f (([] : List Byte).getD (a - dev) 0) else x :=
  (if_neg (by simp only [List.length_nil]; omega)).symm

/-- A write whose controller has room for its lines: nothing is flushed, and the newest entries show its bytes. -/
theorem State.wcWrite_room (f : Nat) {s : State} {dev : Nat} {data : List Byte} (hfuel : data.length ≤ f)
    (hlow : id * 2 ^ 21 ≤ dev) (hhigh : dev + data.length ≤ (id + 1) * 2 ^ 21) (hmine : ∀ w ∈ s.mem.wc, w.line / 2 ^ 15 = id → w.ten = n)
    (hroom : data ≠ [] → (s.mem.wc.filter (fun w => lineSet w.line == lineSet (id * 2 ^ 15))).length + (dev % 64 + data.length + 63) / 64 ≤ 256) :
    (s.wcWrite n f dev data).mem.cells = s.mem.cells ∧
      ∀ a, (s.wcWrite n f dev data).mem.over a = if dev ≤ a ∧ a < dev + data.length then some (data.getD (a - dev) 0) else s.mem.over a := by
  induction f generalizing s dev data with
  | zero =>
    obtain rfl := List.length_eq_zero_iff.1 (Nat.le_zero.1 hfuel)
    exact ⟨rfl, fun a => run_nil⟩
  | succ f ih =>
    by_cases hdata : data = []
    · subst hdata
      exact ⟨rfl, fun a => run_nil⟩
    · obtain ⟨k, hpos, hlen, hk, hend, hstep⟩ := s.wcWrite_step n f dev hdata
      have hroom := hroom hdata
      obtain ⟨hline, hset⟩ := line_of_frame hlow (show dev < (id + 1) * 2 ^ 21 by omega)
      have hdrop : (data.drop k).length = data.length - k := List.length_drop
      rw [hstep, State.wcRoom_room (by rw [hset]; omega)]
      obtain ⟨hcells, hover⟩ := ih (s := s.putRun n dev k data) (dev := dev + k) (data := data.drop k) (by omega) (by omega) (by omega)
        (State.putRun_mine hmine dev k data) fun hne => by
          have hcount := Mem.length_wcPut s.mem (dev / 64) (dev % 64) (data.take k) n (fun l => lineSet l == lineSet (id * 2 ^ 15))
          have hmore : 0 < (data.drop k).length := List.length_pos_iff.2 hne
          unfold State.putRun
          dsimp only
          omega
      refine ⟨hcells.trans (Mem.wcPut_cells ..), fun a => ?_⟩
      rw [hover, State.putRun, Mem.over_wcPut_run hk hlen (fun w hw hl => hmine w hw (hl ▸ hline)) a]
      exact run_split (f := some) hlen

/-- A write on a controller whose open entries are all of open pages: whatever is flushed, its bytes are read, and every other byte as before. -/
theorem State.wcWrite_open (f : Nat) {s t : State} {dev : Nat} {data : List Byte} (hfuel : data.length ≤ f) (hpages : s.KeepsPages t)
    (hwf : t.mem.wf = true) (hlow : id * 2 ^ 21 ≤ dev) (hhigh : dev + data.length ≤ (id + 1) * 2 ^ 21)
    (hmine : ∀ w ∈ t.mem.wc, w.line / 2 ^ 15 = id → w.ten = n) (hframe : t.openLine (id * 2 ^ 15))
    (hopen : ∀ w ∈ t.mem.wc, lineSet w.line = lineSet (id * 2 ^ 15) → t.openLine w.line) (a : Nat) :
    (t.wcWrite n f dev data).mem.byte a = if dev ≤ a ∧ a < dev + data.length then data.getD (a - dev) 0 else t.mem.byte a := by
  induction f generalizing t dev data with
  | zero =>
    obtain rfl := List.length_eq_zero_iff.1 (Nat.le_zero.1 hfuel)
    exact run_nil (f := fun x => x)
  | succ f ih =>
    by_cases hdata : data = []
    · subst hdata
      exact run_nil (f := fun x => x)
    · obtain ⟨k, hpos, hlen, hk, hend, hstep⟩ := t.wcWrite_step n f dev hdata
      obtain ⟨hline, hset⟩ := line_of_frame hlow (show dev < (id + 1) * 2 ^ 21 by omega)
      have hdrop : (data.drop k).length = data.length - k := List.length_drop
      obtain ⟨hbyte, huse, hsub⟩ := State.wcRoom_open hpages hwf (fun w hw hl => hopen w hw (hl.trans hset)) n
      have hrpages := hpages.wcRoom (dev / 64) n
      have hput : ∀ line, t.openLine line → ((t.wcRoom (dev / 64) n).putRun n dev k data).openLine line := fun line =>
        State.openLine_of hpages (hrpages.withMem _) ((Mem.wcPut_use ..).trans huse)
      have hwf' : ((t.wcRoom (dev / 64) n).putRun n dev k data).mem.wf = true :=
        (Mem.wf_congr (Mem.wcPut_cells ..)).trans (State.wcRoom_wf hwf _ _)
      rw [hstep, ih (t := (t.wcRoom (dev / 64) n).putRun n dev k data) (dev := dev + k) (data := data.drop k) (by omega) (hrpages.withMem _)
        hwf' (by omega) (by omega) (State.putRun_mine (fun w hw hl => hmine w (hsub w hw) hl) dev k data) (hput _ hframe)]
      · rw [← hbyte, State.putRun, Mem.byte_wcPut_run hk hlen (fun w hw hl => hmine w (hsub w hw) (hl ▸ hline)) a]
        exact run_split (f := fun x => x) hlen
      · intro w hw hl
        rcases Mem.mem_wcPut hw with ⟨v, hv, hvl, -⟩ | ⟨hwl, -⟩
        · rw [hvl] at hl ⊢
          exact hput _ (hopen v (hsub v hv) hl)
        · refine hput _ ?_
          have hsame : w.line / 2 ^ 15 = id * 2 ^ 15 / 2 ^ 15 := by rw [hwl, hline, Nat.mul_div_cancel _ (by decide)]
          rwa [State.openLine, hsame]
end

/-! ## A write to a backed page -/

/-- What a write to a page does before its bytes move: it is counted, REF is set, and the granules it makes dirty are noted (R267). -/
theorem State.writeBacked_eq (s : State) (n : Tid) (tva : Nat) (data : List Byte) (hok : s.tablesOk = true) :
    ∃ t : State, s.KeepsPages t ∧ t.mem.stored = s.mem.stored ∧ s.writeBacked n tva data = t.wcWrite n (data.length + 1) (t.devAddr n tva) data := by
  have hcount : s.KeepsPages (s.countMoved (s.pte n (pageOf tva)).hawser data.length) := (KeepsPages.refl hok).of_tens rfl
  have href : s.KeepsPages (if (s.pte n (pageOf tva)).ref then s.countMoved (s.pte n (pageOf tva)).hawser data.length
      else (s.countMoved (s.pte n (pageOf tva)).hawser data.length).setPte n (pageOf tva) { s.pte n (pageOf tva) with ref := true }) :=
    hcount.ite (hcount.setPte rfl)
  unfold State.writeBacked
  refine ⟨_, ?_, ?_, rfl⟩
  · dsimp only
    refine KeepsPages.ite ?_ href
    exact href.of_tens rfl
  · dsimp only
    split <;> split <;> rfl

/-! ## What a read of the run shows -/

/-- A byte of a backed page: the open entries', else the stored one (R273). -/
theorem State.peekByte_backed {s : State} {n : Tid} {tva : Nat} (hbacked : (s.pte n (pageOf tva)).backed = true) :
    s.peekByte n tva = (s.mem.over (s.devAddr n tva)).getD (s.storedByte n tva) := by
  rw [State.peekByte, hbacked]
  cases s.mem.over (s.devAddr n tva) <;> rfl

theorem State.storedByte_open {s : State} {n : Tid} {tva : Nat} (hsealed : (s.pte n (pageOf tva)).sealed = false) :
    s.storedByte n tva = Sparse.get 0 s.mem.cells (s.devAddr n tva) := by
  simp [State.storedByte, hsealed]

/-- A byte of a page that is not sealed is read as the devices and the open entries hold it. -/
theorem State.peekByte_open {s : State} {n : Tid} {tva : Nat} (hbacked : (s.pte n (pageOf tva)).backed = true)
    (hsealed : (s.pte n (pageOf tva)).sealed = false) : s.peekByte n tva = s.mem.byte (s.devAddr n tva) := by
  rw [State.peekByte_backed hbacked, State.storedByte_open hsealed, Mem.byte]

/-- A run is read back when each of its bytes is. -/
theorem State.peek_eq {t : State} {n : Tid} {tva : Nat} {data : List Byte} (h : ∀ i < data.length, t.peekByte n (tva + i) = data.getD i 0) :
    t.peek n tva data.length = data := by
  refine List.ext_getElem (by simp [State.peek]) fun i hi hd => ?_
  simp [State.peek, h i hd, hd]

/-- A run that stays in one page keeps to it, byte by byte. -/
theorem pageOf_add {tva i len : Nat} (htva : tva < 2 ^ 48) (hlen : tva % 2 ^ 21 + len ≤ 2 ^ 21) (hi : i < len) : pageOf (tva + i) = pageOf tva := by
  unfold pageOf; omega

theorem State.devAddr_add (s : State) (n : Tid) {tva i len : Nat} (htva : tva < 2 ^ 48) (hlen : tva % 2 ^ 21 + len ≤ 2 ^ 21) (hi : i < len) :
    s.devAddr n (tva + i) = s.devAddr n tva + i := by
  unfold State.devAddr
  rw [pageOf_add htva hlen hi]
  omega

theorem State.devAddr_of_place {s t : State} {n : Tid} {tva : Nat} (h : (t.pte n (pageOf tva)).place = (s.pte n (pageOf tva)).place) :
    t.devAddr n tva = s.devAddr n tva := by
  rw [State.devAddr, State.devAddr, Pte.id_of_place h]

/-- A run of a page lies in its frame. -/
theorem State.devAddr_frame (s : State) (n : Tid) {tva len : Nat} (hlen : tva % 2 ^ 21 + len ≤ 2 ^ 21) :
    (s.pte n (pageOf tva)).id * 2 ^ 21 ≤ s.devAddr n tva ∧ s.devAddr n tva + len ≤ ((s.pte n (pageOf tva)).id + 1) * 2 ^ 21 := by
  unfold State.devAddr frameBase
  omega

/-- The frame of a page is an open line's when no page but this one, which is not sealed, lies in it. -/
theorem State.openLine_frame {s : State} {n : Tid} {k : Nat} (huse : s.frameUse (s.pte n k).id = some (.allocated n k))
    (hsealed : (s.pte n k).sealed = false) : s.openLine ((s.pte n k).id * 2 ^ 15) := by
  intro m j hj
  rw [Nat.mul_div_cancel _ (by decide), huse, Option.some.injEq, FrameUse.allocated.injEq] at hj
  obtain ⟨rfl, rfl⟩ := hj
  exact hsealed

/-- Settles O25: a write goes line by line; nothing is flushed where there is room, and a flush of open pages changes no byte. -/
theorem writesAreReadBack : Obligations.WritesAreReadBack := by
  unfold Obligations.WritesAreReadBack
  intro s n tva data hok p mine hbacked htva hlen hmine
  obtain ⟨t, hpages, hstored, hwrite⟩ := s.writeBacked_eq n tva data hok
  obtain ⟨hcells, hwc, huse⟩ : t.mem.cells = s.mem.cells ∧ t.mem.wc = s.mem.wc ∧ t.mem.use = s.mem.use := by
    simpa [Mem.stored] using hstored
  have hdev : t.devAddr n tva = s.devAddr n tva := State.devAddr_of_place (hpages.place n _)
  obtain ⟨hlow, hhigh⟩ := s.devAddr_frame n hlen
  have hbyte : ∀ a, t.mem.byte a = s.mem.byte a := fun a => by rw [Mem.byte, Mem.byte, Mem.over_congr hwc, hcells]
  have hmine' : ∀ w ∈ t.mem.wc, w.line / 2 ^ 15 = p.id → w.ten = n := hwc ▸ hmine
  have hkept : s.KeepsPages (s.writeBacked n tva data) := hwrite ▸ hpages.wcWrite n _ _ _
  have hback : ∀ i < data.length, ((s.writeBacked n tva data).pte n (pageOf (tva + i))).backed = true := fun i hi => by
    rw [pageOf_add htva hlen hi, Pte.backed_of_place (hkept.place n _)]
    exact hbacked
  have hat : ∀ i < data.length, (s.writeBacked n tva data).devAddr n (tva + i) = s.devAddr n tva + i := fun i hi => by
    rw [State.devAddr_add _ n htva hlen hi, State.devAddr_of_place (hkept.place n _)]
  rw [hdev] at hwrite
  refine ⟨fun hroom => ?_, fun hsealed hframe hopen => ?_⟩
  · obtain ⟨hcells', hover⟩ := State.wcWrite_room (n := n) (id := p.id) (data.length + 1) (s := t) (Nat.le_succ _) hlow hhigh hmine'
      fun _ => by
        rw [hwc]
        have : (s.mem.wc.filter (fun w => lineSet w.line == lineSet (p.id * 2 ^ 15))).length + data.length / 64 + 2 ≤ 256 := hroom
        omega
    rw [← hwrite] at hcells' hover
    refine ⟨⟨State.peek_eq fun i hi => ?_, fun a ha => ?_⟩, hcells'.trans hcells⟩
    · rw [State.peekByte_backed (hback i hi), hat i hi, hover, if_pos (by omega), Nat.add_sub_cancel_left]
      rfl
    · rw [Mem.byte, hover, if_neg (by omega), hcells', ← Mem.byte]
      exact hbyte a
  · have hmove : ∀ line, s.openLine line → t.openLine line := fun line => State.openLine_of (State.KeepsPages.refl hok) hpages huse
    have hwf : t.mem.wf = true := (Mem.wf_congr hcells).trans ((State.wf_of_tablesOk hok).1)
    have hall : ∀ a, (s.writeBacked n tva data).mem.byte a =
        if s.devAddr n tva ≤ a ∧ a < s.devAddr n tva + data.length then data.getD (a - s.devAddr n tva) 0 else t.mem.byte a := fun a => by
      rw [hwrite]
      refine State.wcWrite_open (id := p.id) _ (Nat.le_succ _) hpages hwf hlow hhigh hmine' (hmove _ (State.openLine_frame hframe hsealed)) ?_ a
      intro w hw hl
      exact hmove _ (hopen w (hwc ▸ hw) (beq_iff_eq.2 hl))
    refine ⟨State.peek_eq fun i hi => ?_, fun a ha => ?_⟩
    · rw [State.peekByte_open (hback i hi) (by rw [pageOf_add htva hlen hi, Pte.sealed_of_place (hkept.place n _)]; exact hsealed),
        hat i hi, hall, if_pos (by omega), Nat.add_sub_cancel_left]
    · rw [hall, if_neg (by omega)]
      exact hbyte a

end Sys2Proof.Machine
end

section
/-! MAP, ALLOC and PIN leave memory alone (O27). -/

namespace Sys2Proof.Machine

/-- What a read of device memory looks at: the cells and the open entries. -/
def Mem.bytes (m : Mem) : List (Nat × Byte) × List WcEntry := (m.cells, m.wc)

theorem Mem.byte_of_bytes {m m' : Mem} (h : m'.bytes = m.bytes) (a : Nat) : m'.byte a = m.byte a := by
  obtain ⟨hcells, hwc⟩ := Prod.mk.inj h
  rw [Mem.byte, Mem.byte, Mem.over_congr hwc, hcells]

theorem State.newNonce_mem (s : State) : s.newNonce.mem = s.mem := by
  unfold State.newNonce State.drbg State.generate
  dsimp only
  split
  · exact State.reseed_mem s
  · rfl

theorem State.afterAuth_mem (s : State) (c : BitVec 512) : (s.afterAuth c).mem = s.mem := by
  unfold State.afterAuth
  split
  · exact State.newNonce_mem s
  · rfl

theorem State.pgEnd_mem (s : State) (t : Token) (st : Byte) (d k : Nat) : (s.pgEnd t st d k).mem = s.mem :=
  congrArg Prod.fst (State.finishWith_memLcs ..)

/-- A command that keeps the bytes when it runs keeps them when it is refused too. -/
theorem State.startCmd_bytes (s : State) (e : Nat) (sel : BitVec 512 → Bool) {run : State → Token → State}
    (hrun : ∀ s t, (run s t).mem.bytes = s.mem.bytes) : (s.startCmd e sel run).mem.bytes = s.mem.bytes := by
  unfold State.startCmd
  split
  · rfl
  · split
    · split
      · exact congrArg Mem.bytes ((congrArg Prod.fst (State.finish_memLcs ..)).trans (State.afterAuth_mem ..))
      · exact hrun _ _
    · rfl

theorem State.pgCheck_bytes {s k : State} (t : Token) (h : k.mem.bytes = s.mem.bytes) : (s.pgCheck t k).mem.bytes = s.mem.bytes := by
  unfold State.pgCheck
  split
  · exact congrArg Mem.bytes (State.pgEnd_mem ..)
  · split
    · exact congrArg Mem.bytes (State.pgEnd_mem ..)
    · exact h

theorem State.takeFrame_bytes {s : State} {bulk h : Bool} {u : FrameUse} {r : (Nat × Nat) × State} (hr : s.takeFrame bulk h u = some r) :
    r.2.mem.bytes = s.mem.bytes := by
  unfold State.takeFrame at hr
  split at hr
  · cases hr
  · dsimp only at hr
    split at hr
    · cases hr
    · cases hr
      rfl

theorem State.placePage_bytes {s : State} {n : Tid} {page : Nat} {bulk home : Bool} {r : (Bool × Nat × Nat) × State}
    (hr : s.placePage n page bulk home = some r) : r.2.mem.bytes = s.mem.bytes := by
  unfold State.placePage at hr
  split at hr
  next hnear => cases hr; exact State.takeFrame_bytes hnear
  next =>
    split at hr
    next hfar => cases hr; exact State.takeFrame_bytes hfar
    next => cases hr

theorem State.startBacking_bytes (s : State) (n : Tid) (page : Nat) (hw bulk home : Bool) (cmd : Option Nat) :
    (s.startBacking n page hw bulk home cmd).mem.bytes = s.mem.bytes := by
  unfold State.startBacking
  dsimp only
  split
  next hplace => exact State.placePage_bytes (s := s.charge n bulk) hplace
  next => rfl

theorem State.allocGo_bytes (s : State) (t : Token) (done k : Nat) : (s.allocGo t done k).mem.bytes = s.mem.bytes := by
  induction k generalizing done with
  | zero => exact congrArg Mem.bytes (State.pgEnd_mem ..)
  | succ k ih =>
    unfold State.allocGo
    dsimp only
    split
    · exact congrArg Mem.bytes (State.pgEnd_mem ..)
    split
    · exact ih done
    split
    · rfl
    split
    · exact congrArg Mem.bytes (State.pgEnd_mem ..)
    split
    · exact congrArg Mem.bytes (State.pgEnd_mem ..)
    · exact State.startBacking_bytes ..

theorem State.pinGo_bytes (s : State) (t : Token) (done : Nat) (ks : List Nat) : (s.pinGo t done ks).mem.bytes = s.mem.bytes := by
  induction ks generalizing s done with
  | nil => exact congrArg Mem.bytes (State.pgEnd_mem ..)
  | cons k ks ih =>
    unfold State.pinGo
    dsimp only
    split
    · exact ih s done
    split
    · exact congrArg Mem.bytes (State.pgEnd_mem ..)
    · exact ih _ _

theorem State.mapCmd_bytes (s : State) (t : Token) : (s.mapCmd t).mem.bytes = s.mem.bytes := by
  refine State.pgCheck_bytes t ?_
  dsimp only
  split
  · exact congrArg Mem.bytes (State.pgEnd_mem ..)
  · rw [State.pgEnd_mem]
    exact congrArg Mem.bytes (congrArg Prod.fst (foldl_memLcs (fun (s : State) k => s.setPte t.ten k _) (fun _ _ => rfl) t.pgList s))

theorem State.allocCmd_bytes (s : State) (t : Token) : (s.allocCmd t).mem.bytes = s.mem.bytes := by
  refine State.pgCheck_bytes t ?_
  dsimp only
  split
  · exact congrArg Mem.bytes (State.pgEnd_mem ..)
  split
  · exact congrArg Mem.bytes (State.pgEnd_mem ..)
  · exact State.allocGo_bytes ..

theorem State.pinCmd_bytes (s : State) (t : Token) : (s.pinCmd t).mem.bytes = s.mem.bytes := by
  refine State.pgCheck_bytes t ?_
  split
  · exact congrArg Mem.bytes (State.pgEnd_mem ..)
  · exact State.pinGo_bytes ..

/-- The part of O27 that speaks of the page commands holds. -/
theorem pageCommandsKeepBytes : Says.PageCommandsKeepBytes := by
  rintro s t e (h | h | h) a <;> obtain rfl := Host.Outcome.next.inj h
  · exact Mem.byte_of_bytes (State.startCmd_bytes s e _ State.mapCmd_bytes) a
  · exact Mem.byte_of_bytes (State.startCmd_bytes s e _ State.allocCmd_bytes) a
  · exact Mem.byte_of_bytes (State.startCmd_bytes s e _ State.pinCmd_bytes) a

end Sys2Proof.Machine
end

section
/-! A line of a sealed page, stored and read back (R281, R282). -/

namespace Sys2Proof.Crypto

theorem chunks_append {m k : Nat} {xs ys : List Byte} (hx : xs.length = 16 * m) (hy : ys.length = 16 * k) :
    chunks 16 (m + k) (xs ++ ys) = chunks 16 m xs ++ chunks 16 k ys := by
  have h := chunks_of_flatten 16 (by decide) (chunks 16 m xs ++ chunks 16 k ys) fun c hc =>
    (List.mem_append.1 hc).elim (chunks_each 16 (by decide) m xs hx c) (chunks_each 16 (by decide) k ys hy c)
  rwa [List.length_append, chunks_length 16 (by decide) m xs hx, chunks_length 16 (by decide) k ys hy, List.flatten_append,
    chunks_flatten 16 (by decide) m xs hx, chunks_flatten 16 (by decide) k ys hy] at h

/-- The blocks of a data unit are encrypted apart. -/
theorem xts_append (key : BitVec 512) (u j : Nat) {m k : Nat} {xs ys : List Byte} (hx : xs.length = 16 * m) (hy : ys.length = 16 * k) :
    xts false key u j (xs ++ ys) = xts false key u j xs ++ xts false key u (j + m) ys := by
  simp only [xts_blocks, List.length_append, hx, hy, ← Nat.mul_add, Nat.mul_div_cancel_left _ (show 0 < 16 by decide)]
  rw [chunks_append hx hy, List.zipIdx_append, List.flatMap_append, chunks_length 16 (by decide) m xs hx]

/-- Block `b` of an encrypted run, decrypted in its place, is block `b` of the run. -/
theorem xts_block_undone (key : BitVec 512) (u j : Nat) {k b : Nat} {bs : List Byte} (h : bs.length = 16 * k) (hb : b < k) :
    xts true key u (j + b) (((xts false key u j bs).drop (16 * b)).take 16) = (bs.drop (16 * b)).take 16 := by
  have hhead : (bs.take (16 * b)).length = 16 * b := by rw [List.length_take]; omega
  have hblock : ((bs.drop (16 * b)).take 16).length = 16 * 1 := by rw [List.length_take, List.length_drop]; omega
  have htail : ((bs.drop (16 * b)).drop 16).length = 16 * (k - b - 1) := by rw [List.length_drop, List.length_drop]; omega
  have hrest : (bs.drop (16 * b)).length = 16 * (k - b) := by rw [List.length_drop]; omega
  have hct : xts false key u j bs = xts false key u j (bs.take (16 * b)) ++ (xts false key u (j + b) ((bs.drop (16 * b)).take 16) ++
      xts false key u (j + b + 1) ((bs.drop (16 * b)).drop 16)) := by
    rw [← xts_append key u (j + b) hblock htail, List.take_append_drop, ← xts_append key u j hhead hrest, List.take_append_drop]
  rw [hct, List.drop_left' (xts_length key u j b _ hhead), List.take_left' (xts_length key u (j + b) 1 _ hblock)]
  exact xts_undone key u (j + b) 1 _ hblock

end Sys2Proof.Crypto

namespace Sys2Proof

section
variable {α : Type} {d : α}

theorem Sparse.get_of_unlisted {m : Sparse α} {k : Nat} (h : ∀ e ∈ m, e.1 ≠ k) : Sparse.get d m k = d := by
  induction m with
  | nil => rfl
  | cons x m ih =>
    obtain ⟨hx, hm⟩ := List.forall_mem_cons.1 h
    rw [Sparse.get, if_neg (Ne.symm hx), ih hm, ite_self]

/-- What a canonical table lists is what it is read to hold, and is not its default. -/
theorem Sparse.get_of_mem [DecidableEq α] {m : Sparse α} (h : Sparse.wf d m = true) {e : Nat × α} (he : e ∈ m) :
    Sparse.get d m e.1 = e.2 ∧ e.2 ≠ d := by
  induction m with
  | nil => cases he
  | cons x m ih =>
    obtain ⟨hx, hlt, hm⟩ := Sparse.wf_cons.1 h
    rcases List.mem_cons.1 he with rfl | he
    · exact ⟨if_pos rfl, hx⟩
    · have hgt := hlt e he
      rw [Sparse.get, if_neg (by omega), if_neg (by omega)]
      exact ih hm he
end

end Sys2Proof

namespace Sys2Proof.Machine

/-! ## A line that holds nothing (log 18) -/

theorem Mem.blank_iff {m : Mem} (h : m.wf = true) (line : Nat) :
    m.blank line = true ↔ ∀ a, a / 64 = line → Sparse.get 0 m.cells a = 0 := by
  simp only [Mem.blank, List.all_eq_true, bne_iff_ne, ne_eq]
  constructor
  · intro hb a ha
    exact Sparse.get_of_unlisted fun e he hk => hb e he (hk ▸ ha)
  · intro hz e he hl
    obtain ⟨hget, hne⟩ := Sparse.get_of_mem h he
    exact hne (hget.symm.trans (hz e.1 hl))

/-- What a page's byte is read as hangs on its line alone. -/
theorem State.storedByte_congr {s t : State} {n : Tid} {tva : Nat} (hplace : (t.pte n (pageOf tva)).place = (s.pte n (pageOf tva)).place)
    (hxts : (t.ten n).xts = (s.ten n).xts) (hs : s.mem.wf = true) (ht : t.mem.wf = true)
    (hcells : ∀ a, a / 64 = s.devAddr n tva / 64 → Sparse.get 0 t.mem.cells a = Sparse.get 0 s.mem.cells a) :
    t.storedByte n tva = s.storedByte n tva := by
  have hblank : t.mem.blank (s.devAddr n tva / 64) = s.mem.blank (s.devAddr n tva / 64) := by
    rw [Bool.eq_iff_iff, Mem.blank_iff ht, Mem.blank_iff hs]
    exact forall₂_congr fun a ha => by rw [hcells a ha]
  have hblock : (List.range 16).map (fun i => Sparse.get 0 t.mem.cells (s.devAddr n tva / 16 * 16 + i)) =
      (List.range 16).map (fun i => Sparse.get 0 s.mem.cells (s.devAddr n tva / 16 * 16 + i)) :=
    List.map_congr_left fun i hi => hcells _ (by have := List.mem_range.1 hi; omega)
  simp only [State.storedByte, State.devAddr_of_place hplace, Pte.sealed_of_place hplace, hblank, hcells _ rfl, Ten.crypt, hxts, hblock]

/-! ## A sealed line stored -/

/-- The line that an entry of a sealed page makes: its bytes over those of the line (R281). -/
def State.plainLine (s : State) (n : Tid) (tva : Nat) (e : WcEntry) : List Byte :=
  (List.range 64).map (fun i => if bit e.mask i then e.byte i else s.storedByte n (tva + i))

theorem State.plainLine_length (s : State) (n : Tid) (tva : Nat) (e : WcEntry) : (s.plainLine n tva e).length = 16 * 4 := by
  simp [State.plainLine]

theorem State.plainLine_getD (s : State) (n : Tid) (tva : Nat) (e : WcEntry) {i : Nat} (hi : i < 64) :
    (s.plainLine n tva e).getD i 0 = if bit e.mask i then e.byte i else s.storedByte n (tva + i) := by
  simp [State.plainLine, hi]

/-- Its ciphertext. -/
def State.cipherLine (s : State) (n : Tid) (tva : Nat) (e : WcEntry) : List Byte := (s.ten n).crypt false tva (s.plainLine n tva e)

theorem State.cipherLine_congr {s t : State} {n : Tid} {tva : Nat} (hkeep : s.KeepsPages t) (hs : s.mem.wf = true) (ht : t.mem.wf = true) (e : WcEntry)
    (hcells : ∀ i, i < 64 → ∀ a, a / 64 = s.devAddr n (tva + i) / 64 → Sparse.get 0 t.mem.cells a = Sparse.get 0 s.mem.cells a) :
    t.cipherLine n tva e = s.cipherLine n tva e := by
  have hplain : t.plainLine n tva e = s.plainLine n tva e := by
    refine List.map_congr_left fun i hi => ?_
    rw [State.storedByte_congr (hkeep.place n _) (hkeep.xts n) hs ht (hcells i (List.mem_range.1 hi))]
  rw [State.cipherLine, State.cipherLine, Ten.crypt, Ten.crypt, hkeep.xts n, hplain]

theorem State.covers_sealEntry (s : State) (n : Tid) (tva : Nat) (e : WcEntry) (a : Nat) :
    (s.sealEntry n tva e).covers a = true ↔ a / 64 = e.line := by
  have hbit : bit (BitVec.allOnes 64) (a % 64) = true := by
    rw [bit, BitVec.getLsbD_allOnes]
    exact decide_eq_true (Nat.mod_lt _ (by decide))
  rw [WcEntry.covers_iff]
  exact ⟨fun ⟨h, _⟩ => h.symm, fun h => ⟨h.symm, hbit⟩⟩

theorem State.byte_sealEntry (s : State) (n : Tid) (tva : Nat) (e : WcEntry) {i : Nat} (hi : i < 64) :
    (s.sealEntry n tva e).byte i = (s.cipherLine n tva e).getD i 0 := by
  refine BitVec.eq_of_getLsbD_eq fun j hj => ?_
  rw [WcEntry.getLsbD_byte _ _ hj, ← testBit_leNat _ _ hj]
  exact (BitVec.getLsbD_ofNat ..).trans (by rw [decide_eq_true (by omega), Bool.true_and]; rfl)

/-- A sealed line after its entry is stored. -/
theorem State.get_put_sealEntry {s : State} (hwf : s.mem.wf = true) (n : Tid) (tva : Nat) (e : WcEntry) (a : Nat) :
    Sparse.get 0 (s.mem.put (s.sealEntry n tva e)).cells a =
      if a / 64 = e.line then (s.cipherLine n tva e).getD (a % 64) 0 else Sparse.get 0 s.mem.cells a := by
  rw [Mem.get_put hwf]
  exact if_congr (s.covers_sealEntry n tva e a) (s.byte_sealEntry n tva e (Nat.mod_lt _ (by decide))) rfl

/-- The bytes of a page's line, by TVA and by device address. -/
theorem pageOf_line {k line j : Nat} (hk : k < 2 ^ 27) (hj : j < 64) : pageOf (k * 2 ^ 21 + line % 2 ^ 15 * 64 + j) = k := by
  unfold pageOf; omega

theorem State.devAddr_line {s : State} {n : Tid} {k line j : Nat} (hk : k < 2 ^ 27) (hid : (s.pte n k).id = line / 2 ^ 15) (hj : j < 64) :
    s.devAddr n (k * 2 ^ 21 + line % 2 ^ 15 * 64 + j) = line * 64 + j := by
  rw [State.devAddr, pageOf_line hk hj, hid, frameBase]
  omega

/-- A byte of a sealed line that holds an entry's ciphertext is read as the line was when the entry was sealed. -/
theorem State.storedByte_of_cipher {s t : State} {n : Tid} {k line : Nat} {e : WcEntry} (hk : k < 2 ^ 27) (hid : (t.pte n k).id = line / 2 ^ 15)
    (hsealed : (t.pte n k).sealed = true) (hxts : (t.ten n).xts = (s.ten n).xts) (hblank : t.mem.blank line = false)
    (hcells : ∀ i, i < 64 → Sparse.get 0 t.mem.cells (line * 64 + i) =
      (s.cipherLine n (k * 2 ^ 21 + line % 2 ^ 15 * 64) e).getD i 0) {j : Nat} (hj : j < 64) :
    t.storedByte n (k * 2 ^ 21 + line % 2 ^ 15 * 64 + j) = (s.plainLine n (k * 2 ^ 21 + line % 2 ^ 15 * 64) e).getD j 0 := by
  have hpage := pageOf_line (line := line) hk hj
  have hdev := State.devAddr_line hk hid hj
  obtain ⟨base, hbase⟩ : ∃ base, base = k * 2 ^ 21 + line % 2 ^ 15 * 64 := ⟨_, rfl⟩
  rw [← hbase] at hpage hdev hcells ⊢
  have hct : (s.cipherLine n base e).length = 16 * 4 := Crypto.xts_length _ _ _ 4 _ (s.plainLine_length n base e)
  have hblock : (List.range 16).map (fun i => Sparse.get 0 t.mem.cells ((line * 64 + j) / 16 * 16 + i)) =
      ((s.cipherLine n base e).drop (16 * (j / 16))).take 16 := by
    refine List.ext_getElem (by rw [List.length_map, List.length_range, List.length_take, List.length_drop]; omega) fun i hi _ => ?_
    rw [List.length_map, List.length_range] at hi
    have hget := hcells (16 * (j / 16) + i) (by omega)
    rw [List.getD_eq_getElem _ _ (by omega)] at hget
    rw [List.getElem_map, List.getElem_range, List.getElem_take, List.getElem_drop, ← hget]
    congr 1
    omega
  have hplace : (base + j) / 16 * 16 % 2 ^ 48 / 4096 = base % 2 ^ 48 / 4096 ∧ (base + j) / 16 * 16 % 4096 / 16 = base % 4096 / 16 + j / 16 ∧
      (base + j) % 16 = j % 16 ∧ (line * 64 + j) / 64 = line := by omega
  obtain ⟨hunit, hno, hmod, hline⟩ := hplace
  have hundone := Crypto.xts_block_undone ((s.ten n).xts.getD 0) (base % 2 ^ 48 / 4096) (base % 4096 / 16) (s.plainLine_length n base e)
    (show j / 16 < 4 by omega)
  rw [State.storedByte, hdev, hpage, hsealed, hline, hblank, hblock, Ten.crypt, hxts, hunit, hno, hmod]
  refine (congrArg (fun l => List.getD l (j % 16) 0) hundone).trans ?_
  simp only [List.getD_eq_getElem?_getD, List.getElem?_take, List.getElem?_drop, if_pos (show j % 16 < 16 by omega)]
  rw [show 16 * (j / 16) + j % 16 = j by omega]

end Sys2Proof.Machine
end

section
/-! Flushes by age and by fence (O27). -/

namespace Sys2Proof.Machine

theorem State.KeepsPages.self {s t : State} (h : s.KeepsPages t) : t.KeepsPages t := ⟨h.tens, h.ptes, fun _ _ => rfl, fun _ => rfl⟩

/-! ## One flush -/

/-- A flush changes the cells of its entry's line alone, and neither the open entries nor the frames. -/
theorem State.flushEntry_cases (t : State) (e : WcEntry) : (t.flushEntry e).mem.wc = t.mem.wc ∧ (t.flushEntry e).mem.use = t.mem.use ∧
    ((∃ w : WcEntry, w.line = e.line ∧ (t.flushEntry e).mem.cells = (t.mem.put w).cells) ∨ (t.flushEntry e).mem.cells = t.mem.cells) := by
  by_cases hframe : ∃ n page, t.frameUse (e.line / 2 ^ 15) = some (.allocated n page)
  · obtain ⟨n, page, huse⟩ := hframe
    have hstored := t.flushMoves_stored e n (page * 2 ^ 21 + e.line % 2 ^ 15 * 64)
    have hflush := State.flushEntry_allocated huse
    dsimp only at hflush
    generalize t.flushMoves e n (page * 2 ^ 21 + e.line % 2 ^ 15 * 64) = v at hstored hflush
    simp only [Mem.stored, Prod.mk.injEq] at hstored
    obtain ⟨hcells, hwc, huse⟩ := hstored
    rw [hflush]
    split
    · obtain ⟨hfcells, hfwc, hfuse⟩ := Mem.flush_leaves v.mem e
      exact ⟨hfwc.trans hwc, hfuse.trans huse, .inl ⟨e, rfl, hfcells.trans (Mem.put_cells_congr hcells e)⟩⟩
    split
    · exact ⟨hwc, huse, .inr hcells⟩
    · dsimp only
      let w := v.sealEntry n (page * 2 ^ 21 + e.line % 2 ^ 15 * 64) e
      have hput : (v.mem.put w).cells = (t.mem.put w).cells := Mem.put_cells_congr hcells w
      split
      · exact ⟨(Mem.wholeLine_wc _ _).trans hwc, (Mem.wholeLine_use _ _).trans huse, .inl ⟨w, rfl, (Mem.wholeLine_cells _ _).trans hput⟩⟩
      · exact ⟨hwc, huse, .inl ⟨w, rfl, hput⟩⟩
  · rw [State.flushEntry_unallocated hframe]
    obtain ⟨hfcells, hfwc, hfuse⟩ := Mem.flush_leaves t.mem e
    exact ⟨hfwc, hfuse, .inl ⟨e, rfl, hfcells⟩⟩

theorem State.flushEntry_wc (t : State) (e : WcEntry) : (t.flushEntry e).mem.wc = t.mem.wc := by
  obtain ⟨hwc, -⟩ := t.flushEntry_cases e
  exact hwc

theorem State.flushEntry_use (t : State) (e : WcEntry) : (t.flushEntry e).mem.use = t.mem.use := by
  obtain ⟨-, huse, -⟩ := t.flushEntry_cases e
  exact huse

theorem State.flushEntry_off {t : State} (hwf : t.mem.wf = true) {e : WcEntry} {a : Nat} (ha : a / 64 ≠ e.line) :
    Sparse.get 0 (t.flushEntry e).mem.cells a = Sparse.get 0 t.mem.cells a := by
  obtain ⟨-, -, ⟨w, hw, hcells⟩ | hcells⟩ := t.flushEntry_cases e
  · rw [hcells, Mem.get_put hwf, if_neg]
    intro hcov
    obtain ⟨hl, -⟩ := WcEntry.covers_iff.1 hcov
    exact ha (hl.symm.trans hw)
  · rw [hcells]

/-- An entry of a sealed page flushed: the line's ciphertext is stored (R281). -/
theorem State.flushEntry_sealed {s t : State} (hpages : s.KeepsPages t) (hwf : t.mem.wf = true) {e : WcEntry} {n : Tid} {k : Nat}
    (huse : t.frameUse (e.line / 2 ^ 15) = some (.allocated n k)) (hsealed : (t.pte n k).sealed = true) (hkey : (t.ten n).xts.isSome = true) {i : Nat}
    (hi : i < 64) : Sparse.get 0 (t.flushEntry e).mem.cells (e.line * 64 + i) =
      (t.cipherLine n (k * 2 ^ 21 + e.line % 2 ^ 15 * 64) e).getD i 0 := by
  have hkeep := hpages.self.flushMoves e n (k * 2 ^ 21 + e.line % 2 ^ 15 * 64)
  have hstored := t.flushMoves_stored e n (k * 2 ^ 21 + e.line % 2 ^ 15 * 64)
  have hflush := State.flushEntry_allocated huse
  dsimp only at hflush
  generalize k * 2 ^ 21 + e.line % 2 ^ 15 * 64 = tva at hkeep hstored hflush ⊢
  generalize t.flushMoves e n tva = v at hkeep hstored hflush
  simp only [Mem.stored, Prod.mk.injEq] at hstored
  obtain ⟨hcells, -, -⟩ := hstored
  have hv : v.mem.wf = true := (Mem.wf_congr hcells).trans hwf
  have hcipher := State.cipherLine_congr (n := n) (tva := tva) hkeep hwf hv e fun _ _ a _ => by rw [hcells]
  have hput : (t.flushEntry e).mem.cells = (v.mem.put (v.sealEntry n tva e)).cells := by
    rw [hflush, if_neg (by rw [Pte.sealed_of_place (hkeep.place n k), hsealed]; simp),
      if_neg (by rw [hkeep.xts n]; exact Option.isSome_iff_ne_none.1 hkey)]
    dsimp only
    split
    · exact Mem.wholeLine_cells _ _
    · rfl
  rw [hput, State.get_put_sealEntry hv, if_pos (by omega), hcipher, show (e.line * 64 + i) % 64 = i by omega]

/-! ## A flush is counted by who asks for it -/

theorem State.tiers_wf {s : State} (h : s.tablesOk = true) : Sparse.wf TierSt.init s.mem.tiers = true := by
  simp only [State.tablesOk, Bool.and_eq_true] at h
  tauto

/-- In `t` every share of a tier has aged as many entries as in `s`. -/
structure State.KeepsAged (s t : State) : Prop where
  tiers : Sparse.wf TierSt.init t.mem.tiers = true
  aged : ∀ b h, (t.tier b h).aged = (s.tier b h).aged

theorem tierKey_inj {b b' h h' : Bool} (e : tierKey b h = tierKey b' h') : b = b' ∧ h = h' := by
  revert b b' h h'; decide

theorem State.tier_modTier {t : State} (hwf : Sparse.wf TierSt.init t.mem.tiers = true) (b h b' h' : Bool) (f : TierSt → TierSt) :
    (t.modTier b h f).tier b' h' = if b' = b ∧ h' = h then f (t.tier b h) else t.tier b' h' := by
  by_cases hk : b' = b ∧ h' = h
  · obtain ⟨rfl, rfl⟩ := hk
    rw [if_pos ⟨rfl, rfl⟩]
    exact Sparse.get_set_self hwf _ _
  · rw [if_neg hk]
    exact Sparse.get_set_ne hwf _ fun e => hk (tierKey_inj e)

namespace State.KeepsAged
variable {s t u : State}

theorem of_tiers (h : s.KeepsAged t) (e : u.mem.tiers = t.mem.tiers) : s.KeepsAged u := by
  refine ⟨e ▸ h.tiers, fun b hw => ?_⟩
  rw [State.tier, e]
  exact h.aged b hw

theorem ite {c : Prop} {_ : Decidable c} (ht : s.KeepsAged t) (hu : s.KeepsAged u) : s.KeepsAged (if c then t else u) :=
  iteInduction (fun _ => ht) (fun _ => hu)

theorem modTier (h : s.KeepsAged t) (b hw : Bool) {f : TierSt → TierSt} (hf : ∀ x, (f x).aged = x.aged) : s.KeepsAged (t.modTier b hw f) := by
  refine ⟨Sparse.set_wf h.tiers _ _, fun b' hw' => ?_⟩
  rw [State.tier_modTier h.tiers]
  split
  next hk => rw [hf, hk.1, hk.2]; exact h.aged b hw
  next => exact h.aged b' hw'

theorem transferGran (h : s.KeepsAged t) (n : Option Tid) (g : Nat) (page : Option Nat) (a : W64) (w : Bool) :
    s.KeepsAged (t.transferGran n g page a w) := by
  have hcorrected : ∀ {u : State} (d x c k : Nat), s.KeepsAged u → s.KeepsAged (u.corrected d x c k) :=
    fun d x c k hu => hu.of_tiers (congrArg Mem.tiers (State.corrected_mem ..))
  have hpoison : ∀ {u : State}, s.KeepsAged u → s.KeepsAged (u.poisonGran n g page a) := by
    intro u hu
    unfold State.poisonGran
    refine of_tiers ?_ (congrArg Mem.tiers ((State.raise_mem ..).trans (State.log_mem ..)))
    refine modTier (ite ?_ ?_) _ _ ?_
    · exact hu.of_tiers rfl
    · split <;> exact hu.of_tiers rfl
    · exact fun _ => rfl
  unfold State.transferGran
  refine h.ite (ite (hpoison ?_) ?_) <;>
  · refine hcorrected _ _ _ _ (hcorrected _ _ _ _ (modTier ?_ _ _ ?_))
    · exact h.of_tiers rfl
    · exact fun _ => rfl

theorem flushMoves (h : s.KeepsAged t) (e : WcEntry) (n : Tid) (tva : Nat) : s.KeepsAged (t.flushMoves e n tva) :=
  (h.ite (h.transferGran ..)).transferGran ..

theorem flushEntry (h : s.KeepsAged t) (e : WcEntry) : s.KeepsAged (t.flushEntry e) := by
  have hwhole : ∀ m line, (Mem.wholeLine m line).tiers = m.tiers := fun m line => by unfold Mem.wholeLine; split <;> rfl
  have hflush : ∀ {u : State}, s.KeepsAged u → s.KeepsAged { u with mem := u.mem.flush e } := by
    intro u hu
    refine hu.of_tiers ?_
    unfold Mem.flush
    dsimp only
    split
    · exact hwhole _ _
    · rfl
  by_cases hframe : ∃ n page, t.frameUse (e.line / 2 ^ 15) = some (.allocated n page)
  · obtain ⟨n, page, huse⟩ := hframe
    have hmoves := h.flushMoves e n (page * 2 ^ 21 + e.line % 2 ^ 15 * 64)
    rw [State.flushEntry_allocated huse]
    refine (hflush hmoves).ite (hmoves.ite (hmoves.of_tiers ?_))
    dsimp only
    split
    · exact hwhole _ _
    · rfl
  · rw [State.flushEntry_unallocated hframe]
    exact hflush h

end State.KeepsAged

/-! ## Flushes one after another -/

/-- A cell of a line of open pages after a flush. -/
theorem State.get_flushEntry_open {s t : State} (hpages : s.KeepsPages t) (hwf : t.mem.wf = true) {a : Nat} (hopen : t.openLine (a / 64))
    (e : WcEntry) : Sparse.get 0 (t.flushEntry e).mem.cells a = if e.covers a then e.byte (a % 64) else Sparse.get 0 t.mem.cells a := by
  by_cases hline : a / 64 = e.line
  · obtain ⟨hcells, -, -⟩ := State.flushEntry_open hpages (e := e) (hline ▸ hopen)
    rw [hcells, Mem.get_put hwf]
  · rw [State.flushEntry_off hwf hline, if_neg fun hcov => hline (WcEntry.covers_iff.1 hcov).1.symm]

/-- Entries flushed, oldest first. -/
def State.flushAll (t : State) (l : List WcEntry) : State := l.foldl State.flushEntry t

theorem State.flushWhere_eq (s : State) (p : WcEntry → Bool) :
    s.flushWhere p = State.flushAll { s with mem := { s.mem with wc := s.mem.wc.filter (fun e => !p e) } } (s.mem.wc.filter p) := rfl

section
variable {s t : State}

theorem State.KeepsPages.flushAll (h : s.KeepsPages t) (l : List WcEntry) : s.KeepsPages (t.flushAll l) := by
  induction l generalizing t with
  | nil => exact h
  | cons e l ih => exact ih (h.flushEntry e)

theorem State.flushAll_wf (h : t.mem.wf = true) (l : List WcEntry) : (t.flushAll l).mem.wf = true := by
  induction l generalizing t with
  | nil => exact h
  | cons e l ih => exact ih (State.flushEntry_wf h e)

theorem State.flushAll_wc (t : State) (l : List WcEntry) : (t.flushAll l).mem.wc = t.mem.wc := by
  induction l generalizing t with
  | nil => rfl
  | cons e l ih => exact (ih (t.flushEntry e)).trans (State.flushEntry_wc t e)

theorem State.flushAll_use (t : State) (l : List WcEntry) : (t.flushAll l).mem.use = t.mem.use := by
  induction l generalizing t with
  | nil => rfl
  | cons e l ih => exact (ih (t.flushEntry e)).trans (State.flushEntry_use t e)

/-- The cells of a line of which nothing is flushed stay. -/
theorem State.flushAll_off (hwf : t.mem.wf = true) {l : List WcEntry} {a : Nat} (h : ∀ e ∈ l, e.line ≠ a / 64) :
    Sparse.get 0 (t.flushAll l).mem.cells a = Sparse.get 0 t.mem.cells a := by
  induction l generalizing t with
  | nil => rfl
  | cons e l ih =>
    obtain ⟨he, hl⟩ := List.forall_mem_cons.1 h
    exact (ih (State.flushEntry_wf hwf e) hl).trans (State.flushEntry_off hwf (Ne.symm he))

/-- A cell of a line of open pages holds the byte of the newest entry over it. -/
theorem State.flushAll_open (hpages : s.KeepsPages t) (hwf : t.mem.wf = true) {a : Nat} (hopen : t.openLine (a / 64)) (l : List WcEntry) :
    Sparse.get 0 (t.flushAll l).mem.cells a =
      ((l.reverse.find? (WcEntry.covers a)).map (fun e => e.byte (a % 64))).getD (Sparse.get 0 t.mem.cells a) := by
  induction l generalizing t with
  | nil => rfl
  | cons e l ih =>
    have hopen' := State.openLine_of hpages (hpages.flushEntry e) (State.flushEntry_use t e) hopen
    refine (ih (hpages.flushEntry e) (State.flushEntry_wf hwf e) hopen').trans ?_
    rw [State.get_flushEntry_open hpages hwf hopen, List.reverse_cons, List.find?_append, List.find?_singleton]
    cases l.reverse.find? (WcEntry.covers a) with
    | some w => rfl
    | none => cases e.covers a <;> rfl

/-- The cells of a sealed line with one entry among those flushed hold the ciphertext it makes. -/
theorem State.flushAll_sealed (hpages : s.KeepsPages t) (hwf : t.mem.wf = true) {as bs : List WcEntry} {e : WcEntry} {n : Tid} {k : Nat}
    (has : ∀ w ∈ as, w.line ≠ e.line) (hbs : ∀ w ∈ bs, w.line ≠ e.line) (hk : k < 2 ^ 27) (hid : (t.pte n k).id = e.line / 2 ^ 15)
    (huse : t.frameUse (e.line / 2 ^ 15) = some (.allocated n k)) (hsealed : (t.pte n k).sealed = true) (hkey : (t.ten n).xts.isSome = true) {i : Nat}
    (hi : i < 64) : Sparse.get 0 (t.flushAll (as ++ e :: bs)).mem.cells (e.line * 64 + i) =
      (t.cipherLine n (k * 2 ^ 21 + e.line % 2 ^ 15 * 64) e).getD i 0 := by
  have hkeep := hpages.self.flushAll as
  have hwf' := State.flushAll_wf hwf as
  have huse' : (t.flushAll as).frameUse (e.line / 2 ^ 15) = some (.allocated n k) := by rw [State.frameUse, State.flushAll_use]; exact huse
  have hline : (e.line * 64 + i) / 64 = e.line := by omega
  calc Sparse.get 0 (t.flushAll (as ++ e :: bs)).mem.cells (e.line * 64 + i)
      = Sparse.get 0 (((t.flushAll as).flushEntry e).flushAll bs).mem.cells (e.line * 64 + i) := by
        simp only [State.flushAll, List.foldl_append, List.foldl_cons]
    _ = Sparse.get 0 ((t.flushAll as).flushEntry e).mem.cells (e.line * 64 + i) :=
        State.flushAll_off (State.flushEntry_wf hwf' e) fun w hw => hline.symm ▸ hbs w hw
    _ = ((t.flushAll as).cipherLine n (k * 2 ^ 21 + e.line % 2 ^ 15 * 64) e).getD i 0 :=
        State.flushEntry_sealed hkeep hwf' huse' ((Pte.sealed_of_place (hkeep.place n k)).trans hsealed) (hkeep.xts n ▸ hkey) hi
    _ = _ := by
        rw [State.cipherLine_congr hkeep hwf hwf' e]
        intro j hj a ha
        rw [State.devAddr_line hk hid hj, show (e.line * 64 + j) / 64 = e.line by omega] at ha
        exact State.flushAll_off hwf fun w hw => ha.symm ▸ has w hw

/-- A byte of a sealed line whose oldest entry has been stored is read as before. -/
theorem State.peekByte_of_cipher {n : Tid} {k j : Nat} {e : WcEntry} (hkeep : s.KeepsPages t) (hk : k < 2 ^ 27) (hbacked : (s.pte n k).backed = true)
    (hid : (s.pte n k).id = e.line / 2 ^ 15) (hsealed : (s.pte n k).sealed = true) (hblank : t.mem.blank e.line = false)
    (hcells : ∀ i, i < 64 → Sparse.get 0 t.mem.cells (e.line * 64 + i) = (s.cipherLine n (k * 2 ^ 21 + e.line % 2 ^ 15 * 64) e).getD i 0)
    (hj : j < 64) (hover : s.mem.over (e.line * 64 + j) =
      (t.mem.over (e.line * 64 + j)).or (if e.covers (e.line * 64 + j) then some (e.byte ((e.line * 64 + j) % 64)) else none)) :
    t.peekByte n (k * 2 ^ 21 + e.line % 2 ^ 15 * 64 + j) = s.peekByte n (k * 2 ^ 21 + e.line % 2 ^ 15 * 64 + j) := by
  have hplace := hkeep.place n k
  have hpage := pageOf_line (line := e.line) hk hj
  have hidt := (Pte.id_of_place hplace).trans hid
  have hcov : e.covers (e.line * 64 + j) = bit e.mask j := by
    rw [WcEntry.covers, show (e.line * 64 + j) / 64 = e.line by omega, show (e.line * 64 + j) % 64 = j by omega, beq_self_eq_true, Bool.true_and]
  have hs := State.peekByte_backed (s := s) (n := n) (by rw [hpage]; exact hbacked)
  have ht := State.peekByte_backed (s := t) (n := n) (by rw [hpage, Pte.backed_of_place hplace]; exact hbacked)
  rw [hs, ht, State.devAddr_line hk hid hj, State.devAddr_line hk hidt hj, hover, hcov, show (e.line * 64 + j) % 64 = j by omega,
    State.storedByte_of_cipher hk hidt ((Pte.sealed_of_place hplace).trans hsealed) (hkeep.xts n) hblank hcells hj, State.plainLine_getD _ _ _ _ hj]
  cases t.mem.over (e.line * 64 + j) with
  | some v => simp
  | none => cases bit e.mask j <;> simp
end

/-! ## The flush by age (R274) -/

section
variable {s : State} {line : Nat} {w : WcEntry}

theorem exec_wcAgeFlush (hlive : s.live = true) (line : Nat) : exec (.wcAgeFlush line) s = .next (s.ageFlush line) :=
  congrArg Host.Outcome.next (if_pos hlive)

/-- The state whose oldest entry of the line has left the open ones, to be flushed. -/
def State.without (s : State) (w : WcEntry) : State := { s with mem := { s.mem with wc := s.mem.wc.erase w } }

theorem State.ageFlush_eq (hw : s.mem.wc.find? (fun x => x.line == line) = some w) : s.ageFlush line =
    ((s.without w).flushEntry w).modTier (idBulk (line / 2 ^ 15)) (idHawser (line / 2 ^ 15)) (fun t => { t with aged := t.aged + 1 }) := by
  unfold State.ageFlush
  rw [hw]
  rfl

variable (hw : s.mem.wc.find? (fun x => x.line == line) = some w)
include hw

theorem line_of_find : w.line = line := by simpa using List.find?_some hw

theorem State.ageFlush_cells : (s.ageFlush line).mem.cells = ((s.without w).flushEntry w).mem.cells := by rw [State.ageFlush_eq hw]; rfl

theorem State.ageFlush_wc : (s.ageFlush line).mem.wc = s.mem.wc.erase w := by
  rw [State.ageFlush_eq hw]
  exact State.flushEntry_wc _ w

/-- The open entries before the flush: those after it, and the one flushed under those of its line. -/
theorem State.over_ageFlush (a : Nat) :
    s.mem.over a = ((s.ageFlush line).mem.over a).or (if w.covers a then some (w.byte (a % 64)) else none) := by
  obtain ⟨as, bs, hwc, herase, hfirst⟩ := find_oldest hw fun x hx => beq_iff_eq.2 (hx.trans (line_of_find hw))
  exact Mem.over_oldest hwc hfirst ((State.ageFlush_wc hw).trans herase) a

variable (hok : s.tablesOk = true)
include hok

theorem State.ageFlush_aged : ((s.ageFlush line).tier (idBulk (line / 2 ^ 15)) (idHawser (line / 2 ^ 15))).aged =
    (s.tier (idBulk (line / 2 ^ 15)) (idHawser (line / 2 ^ 15))).aged + 1 := by
  have hkeep : s.KeepsAged ((s.without w).flushEntry w) := State.KeepsAged.flushEntry (s := s) (t := s.without w) ⟨State.tiers_wf hok, fun _ _ => rfl⟩ w
  rw [State.ageFlush_eq hw, State.tier_modTier hkeep.tiers, if_pos ⟨rfl, rfl⟩, ← hkeep.aged]

theorem State.KeepsPages.ageFlush : s.KeepsPages (s.ageFlush line) := by
  rw [State.ageFlush_eq hw]
  exact (((State.KeepsPages.refl hok).withMem _).flushEntry w).modTier _ _ _

/-- A line of open pages: no byte that a read sees changes. -/
theorem State.ageFlush_open (hopen : s.openLine line) (a : Nat) : (s.ageFlush line).mem.byte a = s.mem.byte a := by
  obtain ⟨hmem, -⟩ := State.wf_of_tablesOk hok
  obtain rfl := line_of_find hw
  obtain ⟨hcells, -⟩ := State.flushEntry_open (t := s.without w) ((State.KeepsPages.refl hok).withMem _) hopen
  obtain ⟨as, bs, hwc, herase, hfirst⟩ := find_oldest hw fun x hx => beq_iff_eq.2 hx
  exact Mem.byte_put_oldest hmem hwc hfirst ((State.ageFlush_cells hw).trans hcells) ((State.ageFlush_wc hw).trans herase) a

/-- Bytes of other lines stay. -/
theorem State.ageFlush_off {a : Nat} (ha : a / 64 ≠ line) : (s.ageFlush line).mem.byte a = s.mem.byte a := by
  obtain ⟨hmem, -⟩ := State.wf_of_tablesOk hok
  have hl := line_of_find hw
  have hcov : w.covers a = false := Bool.eq_false_iff.2 fun h => ha ((WcEntry.covers_iff.1 h).1.symm.trans hl)
  have hcells := State.flushEntry_off (t := s.without w) hmem (e := w) (hl ▸ ha)
  rw [Mem.byte, Mem.byte, State.over_ageFlush hw a, hcov, State.ageFlush_cells hw, hcells]
  simp only [Bool.false_eq_true, if_false, Option.or_none]
  rfl

variable {n : Tid} {k : Nat} (huse : s.frameUse (line / 2 ^ 15) = some (.allocated n k)) (hsealed : (s.pte n k).sealed = true)
  (hkey : (s.ten n).xts.isSome = true)
include huse hsealed hkey

/-- A sealed line is stored as the ciphertext of its bytes (R281, R282). -/
theorem State.ageFlush_cipher {j : Nat} (hj : j < 64) : Sparse.get 0 (s.ageFlush line).mem.cells (line * 64 + j) =
    (s.cipherLine n (k * 2 ^ 21 + line % 2 ^ 15 * 64) w).getD j 0 := by
  obtain ⟨hmem, -⟩ := State.wf_of_tablesOk hok
  obtain rfl := line_of_find hw
  rw [State.ageFlush_cells hw]
  exact State.flushEntry_sealed (t := s.without w) ((State.KeepsPages.refl hok).withMem _) hmem huse hsealed hkey hj

/-- It is read as before, where the page is one that a TVA reaches. -/
theorem State.ageFlush_reads (hk : k < 2 ^ 27) (hbacked : (s.pte n k).backed = true) (hid : (s.pte n k).id = line / 2 ^ 15)
    (hblank : (s.ageFlush line).mem.blank line = false) {j : Nat} (hj : j < 64) :
    (s.ageFlush line).peekByte n (k * 2 ^ 21 + line % 2 ^ 15 * 64 + j) = s.peekByte n (k * 2 ^ 21 + line % 2 ^ 15 * 64 + j) := by
  have hcells := fun i (hi : i < 64) => State.ageFlush_cipher hw hok huse hsealed hkey hi
  obtain rfl := line_of_find hw
  exact State.peekByte_of_cipher (State.KeepsPages.ageFlush hw hok) hk hbacked hid hsealed hblank hcells hj (State.over_ageFlush hw _)
end

/-! ## The fence (R274) -/

theorem exec_wcFenceDone {s : State} {e i : Nat} {t : Token} (hlive : s.live = true) (htok : s.tok e = some t) (hbraid : t.braid = some i)
    (hrun : t.st = .running) (hphase : (s.braid i).phase = .ended) (hown : (s.braid i).tok = some e) :
    exec (.wcFenceDone e) s = .next (s.flushWhere (fun w => t.ctls.has (lineSet w.line))) := by
  refine congrArg Host.Outcome.next ?_
  simp only [State.wcFence, htok, hbraid, hlive, hrun, hphase, hown, beq_self_eq_true, Bool.and_self, if_true, State.fenceTok, State.fence]

theorem State.flushWhere_wc (s : State) (p : WcEntry → Bool) : (s.flushWhere p).mem.wc = s.mem.wc.filter (fun e => !p e) := by
  rw [State.flushWhere_eq, State.flushAll_wc]

theorem State.mem_flushWhere_wc (s : State) (p : WcEntry → Bool) (w : WcEntry) : w ∈ (s.flushWhere p).mem.wc ↔ w ∈ s.mem.wc ∧ p w = false := by
  rw [State.flushWhere_wc, List.mem_filter, Bool.not_eq_true']

/-- The open entries over a byte are those of its line. -/
theorem Mem.over_filter {m m' : Mem} {q : WcEntry → Bool} {a : Nat} (hwc : m'.wc = m.wc.filter q) (hq : ∀ w ∈ m.wc, w.line = a / 64 → q w = true) :
    m'.over a = m.over a := by
  rw [Mem.over, Mem.over, hwc, List.filter_filter]
  congr 2
  refine List.filter_congr fun w hw => ?_
  by_cases hl : w.line = a / 64
  · rw [hq w hw hl, Bool.and_true]
  · rw [beq_eq_false_iff_ne.2 hl, Bool.false_and, Bool.false_and]

theorem Mem.over_none {m : Mem} {a : Nat} (h : ∀ w ∈ m.wc, w.line ≠ a / 64) : m.over a = none := by
  rw [Mem.over_eq_find, List.find?_eq_none.2 fun w hw hcov => h w (List.mem_reverse.1 hw) (WcEntry.covers_iff.1 hcov).1]
  rfl

section
variable {s : State} {p : WcEntry → Bool} (hok : s.tablesOk = true)
include hok

theorem State.KeepsPages.flushWhere : s.KeepsPages (s.flushWhere p) := ((State.KeepsPages.refl hok).withMem _).flushAll _

theorem State.flushWhere_wf : (s.flushWhere p).mem.wf = true := by
  obtain ⟨hmem, -⟩ := State.wf_of_tablesOk hok
  exact State.flushAll_wf (t := { s with mem := { s.mem with wc := s.mem.wc.filter (fun e => !p e) } }) hmem _

/-- The cells of a line of which no entry is flushed stay. -/
theorem State.flushWhere_off {a : Nat} (h : ∀ w ∈ s.mem.wc, w.line = a / 64 → p w = false) :
    Sparse.get 0 (s.flushWhere p).mem.cells a = Sparse.get 0 s.mem.cells a := by
  obtain ⟨hmem, -⟩ := State.wf_of_tablesOk hok
  refine State.flushAll_off (t := { s with mem := { s.mem with wc := s.mem.wc.filter (fun e => !p e) } }) hmem fun w hw hl => ?_
  obtain ⟨hmem, hpw⟩ := List.mem_filter.1 hw
  rw [h w hmem hl] at hpw
  cases hpw

variable {n : Tid} {k j line : Nat} (hk : k < 2 ^ 27) (hj : j < 64) (hbacked : (s.pte n k).backed = true) (hid : (s.pte n k).id = line / 2 ^ 15)
include hk hj hbacked hid

/-- A line of which no entry is flushed is read as before. -/
theorem State.flushWhere_reads_kept (h : ∀ w ∈ s.mem.wc, w.line = line → p w = false) :
    (s.flushWhere p).peekByte n (k * 2 ^ 21 + line % 2 ^ 15 * 64 + j) = s.peekByte n (k * 2 ^ 21 + line % 2 ^ 15 * 64 + j) := by
  obtain ⟨hmem, -⟩ := State.wf_of_tablesOk hok
  have hkeep := State.KeepsPages.flushWhere (p := p) hok
  have hpage := pageOf_line (line := line) hk hj
  have hplace := hkeep.place n k
  have hline : (line * 64 + j) / 64 = line := by omega
  have hdev := State.devAddr_line hk hid hj
  have hs := State.peekByte_backed (s := s) (n := n) (tva := k * 2 ^ 21 + line % 2 ^ 15 * 64 + j) (by rw [hpage]; exact hbacked)
  have ht := State.peekByte_backed (s := s.flushWhere p) (n := n) (tva := k * 2 ^ 21 + line % 2 ^ 15 * 64 + j)
    (by rw [hpage, Pte.backed_of_place hplace]; exact hbacked)
  rw [hs, ht, hdev, State.devAddr_line hk ((Pte.id_of_place hplace).trans hid) hj,
    Mem.over_filter (State.flushWhere_wc s p) fun w hw hl => by rw [h w hw (hl.trans hline)]; rfl,
    State.storedByte_congr (hkeep.place n _) (hkeep.xts n) hmem (State.flushWhere_wf hok)]
  intro a ha
  rw [hdev, hline] at ha
  exact State.flushWhere_off hok fun w hw hl => h w hw (hl.trans ha)

variable (huse : s.frameUse (line / 2 ^ 15) = some (.allocated n k)) (h : ∀ w ∈ s.mem.wc, w.line = line → p w = true)
include huse h

/-- A line of an open page of which every entry is flushed is read as before. -/
theorem State.flushWhere_reads_open (hsealed : (s.pte n k).sealed = false) :
    (s.flushWhere p).peekByte n (k * 2 ^ 21 + line % 2 ^ 15 * 64 + j) = s.peekByte n (k * 2 ^ 21 + line % 2 ^ 15 * 64 + j) := by
  obtain ⟨hmem, -⟩ := State.wf_of_tablesOk hok
  have hkeep := State.KeepsPages.flushWhere (p := p) hok
  have hpage := pageOf_line (line := line) hk hj
  have hplace := hkeep.place n k
  have hline : (line * 64 + j) / 64 = line := by omega
  have hopen : s.openLine ((line * 64 + j) / 64) := by
    intro m i hi
    rw [hline, huse, Option.some.injEq, FrameUse.allocated.injEq] at hi
    obtain ⟨rfl, rfl⟩ := hi
    exact hsealed
  have hs := State.peekByte_open (s := s) (n := n) (tva := k * 2 ^ 21 + line % 2 ^ 15 * 64 + j) (by rw [hpage]; exact hbacked) (by rw [hpage]; exact hsealed)
  have ht := State.peekByte_open (s := s.flushWhere p) (n := n) (tva := k * 2 ^ 21 + line % 2 ^ 15 * 64 + j)
    (by rw [hpage, Pte.backed_of_place hplace]; exact hbacked) (by rw [hpage, Pte.sealed_of_place hplace]; exact hsealed)
  have hover : (s.flushWhere p).mem.over (line * 64 + j) = none := Mem.over_none fun w hw hl => by
    obtain ⟨hmem, hpw⟩ := (State.mem_flushWhere_wc s p w).1 hw
    rw [h w hmem (hl.trans hline)] at hpw
    cases hpw
  have hcell : Sparse.get 0 (s.flushWhere p).mem.cells (line * 64 + j) = (s.mem.over (line * 64 + j)).getD (Sparse.get 0 s.mem.cells (line * 64 + j)) := by
    rw [← Mem.over_filter (m := s.mem) (m' := { s.mem with wc := s.mem.wc.filter p }) rfl fun w hw hl => h w hw (hl.trans hline), Mem.over_eq_find]
    exact State.flushAll_open (t := { s with mem := { s.mem with wc := s.mem.wc.filter (fun e => !p e) } }) ((State.KeepsPages.refl hok).withMem _) hmem
      hopen (s.mem.wc.filter p)
  rw [hs, ht, State.devAddr_line hk hid hj, State.devAddr_line hk ((Pte.id_of_place hplace).trans hid) hj, Mem.byte, hover, hcell, Mem.byte]
  rfl

/-- A sealed line with one entry, which is flushed, is read as before, unless its ciphertext is all zero. -/
theorem State.flushWhere_reads_sealed {e : WcEntry} (hsealed : (s.pte n k).sealed = true) (hkey : (s.ten n).xts.isSome = true)
    (hone : s.mem.wc.filter (fun w => w.line == line) = [e]) (hblank : (s.flushWhere p).mem.blank line = false) :
    (s.flushWhere p).peekByte n (k * 2 ^ 21 + line % 2 ^ 15 * 64 + j) = s.peekByte n (k * 2 ^ 21 + line % 2 ^ 15 * 64 + j) := by
  obtain ⟨hmem, -⟩ := State.wf_of_tablesOk hok
  obtain ⟨as, bs, hwc, has, hel, hbs⟩ := List.filter_eq_cons_iff.1 hone
  obtain rfl : e.line = line := beq_iff_eq.1 hel
  have has' : ∀ w ∈ as, w.line ≠ e.line := fun w hw hl => has w hw (beq_iff_eq.2 hl)
  have hbs' : ∀ w ∈ bs, w.line ≠ e.line := fun w hw hl => List.filter_eq_nil_iff.1 hbs w hw (beq_iff_eq.2 hl)
  have hline : (e.line * 64 + j) / 64 = e.line := by omega
  have hpe : p e = true := h e (by rw [hwc]; exact List.mem_append_right _ List.mem_cons_self) rfl
  have hover : (s.flushWhere p).mem.over (e.line * 64 + j) = none := Mem.over_none fun w hw hl => by
    obtain ⟨hmem, hpw⟩ := (State.mem_flushWhere_wc s p w).1 hw
    rw [h w hmem (hl.trans hline)] at hpw
    cases hpw
  have hrest : ({ s.mem with wc := as ++ bs } : Mem).over (e.line * 64 + j) = none :=
    Mem.over_none fun w hw hl => (List.mem_append.1 hw).elim (fun hw => has' w hw (hl.trans hline)) (fun hw => hbs' w hw (hl.trans hline))
  refine State.peekByte_of_cipher (State.KeepsPages.flushWhere hok) hk hbacked hid hsealed hblank (fun i hi => ?_) hj ?_
  · have hsplit : s.mem.wc.filter p = as.filter p ++ e :: bs.filter p := by rw [hwc, List.filter_append, List.filter_cons, if_pos hpe]
    rw [State.flushWhere_eq, hsplit]
    exact State.flushAll_sealed (t := { s with mem := { s.mem with wc := s.mem.wc.filter (fun e => !p e) } }) ((State.KeepsPages.refl hok).withMem _) hmem
      (fun w hw => has' w (List.mem_filter.1 hw).1) (fun w hw => hbs' w (List.mem_filter.1 hw).1) hk hid huse hsealed hkey hi
  · rw [hover, Mem.over_oldest (m' := { s.mem with wc := as ++ bs }) hwc has' rfl, hrest]
end

/-- After the fence every byte of every page that a TVA reaches is read as before. -/
theorem State.flushWhere_reads {s : State} {q : Nat → Bool} (hok : s.tablesOk = true) {n : Tid} {k j : Nat} (hk : k < 2 ^ 27) (hj : j < 2 ^ 21)
    (hbacked : (s.pte n k).backed = true) (huse : s.frameUse (s.pte n k).id = some (.allocated n k))
    (hseal : (s.pte n k).sealed = true → (s.ten n).xts.isSome = true ∧
      (s.mem.wc.filter (fun w => w.line == (s.pte n k).id * 2 ^ 15 + j / 64)).length ≤ 1 ∧
      ((s.flushWhere (fun w => q w.line)).mem.blank ((s.pte n k).id * 2 ^ 15 + j / 64) = false ∨
        ∀ w ∈ s.mem.wc, w.line ≠ (s.pte n k).id * 2 ^ 15 + j / 64)) :
    (s.flushWhere (fun w => q w.line)).peekByte n (k * 2 ^ 21 + j) = s.peekByte n (k * 2 ^ 21 + j) := by
  obtain ⟨line, hline⟩ : ∃ line, line = (s.pte n k).id * 2 ^ 15 + j / 64 := ⟨_, rfl⟩
  rw [← hline] at hseal
  have hid : (s.pte n k).id = line / 2 ^ 15 := by omega
  have htva : k * 2 ^ 21 + j = k * 2 ^ 21 + line % 2 ^ 15 * 64 + j % 64 := by omega
  have hmod : j % 64 < 64 := Nat.mod_lt _ (by decide)
  rw [hid] at huse
  rw [htva]
  by_cases hnone : ∀ w ∈ s.mem.wc, w.line = line → q w.line = false
  · exact State.flushWhere_reads_kept hok hk hmod hbacked hid hnone
  · obtain ⟨e, hnone⟩ := not_forall.1 hnone
    obtain ⟨he, hel, hq⟩ : e ∈ s.mem.wc ∧ e.line = line ∧ q e.line = true := by simpa using hnone
    have hall : ∀ w ∈ s.mem.wc, w.line = line → q w.line = true := fun w _ hw => by rw [hw, ← hel]; exact hq
    cases hsealed : (s.pte n k).sealed with
    | false => exact State.flushWhere_reads_open hok hk hmod hbacked hid huse hall hsealed
    | true =>
      obtain ⟨hkey, hlen, hblank⟩ := hseal hsealed
      have hmem : e ∈ s.mem.wc.filter (fun w => w.line == line) := List.mem_filter.2 ⟨he, beq_iff_eq.2 hel⟩
      have hone : s.mem.wc.filter (fun w => w.line == line) = [e] := by
        obtain ⟨x, hx⟩ := List.length_eq_one_iff.1 (Nat.le_antisymm hlen (List.length_pos_of_mem hmem))
        rw [hx] at hmem ⊢
        rw [List.mem_singleton.1 hmem]
      exact State.flushWhere_reads_sealed hok hk hmod hbacked hid huse hall hsealed hkey hone (hblank.resolve_right fun hno => hno e he hel)

end Sys2Proof.Machine
end

section
/-! A page that no TVA reaches (O27). -/

namespace Sys2Proof.Machine

/-! ## The statement fails -/

/-- Two pages of tenancy 0: page 0 in frame 1, sealed, and page 2^27, which no TVA reaches, in frame 0, open. The tenancy has no key. -/
def beyondTva : Ten :=
  { Ten.init with
    ptes := [(0, some [(0, { Pte.init with state := .backed, sealed := true, frame := 1 })]),
      (16384, some [(0, { Pte.init with state := .backed })])] }

/-- A live module with those pages, one byte of page 0 in an open entry, and token 0 at its fence, which flushes that entry's controller. -/
def pageBeyondTva : State :=
  { State.reset with
    pins := { Pins.init with powered := true }
    tens := [(0, beyondTva)]
    mem := { State.reset.mem with
      use := [(0, some (.allocated 0 (2 ^ 27))), (1, some (.allocated 0 0))]
      wc := [⟨2 ^ 15, 1, 1, 0⟩] }
    braids := [(0, { Braid.init with phase := .ended, tok := some 0 })]
    sch := { State.reset.sch with pool := [{ entryOf 0 0 0 0 SqRing.init 0 ([], 0) with st := .running, braid := some 0, ctls := [0] }] } }

theorem pageBeyondTva_fenced : pageBeyondTva.live = true ∧ pageBeyondTva.tablesOk = true ∧
    (pageBeyondTva.braid 0).phase = .ended ∧ (pageBeyondTva.braid 0).tok = some 0 := by decide +kernel

theorem pageBeyondTva_page : (pageBeyondTva.pte 0 (2 ^ 27)).backed = true ∧ (pageBeyondTva.pte 0 (2 ^ 27)).sealed = false ∧
    pageBeyondTva.frameUse (pageBeyondTva.pte 0 (2 ^ 27)).id = some (.allocated 0 (2 ^ 27)) := by decide +kernel

/-- The first byte past the TVA space is read as TVA 0: the open entry's byte. -/
theorem pageBeyondTva_reads_one : pageBeyondTva.peekByte 0 (2 ^ 27 * 2 ^ 21) = 1 := by decide +kernel

/-- The flush finds page 0 sealed and no key, and discards the entry (R283). -/
theorem pageBeyondTva_flushed_reads_zero :
    (pageBeyondTva.flushWhere (fun w => NatSet.has [0] (lineSet w.line))).peekByte 0 (2 ^ 27 * 2 ^ 21) = 0 := by decide +kernel

/-- Refutes O27: a fence over frame 1 changes what tenancy 0's page 2^27 reads as (`pageBeyondTva`). The statement lets the page number be any
number, and one of 2^27 or more is read through the entry of the page it equals modulo 2^27, on which the statement puts no condition. For the pages
that a TVA reaches it holds: `pageCommandsKeepBytes` proves the part of the page commands; `State.ageFlush_wc`, `State.ageFlush_aged`,
`State.ageFlush_open`, `State.ageFlush_cipher`, `State.ageFlush_off` and `State.ageFlush_reads` prove that of the flush by age, and
`exec_wcFenceDone`, `State.mem_flushWhere_wc` and `State.flushWhere_reads` that of the fence. -/
theorem not_bytesStayAsRead : ¬ Obligations.BytesStayAsRead := by
  unfold Obligations.BytesStayAsRead Says.FlushesShowNothing
  rintro ⟨-, -, hfence⟩
  obtain ⟨hlive, hok, hphase, htok⟩ := pageBeyondTva_fenced
  obtain ⟨hbacked, hopen, huse⟩ := pageBeyondTva_page
  obtain ⟨-, -, hread⟩ := hfence pageBeyondTva 0 0 _ hlive rfl rfl rfl hphase htok hok
  have hsame := hread 0 (2 ^ 27) 0 (by decide) hbacked huse fun h => absurd h (Bool.eq_false_iff.1 hopen)
  rw [Nat.add_zero, pageBeyondTva_reads_one] at hsame
  exact absurd (pageBeyondTva_flushed_reads_zero.symm.trans hsame) (by decide)

end Sys2Proof.Machine
end

section
/-! The sum that the strands and the ring form is the sum of all contributions (O34). -/

namespace Sys2Proof.Arith

/-! ## Lanes packed and read back (R49) -/

theorem packLanes_digit (w : Nat) (xs : List Nat) {l : Nat} (hl : l < xs.length) : packLanes w xs / 2 ^ (w * l) % 2 ^ w = xs[l] % 2 ^ w := by
  induction xs generalizing l with
  | nil => simp at hl
  | cons x xs ih =>
    cases l with
    | zero => simp [packLanes]
    | succ l =>
      have hlow : (x % 2 ^ w + 2 ^ w * packLanes w xs) / 2 ^ w = packLanes w xs := by
        rw [Nat.add_mul_div_left _ _ (Nat.two_pow_pos w), Nat.div_eq_of_lt (Nat.mod_lt _ (Nat.two_pow_pos w)), Nat.zero_add]
      rw [packLanes, Nat.mul_succ, Nat.add_comm (w * l), pow_add, ← Nat.div_div_eq_div_mul, hlow, ih (by simpa using hl)]
      rfl

theorem laneW_mul_laneN (m32 : Bool) : laneW m32 * laneN m32 = 1024 := by cases m32 <;> rfl

theorem lane_ofLanes (m32 : Bool) (xs : List Nat) {l : Nat} (hlen : xs.length = laneN m32) (hl : l < laneN m32) :
    lane m32 (ofLanes m32 xs) l = (xs[l]'(hlen ▸ hl)) % 2 ^ laneW m32 := by
  have hfit : laneW m32 * l + laneW m32 ≤ 1024 := by
    calc laneW m32 * l + laneW m32 = laneW m32 * (l + 1) := (Nat.mul_succ _ _).symm
      _ ≤ laneW m32 * laneN m32 := Nat.mul_le_mul_left _ hl
      _ = 1024 := laneW_mul_laneN m32
  have hsplit : 1024 = laneW m32 * l + (1024 - laneW m32 * l) := by omega
  rw [lane, fld, ofLanes, BitVec.toNat_ushiftRight, BitVec.toNat_ofNat, Nat.shiftRight_eq_div_pow, ← packLanes_digit _ _ (hlen ▸ hl), hsplit,
    pow_add, Nat.mod_mul_right_div_self, Nat.mod_mod_of_dvd _ (pow_dvd_pow 2 (by omega))]

end Sys2Proof.Arith

namespace Sys2Proof

/-! ## A table filled key by key -/

/-- Keys written one after another, each once, read as what was written. -/
theorem Sparse.get_fill {α : Type} [DecidableEq α] {d : α} (f : Nat → α) (n k : Nat) :
    Sparse.get d ((List.range n).foldl (fun m j => Sparse.set d m j (f j)) []) k = if k < n then f k else d := by
  induction n with
  | zero => rfl
  | succ n ih =>
    have hwf : Sparse.wf d ((List.range n).foldl (fun m j => Sparse.set d m j (f j)) []) = true :=
      Sparse.foldl_wf _ (fun _ _ h => Sparse.set_wf h _ _) _ Sparse.wf_nil
    rw [List.range_succ, List.foldl_append, List.foldl_cons, List.foldl_nil]
    rcases eq_or_ne k n with rfl | hk
    · rw [Sparse.get_set_self hwf, if_pos (Nat.lt_succ_self k)]
    · rw [Sparse.get_set_ne hwf _ hk, ih]
      exact if_congr (by omega) rfl rfl

end Sys2Proof

namespace Sys2Proof.Machine

open Sys2Proof.Arith

/-! ## The sum of tiles (R300) -/

/-- What sums are formed modulo: 2^w in ring form, the prime otherwise (R300, R301). -/
def sumModulus (m32 : Bool) (q : Nat) : Nat := if q = 0 then 2 ^ laneW m32 else q

theorem sumModulus_le {m32 : Bool} {q : Nat} (hq : q ≤ 2 ^ laneW m32) : sumModulus m32 q ≤ 2 ^ laneW m32 := by
  unfold sumModulus; split
  · exact le_rfl
  · exact hq

theorem sumModulus_pos (m32 : Bool) (q : Nat) : 0 < sumModulus m32 q := by
  unfold sumModulus; split
  · exact Nat.two_pow_pos _
  · omega

/-- A contribution reduced first adds the same as one that is not. -/
theorem laneSum_eq_mod (m32 : Bool) (q : Nat) (ts : List (Sparse VReg)) (row l : Nat) :
    laneSum m32 q ts row l = (ts.map (fun t => lane m32 (Sparse.get 0 t row) l)).sum % sumModulus m32 q := by
  unfold laneSum sumModulus
  dsimp only
  split_ifs with hq
  · rfl
  · rw [List.sum_nat_mod (ts.map fun t => lane m32 (Sparse.get 0 t row) l), List.map_map]; rfl

theorem lane_sumTiles {m32 : Bool} {q : Nat} (hq : q ≤ 2 ^ laneW m32) (ts : List (Sparse VReg)) {row l : Nat} (hrow : row < 1024)
    (hl : l < laneN m32) : lane m32 (Sparse.get 0 (sumTiles m32 q ts) row) l = laneSum m32 q ts row l := by
  have hlt : laneSum m32 q ts row l < 2 ^ laneW m32 := by
    rw [laneSum_eq_mod]
    exact (Nat.mod_lt _ (sumModulus_pos m32 q)).trans_le (sumModulus_le hq)
  unfold sumTiles
  rw [Sparse.get_fill, if_pos hrow, lane_ofLanes m32 _ (by simp) hl, List.getElem_map, List.getElem_range]
  simp only [List.map_map]
  exact Nat.mod_eq_of_lt hlt

/-! ## The division over strands (R298, R305) -/

/-- A sum taken class by class is the whole sum, where each element is of one of the classes. -/
theorem sum_by_class {α : Type} (cls f : α → Nat) {classes : List Nat} (hnodup : classes.Nodup) (xs : List α)
    (hall : ∀ x ∈ xs, cls x ∈ classes) :
    (classes.map (fun k => ((xs.filter (fun x => cls x == k)).map f).sum)).sum = (xs.map f).sum := by
  induction xs with
  | nil => simp
  | cons x xs ih =>
    obtain ⟨hx, hxs⟩ := List.forall_mem_cons.1 hall
    have hcons (k : Nat) : (((x :: xs).filter (fun x => cls x == k)).map f).sum =
        (if cls x = k then f x else 0) + ((xs.filter (fun x => cls x == k)).map f).sum := by
      by_cases h : cls x = k <;> simp [h]
    have hone : (classes.map (fun k => if cls x = k then f x else 0)).sum = f x := by
      rw [List.sum_map_eq_nsmul_single (cls x) _ (fun k hk _ => if_neg (Ne.symm hk)), List.count_eq_one_of_mem hnodup hx, if_pos rfl, one_nsmul]
    simp only [hcons, List.sum_map_add, hone, ih hxs, List.map_cons, List.sum_cons]

/-- What a contribution holds at a row and lane. -/
def Contrib.laneAt (m32 : Bool) (row l : Nat) (c : Contrib) : Nat := lane m32 (Sparse.get 0 c.words row) l

theorem laneSum_words (m32 : Bool) (q : Nat) (cs : List Contrib) (row l : Nat) :
    laneSum m32 q (cs.map (·.words)) row l = (cs.map (Contrib.laneAt m32 row l)).sum % sumModulus m32 q := by
  rw [laneSum_eq_mod, List.map_map]; rfl

/-- Settles O34: the sums of the strands are sums modulo the same number (`lane_sumTiles`, `laneSum_eq_mod`), and each contribution is in the sum
of one strand (`sum_by_class`). -/
theorem spliceSumIsExact : Obligations.SpliceSumIsExact := by
  intro m32 q strands cs row l hnodup hall hq hrow hl
  have hpart (st : Nat) : lane m32 (Sparse.get 0 (sumTiles m32 q ((cs.filter (fun c => c.braid / 4 == st)).map (·.words))) row) l =
      ((cs.filter (fun c => c.braid / 4 == st)).map (Contrib.laneAt m32 row l)).sum % sumModulus m32 q := by
    rw [lane_sumTiles hq _ hrow hl, laneSum_words]
  have hring := List.sum_nat_mod (strands.map fun st => ((cs.filter (fun c => c.braid / 4 == st)).map (Contrib.laneAt m32 row l)).sum)
    (sumModulus m32 q)
  rw [lane_sumTiles hq _ hrow hl, laneSum_eq_mod, List.map_map, laneSum_words, ← sum_by_class (fun c => c.braid / 4) _ hnodup cs hall, hring,
    List.map_map]
  simp only [Function.comp_def, hpart]

end Sys2Proof.Machine
end

section
/-! Splices open, close and compare; links and paths fail and retrain (O32). -/

namespace Sys2Proof.Machine

/-! ## Opening, closing and comparing (R287, R288, R306, R308, R313) -/

/-- The digest key is never zero: a draw of zero is drawn again, and the 64th of them is replaced (R306, log 32). -/
theorem State.drawKey_ne_zero (n : Nat) (s : State) : (State.drawKey n s).1 ≠ 0 := by
  induction n generalizing s with
  | zero => exact of_decide_eq_true rfl
  | succ n ih =>
    unfold State.drawKey
    dsimp only
    split
    · exact ih _
    · assumption

/-- A close has no rank to refuse where the splice is no longer open. -/
theorem State.failRanks_of_not_open {s : State} {i : Nat} (h : (s.splice i).st ≠ .open_) : s.failRanks i = s := if_pos (bne_iff_ne.2 h)

/-- The close of a splice that has ended, with nothing that waits, fails no rank and no command. -/
theorem State.closeSplice_ended {s : State} {i : Nat} (st : Byte) (hst : (s.splice i).st = .ended) (hnotice : (s.splice i).notice = false)
    (htrigger : (s.splice i).trigger = none) (hasked : (s.splice i).asked = []) :
    s.closeSplice i st = s.setSplice i { s.splice i with
      st := .free, key := 0, ranks := [], trigger := none, asked := [], staged := [], sums := [], notice := false } := by
  simp [State.closeSplice, hst, hnotice, htrigger, hasked, State.modSplice]

theorem Splice.over_iff {x : Splice} : x.over = true ↔ x.st ≠ .free ∧ x.st ≠ .open_ ∧ x.delivered = x.tiles := by
  simp [Splice.over, and_assoc]

theorem State.spliceNamed_iff {s : State} {t : Token} :
    s.spliceNamed t = true ↔ (s.splice (t.body 0 1)).st ≠ .free ∧ (s.splice (t.body 0 1)).ten = t.ten := by
  simp [State.spliceNamed]

theorem splicesOpenAndClose : Says.SplicesOpenAndClose := by
  intro s e t b i x
  have hrun {sel : BitVec 512 → Bool} {run : State → Token → State} {u : State} (h : s.starts e sel t = true) (hu : run b t.begun = u) :
      Host.Outcome.next (s.startCmd e sel run) = (.next u : Result) := congrArg Host.Outcome.next ((State.startCmd_starts h run).trans hu)
  refine ⟨fun h hi hlow hhigh htiles hbraids hfree hsec hdrbg => ⟨_, rfl, State.drawKey_ne_zero 64 b, hrun h ?_⟩,
    fun h hi hst hten hnotice htrigger hasked => hrun h ?_, fun h hi hover hten => hrun h ?_⟩
  · have hrange : ¬(63 < i ∨ t.body 1 1 < 2 ∨ 64 < t.body 1 1 ∨ t.body 2 2 = 0 ∨ b.spliceBraids t.ten < t.body 1 1) := by omega
    have hgate : ¬((x.st != .free || !b.secUp || !b.drbgOk) = true) := by simp [hfree, hsec, hdrbg]
    exact (if_neg hrange).trans (if_neg hgate)
  · have hrange : ¬63 < i := by omega
    have hnamed : b.spliceNamed t.begun = true := State.spliceNamed_iff.2 ⟨ne_of_eq_of_ne hst (by decide), hten⟩
    calc b.spliceCloseCmd t.begun = ((b.failRanks i).closeSplice i Status.aborted).finish t.id (Comp.okv 0 0) :=
          (if_neg hrange).trans (if_neg (by simpa using hnamed))
      _ = _ := by
          rw [State.failRanks_of_not_open (ne_of_eq_of_ne hst (by decide)), State.closeSplice_ended _ hst hnotice htrigger hasked]
  · have hrange : ¬63 < i := by omega
    obtain ⟨hfree, -, -⟩ := Splice.over_iff.1 hover
    have hnamed : b.spliceNamed t.begun = true := State.spliceNamed_iff.2 ⟨hfree, hten⟩
    have hgate : ¬((!b.spliceNamed t.begun || !x.over) = true) := by simp [hnamed, hover]
    calc b.spliceCompareCmd t.begun = b.setSplice i
            (if x.st == .comparing then { x with asked := x.asked ++ [t.id] } else { x with st := .comparing, trigger := some t.id }) :=
          (if_neg hrange).trans (if_neg hgate)
      _ = _ := by simp only [beq_iff_eq]

/-! ## Paths that fail and retrain, and the notice of a failure (R311, R312) -/

section
variable {s : State} (hlive : s.live = true)
include hlive

theorem State.pathFail_eq {st : Nat} (hup : (s.router st).up = true) :
    s.pathFail st =
      let u := (s.splicesOn st).foldl (fun s i => s.failSplice i Status.linkFail) s
      (u.setRouter st { u.router st with
        up := false, retrain := true, fails := BitVec.ofNat 16 (satAdd 16 (s.router st).fails.toNat 1), retryDue := 0 }).raise (0x330 + st) :=
  if_neg (by simp [hlive, hup])

theorem exec_splicePathRetrainDone {k : BitVec 4} (hretrain : (s.router k.toNat).retrain = true) :
    exec (.splicePathRetrainDone k) s = .next (s.setRouter k.toNat { s.router k.toNat with up := true, retrain := false }) :=
  congrArg Host.Outcome.next (if_pos (by simp [hlive, hretrain]))

theorem exec_strandLinkRecovery {k : BitVec 4} : exec (.strandLinkRecovery k) s =
    .next ((s.splicesOn k.toNat).foldl (fun s i => s.modSplice i (fun x => { x with suspect := true })) s) :=
  congrArg Host.Outcome.next (if_pos hlive)

theorem exec_spliceFailureNotice {i : BitVec 6} (hnotice : (s.splice i.toNat).notice = true) :
    exec (.spliceFailureNotice i) s = .next (s.noticeTaken i.toNat) :=
  congrArg Host.Outcome.next (if_pos (by simp [hlive, hnotice]))
end

/-! ## A braid whose strand link is down -/

@[simp] theorem Braid.doom_linkDown (b : Braid) (st : Byte) : (b.doom st).linkDown = b.linkDown := by
  unfold Braid.doom; split <;> rfl

@[simp] theorem Braid.countCauses_linkDown (b : Braid) (ks xs : List Nat) (n : Nat) : (b.countCauses ks xs n).linkDown = b.linkDown := by
  fun_induction Braid.countCauses b ks xs n with
  | case1 | case2 => rfl
  | case3 _ _ _ _ _ _ _ ih => exact ih
  | case4 _ _ _ _ _ ih => exact ih

/-- The braids' table is canonical and shows the link of braid `i` down. -/
structure State.LinkIsDown (i : Nat) (s : State) : Prop where
  wf : Sparse.wf Braid.init s.braids = true
  down : (s.braid i).linkDown = true

namespace State.LinkIsDown
variable {i j : Nat} {s t : State}

theorem of_braids (h : s.LinkIsDown i) (e : t.braids = s.braids) : t.LinkIsDown i := by
  refine ⟨e ▸ h.wf, ?_⟩
  rw [State.braid, e]; exact h.down

theorem setBraid_self (hwf : Sparse.wf Braid.init s.braids = true) {b : Braid} (hb : b.linkDown = true) : (s.setBraid i b).LinkIsDown i := by
  refine ⟨Sparse.set_wf hwf i b, ?_⟩
  rw [State.braid, State.setBraid, Sparse.get_set_self hwf, hb]

theorem modBraid (h : s.LinkIsDown i) {f : Braid → Braid} (hf : ∀ b, (f b).linkDown = b.linkDown) : (s.modBraid i f).LinkIsDown i :=
  setBraid_self h.wf ((hf _).trans h.down)

theorem ite {c : Prop} [Decidable c] (hs : s.LinkIsDown i) (ht : t.LinkIsDown i) : (if c then s else t).LinkIsDown i :=
  iteInduction (fun _ => hs) (fun _ => ht)

theorem of_aside (h : s.LinkIsDown i) (e : t.aside = s.aside) : t.LinkIsDown i := h.of_braids (congrArg State.braids e :)

theorem putBraid (hwf : Sparse.wf Braid.init s.braids = true) {b : Braid} (hb : b.linkDown = true) : (s.putBraid i b).LinkIsDown i := by
  have hput := (setBraid_self (i := i) hwf hb).of_aside
    (State.corrected_aside _ Dom.braid i i (b.tel.eccCorr.toNat - (s.braid i).tel.eccCorr.toNat))
  have hstop := ite (c := (b.phase == .stopped && (s.braid i).phase != .stopped) = true) (hput.of_aside (State.raise_aside _ (4 * i))) hput
  exact (hstop.of_aside (State.raise_aside _ (4 * i + 3))).ite hstop

theorem cutWait (h : s.LinkIsDown i) : (s.cutWait i).LinkIsDown i := by
  obtain ⟨n, hn⟩ := s.free.2.shares_fst i
  have hshares : (s.free.2.shares i).1.braids = s.braids := by rw [hn]; rfl
  unfold State.cutWait
  exact (h.of_braids hshares).modBraid fun b => Braid.countCauses_linkDown _ _ _ _

theorem endDmaWait (h : s.LinkIsDown i) (ph : SeqPhase) : (s.endDmaWait i ph).LinkIsDown i :=
  h.ite ((h.of_aside s.free_aside).modBraid fun _ => rfl)

/-- A braid put back with its link down after a step of it. -/
theorem afterBraid_self (hwf : Sparse.wf Braid.init s.braids = true) {b : Braid} (hb : b.linkDown = true) :
    (s.afterBraid i b).LinkIsDown i := by
  unfold State.afterBraid
  extract_lets old stops ends b1 freed b2 t1 t2 t3
  have hb1 : b1.linkDown = true := iteInduction (motive := fun x : Braid => x.linkDown = true) (fun _ => hb) (fun _ => hb)
  have hb2 : b2.linkDown = true := iteInduction (motive := fun x : Braid => x.linkDown = true) (fun _ => hb1) (fun _ => hb1)
  have h1 : t1.LinkIsDown i := putBraid hwf hb2
  have h2 : t2.LinkIsDown i := h1.cutWait.ite h1
  have h3 : t3.LinkIsDown i := (h2.endDmaWait _).ite h2
  exact (h3.of_aside (t3.leaveGroups_aside i)).ite ((h3.of_aside (t3.leaveAtEnd_aside i)).ite h3)

/-- Another braid put back leaves it down. -/
theorem afterBraid_ne (h : s.LinkIsDown i) (hij : i ≠ j) (b : Braid) : (s.afterBraid j b).LinkIsDown i := by
  have hnear := (State.Near.refl h.wf).afterBraid (i := j) b
  exact ⟨hnear.wf, (congrArg Braid.linkDown (hnear.others i hij)).trans h.down⟩
end State.LinkIsDown

/-! ## A strand link that fails (R501) -/

/-- Braid `i` loses its strand link, and a token on it fails. -/
def State.loseLink (s : State) (i : Nat) : State := s.afterBraid i ({ s.braid i with linkDown := true }.doom Status.linkFail)

theorem State.LinkIsDown.loseLink_self {s : State} (hwf : Sparse.wf Braid.init s.braids = true) (i : Nat) : (s.loseLink i).LinkIsDown i :=
  afterBraid_self hwf (Braid.doom_linkDown _ _)

theorem State.LinkIsDown.loseLink {s : State} {i : Nat} (h : s.LinkIsDown i) (j : Nat) : (s.loseLink j).LinkIsDown i := by
  rcases eq_or_ne i j with rfl | hij
  · exact loseLink_self h.wf i
  · exact h.afterBraid_ne hij _

theorem State.loseLink_wf {s : State} (hwf : Sparse.wf Braid.init s.braids = true) (i : Nat) : Sparse.wf Braid.init (s.loseLink i).braids = true :=
  (State.LinkIsDown.loseLink_self hwf i).wf

/-- Every braid that loses its link has it down in the end. -/
theorem State.loseLinks_down {is : List Nat} {s : State} (hwf : Sparse.wf Braid.init s.braids = true) {i : Nat} (hi : i ∈ is) :
    (is.foldl State.loseLink s).LinkIsDown i := by
  induction is generalizing s with
  | nil => simp at hi
  | cons j is ih =>
    rcases List.mem_cons.1 hi with rfl | hi
    · exact List.foldlRecOn is State.loseLink (State.LinkIsDown.loseLink_self hwf _) fun _ ht k _ => ht.loseLink k
    · exact ih (State.loseLink_wf hwf j) hi

theorem State.cap_of_aside {s t : State} (h : t.aside = s.aside) : t.cap = s.cap := (congrArg State.cap h :)

@[simp] theorem State.raise_cap (s : State) (i : Nat) : (s.raise i).cap = s.cap := State.cap_of_aside (s.raise_aside i)

@[simp] theorem State.corrected_cap (s : State) (d u c k : Nat) : (s.corrected d u c k).cap = s.cap :=
  State.cap_of_aside (s.corrected_aside d u c k)

@[simp] theorem State.putBraid_cap (s : State) (i : Nat) (b : Braid) : (s.putBraid i b).cap = s.cap := by
  simp [State.putBraid, apply_ite State.cap]

@[simp] theorem State.cutWait_cap (s : State) (i : Nat) : (s.cutWait i).cap = s.cap := by
  obtain ⟨n, hn⟩ := s.free.2.shares_fst i
  show (s.free.2.shares i).1.cap = s.cap
  rw [hn]; rfl

@[simp] theorem State.endDmaWait_cap (s : State) (i : Nat) (ph : SeqPhase) : (s.endDmaWait i ph).cap = s.cap := by
  unfold State.endDmaWait; dsimp only; split <;> rfl

@[simp] theorem State.loseLink_cap (s : State) (i : Nat) : (s.loseLink i).cap = s.cap := by
  have hleave (t : State) : (t.leaveGroups i).cap = t.cap := rfl
  have hend (t : State) : (t.leaveAtEnd i).cap = t.cap := rfl
  simp only [State.loseLink, State.afterBraid, apply_ite State.cap, hleave, hend, State.putBraid_cap, State.cutWait_cap, State.endDmaWait_cap,
    ite_self]

/-- The four braids of a strand. -/
def strandBraids (st : Nat) : List Nat := (List.range 4).map (fun k => 4 * st + k)

/-- The braids of a mask are absent (R8, R501). -/
def State.takeAway (s : State) (m : W64) : State := { s with cap := { s.cap with braids := s.cap.braids &&& ~~~m, fold := s.cap.fold &&& ~~~m } }

@[simp] theorem State.takeAway_braids (s : State) (m : W64) : (s.takeAway m).braids = s.braids := rfl

theorem State.strandFail_eq {s : State} {st : Nat} (hlive : s.live = true) (hfitted : s.fitted st = true) :
    s.strandFail st = (((strandBraids st).foldl State.loseLink s).takeAway (BitVec.ofNat 64 (0xF * 2 ^ (4 * st)))).raise (0x330 + st) := by
  have hgate : ¬((!(s.live && s.fitted st)) = true) := by simp [hlive, hfitted]
  rw [State.strandFail, if_neg hgate, strandBraids, List.foldl_map]
  -- both sides fold the same step, whatever the list
  generalize List.range 4 = ks
  rfl

/-- A strand link that fails takes the strand's braids away, and their links are down. -/
theorem State.strandFail_takes {s : State} {st : Nat} (hlive : s.live = true) (hfitted : s.fitted st = true) :
    (s.strandFail st).cap.braids = s.cap.braids &&& ~~~(BitVec.ofNat 64 (0xF * 2 ^ (4 * st))) ∧
      ∀ j : Nat, j < 4 → s.tablesOk = true → ((s.strandFail st).braid (4 * st + j)).linkDown = true := by
  rw [State.strandFail_eq hlive hfitted]
  generalize BitVec.ofNat 64 (0xF * 2 ^ (4 * st)) = m
  have hcap : ((strandBraids st).foldl State.loseLink s).cap = s.cap :=
    List.foldlRecOn (motive := fun t => t.cap = s.cap) _ State.loseLink rfl fun t ht i _ => (t.loseLink_cap i).trans ht
  refine ⟨?_, fun j hj hok => ?_⟩
  · rw [State.raise_cap, State.takeAway, hcap]
  · obtain ⟨-, -, hbraids, -⟩ := State.wf_of_tablesOk hok
    have hmem : 4 * st + j ∈ strandBraids st := List.mem_map_of_mem (List.mem_range.2 hj)
    have hdown := State.loseLinks_down hbraids hmem
    exact ((hdown.of_braids (State.takeAway_braids _ m)).of_aside (State.raise_aside _ _)).down

theorem linksFail : Says.LinksFail := by
  intro s k hlive st r
  refine ⟨fun hup hnone => ?_, fun i hup hone => ?_, exec_splicePathRetrainDone hlive, fun i hone => ?_, fun i hnotice hranks => ?_,
    fun hfitted => ⟨_, rfl, State.strandFail_takes hlive hfitted⟩⟩
  · exact congrArg Host.Outcome.next (by rw [State.pathFail_eq hlive hup, hnone]; rfl)
  · exact congrArg Host.Outcome.next (by rw [State.pathFail_eq hlive hup, hone]; rfl)
  · rw [exec_strandLinkRecovery hlive, hone]; rfl
  · rw [exec_spliceFailureNotice hlive hnotice, State.noticeTaken, hranks]; rfl

/-- Settles O32: a started command passes its gates and runs (`splicesOpenAndClose`, with `State.drawKey_ne_zero` for the key and
`State.closeSplice_ended` for the close); a failed path fails the splices on its strand (`State.pathFail_eq`), and a failed strand link takes its braids
away one by one, each with its link down from then on (`State.loseLinks_down`). -/
theorem splicesRun : Obligations.SplicesRun := ⟨splicesOpenAndClose, linksFail⟩

end Sys2Proof.Machine
end

section
/-! Tiles are taken, reduced and delivered; digests are compared (O33). -/

namespace Sys2Proof.Machine

/-! ## Exports (R294, R299) -/

/-- A sentence that the network does not hold: the export is taken, and no cycle is counted. -/
theorem State.exportTake_unheld {s : State} {i k : Nat} {c : Contrib} {rest : List Contrib} (hlive : s.live = true)
    (hqueue : (s.braid i).queue = c :: rest) (hrank : s.spliceAt i = some k) (hst : (s.splice k).st = .running)
    (hcarries : (s.router (i / 4)).carries = true) (htile : c.tile < (s.splice k).delivered.toNat + 4)
    (hheld : ((s.braid i).phase == .issuing && (s.braid i).exportHeld) = false) :
    s.exportTake i =
      ((s.setSplice k { s.splice k with staged := (s.splice k).staged ++ [c], sent := (s.splice k).sent + 1 }).carry k (i / 4)).setBraid i
        { s.braid i with queue := rest, reserved := (s.braid i).reserved - 1 } := by
  have hbind : (s.braid i).tok.bind s.spliceOf = some k := hrank
  simp [State.exportTake, hqueue, hbind, hlive, hst, hcarries, htile, hheld]

/-! ## Reduction (R298, R301) -/

section
variable {s : State} {i : Nat} (hlive : s.live = true) (hst : (s.splice i).st = .running)
  (hall : ((s.splice i).tileOf (s.splice i).reduced.toNat).length = (s.splice i).p.toNat)
  (hcarry : ∀ t ∈ (s.splice i).strands, (s.router t).carries = true)
include hlive hst hall hcarry

/-- The next tile index of a running splice, with every contribution staged, waits for nothing. -/
theorem State.tileReduce_ready :
    (!(s.live && (s.splice i).st == .running && decide (((s.splice i).tileOf (s.splice i).reduced.toNat).length = (s.splice i).p.toNat) &&
      (s.splice i).strands.all (fun t => (s.router t).carries))) = false := by
  simpa [hlive, hst, hall] using hcarry

/-- Headers that differ fail the splice before anything is added. -/
theorem State.tileReduce_disagree (h : headersAgree (s.splice i) ((s.splice i).tileOf (s.splice i).reduced.toNat) = false) :
    s.tileReduce i = s.failSplice i Status.spliceMismatch := by
  simp [State.tileReduce, State.tileReduce_ready hlive hst hall hcarry, h]
end

theorem tiles_taken_reduced_delivered : Says.TilesPass := by
  refine ⟨?_, ?_, ?_⟩
  · intro s i c rest k b x hlive hqueue hrank hst hcarries htile hheld
    exact congrArg Host.Outcome.next (State.exportTake_unheld hlive hqueue hrank hst hcarries htile hheld)
  · intro s i x k cs hlive hst hall hcarry
    have hready := State.tileReduce_ready hlive hst hall hcarry
    refine ⟨fun hagree => ?_, fun hdiffer => ?_⟩
    · intro q parts full sealed
      have hgate : ¬((!headersAgree x cs) = true) := by simp [hagree]
      refine congrArg Host.Outcome.next (((if_neg (Bool.eq_false_iff.1 hready)).trans (if_neg hgate)).trans ?_)
      -- the prime is that of the first contribution, however the list is taken apart
      subst sealed full parts q cs k x
      generalize (s.splice i.toNat).tileOf _ = cs
      cases cs <;> rfl
    · exact congrArg Host.Outcome.next (State.tileReduce_disagree hlive hst hall hcarry hdiffer)
  · intro s i c rest x hlive hst hsums hranks hcarry hsealed d
    have hready : ¬((!(s.live && x.st == .running && x.strands.all (fun t => (s.router t).carries))) = true) := by
      simpa [hlive, hst] using hcarry
    have hslots : ¬((!x.ranks.all (fun r => s.rankReady r.2.2)) = true) := by simpa using hranks
    have hopen : ¬((c.sealed && x.ranks.any (fun r => s.rankOpen r.2.2)) = true) := by simpa using hsealed
    have hsums : (s.splice i.toNat).sums = c :: rest := hsums
    refine congrArg Host.Outcome.next ?_
    rw [State.tileDeliver, hsums]
    exact (if_neg hready).trans ((if_neg hslots).trans (if_neg hopen))

/-! ## Comparison (R308, R309) -/

/-- Digests that agree on every link leave none to find; with one strand there is no link (R308). -/
theorem Splice.differ_eq_none {x : Splice} (h : ∀ j < x.strands.length, Sparse.get 0 x.send j = Sparse.get 0 x.recv j) : x.differ = none := by
  refine List.find?_eq_none.2 fun j hj => ?_
  have hlt : j < x.strands.length := by
    have := List.mem_range.1 hj
    split at this <;> omega
  exact fun hne => bne_iff_ne.1 hne (h j hlt)

/-- The lowest link whose digests differ is found, where two strands or more make a ring. -/
theorem Splice.differ_eq_some {x : Splice} {j : Nat} (hn : 2 ≤ x.strands.length) (hj : j < x.strands.length)
    (hne : Sparse.get 0 x.send j ≠ Sparse.get 0 x.recv j) (hlow : ∀ m < j, Sparse.get 0 x.send m = Sparse.get 0 x.recv m) :
    x.differ = some j := by
  rw [Splice.differ, if_neg (by omega), List.find?_range_eq_some]
  exact ⟨bne_iff_ne.2 hne, List.mem_range.2 hj, fun m hm => by rw [hlow m hm, bne_self_eq_false, Bool.not_false]⟩

theorem exec_spliceDigestCompareDone {s : State} {i : BitVec 6} (hup : s.schedUp = true) (hst : (s.splice i.toNat).st = .comparing) :
    exec (.spliceDigestCompareDone i) s = .next ((s.compared i.toNat).modSplice i.toNat Splice.nextCompare) :=
  congrArg Host.Outcome.next (if_neg (by simp [hup, hst]))

theorem digestsAreCompared : Says.DigestsAreCompared := by
  intro s i hup x y next hst
  refine ⟨fun e htrigger hsame => ?_, fun j hn hj hne hlow => ?_⟩
  · have hdiffer : (s.splice i.toNat).differ = none := Splice.differ_eq_none hsame
    rw [exec_spliceDigestCompareDone hup hst]
    simp [State.compared, hdiffer, next, y, x, htrigger]
  · intro l
    have hdiffer : (s.splice i.toNat).differ = some j := Splice.differ_eq_some hn hj hne hlow
    rw [exec_spliceDigestCompareDone hup hst]
    cases htrigger : (s.splice i.toNat).trigger <;> simp [State.compared, hdiffer, next, l, y, x, htrigger]

/-- Settles O33: an export that nothing holds up is taken (`State.exportTake_unheld`); a tile whose contributions are all there is reduced, or fails the
splice where their headers differ (`State.tileReduce_ready`); a comparison finds the lowest link that differs, or none (`Splice.differ_eq_some`,
`Splice.differ_eq_none`). -/
theorem tilesPass : Obligations.TilesPass := ⟨tiles_taken_reduced_delivered, digestsAreCompared⟩

end Sys2Proof.Machine
end

section
/-! The order in which the tokens of a priority are considered (O36). -/

namespace Sys2Proof.Machine

/-! ## A list sorted by a key -/

section
variable {α κ : Type} [LinearOrder κ] {lt : α → α → Bool} {key : α → κ} (hlt : ∀ x y, lt x y = true ↔ key x < key y)
include hlt

/-- An element whose key is new goes in before the first larger one, and so after smaller ones only. -/
theorem insertBy_sorted (x : α) (l : List α) (hl : l.Pairwise (fun y z => key y < key z)) (hnew : ∀ y ∈ l, key y ≠ key x) :
    (insertBy lt x l).Pairwise (fun y z => key y < key z) := by
  induction l with
  | nil => exact List.pairwise_singleton _ x
  | cons y l ih =>
    obtain ⟨hfirst, htail⟩ := List.pairwise_cons.1 hl
    rw [insertBy]
    split
    next hxy =>
      have hxy : key x < key y := (hlt x y).1 hxy
      refine List.pairwise_cons.2 ⟨fun z hz => ?_, hl⟩
      obtain rfl | hz := List.mem_cons.1 hz
      · exact hxy
      · exact hxy.trans (hfirst z hz)
    next hxy =>
      have hyx : key y < key x := lt_of_le_of_ne (not_lt.1 (hxy ∘ (hlt x y).2)) (hnew y List.mem_cons_self)
      refine List.pairwise_cons.2 ⟨fun z hz => ?_, ih htail fun z hz => hnew z (List.mem_cons_of_mem y hz)⟩
      obtain rfl | hz := List.mem_cons.1 ((insertBy_perm lt x l).mem_iff.1 hz)
      · exact hyx
      · exact hfirst z hz

theorem sortBy_sorted (l : List α) (hkeys : (l.map key).Nodup) : (sortBy lt l).Pairwise (fun y z => key y < key z) := by
  induction l using List.reverseRecOn with
  | nil => exact .nil
  | append_singleton l x ih =>
    rw [List.map_append, List.map_singleton, List.nodup_append] at hkeys
    obtain ⟨hl, -, hnew⟩ := hkeys
    rw [sortBy, List.foldl_append, List.foldl_cons, List.foldl_nil]
    refine insertBy_sorted hlt x _ (ih hl) fun y hy => ?_
    exact hnew (key y) (List.mem_map_of_mem ((sortBy_perm lt l).mem_iff.1 hy)) (key x) (List.mem_singleton_self _)

end

/-! ## The turn of a token (R325, log 44) -/

/-- What decides between tenancies of one deficit: the free value drawn for the tenancy, and its number. -/
def State.tieBreak (s : State) (n : Tid) : Nat := (Config.free (s.draws + n.toNat)).toNat * 256 + n.toNat

theorem State.tieBreak_inj (s : State) {m n : Tid} (h : s.tieBreak m = s.tieBreak n) : m = n := by
  rw [State.tieBreak, State.tieBreak] at h
  have hm := m.isLt
  have hn := n.isLt
  exact BitVec.eq_of_toNat_eq (by omega)

/-- Where a token stands in the order: by the deficit of its tenancy, the larger first, then by the tenancy's tie-break, then by its entry. -/
def State.turn (s : State) (t : Token) : Int ×ₗ Nat ×ₗ Nat := toLex (-(s.ten t.ten).deficit, toLex (s.tieBreak t.ten, t.id))

theorem State.turn_lt_iff (s : State) (t u : Token) :
    s.turn t < s.turn u ↔ (s.ten u.ten).deficit < (s.ten t.ten).deficit ∨ ((s.ten t.ten).deficit = (s.ten u.ten).deficit ∧
      (s.tieBreak t.ten < s.tieBreak u.ten ∨ (s.tieBreak t.ten = s.tieBreak u.ten ∧ t.id < u.id))) := by
  simp [State.turn, Prod.Lex.toLex_lt_toLex]

theorem State.before_iff (s : State) (t u : Token) : s.before t u = true ↔ s.turn t < s.turn u := by
  rw [State.turn_lt_iff, State.before]
  by_cases hten : t.ten = u.ten
  · simp [hten]
  · have htie : s.tieBreak t.ten ≠ s.tieBreak u.ten := fun h => hten (s.tieBreak_inj h)
    by_cases hdef : (s.ten t.ten).deficit = (s.ten u.ten).deficit
    · simp only [hten, hdef, htie, if_false, if_true, lt_irrefl, false_or, true_and, false_and, or_false, decide_eq_true_eq]
      exact Iff.rfl
    · simp [hten, hdef]

/-- A token's turn names its entry. -/
theorem State.turn_nodup (s : State) {l : List Token} (h : (l.map (·.id)).Nodup) : (l.map s.turn).Nodup := by
  refine List.Nodup.of_map (fun k => (ofLex (ofLex k).2).2) ?_
  rwa [List.map_map]

theorem State.before_cases (s : State) {t u : Token} (h : s.before t u = true) :
    (s.ten u.ten).deficit < (s.ten t.ten).deficit ∨ (t.ten = u.ten ∧ t.id < u.id) ∨
      (t.ten ≠ u.ten ∧ (s.ten t.ten).deficit = (s.ten u.ten).deficit) := by
  obtain hdef | ⟨hdef, htie | ⟨htie, hid⟩⟩ := (s.turn_lt_iff t u).1 ((s.before_iff t u).1 h)
  · exact .inl hdef
  · exact .inr (.inr ⟨fun hten => htie.ne (congrArg s.tieBreak hten), hdef⟩)
  · exact .inr (.inl ⟨s.tieBreak_inj htie, hid⟩)

/-- Settles O36: `State.before` compares turns (`State.before_iff`), which are linearly ordered and differ from entry to entry, so that
sorting by insertion (`sortBy_sorted`) puts each token before the next. -/
theorem decisionOrder : Obligations.DecisionOrder := by
  intro s l hids
  refine ⟨sortBy_perm s.before l, ?_, fun t u => s.before_cases⟩
  exact (sortBy_sorted s.before_iff l (s.turn_nodup hids)).imp (s.before_iff _ _).2

end Sys2Proof.Machine
end

section
/-! Commands fetched and completions written (O19). -/

namespace Sys2Proof.Machine

/-! ## Fetch (R321, R324, R363–R365) -/

theorem exec_commandFetch {s : State} {f : Fn} {q : BitVec 2} {cs : List (BitVec 512)} (h : s.canFetch f q cs.length = true) :
    exec (.commandFetch f q cs) s = .next (cs.foldl (fun t c => t.arrive f q c) (s.served (ringNo f q))) :=
  congrArg Host.Outcome.next (if_pos h)

/-- The ring after a command of it has arrived under the number `id`. -/
def SqRing.took (r : SqRing) (id : Nat) (c : BitVec 512) : SqRing :=
  { r with seq := r.seq + 1, hist := ((id, cmdTen c) :: r.hist).take 4095, head := BitVec.ofNat 16 ((r.head.toNat + 1) % r.size) }

section
variable (s : State) (f : Fn) (q : BitVec 2) (c : BitVec 512)

/-- A KERNEL command waits to become tokens (R322). -/
theorem State.arrive_kernel (h : cmdOpcode c = 0x01) :
    let s1 := s.setSq f q ((s.sq f q).took s.sch.nextCmd c)
    let d := resolveDeps (s.sq f q).hist c
    s.arrive f q c = { s1 with sch := { s1.sch with
      nextCmd := s.sch.nextCmd + 1
      fetched := s1.sch.fetched ++ [{ cmdId := s.sch.nextCmd, fn := f, ring := q, seq := (s.sq f q).seq, seqgen := (s.sq f q).seqgen, cmd := c
                                      deps := d.1, badDep := d.2 }] } } :=
  if_pos h

/-- Another known command takes an entry at once, and raises nothing unless it is a security service. -/
theorem State.arrive_entry (hkernel : cmdOpcode c ≠ 0x01) (hsec : cmdOpcode c ≠ 0x40) (hknown : cmdKnown c = true) :
    let s1 := s.setSq f q ((s.sq f q).took s.sch.nextCmd c)
    s.arrive f q c = { s1 with sch := { s1.sch with
      nextCmd := s.sch.nextCmd + 1, nextId := s.sch.nextId + 1
      pool := s1.sch.pool ++ [entryOf s.sch.nextId s.sch.nextCmd f q (s.sq f q) c (resolveDeps (s.sq f q).hist c)] } } :=
  (if_neg hkernel).trans ((if_pos hknown).trans (if_neg hsec))

end

theorem fetchTakesCommands : Says.FetchTakesCommands :=
  ⟨fun _ _ _ _ hfetch => exec_commandFetch hfetch, fun s f q c => ⟨s.arrive_kernel f q c, s.arrive_entry f q c⟩⟩

/-! ## Completions (R366, R367) -/

/-- The ring after a completion has been written at TAIL: TAIL and PHASE turn after the last place. -/
def CqRing.wrote (q : CqRing) : CqRing :=
  let last := decide (q.size ≤ q.tail.toNat + 1)
  { q with tail := if last then 0 else q.tail + 1, phase := if last then !q.phase else q.phase, used := q.used + 1, since := q.since + 1 }

/-- The place of the next completion in the memory of the host. -/
def CqRing.tailAddr (q : CqRing) : W64 := BitVec.ofNat 64 (q.base.toNat * 4096 + 32 * q.tail.toNat)

theorem State.writeCompletion_eq {s : State} {f : Fn} {t : Token} (hen : (s.fn f).cq.en = true) (hroom : (s.fn f).cq.used < (s.fn f).cq.size)
    (hnext : (s.sch.order.filterMap s.tok).find? (fun t => t.cfn == f && s.mayWrite t && !s.closeWaits t) = some t) :
    s.writeCompletion f = (((((s.emit (.completion f (s.fn f).cq.tailAddr (completionBytes t (s.fn f).cq.phase))).modCq f CqRing.wrote).keepUnacked f
      (s.unackedOf f ++ [t])).freeEntry t.id).coalesce f) := by
  have hgate : ¬((!((s.fn f).cq.en && decide ((s.fn f).cq.used < (s.fn f).cq.size))) = true) := by simp [hen, hroom]
  rw [State.writeCompletion, if_neg hgate, hnext]
  rfl

theorem exec_completionDelayExpiry {s : State} {f : Fn} (hup : s.hqUp = true) (hdelay : (s.fn f).cq.delay ≠ 0) (hsince : 0 < (s.fn f).cq.since) :
    exec (.completionDelayExpiry f) s = .next ((s.modCq f (fun q => { q with since := 0 })).raise (0x100 + f.toNat)) :=
  congrArg Host.Outcome.next (if_pos (by rw [hup, bne_iff_ne.2 hdelay, decide_eq_true hsince]; rfl))

theorem completionsAreWritten : Says.CompletionsAreWritten :=
  fun _ _ => ⟨fun _ hen hroom hnext => congrArg Host.Outcome.next (State.writeCompletion_eq hen hroom hnext), exec_completionDelayExpiry⟩

/-- Settles O19: a fetch that may be made serves its ring and lets the commands arrive one by one (`State.arrive_kernel`, `State.arrive_entry`); a
completion with room for it moves the ring on (`State.writeCompletion_eq`), and the delay raises the ring's source. -/
theorem queueTraffic : Obligations.QueueTraffic := ⟨fetchTakesCommands, completionsAreWritten⟩

end Sys2Proof.Machine
end

section
/-! Writes of the rings' registers (O18). -/

namespace Sys2Proof.Machine

/-! ## What a ring becomes (R363, R366, R368) -/

section
variable {r : SqRing} {v : W64}

/-- A command ring that is enabled starts empty. -/
theorem SqRing.setCfg_enables (hv : v.getLsbD 0 = true) (hen : r.en = false) :
    r.setCfg v = { r with en := true, log2size := BitVec.ofNat 5 (fld v 8 5), head := 0, tail := 0, err := false } := by
  simp [SqRing.setCfg, bit, hv, hen]

/-- The size of an enabled ring stays. -/
theorem SqRing.setCfg_running (hen : r.en = true) : r.setCfg v = { r with en := v.getLsbD 0 } := by simp [SqRing.setCfg, bit, hen]

theorem SqRing.setCfg_stopped (hv : v.getLsbD 0 = false) (hen : r.en = false) :
    r.setCfg v = { r with log2size := BitVec.ofNat 5 (fld v 8 5) } := by
  obtain ⟨⟩ := r
  simp_all [SqRing.setCfg, bit]
end

section
variable {r : CqRing} {v : W64}

/-- The completion ring that is enabled starts empty, with PHASE 1. -/
theorem CqRing.setCfg_enables (hv : v.getLsbD 0 = true) (hen : r.en = false) :
    r.setCfg v = { r with en := true, log2size := BitVec.ofNat 5 (fld v 8 5), coalesce := BitVec.ofNat 8 (fld v 16 8)
                          delay := BitVec.ofNat 16 (fld v 24 16), head := 0, tail := 0, phase := true, used := 0 } := by
  simp [CqRing.setCfg, bit, hv, hen]

theorem CqRing.setCfg_running (hen : r.en = true) :
    r.setCfg v = { r with en := v.getLsbD 0, coalesce := BitVec.ofNat 8 (fld v 16 8), delay := BitVec.ofNat 16 (fld v 24 16) } := by
  simp [CqRing.setCfg, bit, hen]

theorem CqRing.setCfg_stopped (hv : v.getLsbD 0 = false) (hen : r.en = false) :
    r.setCfg v = { r with log2size := BitVec.ofNat 5 (fld v 8 5), coalesce := BitVec.ofNat 8 (fld v 16 8)
                          delay := BitVec.ofNat 16 (fld v 24 16) } := by
  obtain ⟨⟩ := r
  simp_all [CqRing.setCfg, bit]
end

/-! ## The commands -/

section
variable {s : State} (hup : s.hqUp = true) (f : Fn) (q : BitVec 2) (v : W64)
include hup

theorem exec_sqTailWrite : exec (.sqTailWrite f q v) s = .next (s.setSq f q ((s.sq f q).setTail v)) := congrArg Host.Outcome.next (if_pos hup)

theorem exec_sqCfgWrite : exec (.sqCfgWrite f q v) s = .next (s.setSq f q ((s.sq f q).setCfg v)) := congrArg Host.Outcome.next (if_pos hup)

theorem exec_cqCfgWrite : exec (.cqCfgWrite f v) s = .next (s.setFn f { s.fn f with cq := (s.fn f).cq.setCfg v }) :=
  congrArg Host.Outcome.next (if_pos hup)

theorem exec_cqHeadWrite : exec (.cqHeadWrite f v) s = .next (s.setFn f { s.fn f with cq := (s.fn f).cq.setHead v }) :=
  congrArg Host.Outcome.next (if_pos hup)
end

/-- Settles O18: each write changes its ring alone (`exec_sqCfgWrite` and its like), and a ring's configuration is taken as `SqRing.setCfg_enables`,
`SqRing.setCfg_running` and `SqRing.setCfg_stopped` say, that of the completion ring in the same three cases. -/
theorem ringRegisterWrites : Obligations.RingRegisterWrites := by
  intro s f q v hup r x c
  rw [exec_sqTailWrite hup, exec_sqCfgWrite hup, exec_cqCfgWrite hup, exec_cqHeadWrite hup]
  refine ⟨rfl, fun hv hen => ?_, fun hen => ?_, fun hv hen => ?_, fun hv hen => ?_, fun hv hen => ?_, fun hen => ?_, rfl⟩
  · rw [SqRing.setCfg_enables hv hen]
  · rw [SqRing.setCfg_running hen]
  · rw [SqRing.setCfg_stopped hv hen]
  · rw [CqRing.setCfg_enables hv hen]
  · rw [CqRing.setCfg_stopped hv hen]
  · rw [CqRing.setCfg_running hen]

end Sys2Proof.Machine
end

section
/-! Power states of the functions, unsupported requests and lane margining (O20). -/

namespace Sys2Proof.Machine

/-- An error is raised to the port's source or not, as a free value has it (R493, log 105). -/
theorem State.aer_cases (s : State) (p : PciePort) : s.aer p = s.free.2 ∨ s.aer p = s.free.2.raise (0x340 + pcieNum p) := by
  unfold State.aer
  dsimp only
  split
  · exact .inr rfl
  · exact .inl rfl

theorem exec_unsupportedRequest {s : State} (hpow : s.pins.powered = true) (p : PcieFn) :
    exec (.unsupportedRequest p) s = .next ((s.emit .unsupported).aer p.port) :=
  congrArg Host.Outcome.next (if_pos hpow)

@[simp] theorem State.raise_out (s : State) (i : Nat) : (s.raise i).out = s.out :=
  (congrArg State.out (s.raise_aside i) :)

/-- A margin request on a lane of a link that is up (R355). -/
theorem exec_laneMargining {s : State} {m : MarginPoint} (hup : s.linkUp m.port = true) (hlane : m.lane.toNat < s.lanes m.port) :
    exec (.laneMargining m) s = .next (match m.report with
      | some r => s.emit (.readData (marginReport r))
      | none => if m.step.toNat ≤ (if m.voltage then 64 else 32) then s.free.2.emit (.readData s.free.1) else s) :=
  congrArg Host.Outcome.next (if_neg (by simp [hup, hlane]))

/-- Settles O20: the modes are those of the model's updates; an unsupported request is answered and left to AER (`State.aer_cases`); a lane of a
link that is up is margined (`exec_laneMargining`). -/
theorem portEvents : Obligations.PortEvents := by
  intro s hpow
  have hgate (t u : State) : Host.Outcome.next (if s.pins.powered = true then t else u) = (.next t : Result) := by rw [if_pos hpow]
  refine ⟨fun f => ⟨hgate _ _, hgate _ _⟩, fun p => ⟨hgate _ _, hgate _ _⟩, fun p => ⟨_, exec_unsupportedRequest hpow p, ?_⟩,
    fun m hup hlane => ⟨fun r hr => ?_, fun hr hstep => ?_⟩, rfl, rfl, rfl, rfl⟩
  · obtain haer | haer := (s.emit .unsupported).aer_cases p.port <;> rw [haer]
    · exact ⟨rfl, .inl rfl⟩
    · exact ⟨State.raise_out .., .inr rfl⟩
  · rw [exec_laneMargining hup hlane, hr]; rfl
  · rw [exec_laneMargining hup hlane, hr]
    exact congrArg Host.Outcome.next (if_pos hstep)

end Sys2Proof.Machine
end

section
/-! A sealed record opens to what was sealed (O31). -/

namespace Sys2Proof.Crypto

theorem beBytes_length (n v : Nat) : (beBytes n v).length = n := by rw [beBytes, List.length_reverse, leBytes_length]

theorem gcmStream_length {ks : List (List Byte)} (h : roundKeys ks) (iv : List Byte) (n c : Nat) : (gcmStream ks iv n c).length = 16 * n := by
  induction n generalizing c with
  | zero => rfl
  | succ n ih => rw [gcmStream, List.length_append, aesEnc_length h, ih]; omega

theorem gcmTag_length {ks : List (List Byte)} (h : roundKeys ks) (iv aad ct : List Byte) : (gcmTag ks iv aad ct).length = 16 :=
  xor_zip_length _ _ (beBytes_length _ _) (aesEnc_length h _)

theorem xor_zip_length_left {a k : List Byte} (h : a.length ≤ k.length) : (List.zipWith (· ^^^ ·) a k).length = a.length := by
  rw [List.length_zipWith, Nat.min_eq_left h]

/-- The key stream of a text of whole blocks is as long as the text. -/
theorem gcmStream_covers {key : List Byte} (hkey : key.length = 32) (iv pt : List Byte) :
    pt.length ≤ (gcmStream (aesKeys key) iv ((pt.length + 15) / 16) 2).length := by
  rw [gcmStream_length (aesKeys_roundKeys key hkey)]; omega

theorem gcmSeal_length {key : List Byte} (hkey : key.length = 32) (iv aad pt : List Byte) :
    (gcmSeal key iv aad pt).1.length = pt.length ∧ (gcmSeal key iv aad pt).2.length = 16 :=
  ⟨xor_zip_length_left (gcmStream_covers hkey iv pt), gcmTag_length (aesKeys_roundKeys key hkey) _ _ _⟩

/-- XOR with a stream at least as long, twice. -/
theorem xor_zip_twice_of_le {a k : List Byte} (h : a.length ≤ k.length) :
    List.zipWith (· ^^^ ·) (List.zipWith (· ^^^ ·) a k) k = a := by
  refine List.ext_getElem (by simp [h]) fun i _ _ => ?_
  simp

/-- What was sealed opens, under the same key, IV and additional data. -/
theorem gcmOpen_gcmSeal {key : List Byte} (hkey : key.length = 32) (iv aad pt : List Byte) :
    gcmOpen key iv aad (gcmSeal key iv aad pt).1 (gcmSeal key iv aad pt).2 = some pt := by
  obtain ⟨hlen, -⟩ := gcmSeal_length hkey iv aad pt
  rw [gcmOpen, hlen]
  exact (if_pos rfl).trans (congrArg some (xor_zip_twice_of_le (gcmStream_covers hkey iv pt)))

end Sys2Proof.Crypto

namespace Sys2Proof

/-- A list, as the table of its elements by their places. -/
theorem Sparse.get_zipIdx {α : Type} (l : List α) (j k : Nat) :
    Sparse.get none ((l.zipIdx j).map (fun x => (x.2, some x.1))) (j + k) = l[k]? := by
  induction l generalizing j k with
  | nil => rfl
  | cons x l ih =>
    rw [List.zipIdx_cons, List.map_cons, Sparse.get]
    cases k with
    | zero => simp
    | succ k =>
      rw [if_neg (by simp), if_neg (by simp), ← Nat.add_assoc, Nat.add_right_comm]
      exact ih (j + 1) k

end Sys2Proof

namespace Sys2Proof.Machine

/-- The bytes of a frame that has been written whole. -/
theorem frame_bytes (l : List Byte) {n : Nat} (h : l.length = n) :
    (List.range n).map (fun k => (Sparse.get none (l.zipIdx.map (fun x => (x.2, some x.1))) k).getD 0) = l := by
  have hget (k : Nat) : Sparse.get none (l.zipIdx.map (fun x => (x.2, some x.1))) k = l[k]? := by simpa using Sparse.get_zipIdx l 0 k
  refine List.ext_getElem (by simp [h]) fun i _ hi => ?_
  simp [hget, hi]

/-- The IV of a record: its number and the encryption count (R379). -/
def Win.iv (w : Win) (r : Nat) : List Byte := leBytes 4 r ++ leBytes 8 w.enc.toNat

theorem Win.iv_length (w : Win) (r : Nat) : (w.iv r).length = 12 := by simp [Win.iv, Crypto.leBytes_length]

theorem Win.encrypt_eq (w : Win) (i r : Nat) (pt : List Byte) :
    let x := Crypto.gcmSeal (leBytes 32 w.key.toNat) (w.iv r) (w.aad i r) pt
    w.encrypt i r pt = x.1 ++ (w.iv r ++ (List.replicate 4 0 ++ (x.2 ++ List.replicate 32 0))) := by
  simp only [Win.encrypt, Win.iv, List.append_assoc]

/-- The fields of a frame, taken apart again. -/
theorem frame_fields {ct iv pad tag rest : List Byte} (hct : ct.length = 131072) (hiv : iv.length = 12) (hpad : pad.length = 4)
    (htag : tag.length = 16) :
    let f := ct ++ (iv ++ (pad ++ (tag ++ rest)))
    f.take 131072 = ct ∧ (f.drop 131072).take 12 = iv ∧ (f.drop 131088).take 16 = tag := by
  intro f
  have hhead : f = (ct ++ iv ++ pad) ++ (tag ++ rest) := by simp [f]
  refine ⟨List.take_left' hct, ?_, ?_⟩
  · rw [List.drop_left' hct, List.take_left' hiv]
  · rw [hhead, List.drop_left' (by simp [hct, hiv, hpad]), List.take_left' htag]

/-- Settles O31: the frame is read back byte for byte (`frame_bytes`), its fields are those that were put in (`frame_fields`), and a sealed text
opens under its own key, IV and additional data (`Crypto.gcmOpen_gcmSeal`). -/
theorem sealedRecordsOpen : Obligations.SealedRecordsOpen := by
  intro w i r pt hpt _
  have hkey : (leBytes 32 w.key.toNat).length = 32 := Crypto.leBytes_length _ _
  obtain ⟨hct, htag⟩ := Crypto.gcmSeal_length hkey (w.iv r) (w.aad i r) pt
  have hlen : (w.encrypt i r pt).length = 131136 := by
    rw [Win.encrypt_eq]
    simp only [List.length_append, List.length_replicate, hct, htag, hpt, Win.iv_length]
  obtain ⟨hc, hi, ht⟩ := frame_fields (rest := List.replicate 32 0) (hct.trans hpt) (w.iv_length r) (List.length_replicate (a := 0) (n := 4)) htag
  refine ⟨hlen, ?_⟩
  rw [Win.openFrame, frameLen, frame_bytes _ hlen, Win.encrypt_eq, plainLen]
  rw [hc, hi, ht]
  exact Crypto.gcmOpen_gcmSeal hkey _ _ _

end Sys2Proof.Machine
end

section
/-! Windows, bulk ports and the record die stand by while memory is read and written, streams move and entries complete. -/

namespace Sys2Proof.Machine

/-- The windows, the bulk ports and the record die. -/
def State.bystanders (s : State) : Sparse Win × Sparse PortSt × RecordDie := (s.wins, s.ports, s.die)

/-- A fold of operations that leave them leaves them. -/
@[simp] theorem foldl_bystanders {α : Type} (f : State → α → State) (h : ∀ s x, (f s x).bystanders = s.bystanders) (l : List α) (s : State) :
    (l.foldl f s).bystanders = s.bystanders := by
  induction l generalizing s with
  | nil => rfl
  | cons x l ih => rw [List.foldl_cons, ih, h]

/-- The same of a fold that carries other data beside the state. -/
theorem foldl_fst_bystanders {α β : Type} (f : State × β → α → State × β) (h : ∀ x a, (f x a).1.bystanders = x.1.bystanders) (l : List α)
    (x : State × β) : (l.foldl f x).1.bystanders = x.1.bystanders := by
  induction l generalizing x with
  | nil => rfl
  | cons a l ih => rw [List.foldl_cons, ih, h]

theorem ite_bystanders {c : Prop} {_ : Decidable c} {s t u : State} (ht : t.bystanders = s.bystanders) (hu : u.bystanders = s.bystanders) :
    (if c then t else u).bystanders = s.bystanders :=
  iteInduction (motive := fun x : State => x.bystanders = s.bystanders) (fun _ => ht) (fun _ => hu)

theorem State.die_of_bystanders {s t : State} (h : t.bystanders = s.bystanders) : t.die = s.die := congrArg (·.2.2) h

section
variable (s : State)

/-! ## Updates of one table, the log and the sources -/

theorem State.bystanders_of_aside {s t : State} (h : t.aside = s.aside) : t.bystanders = s.bystanders := (congrArg State.bystanders h :)

@[simp] theorem State.free_bystanders : s.free.2.bystanders = s.bystanders := rfl
@[simp] theorem State.emit_bystanders (o : Out) : (s.emit o).bystanders = s.bystanders := rfl
@[simp] theorem State.withMem_bystanders (m : Mem) : ({ s with mem := m } : State).bystanders = s.bystanders := rfl
@[simp] theorem State.withSch_bystanders (x : Sched) : ({ s with sch := x } : State).bystanders = s.bystanders := rfl
@[simp] theorem State.withLcs_bystanders (x : Lcs) : ({ s with lcs := x } : State).bystanders = s.bystanders := rfl
@[simp] theorem State.setReady_bystanders (b : Rdy.B) (on : Bool) : (s.setReady b on).bystanders = s.bystanders := rfl
@[simp] theorem State.setBel_bystanders (b : Belay) : (s.setBel b).bystanders = s.bystanders := rfl
@[simp] theorem State.setBraid_bystanders (i : Nat) (b : Braid) : (s.setBraid i b).bystanders = s.bystanders := rfl
@[simp] theorem State.modBraid_bystanders (i : Nat) (f : Braid → Braid) : (s.modBraid i f).bystanders = s.bystanders := rfl
@[simp] theorem State.setTen_bystanders (n : Tid) (t : Ten) : (s.setTen n t).bystanders = s.bystanders := rfl
@[simp] theorem State.modTen_bystanders (n : Tid) (f : Ten → Ten) : (s.modTen n f).bystanders = s.bystanders := rfl
@[simp] theorem State.modMir_bystanders (n : Tid) (f : Mirror → Mirror) : (s.modMir n f).bystanders = s.bystanders := rfl
@[simp] theorem State.setPte_bystanders (n : Tid) (page : Nat) (p : Pte) : (s.setPte n page p).bystanders = s.bystanders := rfl
@[simp] theorem State.setUse_bystanders (id : Nat) (u : Option FrameUse) : (s.setUse id u).bystanders = s.bystanders := rfl
@[simp] theorem State.modTier_bystanders (b h : Bool) (f : TierSt → TierSt) : (s.modTier b h f).bystanders = s.bystanders := rfl
@[simp] theorem State.modPager_bystanders (h : Bool) (f : Pager → Pager) : (s.modPager h f).bystanders = s.bystanders := rfl
@[simp] theorem State.countMoved_bystanders (h : Bool) (n : Nat) : (s.countMoved h n).bystanders = s.bystanders := rfl
@[simp] theorem State.charge_bystanders (n : Tid) (bulk : Bool) : (s.charge n bulk).bystanders = s.bystanders := rfl
@[simp] theorem State.discharge_bystanders (n : Tid) (bulk : Bool) : (s.discharge n bulk).bystanders = s.bystanders := rfl
@[simp] theorem State.toScrub_bystanders (n : Tid) (id : Nat) : (s.toScrub n id).bystanders = s.bystanders := rfl
@[simp] theorem State.modTok_bystanders (id : Nat) (f : Token → Token) : (s.modTok id f).bystanders = s.bystanders := rfl
@[simp] theorem State.dropTok_bystanders (id : Nat) : (s.dropTok id).bystanders = s.bystanders := rfl
@[simp] theorem State.tokWrote_bystanders (e : Nat) (n : Tid) (gs : List Nat) : (s.tokWrote e n gs).bystanders = s.bystanders := rfl
@[simp] theorem State.freeCtx_bystanders (n : Tid) (id : Nat) : (s.freeCtx n id).bystanders = s.bystanders := rfl
@[simp] theorem State.noteReady_bystanders : s.noteReady.bystanders = s.bystanders := rfl
@[simp] theorem State.leaveGroups_bystanders (i : Nat) : (s.leaveGroups i).bystanders = s.bystanders := rfl
@[simp] theorem State.leaveAtEnd_bystanders (i : Nat) : (s.leaveAtEnd i).bystanders = s.bystanders := rfl
@[simp] theorem State.raise_bystanders (i : Nat) : (s.raise i).bystanders = s.bystanders := State.bystanders_of_aside (s.raise_aside i)
@[simp] theorem State.log_bystanders (d c u e : Nat) (st : Byte) (n : Option Tid) (a : List W64) :
    (s.log d c u e st n a).bystanders = s.bystanders := State.bystanders_of_aside (s.log_aside ..)
@[simp] theorem State.corrected_bystanders (d u c k : Nat) : (s.corrected d u c k).bystanders = s.bystanders :=
  State.bystanders_of_aside (s.corrected_aside ..)

/-! ## Reads of memory -/

@[simp] theorem State.poisonGran_bystanders (n : Option Tid) (g : Nat) (page : Option Nat) (a : W64) :
    (s.poisonGran n g page a).bystanders = s.bystanders := by
  unfold State.poisonGran
  simp only [State.raise_bystanders, State.log_bystanders, State.modTier_bystanders]
  split
  · rfl
  · split <;> rfl

@[simp] theorem State.transferGran_bystanders (n : Option Tid) (g : Nat) (page : Option Nat) (a : W64) (w : Bool) :
    (s.transferGran n g page a w).bystanders = s.bystanders := by
  simp [State.transferGran, apply_ite State.bystanders]

@[simp] theorem State.transfer_bystanders (n : Tid) (tva : Nat) (w : Bool) : (s.transfer n tva w).bystanders = s.bystanders :=
  s.transferGran_bystanders ..

@[simp] theorem State.touchGranule_bystanders (n : Tid) (g : Nat) : (s.touchGranule n g).bystanders = s.bystanders := by
  simp [State.touchGranule, State.poisonRead, apply_ite State.bystanders]

@[simp] theorem State.readMem_bystanders (n : Tid) (tva len : Nat) : (s.readMem n tva len).1.bystanders = s.bystanders := by
  simp [State.readMem]

@[simp] theorem State.readMem_win (n : Tid) (tva len i : Nat) : (s.readMem n tva len).1.win i = s.win i :=
  congrArg (fun x : Sparse Win × Sparse PortSt × RecordDie => Sparse.get Win.init x.1 i) (s.readMem_bystanders n tva len)

@[simp] theorem State.readMem_port (n : Tid) (tva len : Nat) (p : Port) : (s.readMem n tva len).1.port p = s.port p :=
  congrArg (fun x : Sparse Win × Sparse PortSt × RecordDie => Sparse.get PortSt.init x.2.1 (portNum p)) (s.readMem_bystanders n tva len)

end

end Sys2Proof.Machine
end

section
/-! The tables of ports, rings, windows, units and limits (log 4). -/

namespace Sys2Proof.Machine

/-- What `State.tablesOk` says of windows, ports, command rings, power limits and tested units. -/
theorem State.platform_wf_of_tablesOk {s : State} (h : s.tablesOk = true) :
    Sparse.wf Win.init s.wins = true ∧ Sparse.wf PortSt.init s.ports = true ∧ Sparse.wf SqRing.init s.sch.sqs = true ∧
      Sparse.wf PwrBraid.init s.pwr.braids = true ∧ Sparse.wf UnitSt.init s.bist.units = true := by
  simp only [State.tablesOk, Bool.and_eq_true, List.all_eq_true] at h
  obtain ⟨⟨⟨⟨⟨⟨⟨⟨⟨⟨⟨⟨⟨⟨-, -⟩, -⟩, -⟩, -⟩, -⟩, hwins⟩, -⟩, hports⟩, hsqs⟩, -⟩, -⟩, -⟩, hlimits⟩, hunits⟩ := h
  exact ⟨hwins, hports, hsqs, hlimits, hunits⟩

end Sys2Proof.Machine
end

section
/-! Windows opened, closed and drained (O29). -/

namespace Sys2Proof.Machine

/-! ## WIN_OPEN (R373) -/

/-- The window that an opening makes of slot `w` (R373, R379). -/
def Token.opened (t : Token) (s : State) (w : Win) : Win :=
  { w with st := .open_, dir := t.bodyBit 2 0, sealed := t.bodyBit 2 1, portA := t.bodyBit 2 2, portB := t.bodyBit 2 3, riden := t.bodyBit 2 4
           rid := BitVec.ofNat 16 (t.body 4 2), keyref := BitVec.ofNat 8 (t.body 6 1), ten := t.ten, tva := BitVec.ofNat 48 (t.body 8 8)
           length := BitVec.ofNat 32 (t.body 16 4), openseq := s.openseq + 1, enc := 0, last := 0, wrote := [], ctls := [], drainTok := none
           key := if t.bodyBit 2 1 then windowKey ((Sparse.get none (s.ten t.ten).winKeys (t.body 6 1)).getD 0) (s.openseq + 1) else 0 }

section
variable {s : State} {t : Token} (hi : t.body 0 2 < 1024) (hports : t.bodyBit 2 2 = true ∨ t.bodyBit 2 3 = true)
  (ha : t.bodyBit 2 2 = true → s.cap.bulkA = true) (hb : t.bodyBit 2 3 = true → s.cap.bulkB = true)
  (htva : t.body 8 8 % 4096 = 0) (hpos : 0 < t.body 16 4) (hlen : t.body 16 4 ≤ 262144) (hend : t.body 8 8 + 4096 * t.body 16 4 ≤ 2 ^ 48)
  (hsealed : t.bodyBit 2 1 = true → t.body 8 8 % 131072 = 0 ∧ t.body 16 4 % 32 = 0 ∧ t.body 16 4 ≤ 131072 ∧ t.body 6 1 < 16 ∧
    Sparse.get none (s.ten t.ten).winKeys (t.body 6 1) ≠ none)
include hi hports ha hb htva hpos hlen hend hsealed

/-- Operands in range, of ports that are there. -/
theorem State.winOpen_inRange : ¬(1023 < t.body 0 2 ∨ (!t.bodyBit 2 2 ∧ !t.bodyBit 2 3) ∨ (t.bodyBit 2 2 ∧ !s.cap.bulkA) ∨
    (t.bodyBit 2 3 ∧ !s.cap.bulkB) ∨ t.body 8 8 % 4096 ≠ 0 ∨ t.body 16 4 = 0 ∨ 262144 < t.body 16 4 ∨ 2 ^ 48 < t.body 8 8 + 4096 * t.body 16 4 ∨
    (t.bodyBit 2 1 ∧ (t.body 8 8 % 131072 ≠ 0 ∨ t.body 16 4 % 32 ≠ 0 ∨ 131072 < t.body 16 4 ∨ 15 < t.body 6 1))) := by
  rintro (h | ⟨h2, h3⟩ | ⟨h2, h⟩ | ⟨h3, h⟩ | h | h | h | h | ⟨h, hcase⟩)
  · omega
  · simp_all
  · simp [ha h2] at h
  · simp [hb h3] at h
  · exact h htva
  · omega
  · omega
  · omega
  · obtain ⟨h1, h2, h3, h4, -⟩ := hsealed h
    omega

theorem State.winOpenCmd_opens (hfree : (s.win (t.body 0 2)).st = .free) (hctx : inCtx (t.body 8 8) (4096 * t.body 16 4) = false)
    (hmapped : s.anyUnmapped t.ten (t.body 8 8) (4096 * t.body 16 4) = false)
    (hcase : ∀ p ∈ pagesOf (t.body 8 8) (4096 * t.body 16 4), (s.pte t.ten p).sealed = t.bodyBit 2 1) :
    s.winOpenCmd t = ({ s with openseq := s.openseq + 1 }.setWin (t.body 0 2) (t.opened s (s.win (t.body 0 2)))).finish t.id
      (Comp.okv (s.win (t.body 0 2)).gen.toNat (s.openseq + 1).toNat) := by
  have hslot : ¬((s.win (t.body 0 2)).st != .free) = true := by simp [hfree]
  have hpages : ¬(inCtx (t.body 8 8) (4096 * t.body 16 4) = true ∨ s.anyUnmapped t.ten (t.body 8 8) (4096 * t.body 16 4) = true) := by
    simp [hctx, hmapped]
  have hone : ¬((pagesOf (t.body 8 8) (4096 * t.body 16 4)).any (fun p => (s.pte t.ten p).sealed != t.bodyBit 2 1)) = true := by
    simpa using hcase
  have hkey : ¬(t.bodyBit 2 1 = true ∧ (Sparse.get none (s.ten t.ten).winKeys (t.body 6 1)).isNone = true) := by
    rintro ⟨hs, hnone⟩
    obtain ⟨-, -, -, -, hsome⟩ := hsealed hs
    exact hsome (Option.isNone_iff_eq_none.1 hnone)
  exact (if_neg (State.winOpen_inRange hi hports ha hb htva hpos hlen hend hsealed)).trans ((if_neg hslot).trans
    ((if_neg hpages).trans ((if_neg hone).trans (if_neg hkey))))
end

/-! ## WIN_CLOSE and WIN_DRAIN (R376, R378) -/

theorem State.winNamed_iff {s : State} {t : Token} {st : WinSt} :
    s.winNamed t st = true ↔ t.body 0 2 < 1024 ∧ (s.win (t.body 0 2)).st = st ∧ (s.win (t.body 0 2)).ten = t.ten := by
  simp [State.winNamed, and_assoc]

theorem State.winCloseCmd_named {s : State} {t : Token} (h : s.winNamed t .open_ = true) :
    s.winCloseCmd t = (s.closeWin (t.body 0 2)).finish t.id (Comp.okv ((s.closeWin (t.body 0 2)).win (t.body 0 2)).gen.toNat 0) := by
  obtain ⟨hi, -, -⟩ := State.winNamed_iff.1 h
  exact (if_neg (by omega)).trans (if_neg (by simp [h]))

theorem State.winDrainCmd_named {s : State} {t : Token} (h : s.winNamed t .closed = true) :
    s.winDrainCmd t = s.setWin (t.body 0 2) { s.win (t.body 0 2) with st := .draining, drainTok := some t.id } := by
  obtain ⟨hi, -, -⟩ := State.winNamed_iff.1 h
  exact (if_neg (by omega)).trans (if_neg (by simp [h]))

/-- A port without buffers has none of a slot to drop. -/
theorem State.dropBufs_none {s : State} (hwf : Sparse.wf PortSt.init s.ports = true) {p : Port} (h : (s.port p).bufs = []) (i : Nat) :
    s.modPort p (fun x => { x with bufs := x.bufs.filter (fun b => b.slot != i) }) = s := by
  have hsame : ({ s.port p with bufs := (s.port p).bufs.filter (fun b => b.slot != i) } : PortSt) = s.port p := by
    rw [h, List.filter_nil, ← h]
  rw [State.modPort, hsame, State.setPort, State.port, Sparse.set_get_self hwf]

/-- The close of a window with no frame under way: the slot alone changes. -/
theorem State.closeWin_quiet {s : State} {i : Nat} (hwf : Sparse.wf PortSt.init s.ports = true) (hopen : (s.win i).st = .open_)
    (ha : (s.port .a).bufs = []) (hb : (s.port .b).bufs = []) :
    s.closeWin i = s.setWin i { s.win i with st := .closed, gen := (s.win i).gen + 1, key := 0, lateGen := 0 } := by
  have hgate : ¬((s.win i).st != .open_) = true := by simp [hopen]
  rw [State.closeWin, if_neg hgate]
  simp only [List.foldl_cons, List.foldl_nil, bufsOf, ha, hb, List.filter_nil]
  rw [State.dropBufs_none hwf ha, State.dropBufs_none hwf hb]
  rfl

/-! ## The drain's end (R378) -/

theorem State.drainDone_ends {s : State} {i d : Nat} (hst : (s.win i).st = .draining) (hheld : ∀ h ∈ s.held, h.slot ≠ i)
    (htok : (s.win i).drainTok = some d) :
    s.drainDone i = (((s.fence (s.win i).ctls).setWin i
      { Win.init with gen := (s.win i).gen, records := (s.win i).records, authFail := (s.win i).authFail, rejected := (s.win i).rejected
                      last := (s.win i).last, lateLog := (s.win i).lateLog, ten := (s.win i).ten }).modTok d
        (fun t => { t with wrote := (s.win i).wrote, ctls := (s.win i).ctls })).finish d (Comp.okv 0 (s.win i).lateGen.toNat) := by
  have hnone : s.held.any (fun h => h.slot == i) = false := by simpa using hheld
  have hready : ¬(!s.drainReady i) = true := by simp [State.drainReady, hst, hnone]
  have hheld : ¬(s.held.any (fun h => h.slot == i)) = true := by simp [hnone]
  rw [State.drainDone, if_neg hheld, if_neg hready, htok]

/-- Settles O29: a started WIN_OPEN passes each of its checks (`State.winOpenCmd_opens`); a close with no frame under way changes the slot alone
(`State.closeWin_quiet`); a drain with no write held ends (`State.drainDone_ends`). -/
theorem windowsOpenAndClose : Obligations.WindowsOpenAndClose := by
  intro s e t n b i w len tva sealed
  refine ⟨fun hstarts hi hfree hports ha hb htva hpos hlen hend hsealed hctx hmapped hcase => ?_, fun hstarts hi hst hten => ?_,
    fun hstarts hi hst hten => ?_, ?_⟩
  · refine congrArg Host.Outcome.next ((State.startCmd_starts hstarts State.winOpenCmd).trans ?_)
    exact State.winOpenCmd_opens (s := b) (t := t.begun) hi hports ha hb htva hpos hlen hend hsealed hfree hctx hmapped hcase
  · have hnamed : b.winNamed t.begun .open_ = true := State.winNamed_iff.2 ⟨hi, hst, hten⟩
    refine ⟨congrArg Host.Outcome.next ((State.startCmd_starts hstarts State.winCloseCmd).trans (State.winCloseCmd_named hnamed)), ?_⟩
    exact fun ha hb hok => State.closeWin_quiet (State.platform_wf_of_tablesOk hok).2.1 hst ha hb
  · have hnamed : b.winNamed t.begun .closed = true := State.winNamed_iff.2 ⟨hi, hst, hten⟩
    exact congrArg Host.Outcome.next ((State.startCmd_starts hstarts State.winDrainCmd).trans (State.winDrainCmd_named hnamed))
  · intro k d hlive x hst hheld htok
    exact congrArg Host.Outcome.next ((if_pos hlive).trans (State.drainDone_ends hst hheld htok))

end Sys2Proof.Machine
end

section
/-! Traffic of the windows (O30). -/

namespace Sys2Proof.Machine

/-! ## Completions of reads (R375) -/

/-- A poisoned completion is counted by the port (R375). -/
theorem State.readDone_eq (s : State) (p : Port) (data : List Byte) (poison : Bool) : s.readDone p data poison =
    if poison then (s.emit (.barData data true)).setPort p { s.port p with poisoned := BitVec.ofNat 16 (satAdd 16 (s.port p).poisoned.toNat 1) }
    else s.emit (.barData data false) := by
  cases poison <;> rfl

@[simp] theorem State.setWin_port (s : State) (i : Nat) (w : Win) (p : Port) : (s.setWin i w).port p = s.port p := rfl

/-! ## What the port takes (R374, R375) -/

theorem State.powered_of_portServes {s : State} {p : Port} (h : s.portServes p = true) : s.pins.powered = true := by
  simp only [State.portServes, State.live, Bool.and_eq_true] at h
  obtain ⟨⟨⟨⟨⟨hpow, -⟩, -⟩, -⟩, -⟩, -⟩ := h
  exact hpow

@[simp] theorem State.maxPayload_pciePort (s : State) (p : Port) : (s.portCaps (pciePort p)).maxPayload = 512 := by cases p <;> rfl

/-- A read of some bytes, of a port that serves, is looked at. -/
theorem State.bar2Read_reaches {s : State} {p : Port} (h : s.portServes p = true) {len : BitVec 13} (hlen : len ≠ 0) :
    ¬(!s.pins.powered || decide (len.toNat = 0)) = true := by
  have hpos : len.toNat ≠ 0 := fun h => hlen (BitVec.eq_of_toNat_eq h)
  simp [State.powered_of_portServes h, hpos]

section
variable {s : State} {p : Port} (hserves : s.portServes p = true) (off : BitVec 40) (rid : BitVec 16)
include hserves

/-- A write of a port that serves goes by the state of its slot. -/
theorem exec_bar2Write {data : List Byte} (hdata : data ≠ []) (hlen : data.length ≤ 512) :
    let i := off.toNat / 2 ^ 30
    let o := off.toNat % 2 ^ 30
    let w := s.win i
    exec (.bar2Write p off rid data) s = .next (match w.st with
      | .open_ => if w.takes p false o data.length rid then
          if w.sealed then s.sealedWrite p i o data else s.winWrite i (portHawser p) w.ten (w.tva.toNat + o) data
        else s.setWin i { w with rejected := BitVec.ofNat 16 (satAdd 16 w.rejected.toNat 1) }
      | .free => s.modPort p (fun x => { x with stray := BitVec.ofNat 32 (satAdd 32 x.stray.toNat 1) })
      | _ => (s.setWin i { w with lateGen := w.lateGen + 1, lateLog := lateCount w.lateLog w.ten w.gen (portHawser p) }).modTen w.ten (fun t =>
          { t with late := BitVec.ofNat 32 (satAdd 32 t.late.toNat 1) })) :=
  congrArg Host.Outcome.next ((if_neg (by simp [hserves, hdata, hlen])).trans rfl)

/-- A write that an open window takes. -/
theorem exec_bar2Write_taken {data : List Byte} (hdata : data ≠ []) (hlen : data.length ≤ 512) (hopen : (s.win (off.toNat / 2 ^ 30)).st = .open_)
    (htakes : (s.win (off.toNat / 2 ^ 30)).takes p false (off.toNat % 2 ^ 30) data.length rid = true) :
    let i := off.toNat / 2 ^ 30
    let o := off.toNat % 2 ^ 30
    exec (.bar2Write p off rid data) s = .next (if (s.win i).sealed then s.sealedWrite p i o data
      else s.winWrite i (portHawser p) (s.win i).ten ((s.win i).tva.toNat + o) data) := by
  rw [exec_bar2Write hserves off rid hdata hlen, hopen]
  exact congrArg Host.Outcome.next (if_pos htakes)

/-- A read that an open window takes. -/
theorem exec_bar2Read_taken {len : BitVec 13} (hlen : len ≠ 0) (hopen : (s.win (off.toNat / 2 ^ 30)).st = .open_)
    (htakes : (s.win (off.toNat / 2 ^ 30)).takes p true (off.toNat % 2 ^ 30) len.toNat rid = true) :
    let i := off.toNat / 2 ^ 30
    let o := off.toNat % 2 ^ 30
    let r := s.readMem (s.win i).ten ((s.win i).tva.toNat + o) len.toNat
    exec (.bar2Read p off rid len) s = .next (if (s.win i).sealed then s.sealedRead p i o len.toNat else r.1.readDone p r.2.1 r.2.2) := by
  have hgate : ¬(!s.pins.powered || decide (len.toNat = 0)) = true := State.bar2Read_reaches hserves hlen
  have htaken : (s.portServes p && (s.win (off.toNat / 2 ^ 30)).st == .open_ &&
      (s.win (off.toNat / 2 ^ 30)).takes p true (off.toNat % 2 ^ 30) len.toNat rid) = true := by
    rw [hserves, hopen, htakes]; rfl
  refine congrArg Host.Outcome.next ?_
  rw [State.bar2Read, if_neg hgate, if_pos htaken]

/-- Any other read ends in Completer Abort, which AER may count. -/
theorem exec_bar2Read_aborts {len : BitVec 13} (hlen : len ≠ 0) (hnot : ((s.win (off.toNat / 2 ^ 30)).st == .open_ &&
    (s.win (off.toNat / 2 ^ 30)).takes p true (off.toNat % 2 ^ 30) len.toNat rid) = false) :
    exec (.bar2Read p off rid len) s = .next ((s.emit .barAbort).aer (pciePort p)) := by
  have hgate : ¬(!s.pins.powered || decide (len.toNat = 0)) = true := State.bar2Read_reaches hserves hlen
  have htaken : ¬(s.portServes p && (s.win (off.toNat / 2 ^ 30)).st == .open_ &&
      (s.win (off.toNat / 2 ^ 30)).takes p true (off.toNat % 2 ^ 30) len.toNat rid) = true := by
    rw [Bool.and_assoc, hnot, Bool.and_false]; exact Bool.false_ne_true
  refine congrArg Host.Outcome.next ?_
  rw [State.bar2Read, if_neg hgate, if_neg htaken]

end

theorem windowAccesses : Says.WindowAccesses := by
  intro s p off rid hserves i o w
  refine ⟨fun data hdata hlen => ?_, fun len hlen => ⟨fun hopen htakes hplain => ?_, fun hopen hnot => ?_, fun hclosed => ?_⟩⟩
  · have hwrite := exec_bar2Write hserves off rid hdata hlen
    refine ⟨fun hopen htakes hplain => ?_, fun hopen hnot => ?_, fun hfree => ?_, ?_⟩
    · rw [exec_bar2Write_taken hserves off rid hdata hlen hopen htakes]
      exact congrArg Host.Outcome.next (if_neg (Bool.eq_false_iff.1 hplain))
    · rw [hwrite, show (s.win (off.toNat / 2 ^ 30)).st = _ from hopen]
      exact congrArg Host.Outcome.next (if_neg (Bool.eq_false_iff.1 hnot))
    · rw [hwrite, show (s.win (off.toNat / 2 ^ 30)).st = _ from hfree]
      rfl
    · rintro (hst | hst) <;> rw [hwrite, show (s.win (off.toNat / 2 ^ 30)).st = _ from hst] <;> rfl
  · intro r
    rw [exec_bar2Read_taken hserves off rid hlen hopen htakes]
    exact congrArg Host.Outcome.next ((if_neg (Bool.eq_false_iff.1 hplain)).trans (State.readDone_eq ..))
  · rw [exec_bar2Read_aborts hserves off rid hlen (by rw [hnot, Bool.and_false])]
    exact (State.aer_cases _ _).imp (congrArg _) (congrArg _)
  · rw [exec_bar2Read_aborts hserves off rid hlen (by rw [beq_false_of_ne hclosed, Bool.false_and])]
    exact (State.aer_cases _ _).imp (congrArg _) (congrArg _)

/-! ## Frames of sealed windows (R378–R381) -/

/-- A buffer of an inbound frame; one of an outbound frame. -/
def RecBuf.gathers (b : RecBuf) (i r : Nat) : Bool := b.slot == i && b.frame == r && !b.out
def RecBuf.serves (b : RecBuf) (i r : Nat) : Bool := b.slot == i && b.frame == r && b.out

/-- The bytes of a frame that a port has gathered, with those of one more write at `o`. -/
def PortSt.gathered (q : PortSt) (i r o : Nat) (data : List Byte) : Sparse (Option Byte) :=
  (data.zipIdx).foldl (fun m x => Sparse.set none m (o % 2 ^ 18 + x.2) (some x.1)) (((q.bufs.find? (·.gathers i r)).map (·.bytes)).getD [])

section
variable {s : State} {p : Port} {i o : Nat} {data : List Byte}

/-- With every buffer in use a write to a frame without one waits (R380). -/
theorem State.sealedWrite_waits (hnone : (s.port p).bufs.find? (·.gathers i (o / 2 ^ 18)) = none) (hfull : 128 ≤ (s.port p).bufs.length) :
    s.sealedWrite p i o data = s := by
  have hany : (s.port p).bufs.any (·.gathers i (o / 2 ^ 18)) = false := by simpa using hnone
  exact if_pos (by rw [Bool.and_eq_true, decide_eq_true_eq]; exact ⟨by simpa [RecBuf.gathers] using hany, hfull⟩)

theorem State.sealedWrite_gathers (hroom : (s.port p).bufs.find? (·.gathers i (o / 2 ^ 18)) ≠ none ∨ (s.port p).bufs.length < 128) :
    let r := o / 2 ^ 18
    let rest := (s.port p).bufs.filter (fun b => !b.gathers i r)
    let got := (s.port p).gathered i r o data
    (got.length ≠ 131136 → s.sealedWrite p i o data =
      s.setPort p { s.port p with bufs := rest ++ [{ slot := i, frame := r, out := false, bytes := got, image := [], poison := [] }] }) ∧
    (got.length = 131136 → s.sealedWrite p i o data =
      (s.setPort p { s.port p with bufs := rest }).frameComplete i r (portHawser p) got) := by
  intro r rest got
  have hgate : ¬(!((s.port p).bufs.any (·.gathers i r)) && decide (128 ≤ (s.port p).bufs.length)) = true := by
    rcases hroom with hsome | hless
    · obtain ⟨b, hb⟩ := Option.ne_none_iff_exists'.1 hsome
      have hany : (s.port p).bufs.any (·.gathers i r) = true :=
        List.any_eq_true.2 ⟨b, List.mem_of_find?_eq_some hb, List.find?_some (p := fun b : RecBuf => b.gathers i r) hb⟩
      simp [hany]
    · simp [hless]
  have hold : (match (s.port p).bufs.find? (·.gathers i r) with | some b => b.bytes | none => []) =
      (((s.port p).bufs.find? (·.gathers i r)).map (·.bytes)).getD [] := by
    cases (s.port p).bufs.find? (·.gathers i r) <;> rfl
  have hgot : s.sealedWrite p i o data = if got.length = frameLen then (s.setPort p { s.port p with bufs := rest }).frameComplete i r (portHawser p) got
      else s.setPort p { s.port p with bufs := rest ++ [{ slot := i, frame := r, out := false, bytes := got, image := [], poison := [] }] } := by
    refine (if_neg hgate).trans ?_
    simp only [got, PortSt.gathered, ← hold]
    rfl
  rw [frameLen] at hgot
  exact ⟨fun h => hgot.trans (if_neg h), fun h => hgot.trans (if_pos h)⟩
end

theorem State.frameComplete_opens {s : State} {i r : Nat} {hw : Bool} {bytes : Sparse (Option Byte)} {pt : List Byte}
    (h : (s.win i).openFrame i r bytes = some pt) :
    s.frameComplete i r hw bytes = (s.modWin i (fun w => { w with records := w.records + 1 })).winWrite i hw (s.win i).ten
      ((s.win i).tva.toNat + 131072 * r) pt := by
  rw [State.frameComplete, h]; rfl

theorem State.frameComplete_fails {s : State} {i r : Nat} {hw : Bool} {bytes : Sparse (Option Byte)}
    (h : (s.win i).openFrame i r bytes = none) : s.frameComplete i r hw bytes = s.discardRecord hw i r 0 := by
  rw [State.frameComplete, h]; rfl

section
variable {s : State} {p : Port} {i o len : Nat}

theorem State.sealedRead_buffered {b : RecBuf} (h : (s.port p).bufs.find? (·.serves i (o / 2 ^ 18)) = some b) :
    s.sealedRead p i o len = s.sealedServe p b ((s.port p).bufs.filter (fun b => !b.serves i (o / 2 ^ 18))) (o % 2 ^ 18) len := by
  have h : (s.port p).bufs.find? (fun b => b.slot == i && b.frame == o / 2 ^ 18 && b.out) = some b := h
  rw [State.sealedRead, h]; rfl

/-- A frame with no buffer is sealed under the next record count; the read leaves the window and the port as they were. -/
theorem State.sealedRead_seals (h : (s.port p).bufs.find? (·.serves i (o / 2 ^ 18)) = none) (hroom : (s.port p).bufs.length < 128) :
    let w := s.win i
    let r := o / 2 ^ 18
    let rd := s.readMem w.ten (w.tva.toNat + 131072 * r) 131072
    let bad := (List.range 32).filter (fun k => rd.1.poisonedTva w.ten (w.tva.toNat + 131072 * r + 4096 * k))
    s.sealedRead p i o len = (rd.1.setWin i { w with enc := w.enc + 1, records := w.records + 1 }).sealedServe p
      { slot := i, frame := r, out := true, bytes := [], image := w.encrypt i r rd.2.1, poison := bad } (s.port p).bufs (o % 2 ^ 18) len := by
  intro w r rd bad
  have h : (s.port p).bufs.find? (fun b => b.slot == i && b.frame == o / 2 ^ 18 && b.out) = none := h
  have hevict : evict (s.port p).bufs = (s.port p).bufs := if_pos hroom
  rw [State.sealedRead, h]
  dsimp only
  rw [hevict, if_neg (Nat.not_le.2 hroom), State.modWin, State.readMem_win, plainLen]

theorem State.sealedServe_eq (s : State) (p : Port) (b : RecBuf) (bufs : List RecBuf) (a len : Nat) :
    s.sealedServe p b bufs a len = (s.setPort p { s.port p with bufs := if a + len = 131136 then bufs else bufs ++ [b] }).readDone p
      (slice b.image a len) (frameBad b.poison a len) := rfl
end

theorem sealedFramesPass : Says.SealedFramesPass := by
  intro s p off rid hserves i o r w q hopen hsealed
  refine ⟨fun data hdata hlen htakes => ?_, fun len hlen htakes => ?_⟩
  · intro mine rest got free
    rw [exec_bar2Write_taken hserves off rid hdata hlen hopen htakes, if_pos hsealed]
    refine ⟨fun hnone hfull => congrArg Host.Outcome.next (State.sealedWrite_waits hnone hfull), fun hroom => ?_⟩
    obtain ⟨hpart, hwhole⟩ := State.sealedWrite_gathers (data := data) hroom
    refine ⟨fun hlen => congrArg Host.Outcome.next (hpart hlen), fun pt hlen hpt => ?_, fun hlen hnone => ?_⟩
    · exact congrArg Host.Outcome.next ((hwhole hlen).trans (State.frameComplete_opens (s := free) hpt))
    · exact congrArg Host.Outcome.next ((hwhole hlen).trans (State.frameComplete_fails (s := free) hnone))
  · intro a mine kept
    have hread := (exec_bar2Read_taken hserves off rid hlen hopen htakes).trans (congrArg Host.Outcome.next (if_pos hsealed))
    refine ⟨fun b hb => hread.trans (congrArg Host.Outcome.next (State.sealedRead_buffered hb)), fun hnone hroom => ?_⟩
    intro rd bad image
    rw [hread, State.sealedRead_seals hnone hroom, State.sealedServe_eq]
    have hport : (rd.1.setWin i { w with enc := w.enc + 1, records := w.records + 1 }).port p = q :=
      (State.setWin_port ..).trans (s.readMem_port w.ten (w.tva.toNat + 131072 * r) 131072 p)
    exact congrArg Host.Outcome.next (congrArg (fun x : PortSt => State.readDone (State.setPort _ p { x with bufs := _ }) p _ _) hport)

theorem framesExpire : Says.FramesExpire := by
  intro s i hlive w
  refine ⟨fun p r b hbufs hslot hframe hout => ?_, fun l ls hlog => ?_⟩
  · have hmine : (b.slot == i.toNat && b.frame == r.toNat && !b.out) = true := by simp [hslot, hframe, hout]
    have hany : (s.port p).bufs.any (fun b => b.slot == i.toNat && b.frame == r.toNat && !b.out) = true := by rw [hbufs, List.any_cons, hmine]; rfl
    have hnone : (s.port p).bufs.filter (fun b => !(b.slot == i.toNat && b.frame == r.toNat && !b.out)) = [] := by
      rw [hbufs, List.filter_cons, hmine]; rfl
    refine congrArg Host.Outcome.next ((if_pos hlive).trans ((if_pos hany).trans ?_))
    rw [State.modPort, hnone]
    rfl
  · refine congrArg Host.Outcome.next ((if_pos hlive).trans ?_)
    rw [State.lateWriteLog, hlog]
    rfl

/-- Settles O30: every write and read goes by the state of its slot (`exec_bar2Write`, `exec_bar2Read`) and by what the window takes. -/
theorem windowTraffic : Obligations.WindowTraffic := ⟨windowAccesses, sealedFramesPass, framesExpire⟩

end Sys2Proof.Machine
end

section
/-! The management port answers (O54). -/

namespace Sys2Proof.Machine

/-! ## MCTP control and events (R382–R386) -/

theorem State.powered_of_mgmtUp {s : State} (h : s.mgmtUp = true) : s.pins.powered = true := (Bool.and_eq_true_iff.1 h).1

/-- A control request is answered, under a message number that is free. -/
theorem State.mctpAnswer_up {s : State} (h : s.mgmtUp = true) (cmd : Byte) (f : State → State × List Byte) :
    s.mctpAnswer cmd f = (f s).1.free.2.message ([0x00, BitVec.ofNat 8 (fld (f s).1.free.1 0 5), cmd] ++ (f s).2) :=
  if_pos h

theorem State.setEid_ok (s : State) {eid : Byte} (h : eidOk eid = true) (sender : Byte) :
    s.setEid eid sender = (({ s with mgmt := { s.mgmt with eid := some eid, target := some sender } } : State).signalEvent, [0, 0, eid, 0]) :=
  if_pos h

/-- The oldest event goes to the target that takes events. -/
theorem State.eventRead_delivers {s : State} {e : MgmtEvent} {rest : List MgmtEvent} (hup : s.mgmtUp = true) (hevents : s.events = e :: rest)
    (hsched : s.ready .sched = true) (htarget : s.mgmt.target ≠ none) :
    s.eventRead = (({ s with events := rest, evDrop := 0 } : State).emit (.packet true true 0 (vendorMessage 0x80
      (leBytes 2 e.event.toNat ++ [e.ten, e.fn] ++ leBytes 8 e.seq.toNat ++ leBytes 4 s.evDrop.toNat)))).signalEvent := by
  have hgate : (s.mgmtUp && s.ready .sched && s.mgmt.target.isSome) = true := by simp [hup, hsched, Option.isSome_iff_ne_none, htarget]
  rw [State.eventRead, hevents]
  exact if_pos hgate

theorem managementAnswers : Says.ManagementAnswers := by
  intro s hup say
  have hanswer (cmd : Byte) (f : State → State × List Byte) : (Host.Outcome.next (s.mctpAnswer cmd f) : Result) = .next (say (f s).1 cmd (f s).2) :=
    congrArg Host.Outcome.next (State.mctpAnswer_up hup cmd f)
  refine ⟨fun a => congrArg Host.Outcome.next (if_pos (State.powered_of_mgmtUp hup)), fun e snd heid => ?_, hanswer .., hanswer .., hanswer ..,
    hanswer .., hanswer .., fun e rest hevents hsched htarget => ?_⟩
  · exact (hanswer 0x01 _).trans (by rw [State.setEid_ok s heid])
  · exact congrArg Host.Outcome.next (State.eventRead_delivers hup hevents hsched htarget)

/-! ## SPDM (R384, R388, R399–R403) -/

/-- A request in its order is answered by what its own rule gives. -/
theorem State.spdm_answers {s : State} (hup : s.spdmUp = true) {ready : Mgmt → Bool} (hready : ready s.mgmt = true)
    (f : State → State × List Byte) : s.spdm ready f = (f s).1.spdmSend (f s).2 :=
  (if_neg (by simp [hup])).trans (if_neg (by simp [hready]))

theorem State.getCert_slot0 (s : State) {off len : Nat} (hoff : off < s.spdmChain.length) :
    let k := Nat.min (Nat.min len 4151) (s.spdmChain.length - off)
    s.getCert 0 off len = s.noteB ([0x12, 0x82, 0, 0] ++ leBytes 2 off ++ leBytes 2 len)
      ([0x12, 0x02, 0, 0] ++ leBytes 2 k ++ leBytes 2 (s.spdmChain.length - off - k) ++ slice s.spdmChain off k) :=
  if_neg (by simp [hoff])

/-- A module in SCRAPPED signs nothing (R388, R403). -/
theorem State.signs_eq_false_of_scrapped {s : State} (h : s.lc = 4) : s.signs = false := by simp [State.signs, h]

theorem State.challenge_signs {s : State} (hlow : 1 ≤ s.lc) (hhigh : s.lc ≤ 3) (nonce : BitVec 256) :
    let x := s.nonce32
    let m := [0x12, 0x03, 0, 1] ++ Crypto.sha512 s.spdmChain ++ x.1 ++ [0, 0]
    s.challenge 0 nonce = ({ x.2 with mgmt := { x.2.mgmt with msgB := [] } } : State).signedAnswer 0x83 challengeContext
      (s.mgmt.vca ++ s.mgmt.msgB ++ [0x12, 0x83, 0, 0] ++ leBytes 32 nonce.toNat ++ m) m :=
  (if_neg (by simp [State.signs, hlow, hhigh])).trans (if_neg (by simp))

theorem State.challenge_scrapped {s : State} (h : s.lc = 4) (slot : BitVec 4) (nonce : BitVec 256) :
    s.challenge slot nonce = (s, [0x12, 0x7F, 0x05, 0]) :=
  if_pos (by simp [State.signs_eq_false_of_scrapped h])

/-- Asked for their number alone, unsigned, the measurements are counted, and the exchange is noted (R401). -/
theorem State.getMeas_count {s : State} (h : s.lc ≠ 4) (nonce : BitVec 256) :
    let x := s.nonce32
    let a := [0x12, 0x60, 7, 0, 0, 0, 0, 0] ++ x.1 ++ [0, 0]
    s.getMeas 0 false nonce = ({ x.2 with mgmt := { x.2.mgmt with msgL := s.mgmt.msgL ++ [0x12, 0xE0, 0, 0] ++ a } }, a) := by
  have hindex : ¬((0 : Byte) ≠ 0xFF ∧ 7 < (0 : Byte).toNat) := by decide
  have hgate : ¬(s.lc = 4 ∨ (false = true ∧ !s.signs)) := by simp [h]
  refine (if_neg hgate).trans ((if_neg hindex).trans ?_)
  simp [measAsked, leBytes]

theorem State.respondReady_signed {s : State} {c t : Byte} {a : List Byte} (hdeferred : s.mgmt.deferred = some (c, t, a))
    (hsigned : s.signing = false) : s.respondReady t = ({ s with mgmt := { s.mgmt with deferred := none } }, a) := by
  rw [State.respondReady, hdeferred]
  exact (if_neg (by simp)).trans (if_neg (by simp [hsigned]))

/-- With the engine idle a signed answer that is not deferred is the message and its signature. -/
theorem State.signedAnswer_now {s : State} {c : Byte} {ctx tr m : List Byte} (hidle : s.pke.idle = true)
    (hnow : (Config.free (s.idSign (spdmSigned ctx tr)).2.draws).getLsbD 0 = false) :
    (s.signedAnswer c ctx tr m).2 = m ++ (s.idSign (spdmSigned ctx tr)).1 := by
  have hturn : ¬(!s.pke.idle) = true := by simp [hidle]
  have hfree : ¬bit (s.idSign (spdmSigned ctx tr)).2.free.1 0 = true := Bool.eq_false_iff.1 hnow
  rw [State.signedAnswer, if_neg hturn, if_neg hfree]

theorem spdmAnswers : Says.SpdmAnswers := by
  intro s hup m vca
  have hanswer {ready : Mgmt → Bool} (hready : ready s.mgmt = true) (f : State → State × List Byte) {r : State × List Byte} (hf : f s = r) :
      (Host.Outcome.next (s.spdm ready f) : Result) = .next (r.1.spdmSend r.2) :=
    congrArg Host.Outcome.next ((State.spdm_answers hup hready f).trans (by rw [hf]))
  refine ⟨hanswer rfl State.getVersion rfl, fun hversion => hanswer hversion State.getCaps rfl,
    fun o hcaps => ⟨_, hanswer hcaps (·.negotiate o) rfl⟩, fun halgs => ?_, fun off len halgs hoff => ?_, fun n halgs hlow hhigh => ?_,
    fun n hlc => ?_, fun n halgs hlc => ?_, fun c t a hdeferred hsigned => ?_, fun c ctx tr a hidle => State.signedAnswer_now hidle⟩
  · exact hanswer halgs (fun s => s.noteB [0x12, 0x81, 0, 0] ([0x12, 0x01, 0, 1] ++ Crypto.sha512 s.spdmChain)) rfl
  · exact hanswer halgs (fun s => s.getCert 0 off.toNat len.toNat) (State.getCert_slot0 s hoff)
  · have hready : (s.mgmt.algs || s.lc == 4) = true := Bool.or_eq_true_iff.2 (.inl halgs)
    exact hanswer hready (fun s => s.challenge 0 n) (State.challenge_signs hlow hhigh n)
  · have hready : (s.mgmt.algs || s.lc == 4) = true := Bool.or_eq_true_iff.2 (.inr (beq_iff_eq.2 hlc))
    exact hanswer hready (fun s => s.challenge 0 n) (State.challenge_scrapped hlc 0 n)
  · have hready : (s.mgmt.algs || s.lc == 4) = true := Bool.or_eq_true_iff.2 (.inl halgs)
    exact hanswer hready (fun s => s.getMeas 0 false n) (State.getMeas_count hlc n)
  · exact hanswer rfl (fun s => s.respondReady t) (State.respondReady_signed hdeferred hsigned)

/-- Settles O54: control requests are answered under a free number (`State.mctpAnswer_up`), SPDM requests in their order (`State.spdm_answers`);
a signature covers the transcript (`State.challenge_signs`), and in SCRAPPED none is given. -/
theorem managementPort : Obligations.ManagementPort := ⟨managementAnswers, spdmAnswers⟩

end Sys2Proof.Machine
end

section
/-! What the loss of functions and the restart of rings leave of the module (O51). -/

namespace Sys2Proof.Machine

/-- Memory, windows, splices, braids, system state, record die and readiness. -/
def State.ground (s : State) : Mem × Sparse Win × Sparse Splice × Sparse Braid × Sys × RecordDie × Rdy :=
  (s.mem, s.wins, s.splices, s.braids, s.sys, s.die, s.rdy)

/-- These and the command rings. -/
def State.footing (s : State) : (Mem × Sparse Win × Sparse Splice × Sparse Braid × Sys × RecordDie × Rdy) × Sparse SqRing :=
  (s.ground, s.sch.sqs)

theorem State.ground_of_footing {s t : State} (h : t.footing = s.footing) : t.ground = s.ground := congrArg Prod.fst h

theorem State.sq_of_footing {s t : State} (h : t.footing = s.footing) (f : Fn) (q : BitVec 2) : t.sq f q = s.sq f q :=
  congrArg (fun m : Sparse SqRing => Sparse.get SqRing.init m (f.toNat * 4 + q.toNat)) (congrArg Prod.snd h : t.sch.sqs = s.sch.sqs)

theorem State.footing_of_aside {s t : State} (h : t.aside = s.aside) : t.footing = s.footing := (congrArg State.footing h :)

/-- A fold of operations that leave them leaves them. -/
@[simp] theorem foldl_footing {α : Type} (f : State → α → State) (h : ∀ s x, (f s x).footing = s.footing) (l : List α) (s : State) :
    (l.foldl f s).footing = s.footing := by
  induction l generalizing s with
  | nil => rfl
  | cons x l ih => rw [List.foldl_cons, ih, h]

section
variable (s : State)

/-! ## Sources, the log and events -/

@[simp] theorem State.free_footing : s.free.2.footing = s.footing := rfl
@[simp] theorem State.emit_footing (o : Out) : (s.emit o).footing = s.footing := rfl
@[simp] theorem State.setSrc_footing (i : Nat) (x : SrcSt) : (s.setSrc i x).footing = s.footing := rfl
@[simp] theorem State.setTgt_footing (t : Nat) (x : Tgt) : (s.setTgt t x).footing = s.footing := rfl
@[simp] theorem State.setTen_footing (n : Tid) (t : Ten) : (s.setTen n t).footing = s.footing := rfl
@[simp] theorem State.modTen_footing (n : Tid) (f : Ten → Ten) : (s.modTen n f).footing = s.footing := rfl
@[simp] theorem State.modMir_footing (n : Tid) (f : Mirror → Mirror) : (s.modMir n f).footing = s.footing := rfl
@[simp] theorem State.modFn_footing (f : Fn) (g : FnSt → FnSt) : (s.modFn f g).footing = s.footing := rfl
@[simp] theorem State.setBel_footing (b : Belay) : (s.setBel b).footing = s.footing := rfl
@[simp] theorem State.keepUnacked_footing (f : Fn) (ts : List Token) : (s.keepUnacked f ts).footing = s.footing := rfl
@[simp] theorem State.setWm_footing (n : Tid) (q : BitVec 2) (w : Wm) : (s.setWm n q w).footing = s.footing := rfl
@[simp] theorem State.raise_footing (i : Nat) : (s.raise i).footing = s.footing := State.footing_of_aside (s.raise_aside i)
@[simp] theorem State.log_footing (d c u e : Nat) (st : Byte) (n : Option Tid) (a : List W64) :
    (s.log d c u e st n a).footing = s.footing := State.footing_of_aside (s.log_aside ..)
@[simp] theorem State.corrected_footing (d u c k : Nat) : (s.corrected d u c k).footing = s.footing :=
  State.footing_of_aside (s.corrected_aside ..)

@[simp] theorem State.aer_footing (p : PciePort) : (s.aer p).footing = s.footing := by
  simp [State.aer, apply_ite State.footing]

@[simp] theorem State.signalEvent_footing : s.signalEvent.footing = s.footing := by
  simp [State.signalEvent, State.ibi, apply_ite State.footing]

@[simp] theorem State.holdEvent_footing (e : MgmtEvent) : (s.holdEvent e).footing = s.footing := by
  unfold State.holdEvent
  split
  · dsimp only
    split
    · exact (State.signalEvent_footing _).trans rfl
    · rfl
  · rfl

@[simp] theorem State.tenEvent_footing (n : Tid) (cls event : Nat) (status : Byte) (arg : Nat) :
    (s.tenEvent n cls event status arg).footing = s.footing := by
  simp [State.tenEvent, State.mgmtEvent, apply_ite State.footing]

/-! ## A lost function (R345, R346) -/

@[simp] theorem State.orphan_footing (n : Tid) : (s.orphan n).footing = s.footing := (State.tenEvent_footing ..).trans rfl

@[simp] theorem State.pfEvent_footing : s.pfEvent.footing = s.footing := by
  refine (State.holdEvent_footing _ _).trans ?_
  split <;> rfl

@[simp] theorem State.loseFn_footing (f : Fn) : (s.loseFn f).footing = s.footing := by
  simp [State.loseFn, apply_ite State.footing]

/-! ## Messages and completions that a port keeps (R476) -/

@[simp] theorem State.ackMsix_footing (t : Nat) : (s.ackMsix t).footing = s.footing := by
  unfold State.ackMsix
  split
  · rfl
  · unfold State.eoi
    dsimp only
    split
    · split <;> rfl
    · rfl

@[simp] theorem State.withdraw_footing (i : Nat) : (s.withdraw i).footing = s.footing := by
  simp [State.withdraw, apply_ite State.footing]

@[simp] theorem State.clearMsix_footing (ts : List Nat) : (s.clearMsix ts).footing = s.footing := by
  simp [State.clearMsix]

@[simp] theorem State.returnUnacked_footing (f : Fn) : (s.returnUnacked f).footing = s.footing := by
  unfold State.returnUnacked
  dsimp only
  split <;> rfl

/-! ## A numbering that restarts (R528) -/

@[simp] theorem State.leaveUp_footing (next : BitVec 3) : (s.leaveUp next).footing = s.footing := by
  unfold State.leaveUp
  simp only [State.raise_footing, State.log_footing, State.free_footing]
  exact foldl_footing _ (by intro _ _; rfl) _ _

@[simp] theorem State.belCarry_footing : s.belCarry.footing = s.footing := by
  simp [State.belCarry, apply_ite State.footing]

@[simp] theorem State.sendItem_footing (k : Nat) (o : Out) : (s.sendItem k o).1.footing = s.footing := by
  simp [State.sendItem, apply_ite Prod.fst, apply_ite State.footing]

@[simp] theorem State.sendOver_footing (r : CommitRecord) : (s.sendOver r).1.footing = s.footing := by
  simp [State.sendOver, apply_ite State.footing]

@[simp] theorem State.sendRecord_footing (n : Tid) (r : CommitRecord) : (s.sendRecord n r).footing = s.footing := by
  simp [State.sendRecord, State.sendUnsent, apply_ite State.footing]

@[simp] theorem State.wmRestarts_footing (n : Tid) : (s.wmRestarts n).footing = s.footing := by
  simp [State.wmRestarts, State.wmRestart, apply_ite State.footing]

end

/-! ## Command rings (R364) -/

/-- A change of command rings leaves what is not the scheduler's. -/
theorem foldl_modSq_ground (f : Fn) (g : SqRing → SqRing) (qs : List (BitVec 2)) (s : State) :
    (qs.foldl (fun s q => s.modSq f q g) s).ground = s.ground :=
  List.foldlRecOn (motive := fun t : State => t.ground = s.ground) qs _ rfl fun _ ht _ _ => ht

@[simp] theorem State.resetRings_ground (s : State) (f : Fn) : (s.resetRings f).ground = s.ground :=
  foldl_modSq_ground f _ _ s

theorem State.modSq_wf {s : State} (h : Sparse.wf SqRing.init s.sch.sqs = true) (f : Fn) (q : BitVec 2) (g : SqRing → SqRing) :
    Sparse.wf SqRing.init (s.modSq f q g).sch.sqs = true := Sparse.set_wf h _ _

theorem State.sq_modSq {s : State} (h : Sparse.wf SqRing.init s.sch.sqs = true) (f : Fn) (q r : BitVec 2) (g : SqRing → SqRing) :
    (s.modSq f r g).sq f q = if q = r then g (s.sq f q) else s.sq f q := by
  split
  next heq => rw [heq]; exact Sparse.get_set_self h _ _
  next hne => exact Sparse.get_set_ne h _ fun hkey => hne (BitVec.eq_of_toNat_eq (Nat.add_left_cancel hkey))

/-- One change of distinct rings of a function reaches each of them once. -/
theorem foldl_modSq_sq (f : Fn) (g : SqRing → SqRing) {q : BitVec 2} : ∀ {qs : List (BitVec 2)} {s : State}, qs.Nodup →
    Sparse.wf SqRing.init s.sch.sqs = true →
    Sparse.wf SqRing.init (qs.foldl (fun s q => s.modSq f q g) s).sch.sqs = true ∧
      (qs.foldl (fun s q => s.modSq f q g) s).sq f q = if q ∈ qs then g (s.sq f q) else s.sq f q
  | [], _, _, h => ⟨h, rfl⟩
  | r :: qs, s, hd, h => by
    obtain ⟨hr, hd⟩ := List.nodup_cons.1 hd
    obtain ⟨hwf, hsq⟩ := foldl_modSq_sq f g (q := q) hd (State.modSq_wf h f r g)
    refine ⟨hwf, hsq.trans ?_⟩
    rw [State.sq_modSq h]
    by_cases hq : q = r
    · simp [hq, hr]
    · simp [hq]

theorem allRings_nodup : ([0, 1, 2, 3] : List (BitVec 2)).Nodup := by decide
theorem mem_allRings (q : BitVec 2) : q ∈ ([0, 1, 2, 3] : List (BitVec 2)) := by revert q; decide

/-- A ring's registers return to their reset values; SEQ and SEQGEN stay. -/
theorem State.sq_resetRings {s : State} (h : Sparse.wf SqRing.init s.sch.sqs = true) (f : Fn) (q : BitVec 2) :
    Sparse.wf SqRing.init (s.resetRings f).sch.sqs = true ∧ (s.resetRings f).sq f q =
      { SqRing.init with seq := (s.sq f q).seq, seqgen := (s.sq f q).seqgen, hist := (s.sq f q).hist } := by
  obtain ⟨hwf, hsq⟩ := foldl_modSq_sq f (fun r => { SqRing.init with seq := r.seq, seqgen := r.seqgen, hist := r.hist }) (q := q) allRings_nodup h
  exact ⟨hwf, hsq.trans (if_pos (mem_allRings q))⟩

end Sys2Proof.Machine
end

section
/-! Resets of ports and functions, and ports that come up (O51). -/

namespace Sys2Proof.Machine

/-! ## Resets (R354, R364, R476) -/

theorem Rdy.B.num_injective {a b : Rdy.B} (h : a.num = b.num) : a = b := by
  have hnum (c : Rdy.B) : Rdy.B.ofNat c.num = c := by cases c <;> rfl
  rw [← hnum a, h, hnum]

/-- A write of one readiness bit changes that bit alone. -/
theorem State.ready_setReady_eq (s : State) (a b : Rdy.B) (on : Bool) : (s.setReady b on).ready a = if a = b then on else s.ready a := by
  have hbit : (BitVec.ofNat 17 (2 ^ b.num)).getLsbD a.num = decide (a = b) := by
    rw [BitVec.getLsbD_ofNat, Nat.testBit_two_pow, decide_eq_true a.num_lt, Bool.true_and]
    exact decide_eq_decide.2 ⟨fun h => (Rdy.B.num_injective h).symm, fun h => h ▸ rfl⟩
  have hlt := a.num_lt
  cases on
  · show (s.rdy.bits &&& ~~~BitVec.ofNat 17 (2 ^ b.num)).getLsbD a.num = _
    rw [BitVec.getLsbD_and, BitVec.getLsbD_not, hbit]
    by_cases h : a = b <;> simp [h, hlt, State.ready, bit]
  · show (s.rdy.bits ||| BitVec.ofNat 17 (2 ^ b.num)).getLsbD a.num = _
    rw [BitVec.getLsbD_or, hbit]
    by_cases h : a = b <;> simp [h, State.ready, bit]

theorem foldl_resetPortFns_ground (fs : List Fn) (s : State) : (fs.foldl (fun s f => (s.returnUnacked f).resetRings f) s).ground = s.ground :=
  List.foldlRecOn (motive := fun t : State => t.ground = s.ground) fs _ rfl fun t ht f _ =>
    ((t.returnUnacked f).resetRings_ground f).trans ((State.ground_of_footing (t.returnUnacked_footing f)).trans ht)

/-- The state of the control port that its reset takes away. -/
def State.ctrlGone (s : State) : State :=
  (({ s with sys := { s.sys with ctrlUp := false, vfs := 0, cfgLoaded := s.sys.cfgLoaded &&& 6 }
             die := { s.die with ctrlResets := s.die.ctrlResets + 1 } } : State).setLink .control none).setReady .ctrl false

/-- Beside it, a reset of the control port leaves the module as it is. -/
theorem State.ctrlReset_ground {s : State} (h : s.pins.powered = true) : ∃ u : State, u.ground = s.ground ∧ s.ctrlReset.ground = u.ctrlGone.ground := by
  have haer : (if s.sys.ctrlUp then s.aer .control else s).footing = s.footing := by simp [apply_ite State.footing]
  unfold State.ctrlReset
  rw [if_neg (by simp [h])]
  exact ⟨_, (foldl_resetPortFns_ground _ _).trans (State.ground_of_footing ((State.clearMsix_footing _ _).trans haer)),
    State.ground_of_footing (foldl_footing _ State.loseFn_footing _ _)⟩

/-- What a function-level reset does to the rings of its function (R364). -/
def State.ringsAfresh (s : State) (f : Fn) : State :=
  ([0, 1, 2, 3] : List (BitVec 2)).foldl (fun s q => s.modSq f q (fun r => { r with seq := 0, seqgen := r.seqgen + 1, hist := [] })) (s.resetRings f)

theorem State.sq_ringsAfresh {s : State} (h : Sparse.wf SqRing.init s.sch.sqs = true) (f : Fn) (q : BitVec 2) :
    (s.ringsAfresh f).sq f q = { SqRing.init with seq := 0, seqgen := (s.sq f q).seqgen + 1, hist := [] } := by
  obtain ⟨hwf, hreset⟩ := State.sq_resetRings h f q
  obtain ⟨-, hsq⟩ := foldl_modSq_sq f (fun r => { r with seq := 0, seqgen := r.seqgen + 1, hist := [] }) (q := q) allRings_nodup hwf
  rw [State.ringsAfresh, hsq, if_pos (mem_allRings q), hreset]

/-- Beside them, a function-level reset leaves the module as it is. -/
theorem State.flr_footing {s : State} (h : s.pins.powered = true) (f : Fn) :
    ∃ u : State, u.footing = s.footing ∧ (s.flr f).footing = (u.ringsAfresh f).footing := by
  unfold State.flr
  rw [if_neg (by simp [h])]
  refine ⟨(s.clearMsix (entriesOf f)).returnUnacked f, (State.returnUnacked_footing _ f).trans (s.clearMsix_footing _), ?_⟩
  refine (foldl_footing _ (fun t e => ?_) _ _).trans ?_
  · exact t.wmRestarts_footing (tid e.1)
  · exact State.loseFn_footing _ f

theorem portResets : Says.PortResets := by
  refine ⟨fun s h => ⟨_, rfl, ?_⟩, fun s f q h hok => ⟨_, rfl, ?_⟩, fun s h => ⟨_, rfl, ?_⟩, fun s p h halone => ?_⟩
  · obtain ⟨u, hu, hgone⟩ := State.ctrlReset_ground h
    simp only [State.ground, Prod.mk.injEq] at hu hgone
    obtain ⟨humem, huwins, husplices, hubraids, -, hudie, -⟩ := hu
    obtain ⟨hmem, hwins, hsplices, hbraids, hsys, hdie, hrdy⟩ := hgone
    have hready : s.ctrlReset.ready .ctrl = u.ctrlGone.ready .ctrl := by rw [State.ready, hrdy, State.ready]
    refine ⟨hsys ▸ rfl, hsys ▸ rfl, hready.trans (State.ready_setReady_eq _ .ctrl .ctrl false), ?_, hmem.trans humem, hwins.trans huwins,
      hsplices.trans husplices, hbraids.trans hubraids⟩
    rw [hdie, ← hudie]; rfl
  · obtain ⟨-, -, hwf, -, -⟩ := State.platform_wf_of_tablesOk hok
    obtain ⟨u, hu, hflr⟩ := State.flr_footing h f
    have hground : (s.flr f).ground = s.ground :=
      (State.ground_of_footing hflr).trans ((foldl_modSq_ground ..).trans ((u.resetRings_ground f).trans (State.ground_of_footing hu)))
    have huwf : Sparse.wf SqRing.init u.sch.sqs = true := (congrArg (Sparse.wf SqRing.init) (congrArg Prod.snd hu : u.sch.sqs = s.sch.sqs)).trans hwf
    have hsq : (s.flr f).sq f q = { SqRing.init with seq := 0, seqgen := (s.sq f q).seqgen + 1, hist := [] } := by
      rw [State.sq_of_footing hflr, State.sq_ringsAfresh huwf, State.sq_of_footing hu]
    simp only [State.ground, Prod.mk.injEq] at hground
    obtain ⟨hmem, hwins, hsplices, hbraids, -⟩ := hground
    exact ⟨hsq ▸ rfl, hsq ▸ rfl, hsq ▸ rfl, hmem, hwins, hsplices, hbraids⟩
  · have hground : s.vfClear.ground = ({ s with sys := { s.sys with vfs := 0 } } : State).ground := by
      unfold State.vfClear
      rw [if_neg (by simp [h])]
      exact State.ground_of_footing (foldl_footing _ State.loseFn_footing _ _)
    simp only [State.ground, Prod.mk.injEq] at hground
    obtain ⟨hmem, hwins, hsplices, hbraids, hsys, -, -⟩ := hground
    exact ⟨hsys ▸ rfl, hmem, hwins, hsplices, hbraids⟩
  · intro q d
    have hnone (r : Win → Bool) : s.wins.filter (fun e => e.2.st == .open_ && e.2.onPort p && r e.2) = [] :=
      List.filter_eq_nil_iff.2 fun w hw => by
        by_cases hopen : w.2.st = .open_
        · simp [halone w hw hopen]
        · simp [hopen]
    have hopen : s.wins.filter (fun e => e.2.st == .open_ && e.2.onPort p) = [] :=
      (congrArg (s.wins.filter ·) (funext fun e => (Bool.and_true _).symm)).trans (hnone fun _ => true)
    have hreset : s.bulkReset p = if (s.port p).up then d.raise (0x341 + portNum p) else d := by
      unfold State.bulkReset
      rw [if_neg (by simp [h])]
      dsimp only
      cases p
      · rw [hnone (fun w => !w.portB), List.foldl_nil, hopen]
        rfl
      · rw [hnone (fun w => !w.portA), List.foldl_nil, hopen]
        rfl
    refine congrArg Host.Outcome.next ?_
    cases p
    · exact hreset
    · by_cases hbel : s.cap.belay = true
      · exact (if_pos (by simp [hbel])).trans (if_pos ⟨rfl, hbel⟩).symm
      · exact (if_neg (by simp [hbel])).trans (hreset.trans (if_neg fun hc => hbel hc.2).symm)

/-! ## Ports that come up (R352, R357, R387, R480, R481) -/

/-- A bulk port is there, its PERST# is released, and its unit has passed the test: `State.portPasses_iff`. -/
def State.portPasses (s : State) (p : Port) : Bool :=
  let u := s.unit (match p with | .a => 70 | .b => 78)
  bit s.pins.perst (portNum p + 1) && s.portAvail p && (u.result == 1 || u.result == 2)

theorem State.portPasses_iff (s : State) (p : Port) : s.portPasses p = true ↔ s.pins.perst.getLsbD (portNum p + 1) = true ∧ s.portAvail p = true ∧
    ((s.unit (match p with | .a => 70 | .b => 78)).result = 1 ∨ (s.unit (match p with | .a => 70 | .b => 78)).result = 2) := by
  unfold State.portPasses
  rw [Bool.and_eq_true, Bool.and_eq_true, Bool.or_eq_true, beq_iff_eq, beq_iff_eq, and_assoc]
  rfl

/-- Such a port is ready once its configuration space is loaded (R481, R482). -/
theorem State.bulkAgain_eq (s : State) (p : Port) : s.bulkAgain p = if s.portPasses p then s.setReady (portReadyBit p) true else s := by
  cases p <;> rfl

theorem State.bulkAgain_rest (s : State) (p : Port) : ∃ r : Rdy, s.bulkAgain p = { s with rdy := r } := by
  rw [State.bulkAgain_eq]
  split <;> exact ⟨_, rfl⟩

@[simp] theorem State.portPasses_bulkAgain (s : State) (p q : Port) : (s.bulkAgain q).portPasses p = s.portPasses p := by
  obtain ⟨r, hr⟩ := s.bulkAgain_rest q
  rw [hr]; rfl

theorem State.ready_bulkAgain (s : State) (p : Port) (b : Rdy.B) :
    (s.bulkAgain p).ready b = true ↔ s.ready b = true ∨ (b = portReadyBit p ∧ s.portPasses p = true) := by
  rw [State.bulkAgain_eq]
  split
  next hc =>
    rw [State.ready_setReady_eq]
    by_cases hb : b = portReadyBit p <;> simp [hb, hc]
  next hc => simp [hc]

/-- A port whose PERST# is released trains a link of its widths. -/
theorem State.pcieUp_trains {s : State} (h : s.pins.powered = true) {u : PcieUp} (hperst : bit s.pins.perst (pcieNum u.port) = true)
    (hlegal : s.linkLegal u.port u.link = true) : s.pcieUp u = match u.port with
      | .control => ({ s with sys := { s.sys with ctrlUp := true, vfs := if decide (7 < u.vfs.toNat) && !u.ari then s.sys.vfs else u.vfs } } : State).setLink
          u.port (some u.link)
      | .bulkA => if s.cap.bulkA then (s.modPort .a (fun x => { x with up := true })).setLink u.port (some u.link) else s
      | .bulkB => if s.cap.bulkB then (s.modPort .b (fun x => { x with up := true })).setLink u.port (some u.link) else s := by
  refine (if_neg ?_).trans ?_
  · simp [h, hperst, hlegal]
  · cases u.port <;> rfl

/-- The configuration spaces of the ports whose PERST# is released, loaded; the control port is ready with its own. -/
def State.ctrlLoaded (s : State) : State :=
  let s : State := { s with sys := { s.sys with cfgLoaded := s.sys.cfgLoaded ||| s.pins.perst } }
  if bit s.pins.perst 0 then s.setReady .ctrl true else s

theorem State.ctrlLoaded_rest (s : State) : ∃ r : Rdy, s.ctrlLoaded =
    { s with sys := { s.sys with cfgLoaded := s.sys.cfgLoaded ||| s.pins.perst }, rdy := r } := by
  unfold State.ctrlLoaded
  dsimp only
  split <;> exact ⟨_, rfl⟩

@[simp] theorem State.portPasses_ctrlLoaded (s : State) (p : Port) : s.ctrlLoaded.portPasses p = s.portPasses p := by
  obtain ⟨r, hr⟩ := s.ctrlLoaded_rest
  rw [hr]; rfl

theorem State.ready_ctrlLoaded (s : State) (b : Rdy.B) : s.ctrlLoaded.ready b = true ↔ s.ready b = true ∨ (b = .ctrl ∧ bit s.pins.perst 0 = true) := by
  unfold State.ctrlLoaded
  dsimp only
  split
  next hperst =>
    rw [State.ready_setReady_eq]
    by_cases hb : b = .ctrl <;> simp [hb, hperst, State.ready]
  next hperst => simp [hperst, State.ready]

/-- What the loading of the configuration spaces makes ready on a serviceable module. -/
theorem State.cfgLoad_sets {s : State} (h : s.mgmtUp = true) (hserv : s.sys.unserv = false) :
    s.cfgLoad.sys.cfgLoaded = s.sys.cfgLoaded ||| s.pins.perst ∧
    (s.cfgLoad.ready .ctrl = true ↔ s.ready .ctrl = true ∨ bit s.pins.perst 0 = true) ∧
    (s.cfgLoad.ready .bulkA = true ↔ s.ready .bulkA = true ∨ s.portPasses .a = true) ∧
    (s.cfgLoad.ready .bulkB = true ↔ s.ready .bulkB = true ∨ s.portPasses .b = true) ∧
    s.cfgLoad.mem = s.mem ∧ s.cfgLoad.braids = s.braids := by
  have hload : s.cfgLoad = (s.ctrlLoaded.bulkAgain .a).bulkAgain .b := by
    unfold State.cfgLoad
    rw [if_neg (by simp [h])]
    exact if_neg (by simp [hserv])
  obtain ⟨r, hr⟩ := s.ctrlLoaded_rest
  obtain ⟨ra, ha⟩ := s.ctrlLoaded.bulkAgain_rest .a
  obtain ⟨rb, hb⟩ := (s.ctrlLoaded.bulkAgain .a).bulkAgain_rest .b
  rw [hload]
  refine ⟨?_, ?_, ?_, ?_, ?_, ?_⟩
  · rw [hb, ha, hr]
  · simp [State.ready_bulkAgain, State.ready_ctrlLoaded, portReadyBit]
  · simp [State.ready_bulkAgain, State.ready_ctrlLoaded, portReadyBit]
  · simp [State.ready_bulkAgain, State.ready_ctrlLoaded, portReadyBit]
  · rw [hb, ha, hr]
  · rw [hb, ha, hr]

theorem portsComeUp : Says.PortsComeUp := by
  intro s h
  refine ⟨fun p => congrArg Host.Outcome.next (if_pos h),
    fun l v ari => ⟨fun hperst hlegal hari => ?_, fun hperst hlegal hcap => ?_, fun hperst hlegal hcap => ?_⟩,
    fun hmgmt hserv => ?_, fun f => decide_eq_true_iff⟩
  · have hvfs : (if decide (7 < v.toNat) && !ari then s.sys.vfs else v) = v := if_neg fun hc => by
      obtain ⟨hlt, hno⟩ := Bool.and_eq_true_iff.1 hc
      simp [hari (of_decide_eq_true hlt)] at hno
    refine congrArg Host.Outcome.next ((State.pcieUp_trains (u := ⟨.control, l, v, ari⟩) h hperst hlegal).trans ?_)
    dsimp only
    rw [hvfs]
  · exact congrArg Host.Outcome.next ((State.pcieUp_trains (u := ⟨.bulkA, l, v, ari⟩) h hperst hlegal).trans (if_pos hcap))
  · exact congrArg Host.Outcome.next ((State.pcieUp_trains (u := ⟨.bulkB, l, v, ari⟩) h hperst hlegal).trans (if_pos hcap))
  · intro tested
    obtain ⟨hloaded, hctrl, ha, hb, hmem, hbraids⟩ := State.cfgLoad_sets (Bool.and_eq_true_iff.2 ⟨h, hmgmt⟩) hserv
    rw [State.portPasses_iff] at ha hb
    exact ⟨_, rfl, hloaded, hctrl, ha, hb, hmem, hbraids⟩

/-- Settles O51: what a reset leaves of the module is one equation of its `State.ground` (`State.ctrlReset_ground`, `State.flr_footing`); ports come
up by the gates of `State.pcieUp_trains` and `State.cfgLoad_sets`. -/
theorem portsResetAndRise : Obligations.PortsResetAndRise := ⟨portResets, portsComeUp⟩

end Sys2Proof.Machine
end

section
/-! What the failing of a token leaves of windows, ports and record die, up to the wipe of a closed tenancy (R504). -/

namespace Sys2Proof.Machine

section
variable (s : State)

/-! ## Pages and writes of memory -/

@[simp] theorem State.mirrorReads_bystanders (n : Tid) (gs : List Nat) : (s.mirrorReads n gs).1.bystanders = s.bystanders := by
  unfold State.mirrorReads; split <;> simp

@[simp] theorem State.finishBacking_bystanders (b : Backing) : (s.finishBacking b).bystanders = s.bystanders := by
  unfold State.finishBacking; split <;> rfl

theorem State.takeFrame_bystanders {s : State} {bulk hawser : Bool} {u : FrameUse} {r : (Nat × Nat) × State}
    (h : s.takeFrame bulk hawser u = some r) : r.2.bystanders = s.bystanders := by
  unfold State.takeFrame at h
  split at h
  · cases h
  · dsimp only at h
    split at h <;> cases h
    rfl

theorem State.placePage_bystanders {s : State} {n : Tid} {page : Nat} {bulk home : Bool} {r : (Bool × Nat × Nat) × State}
    (h : s.placePage n page bulk home = some r) : r.2.bystanders = s.bystanders := by
  unfold State.placePage at h
  split at h
  next hx => cases h; exact State.takeFrame_bystanders hx
  · split at h
    next hx => cases h; exact State.takeFrame_bystanders hx
    · cases h

@[simp] theorem State.startBacking_bystanders (n : Tid) (page : Nat) (hw bulk home : Bool) (cmd : Option Nat) :
    (s.startBacking n page hw bulk home cmd).bystanders = s.bystanders := by
  unfold State.startBacking
  dsimp only
  split
  next hr => exact State.placePage_bystanders (s := s.charge n bulk) hr
  · rfl

@[simp] theorem State.touchWrite_bystanders (n : Tid) (page : Nat) (hw : Bool) : (s.touchWrite n page hw).1.bystanders = s.bystanders := by
  simp [State.touchWrite, apply_ite Prod.fst, apply_ite State.bystanders]

@[simp] theorem State.backNow_bystanders (n : Tid) (page : Nat) (hw : Bool) : (s.backNow n page hw).bystanders = s.bystanders := by
  unfold State.backNow; dsimp only; (repeat' split) <;> simp

@[simp] theorem State.dropMig_bystanders (n : Tid) (page : Nat) : (s.dropMig n page).bystanders = s.bystanders := by
  simp [State.dropMig, apply_ite State.bystanders]

@[simp] theorem State.copyFrame_bystanders (n : Tid) (page src dst : Nat) : (s.copyFrame n page src dst).bystanders = s.bystanders := by
  unfold State.copyFrame
  refine (foldl_bystanders _ (fun t g => t.transferGran_bystanders ..) _ _).trans ((foldl_bystanders _ (fun t e => ?_) _ _).trans rfl)
  exact ite_bystanders rfl rfl

@[simp] theorem State.commitMig_bystanders (n : Tid) (page : Nat) (m : Mig) : (s.commitMig n page m).bystanders = s.bystanders := by
  have hcopy := s.copyFrame_bystanders n page (s.pte n page).id (s.pte n page).destId
  unfold State.commitMig
  extract_lets p src dst copied moved pte placed freed mem ended
  have hmoved : moved.bystanders = s.bystanders := ite_bystanders hcopy hcopy
  have hfreed : freed.bystanders = placed.bystanders := (State.toScrub_bystanders ..).trans (State.setUse_bystanders ..)
  have hended : ended.bystanders = freed.bystanders := State.withMem_bystanders ..
  exact (State.modPager_bystanders ..).trans (hended.trans (hfreed.trans ((State.setPte_bystanders ..).trans hmoved)))

@[simp] theorem State.endMig_bystanders (n : Tid) (page : Nat) (m : Mig) : (s.endMig n page m).bystanders = s.bystanders :=
  ite_bystanders (s.commitMig_bystanders n page m) (s.dropMig_bystanders n page)

@[simp] theorem State.flushEntry_bystanders (e : WcEntry) : (s.flushEntry e).bystanders = s.bystanders := by
  unfold State.flushEntry
  split
  · have hmoves {n : Tid} {tva : Nat} {whole : Bool} :
        ((if whole then s else s.transfer n tva false).transfer n tva true).bystanders = s.bystanders :=
      (State.transfer_bystanders ..).trans (ite_bystanders rfl (s.transfer_bystanders ..))
    exact ite_bystanders hmoves (ite_bystanders hmoves hmoves)
  · rfl

@[simp] theorem State.flushWhere_bystanders (p : WcEntry → Bool) : (s.flushWhere p).bystanders = s.bystanders := by
  simp [State.flushWhere]

@[simp] theorem State.endBlocked_bystanders (n : Tid) (page : Nat) : (s.endBlocked n page).bystanders = s.bystanders := by
  unfold State.endBlocked; dsimp only; (repeat' split) <;> simp

@[simp] theorem State.wcRoom_bystanders (line : Nat) (n : Tid) : (s.wcRoom line n).bystanders = s.bystanders := by
  unfold State.wcRoom; dsimp only; (repeat' split) <;> simp

@[simp] theorem State.wcWrite_bystanders (n : Tid) (f dev : Nat) (data : List Byte) : (s.wcWrite n f dev data).bystanders = s.bystanders := by
  induction f generalizing s dev data with
  | zero => rfl
  | succ f ih =>
    unfold State.wcWrite
    split
    · rfl
    · exact (ih _ _ _).trans (State.wcRoom_bystanders s _ n)

@[simp] theorem State.writeBacked_bystanders (n : Tid) (tva : Nat) (data : List Byte) : (s.writeBacked n tva data).bystanders = s.bystanders := by
  unfold State.writeBacked
  exact (State.wcWrite_bystanders ..).trans (ite_bystanders (ite_bystanders rfl rfl) (ite_bystanders rfl rfl))

@[simp] theorem State.writeHeaders_bystanders (t : Token) (hs : List (Nat × BitVec 512)) : (s.writeHeaders t hs).bystanders = s.bystanders := by
  simp [State.writeHeaders, State.writeOwn, apply_ite State.bystanders]

@[simp] theorem State.fence_bystanders (cs : NatSet) : (s.fence cs).bystanders = s.bystanders := s.flushWhere_bystanders _

@[simp] theorem State.fenceTok_bystanders (id : Nat) : (s.fenceTok id).bystanders = s.bystanders := by
  unfold State.fenceTok; split <;> simp

@[simp] theorem State.unmapPage_bystanders (n : Tid) (page : Nat) : (s.unmapPage n page).bystanders = s.bystanders := by
  have hdrop (t : State) : (t.dropBacking n page).bystanders = t.bystanders := by
    unfold State.dropBacking
    split
    · rfl
    · dsimp only; split <;> rfl
  have hdropped := (hdrop (s.dropMig n page)).trans (s.dropMig_bystanders n page)
  refine (State.setPte_bystanders ..).trans ?_
  unfold State.freePage
  extract_lets dropped p m cut
  have hcut : cut.bystanders = s.bystanders := hdropped
  refine ite_bystanders hdropped ((State.setPte_bystanders ..).trans ?_)
  exact (State.discharge_bystanders ..).trans ((State.toScrub_bystanders ..).trans hcut)

/-! ## Completions and the belay link -/

@[simp] theorem State.belCarry_bystanders : s.belCarry.bystanders = s.bystanders := by
  unfold State.belCarry; split <;> simp

@[simp] theorem State.leaveUp_bystanders (next : BitVec 3) : (s.leaveUp next).bystanders = s.bystanders := by
  unfold State.leaveUp
  simp only [State.raise_bystanders, State.log_bystanders, State.free_bystanders]
  exact foldl_bystanders _ (by intro _ _; rfl) _ _

@[simp] theorem State.sendOver_bystanders (r : CommitRecord) : (s.sendOver r).1.bystanders = s.bystanders := by
  unfold State.sendOver State.sendItem; (repeat' split) <;> simp

@[simp] theorem State.sendRecord_bystanders (n : Tid) (r : CommitRecord) : (s.sendRecord n r).bystanders = s.bystanders := by
  simp [State.sendRecord, State.sendUnsent, apply_ite State.bystanders]

@[simp] theorem State.finishAt_bystanders (id : Nat) (c : Comp) (xs : List TableChange) (p h : W64) :
    (s.finishAt id c xs p h).bystanders = s.bystanders := by
  refine (State.noteReady_bystanders _).trans ?_
  unfold State.retire
  split
  · rfl
  · have hlog {g : Prop} {_ : Decidable g} {t : State} {e : Byte} {n : Option Tid} {args : List W64} :
        (if g then t else t.log Dom.sched 2 cleatDie 0x10 e n args).bystanders = t.bystanders := ite_bystanders rfl (t.log_bystanders ..)
    have hsent {t : State} {n : Tid} {r : CommitRecord} (h : t.bystanders = s.bystanders) : (t.sendRecord n r).bystanders = s.bystanders :=
      (t.sendRecord_bystanders n r).trans h
    exact ite_bystanders rfl (ite_bystanders hlog (ite_bystanders (hsent hlog) (ite_bystanders (hsent hlog) (hsent hlog))))

@[simp] theorem State.finish_bystanders (id : Nat) (c : Comp) : (s.finish id c).bystanders = s.bystanders := s.finishAt_bystanders ..

/-! ## The random generator -/

@[simp] theorem State.noise_bystanders (f need : Nat) : (State.noise f need s).2.bystanders = s.bystanders := by
  induction f generalizing need s with
  | zero => cases need <;> rfl
  | succ f ih =>
    cases need with
    | zero => rfl
    | succ need =>
      unfold State.noise
      dsimp only
      split
      · rfl
      · split <;> exact (ih _ _).trans rfl

@[simp] theorem State.drbgN_bystanders (n : Nat) : (s.drbgN n).2.bystanders = s.bystanders := by
  have hreseed : s.reseed.bystanders = s.bystanders := by
    unfold State.reseed State.entropy
    dsimp only
    split
    · exact s.noise_bystanders 6 2
    · exact s.noise_bystanders 6 2
  simp [State.drbgN, State.generate, apply_ite State.bystanders, hreseed]

/-! ## Braids and their waits -/

@[simp] theorem State.putBraid_bystanders (i : Nat) (b : Braid) : (s.putBraid i b).bystanders = s.bystanders := by
  simp [State.putBraid, apply_ite State.bystanders]

@[simp] theorem State.cutWait_bystanders (i : Nat) : (s.cutWait i).bystanders = s.bystanders := by
  obtain ⟨n, hn⟩ := s.free.2.shares_fst i
  show (s.free.2.shares i).1.bystanders = s.bystanders
  rw [hn]; rfl

@[simp] theorem State.endDmaWait_bystanders (i : Nat) (ph : SeqPhase) : (s.endDmaWait i ph).bystanders = s.bystanders := by
  simp [State.endDmaWait, apply_ite State.bystanders]

@[simp] theorem State.afterBraid_bystanders (i : Nat) (b : Braid) : (s.afterBraid i b).bystanders = s.bystanders := by
  simp [State.afterBraid, apply_ite State.bystanders]

@[simp] theorem State.noteStalls_bystanders : s.noteStalls.bystanders = s.bystanders := by
  simp [State.noteStalls, apply_ite State.bystanders]

/-! ## Transfers of the movers -/

@[simp] theorem State.holdXfer_bystanders (i r : Nat) (w : XferWait) (addrs : List Nat) : (s.holdXfer i r w addrs).bystanders = s.bystanders := by
  simp [State.holdXfer, State.beginDmaWait, apply_ite State.bystanders]

@[simp] theorem State.memRead_bystanders (n : Tid) (l : Slice) (e : Nat) : (s.memRead n l e).1.bystanders = s.bystanders := by
  simp [State.memRead, apply_ite Prod.fst, apply_ite State.bystanders]

/-- The pages of a write are made ready one after another, until one is not. -/
theorem foldl_touchPages_bystanders (n : Tid) (hw : Bool) (ps : List Nat) (x : State × MoveEnd) :
    (ps.foldl (fun (st : State × MoveEnd) p =>
      if st.2 != .go then st
      else match (st.1.pte n p).state with
        | .unmapped => (st.1, .fail Status.pageUnmapped)
        | .mapped =>
          let t := st.1.touchWrite n p hw
          (t.1, match t.2 with | .fail f => .fail f | _ => .halt)
        | .backed => st
        | .migrating => if st.1.migBlocked n p then (st.1, .halt) else st) x).1.bystanders = x.1.bystanders := by
  refine foldl_fst_bystanders _ (fun x p => ?_) ps x
  split
  · rfl
  · split
    · rfl
    · exact x.1.touchWrite_bystanders n p hw
    · rfl
    · split <;> rfl

@[simp] theorem State.memWrite_bystanders (n : Tid) (hw : Bool) (tok : Option Nat) (ws : List (Nat × Byte)) :
    (s.memWrite n hw tok ws).1.bystanders = s.bystanders := by
  have hpages := foldl_touchPages_bystanders n hw ((ws.map (fun w => pageOf w.1)).dedup) (s, .go)
  unfold State.memWrite
  dsimp only
  split
  · exact hpages
  · split
    · exact (State.mirrorReads_bystanders ..).trans hpages
    · have hwritten (t : State) : (ws.foldl (fun s w => s.writeBacked n w.1 [w.2]) t).bystanders = t.bystanders := by simp
      split <;> exact (hwritten _).trans ((State.mirrorReads_bystanders ..).trans hpages)

@[simp] theorem State.moveElem_bystanders (i : Nat) (n : Tid) (cov : Sparse (BitVec 4096)) (l : Slice) (k e : Nat) (data : Bool) :
    (s.moveElem i n cov l k e data).1.bystanders = s.bystanders := by
  unfold State.moveElem; dsimp only; (repeat' split) <;> simp

@[simp] theorem State.moveSquare_bystanders (i : Nat) (n : Tid) (cov : Sparse (BitVec 4096)) (l : Slice) (k : Nat) :
    (s.moveSquare i n cov l k).1.bystanders = s.bystanders := by
  have hreads (es : List Nat) (x : State × Option Byte × List Nat) : (es.foldl (fun (st : State × Option Byte × List Nat) e =>
      if st.2.1.isSome then st
      else
        let r := st.1.memRead n l e
        (r.1, if r.2.1.isSome then r.2.1 else if r.2.2.2 then some Status.poisonedOperand else none, st.2.2 ++ [r.2.2.1])) x).1.bystanders =
      x.1.bystanders := by
    refine foldl_fst_bystanders _ (fun x e => ?_) es x
    split
    · rfl
    · exact x.1.memRead_bystanders n l e
  unfold State.moveSquare
  dsimp only
  (repeat' split) <;> simp [hreads]

@[simp] theorem State.failStream_bystanders (i r : Nat) (st : Byte) (slot : Option Nat) (cores : List Nat) :
    (s.failStream i r st slot cores).bystanders = s.bystanders := s.afterBraid_bystanders _ _

@[simp] theorem State.markFault_bystanders (i : Nat) (a : Option FaultAddr) : (s.markFault i a).bystanders = s.bystanders := rfl

@[simp] theorem State.moveRandom_bystanders (i r : Nat) (x : Xfer) : (s.moveRandom i r x).bystanders = s.bystanders := by
  unfold State.moveRandom State.fillRandom; dsimp only; (repeat' split) <;> simp

@[simp] theorem State.moveStep_bystanders (i r : Nat) (ring : Ring) (x : Xfer) : (s.moveStep i r ring x).1.bystanders = s.bystanders := by
  have hend (t : State) (skip : Bool) (count : Nat) (cover : Sparse (BitVec 4096)) (e : MoveEnd) :
      (t.moveEnd i r ring x skip count cover e).1.bystanders = t.bystanders := by
    unfold State.moveEnd; split <;> simp
  have hpass (drop : Bool) : (s.passElem i r x drop).bystanders = s.bystanders := by cases drop <;> rfl
  have hset (y : Xfer) : (s.setXfer i r y).bystanders = s.bystanders := rfl
  unfold State.moveStep State.moveData
  dsimp only
  (repeat' split) <;> simp [hend, hpass, hset]

@[simp] theorem State.moveLoop_bystanders (i r k n : Nat) : (State.moveLoop i r k n s).bystanders = s.bystanders := by
  induction k generalizing s n with
  | zero => rfl
  | succ k ih => unfold State.moveLoop; dsimp only; (repeat' split) <;> simp [ih]

@[simp] theorem State.moveOn_bystanders (i r : Nat) : (s.moveOn i r).bystanders = s.bystanders := by
  unfold State.moveOn; dsimp only; (repeat' split) <;> simp

@[simp] theorem State.finishXfer_bystanders (i r : Nat) : (s.finishXfer i r).bystanders = s.bystanders := by
  have hround (t : State) : (t.moverRound (i / 4)).bystanders = t.bystanders := by
    simp [State.moverRound, apply_ite State.bystanders]
  have hrounds (k : Nat) (t : State) : (State.moverRounds i r k t).bystanders = t.bystanders := by
    induction k generalizing t with
    | zero => rfl
    | succ k ih => unfold State.moverRounds; split <;> simp [ih, hround]
  unfold State.finishXfer
  split
  · rfl
  · exact hrounds _ _

@[simp] theorem State.deferred_bystanders (i r : Nat) : (s.deferred i r).bystanders = s.bystanders := by
  unfold State.deferred; dsimp only; (repeat' split) <;> simp

@[simp] theorem State.finishFills_bystanders (i : Nat) : (s.finishFills i).bystanders = s.bystanders := by
  simp [State.finishFills, apply_ite State.bystanders]

end

/-! ## The wipe of a closed tenancy, which frees its windows (R336) -/

/-- Windows that are freed leave the record die. -/
theorem State.wipeTen_die (s : State) (n : Tid) : (s.wipeTen n).die = s.die := by
  have hpages (t : State) (ks : List Nat) : (ks.foldl (fun s k => s.unmapPage n k) t).die = t.die :=
    State.die_of_bystanders (foldl_bystanders _ (fun t k => t.unmapPage_bystanders n k) ks t)
  unfold State.wipeTen
  rw [State.modTen, State.setTen_die]
  refine List.foldlRecOn (motive := fun t : State => t.die = s.die) _ _ (hpages _ _) fun t ht e _ => ?_
  dsimp only
  split
  · exact (State.die_of_bystanders (State.finish_bystanders ..)).trans ht
  · exact ht

theorem State.closeStep_die (s : State) (n : Tid) : (s.closeStep n).die = s.die := by
  unfold State.closeStep
  split
  · split
    · rfl
    · exact s.wipeTen_die n
  · rfl

/-- A token that fails leaves the record die. -/
theorem State.failTok_die (s : State) (i e : Nat) (r : StopRec) : (s.failTok i e r).die = s.die := by
  have hrank (t : State) : (t.rankFailed e r.status).bystanders = t.bystanders := by
    unfold State.rankFailed; split <;> rfl
  have hcontain (t : State) (x : Token) : (t.contain x r.status).bystanders = t.bystanders := by simp [State.contain]
  unfold State.failTok
  split
  · rfl
  · rw [State.closeStep_die]
    refine State.die_of_bystanders ?_
    simp [hrank, hcontain, apply_ite State.bystanders]

end Sys2Proof.Machine
end

section
/-! Image delivery, self-test and relock (O52). -/

namespace Sys2Proof.Machine

/-! ## Images (R385, R394–R398) -/

/-- Images sent to control cores change the readiness of braids alone. -/
theorem State.sendImages_ready (s : State) (b : Rdy.B) : s.sendImages.ready b = s.ready b :=
  List.foldlRecOn (motive := fun t : State => t.ready b = s.ready b) _ State.imageSent rfl fun _ ht _ _ => ht

theorem State.secAgain_ready (s : State) : s.secAgain.ready .sec = true := by
  unfold State.secAgain
  dsimp only
  rw [State.sendImages_ready, State.ready_setReady_eq, if_neg (by decide), State.ready_setReady_eq, if_neg (by decide), State.ready_setReady_eq,
    if_pos rfl]

theorem State.fwFail_holds (s : State) (c : Byte) : (s.fwFail c).boot.state = 4 ∧ (s.fwFail c).boot.fail = c ∧
    (s.fwFail c).ready .sec = false ∧ (s.fwFail c).ready .fw = false := by
  refine ⟨rfl, rfl, ?_, State.ready_setReady_eq _ .fw .fw false⟩
  rw [State.fwFail, State.ready_setReady_eq, if_neg (by decide), State.ready_setReady_eq, if_pos rfl]

section
variable {s : State} (h : s.mgmtUp = true)
include h

theorem State.fwBegin_idle (hidle : s.boot.state = 0) {len : BitVec 32} (hlen : len.toNat ≤ 4202496) : s.fwBegin len.toNat =
    ({ s with boot := { Boot.init with state := 1, total := len, held := s.boot.held } } : State).respond 0x01 [0x00] := by
  unfold State.fwBegin
  rw [if_neg (by simp [h]), if_neg (by simp [hidle]), if_neg (by simp [hidle]), if_neg (Nat.not_lt.2 hlen), BitVec.ofNat_toNat, BitVec.setWidth_eq]

/-- Data of the delivery in progress goes by its offset. -/
theorem State.fwData_delivering (hstate : s.boot.state = 1) (off : BitVec 32) {d : List Byte} (hlen : d.length ≤ 4152) : s.fwData off.toNat d =
    if off ≠ s.boot.received then s.respond 0x02 [0x02]
    else if d.isEmpty ∨ 4096 < d.length ∨ s.boot.total.toNat < off.toNat + d.length then s.respond 0x02 [0x03]
    else ({ s with boot := { s.boot with received := BitVec.ofNat 32 (off.toNat + d.length), image := s.boot.image ++ d } } : State).respond 0x02 [0x00] := by
  have hoff : off.toNat ≠ s.boot.received.toNat ↔ off ≠ s.boot.received := not_congr BitVec.toNat_inj
  unfold State.fwData
  dsimp only
  rw [if_neg (by simp [h, hlen]), if_neg (by simp [hstate]), if_neg (by simp [hstate])]
  exact if_congr hoff rfl rfl

theorem State.fwEnd_delivering (hstate : s.boot.state = 1) :
    s.fwEnd = ({ s with boot := { s.boot with state := 2, kept := true } } : State).respond 0x03 [0x00] := by
  unfold State.fwEnd
  rw [if_neg (by simp [h]), if_neg (by simp [hstate]), if_neg (by simp [hstate])]

/-- A set that has been delivered is verified: image 0 first, the others once the security core runs. -/
theorem State.fwVerified_delivered (hsafe : s.sys.safe = none) (hstate : s.boot.state = 2) (hreset : s.sys.resetReq ≠ some 2) (r : BootConfirm) :
    s.fwVerified r = if s.ready .sec then s.restVerified r else s.firstVerified := by
  have hnot : (s.sys.resetReq == some 2) = false := beq_false_of_ne hreset
  rw [State.fwVerified, State.powered_of_mgmtUp h, hsafe, hstate, hnot]
  rfl

end

theorem imagesAreDelivered : Says.ImagesAreDelivered := by
  intro s h b
  refine ⟨fun len hidle hlen => congrArg Host.Outcome.next (State.fwBegin_idle h hidle hlen), fun off d hstate hoff hpos hlen htotal => ?_,
    fun off d hlen hstate hoff => congrArg Host.Outcome.next ((State.fwData_delivering h hstate off hlen).trans (if_pos hoff)),
    fun hstate => congrArg Host.Outcome.next (State.fwEnd_delivering h hstate), congrArg Host.Outcome.next (if_neg (by simp [h])),
    congrArg Host.Outcome.next (if_pos h), fun r hsafe hstate hsec hreset => ?_, fun r hsafe hstate hsec hreset hnew => ⟨fun hdrbg => ?_, fun hdrbg => ?_⟩,
    fun v r => ⟨rfl, rfl, rfl, fun x => rfl⟩, s.secAgain_ready, s.fwFail_holds⟩
  · have hfits : ¬((d.isEmpty : Prop) ∨ 4096 < d.length ∨ s.boot.total.toNat < off.toNat + d.length) := by
      have hsome : d.isEmpty = false := List.isEmpty_eq_false_iff.2 (List.ne_nil_of_length_pos hpos)
      simp only [hsome, Bool.false_eq_true, false_or, not_or, Nat.not_lt]
      exact ⟨hlen, htotal⟩
    exact congrArg Host.Outcome.next ((State.fwData_delivering h hstate off (hlen.trans (by decide))).trans
      ((if_neg (not_not_intro hoff)).trans (if_neg hfits)))
  · refine congrArg Host.Outcome.next ((State.fwVerified_delivered h hsafe hstate hreset r).trans ((if_neg (by simp [hsec])).trans ?_))
    unfold State.firstVerified
    exact if_congr (by simp [b]) rfl rfl
  · refine congrArg Host.Outcome.next ((State.fwVerified_delivered h hsafe hstate hreset r).trans ((if_pos hsec).trans ((if_neg ?_).trans rfl)))
    simp [show s.boot.digests = [] from hnew, hdrbg]
  · refine congrArg Host.Outcome.next ((State.fwVerified_delivered h hsafe hstate hreset r).trans ((if_pos hsec).trans (if_pos ?_)))
    simp [hdrbg]

end Sys2Proof.Machine
end

section
/-! Self-test of units and braids, and loss of lock (O52). -/

namespace Sys2Proof.Machine

/-! ## Units that are tested (R480, R483, R491) -/

/-- The units still to be tested, and the results of the others. -/
def State.tests (s : State) : List Nat × Sparse UnitSt := (s.bist.left, s.bist.units)

theorem State.tests_of_aside {s t : State} (h : t.aside = s.aside) : t.tests = s.tests := (congrArg State.tests h :)

theorem foldl_tests {α : Type} (f : State → α → State) (h : ∀ s x, (f s x).tests = s.tests) (l : List α) (s : State) :
    (l.foldl f s).tests = s.tests :=
  List.foldlRecOn (motive := fun t => t.tests = s.tests) l f rfl fun t ht x _ => (h t x).trans ht

theorem ite_tests {c : Prop} {_ : Decidable c} {s t u : State} (ht : t.tests = s.tests) (hu : u.tests = s.tests) : (if c then t else u).tests = s.tests :=
  iteInduction (motive := fun x : State => x.tests = s.tests) (fun _ => ht) (fun _ => hu)

section
variable (s : State)

theorem State.log_tests (d c u e : Nat) (st : Byte) (n : Option Tid) (a : List W64) : (s.log d c u e st n a).tests = s.tests :=
  State.tests_of_aside (s.log_aside ..)

theorem State.signalEvent_tests : s.signalEvent.tests = s.tests := by
  unfold State.signalEvent State.ibi
  exact ite_tests (ite_tests rfl rfl) rfl

theorem State.coresUp_tests : s.coresUp.tests = s.tests := by
  unfold State.coresUp
  split
  · rfl
  · split
    · rfl
    · exact (State.signalEvent_tests _).trans rfl

theorem State.unitReady_tests (u : Nat) : (s.unitReady u).tests = s.tests := by
  unfold State.unitReady
  exact ite_tests rfl (ite_tests rfl (ite_tests rfl rfl))

theorem State.unitUp_tests (u : Nat) : (s.unitUp u).tests = s.tests := by
  unfold State.unitUp
  extract_lets ready linked bel trained
  have hready : ready.tests = s.tests := s.unitReady_tests u
  have hlinked : linked.tests = s.tests := ite_tests ((foldl_tests _ (by intro t k; exact ite_tests rfl rfl) _ _).trans hready) hready
  have htrained : trained.tests = s.tests := ite_tests hlinked hlinked
  exact (State.coresUp_tests _).trans htrained

theorem State.unitFails_tests (u : Nat) : (s.unitFails u).tests = s.tests := by
  unfold State.unitFails State.unservice
  exact ite_tests rfl (ite_tests rfl (ite_tests rfl (ite_tests rfl ((State.log_tests ..).trans rfl))))

theorem State.admitWave_tests : s.admitWave.tests = s.tests := by
  unfold State.admitWave
  exact ite_tests rfl ((foldl_tests _ (by intro _ _; rfl) _ _).trans rfl)

end

/-- The test of a unit is entered, and the unit leaves those that are still to be tested. -/
theorem State.unitDone_tests {s : State} {u : Nat} (hsec : s.secUp = true) (hserv : s.sys.unserv = false) (hleft : s.bist.left.contains u = true)
    (hrest : s.boot.rest = none ∨ u ∈ coreUnits) (r : UnitResult) : (s.unitDone u r).tests = (s.bist.left.filter (· != u),
      Sparse.set UnitSt.init s.bist.units u
        { result := resultCode (s.unitPasses u r) r.repaired, held := !s.unitPasses u r, fold := false, rows := r.rows, cols := r.cols
          runs := (s.unit u).runs + (if r.repaired then 2 else 1), sig := r.sig }) := by
  have hturn : (s.boot.rest.isNone || coreUnits.contains u) = true := by
    rw [Bool.or_eq_true, Option.isNone_iff_eq_none, List.contains_iff_mem]
    exact hrest
  unfold State.unitDone
  rw [if_neg (by simp only [hsec, hserv, hleft, hturn]; decide)]
  extract_lets ok links bist begun entered
  have hup : (if ok then entered.unitUp u else entered.unitFails u).tests = entered.tests :=
    ite_tests (entered.unitUp_tests u) (entered.unitFails_tests u)
  exact (State.admitWave_tests _).trans (hup.trans (State.log_tests ..))

/-! ## Waves (R484) -/

/-- The steps of braids that a wave tests. -/
theorem foldl_testSpeed_step (w : List Nat) {s : State} (h : Sparse.wf PwrBraid.init s.pwr.braids = true) :
    Sparse.wf PwrBraid.init (w.foldl State.testSpeed s).pwr.braids = true ∧
      (∀ i, (s.pwrBraid i).step = 16 ∨ i ∈ w → ((w.foldl State.testSpeed s).pwrBraid i).step = 16) := by
  induction w generalizing s with
  | nil => exact ⟨h, fun i hi => hi.resolve_right (List.not_mem_nil)⟩
  | cons b w ih =>
    obtain ⟨hwf, hstep⟩ := ih (s := s.testSpeed b) (Sparse.set_wf h _ _)
    refine ⟨hwf, fun i hi => hstep i ?_⟩
    have hself : ((s.testSpeed b).pwrBraid b).step = 16 := congrArg PwrBraid.step (Sparse.get_set_self h b _)
    by_cases hib : i = b
    · exact .inl (hib ▸ hself)
    · have hother : (s.testSpeed b).pwrBraid i = s.pwrBraid i := Sparse.get_set_ne h _ hib
      rw [hother]
      exact hi.imp id fun hmem => (List.mem_cons.1 hmem).resolve_left hib

theorem foldl_testSpeed_bist (w : List Nat) (s : State) : (w.foldl State.testSpeed s).bist = s.bist :=
  List.foldlRecOn (motive := fun t : State => t.bist = s.bist) w _ rfl fun _ ht _ _ => ht

theorem State.waveSize_le (s : State) : s.waveSize ≤ 8 := by
  unfold State.waveSize
  split
  · rfl
  · exact Nat.min_le_left ..

/-- A wave stays within what the cap leaves over the estimate. -/
theorem State.waveSize_watts (s : State) : s.fuses.bistWatts = 0 ∨ s.waveSize * s.fuses.bistWatts ≤ capWatts s.pwr.cap - s.pwr.est.toNat := by
  unfold State.waveSize
  split
  next hzero => exact .inl hzero
  next hpos => exact .inr ((Nat.mul_le_mul_right _ (Nat.min_le_right ..)).trans (Nat.div_mul_le_self ..))

/-- The wave that is admitted. -/
theorem State.admitWave_eq {s : State} (hrun : s.bist.running = true) (hpower : s.ready .power = true) (hleft : s.bist.left = []) (hwave : s.bist.wave = []) :
    s.admitWave = (s.bist.todo.take s.waveSize).foldl State.testSpeed { s with bist := { s.bist with wave := s.bist.todo.take s.waveSize } } :=
  if_neg (by simp [hrun, hpower, hleft, hwave])

/-! ## Loss of lock (R466) -/

section
variable {s : State} {i : Nat}

theorem State.pllLoss_locked (hlive : s.live = true) (hup : (s.braid i).pllUp = true) : s.pllLoss i =
    let s := match (s.braid i).tok with
      | some e => s.failTok i e { status := Status.internal, pc := (s.braid i).pc, clause := 7 }
      | none => s
    let s := (s.resetBraid i).modBraid i (fun b => { b with pllUp := false })
    ({ s with die := { s.die with pllLoss := s.die.pllLoss + 1 }
              bist := { s.bist with relocks := s.bist.relocks.filter (fun r => r.braid.toNat != i) } } : State).setBraidReady i false :=
  if_neg (by simp [hlive, hup])

end

/-- The image sent to a braid that has its lock, is there and whole: confirmed or not. -/
theorem State.imageSent_locked {s : State} {i : Bid} (hpll : (s.braid i.toNat).pllUp = true) (hcap : s.cap.braids.getLsbD i.toNat = true) (c : Bool) :
    s.imageSent ⟨i, c⟩ = if c then s.setBraidReady i.toNat (!s.boot.held.getLsbD i.toNat && s.bist.infield != some i)
      else ({ s with boot := { s.boot with held := s.boot.held ||| BitVec.ofNat 64 (2 ^ i.toNat) } } : State).setBraidReady i.toNat false := by
  have hon : (oneBit i.toNat).getLsbD i.toNat = true := (getLsbD_oneBit i.isLt).trans (beq_self_eq_true _)
  unfold State.imageSent
  cases c
  · have hbit : bit (s.boot.held ||| oneBit i.toNat) i.toNat = true := by rw [bit, BitVec.getLsbD_or, hon, Bool.or_true]
    dsimp only
    rw [if_neg Bool.false_ne_true, if_neg Bool.false_ne_true, hbit]
    rfl
  · simp [hpll, hcap, bit]

/-- A braid that is there and whole gets its lock back; its image is sent once the security core runs. -/
theorem State.pllRelock_whole {s : State} {i : Bid} (hlive : s.live = true) (hdown : (s.braid i.toNat).pllUp = false)
    (hcap : s.cap.braids.getLsbD i.toNat = true) (hfold : s.cap.fold.getLsbD i.toNat = false) (c : Bool) : s.pllRelock ⟨i, c⟩ =
      let a := s.setBraid i.toNat { s.braid i.toNat with pllUp := true, fold := false, foldHigh := 0 }
      if s.secUp then a.imageSent ⟨i, c⟩ else { a with bist := { a.bist with relocks := a.bist.relocks ++ [⟨i, c⟩] } } := by
  unfold State.pllRelock
  dsimp only
  rw [if_neg (by simp [hlive, hdown, bit, hcap]), show bit s.cap.fold i.toNat = false from hfold]
  rfl

theorem unitsAreTested : Says.UnitsAreTested := by
  refine ⟨fun s u r hsec hserv hleft hok hrest => ?_, fun s rs hsec hserv hrun hwave hrs => ?_, fun s hrun hpower hleft hwave hok hlt => ?_,
    fun s i hlive => ⟨fun e hup htok => ?_, fun hup htok => ?_, fun c hok hdown hcap hfold => ?_⟩⟩
  · intro passes
    have htests := State.unitDone_tests (u := u.toNat) hsec hserv hleft hrest r
    obtain ⟨-, -, -, -, hwf⟩ := State.platform_wf_of_tablesOk hok
    have hcode : resultCode passes r.repaired = if passes then (if r.repaired then 2 else 1) else 3 := by
      unfold resultCode
      cases passes <;> rfl
    refine ⟨_, rfl, congrArg Prod.fst htests, ?_⟩
    rw [State.unit, show (s.unitDone u.toNat r).bist.units = _ from congrArg Prod.snd htests, Sparse.get_set_self hwf, ← hcode]
    rfl
  · intro d todo w
    have hgo : s.waveDone rs = if todo.isEmpty then
        ({ w with bist := { w.bist with running := false, done := true }, sys := { w.sys with lastFatal := none }
                  lcs := { w.lcs with sp := true } } : State).setReady .bistDone true else w.admitWave :=
      if_neg (by simp [hsec, hserv, hrun, hwave, hrs])
    exact congrArg Host.Outcome.next (hgo.trans (if_congr List.isEmpty_iff rfl rfl))
  · intro t
    obtain ⟨-, -, -, hwf, -⟩ := State.platform_wf_of_tablesOk hok
    have ht : t = _ := State.admitWave_eq hrun hpower hleft hwave
    have htake : t.bist.wave = s.bist.todo.take s.waveSize := by rw [ht, foldl_testSpeed_bist]
    refine ⟨s.waveSize, htake, s.waveSize_le, fun i hi => ?_, s.waveSize_watts⟩
    rw [htake] at hi
    rw [ht]
    exact (foldl_testSpeed_step _ (s := { s with bist := { s.bist with wave := s.bist.todo.take s.waveSize } }) hwf).2 i (.inr hi)
  · refine ⟨_, rfl, ?_⟩
    rw [State.pllLoss_locked hlive hup, htok]
    exact congrArg (fun d : RecordDie => d.pllLoss + 1) (s.failTok_die i.toNat e _)
  · exact congrArg Host.Outcome.next ((State.pllLoss_locked hlive hup).trans (by rw [htok]))
  · intro a
    obtain ⟨-, -, hwf, -, -, -⟩ := State.wf_of_tablesOk hok
    have hrelock := State.pllRelock_whole hlive hdown hcap hfold c
    have hpll : (a.braid i.toNat).pllUp = true := congrArg Braid.pllUp (Sparse.get_set_self hwf i.toNat _)
    have himage := State.imageSent_locked (s := a) hpll hcap c
    refine ⟨fun hsec => congrArg Host.Outcome.next (hrelock.trans (if_neg (by simp [hsec]))), fun hsec hc => ?_, fun hsec hc => ?_⟩
    · exact congrArg Host.Outcome.next (hrelock.trans ((if_pos hsec).trans (himage.trans (if_pos hc))))
    · exact congrArg Host.Outcome.next (hrelock.trans ((if_pos hsec).trans (himage.trans (if_neg (by simp [hc])))))

/-- Settles O52: deliveries by their gates (`State.fwVerified_delivered` and its like), the tests by `State.unitDone_tests` and
`State.admitWave_eq`; a token that fails as its braid loses lock leaves the record die (`State.failTok_die`). -/
theorem moduleComesUp : Obligations.ModuleComesUp := ⟨imagesAreDelivered, unitsAreTested⟩

end Sys2Proof.Machine
end

section
/-! The life cycle never falls (O58). -/

namespace Sys2Proof.Machine

/-! ## The state that fuse words give (R392) -/

/-- The state that a list of fuse words gives. -/
def lcOf (ws : List (BitVec 32)) : Nat := (ws.zipIdx.filter (fun x => wordSet x.1)).foldl (fun m x => Nat.max m (x.2 + 1)) 0

theorem State.lc_eq (s : State) : s.lc = lcOf s.fuses.words := rfl

theorem le_foldl_max {α : Type} (f : α → Nat) (l : List α) (m n : Nat) :
    n ≤ l.foldl (fun m x => Nat.max m (f x)) m ↔ n ≤ m ∨ ∃ x ∈ l, n ≤ f x := by
  induction l generalizing m with
  | nil => simp
  | cons a l ih =>
    rw [List.foldl_cons, ih]
    simp [or_assoc]

/-- It is the highest state whose word is set. -/
theorem le_lcOf {ws : List (BitVec 32)} {n : Nat} :
    n ≤ lcOf ws ↔ n = 0 ∨ ∃ j w, ws[j]? = some w ∧ wordSet w = true ∧ n ≤ j + 1 := by
  rw [lcOf, le_foldl_max (fun x : BitVec 32 × Nat => x.2 + 1), Nat.le_zero]
  refine or_congr_right ⟨?_, ?_⟩
  · rintro ⟨⟨w, j⟩, hx, hn⟩
    obtain ⟨hmem, hset⟩ := List.mem_filter.1 hx
    exact ⟨j, w, List.mk_mem_zipIdx_iff_getElem?.1 hmem, hset, hn⟩
  · rintro ⟨j, w, hw, hset, hn⟩
    exact ⟨(w, j), List.mem_filter.2 ⟨List.mk_mem_zipIdx_iff_getElem?.2 hw, hset⟩, hn⟩

/-- Where every word that is set stays set, the state does not fall. -/
theorem lcOf_le {ws us : List (BitVec 32)}
    (h : ∀ (j : Nat) (w : BitVec 32), ws[j]? = some w → wordSet w = true → ∃ u, us[j]? = some u ∧ wordSet u = true) : lcOf ws ≤ lcOf us := by
  refine le_lcOf.2 ((le_lcOf.1 (le_refl (lcOf ws))).imp_right ?_)
  rintro ⟨j, w, hw, hset, hn⟩
  obtain ⟨u, hu, huset⟩ := h j w hw hset
  exact ⟨j, u, hu, huset, hn⟩

theorem wordSet_ones : wordSet 0xFFFFFFFF = true := by decide

/-- A word programmed whole. -/
theorem lcOf_le_set (ws : List (BitVec 32)) (i : Nat) : lcOf ws ≤ lcOf (ws.set i 0xFFFFFFFF) := by
  refine lcOf_le fun j w hw hset => ?_
  have hj : j < ws.length := (List.getElem?_eq_some_iff.1 hw).1
  by_cases h : i = j
  · subst h
    exact ⟨_, List.getElem?_set_self hj, wordSet_ones⟩
  · exact ⟨w, (List.getElem?_set_ne h).trans hw, hset⟩

theorem wordSet_completeWord {w : BitVec 32} (h : wordSet w = true) : wordSet (completeWord w) = true := by
  unfold completeWord
  dsimp only
  split
  · exact wordSet_ones
  · exact h

/-- Cut words completed. -/
theorem lcOf_le_completeWord (ws : List (BitVec 32)) : lcOf ws ≤ lcOf (ws.map completeWord) :=
  lcOf_le fun j w hw hset => ⟨completeWord w, by simp [hw], wordSet_completeWord hset⟩

/-! ## No operation takes the life cycle back -/

theorem State.lc_of_keep {s t : State} (h : t.keep = s.keep) : t.lc = s.lc :=
  congrArg (fun k : List Instr × Fuses => lcOf k.2.words) h

theorem State.lc_le_of_keep {s t : State} (h : t.keep = s.keep) : s.lc ≤ t.lc := (State.lc_of_keep h).ge

theorem State.lc_le_programWord (s : State) (k : Nat) : s.lc ≤ (s.programWord k).lc := lcOf_le_set _ _

theorem State.lc_le_lcGo (s : State) (k : Nat) (d : BitVec 512) : s.lc ≤ (s.lcGo k d).lc := by
  calc s.lc ≤ (s.lcReady k d).lc := State.lc_le_of_keep (State.lcReady_keep _ _ _)
    _ ≤ ((s.lcReady k d).programWord k).lc := State.lc_le_programWord _ _
    _ ≤ (s.lcGo k d).lc := State.lc_le_of_keep (State.newNonce_keep _)

theorem State.lc_le_lcStep (s : State) (w : LcWait) : s.lc ≤ (s.lcStep w).lc := by
  have hforce : s.lc ≤ s.forceAll.lc := State.lc_le_of_keep (State.forceAll_keep _)
  unfold State.lcStep
  dsimp only
  split
  · exact hforce.trans (State.lc_le_lcGo _ _ _)
  · exact hforce

theorem State.lc_le_closeEnd (s : State) (n : Tid) : s.lc ≤ (s.closeEnd n).lc := by
  have hdone : s.lc ≤ (s.closeDone n).lc := State.lc_le_of_keep (State.closeDone_keep _ _)
  unfold State.closeEnd
  dsimp only
  split
  · exact hdone.trans (State.lc_le_lcStep _ _)
  · exact hdone

theorem State.lc_le_lcAdvanceCmd (s : State) (t : Token) (b : List Byte) : s.lc ≤ (s.lcAdvanceCmd t b).lc := by
  unfold State.lcAdvanceCmd
  dsimp only
  split
  · exact State.lc_le_of_keep (State.authEnd_keep _ _ _)
  · split
    · exact State.lc_le_of_keep (State.authEnd_keep _ _ _)
    · exact State.lc_le_lcStep _ _

theorem State.lc_le_authServe (s : State) (t : Token) (b : List Byte) : s.lc ≤ (State.authServe State.lcAdvanceCmd s t b).lc := by
  unfold State.authServe
  split
  · exact State.lc_le_of_keep (State.finish_keep _ _ _)
  · split
    · exact State.lc_le_of_keep (State.authEnd_keep _ _ _)
    · exact State.lc_le_lcAdvanceCmd _ _ _

theorem State.lc_le_secServe (s : State) (t : Token) (b : List Byte) : s.lc ≤ (s.secServe t b).lc := by
  unfold State.secServe
  split
  · exact State.lc_le_of_keep (State.attestCmd_keep _ _ _)
  · exact State.lc_le_authServe _ _ _
  · exact State.lc_le_of_keep (State.authServe_keep _ (fun _ _ _ => State.bbxClearCmd_keep _ _ _) _ _ _)
  · exact State.lc_le_of_keep (State.authServe_keep _ (fun _ _ _ => State.debugUnlockCmd_keep _ _ _) _ _ _)
  · exact State.lc_le_of_keep (State.chanServe_keep _ _ _)

theorem State.lc_le_viaEngine (s : State) (t : Token) (b : List Byte) :
    s.lc ≤ (s.viaEngine t b (State.authServe State.lcAdvanceCmd)).lc := by
  unfold State.viaEngine
  split
  · exact (State.lc_le_authServe s t b).trans (State.lc_le_of_keep (State.raise_keep _ _))
  · exact State.lc_le_of_keep (State.pkeRequest_keep _ _)

theorem State.lc_le_startCmd (s : State) (e : Nat) (sel : BitVec 512 → Bool) {run : State → Token → State}
    (h : ∀ u t, u.lc ≤ (run u t).lc) : s.lc ≤ (s.startCmd e sel run).lc := by
  unfold State.startCmd
  split
  · exact le_rfl
  · split
    · split
      · exact State.lc_le_of_keep (by simp)
      · exact (State.lc_le_of_keep (by simp)).trans (h _ _)
    · exact le_rfl

theorem State.lc_le_authCmd (s : State) (e v : Nat) (buf : HostBuf) : s.lc ≤ (s.authCmd e v buf State.lcAdvanceCmd).lc := by
  unfold State.authCmd State.secCmd
  split
  · exact le_rfl
  · split
    · refine State.lc_le_startCmd _ _ _ fun u t => ?_
      split
      · exact State.lc_le_of_keep (State.finish_keep _ _ _)
      · split
        · exact State.lc_le_of_keep (State.authEnd_keep _ _ _)
        · exact State.lc_le_viaEngine _ _ _
    · exact le_rfl

theorem State.lc_le_engineDone (s : State) : s.lc ≤ s.engineDone.lc := by
  unfold State.engineDone
  split
  · exact le_rfl
  · dsimp only
    split
    · split
      · exact State.lc_le_of_keep (State.pkeDone_keep _)
      · exact (State.lc_le_secServe { s with pke := { s.pke with running := none } } _ _).trans
          (State.lc_le_of_keep ((State.pkeGo_keep _).trans (State.raise_keep _ _)))
    · refine State.lc_le_of_keep ?_
      rw [State.pkeGo_keep, State.raise_keep]
      split <;> simp
    · exact State.lc_le_of_keep (State.pkeDone_keep _)

theorem State.lc_le_firstVerified (s : State) : s.lc ≤ s.firstVerified.lc := by
  unfold State.firstVerified
  split
  · exact State.lc_le_of_keep (State.secAgain_keep _)
  · split
    · exact State.lc_le_of_keep (State.fwFail_keep _ _)
    · split
      · exact lcOf_le_completeWord _
      · exact le_rfl

/-- The set that has verified raises the minimum SVN and leaves the words. -/
theorem State.lc_le_restVerified (s : State) (r : BootConfirm) : s.lc ≤ (s.restVerified r).lc := by
  unfold State.restVerified
  split
  · exact le_rfl
  · split
    · exact State.lc_le_of_keep (State.fwFail_keep _ _)
    · split
      · exact State.lc_le_of_keep (State.fwFail_keep _ _)
      · exact le_refl (lcOf s.fuses.words)

theorem State.lc_le_fwVerified (s : State) (r : BootConfirm) : s.lc ≤ (s.fwVerified r).lc := by
  unfold State.fwVerified
  split
  · exact le_rfl
  · split
    · exact State.lc_le_restVerified _ _
    · exact State.lc_le_firstVerified _

/-! ## The commands -/

/-- Every command but the four that can program a fuse answers a state with the same queue and fuses. -/
theorem exec_keep (c : Instr) (s : State) (hclose : ∀ n, c ≠ .tenancyCloseComplete n) (hver : ∀ r, c ≠ .fwVerifyDone r)
    (hadv : ∀ e b, c ≠ .lcAdvance e b) (hpke : c ≠ .pkeOperationDone) : ∃ t, exec c s = .next t ∧ t.keep = s.keep := by
  cases c
  case tenancyCloseComplete n => exact absurd rfl (hclose n)
  case fwVerifyDone r => exact absurd rfl (hver r)
  case lcAdvance e b => exact absurd rfl (hadv e b)
  case pkeOperationDone => exact absurd rfl hpke
  case trngStartupTestDone => exact ⟨_, rfl, State.trngUp_keep _ _⟩
  case interruptClaim t =>
    show ∃ u, execInterruptClaim t s = .next u ∧ u.keep = s.keep
    unfold execInterruptClaim
    split
    · exact ⟨_, rfl, by simp⟩
    · exact ⟨_, rfl, rfl⟩
  case laneMargining m =>
    refine ⟨_, rfl, ?_⟩
    split
    · rfl
    · split
      · rfl
      · exact (apply_ite State.keep _ _ _).trans (ite_self _)
  case getVendorDefinedMessageSupport v =>
    refine ⟨_, rfl, State.mctpAnswer_keep _ _ _ ?_⟩
    dsimp only
    split <;> rfl
  case ctxImport e =>
    refine ⟨_, rfl, ?_⟩
    split
    · split
      · rfl
      · exact State.startCmd_keep _ _ _ _ State.ctxImportCmd_keep
    · rfl
  case attest e b =>
    exact ⟨_, rfl, State.secCmd_keep _ _ _ _ fun _ _ => State.withBuf_keep _ _ _ _ fun _ => State.viaEngine_keep _ _ _ _ State.attestCmd_keep⟩
  case chanMsg e b =>
    refine ⟨_, rfl, ?_⟩
    split
    · exact State.chanMsg_keep _ _ _ _
    · exact State.secCmd_keep _ _ _ _ fun _ _ => State.finish_keep _ _ _
  case readClear f off =>
    refine ⟨_, rfl, ?_⟩
    split
    · split <;> simp
    · exact State.bulkBar0_keep _ _ _
  case fatalNoticeAcknowledged =>
    refine ⟨_, rfl, ?_⟩
    split
    · split <;> simp
    · rfl
  all_goals exact ⟨_, rfl, by simp [apply_ite State.keep]⟩

theorem exec_lc_le (c : Instr) (s : State) : ∃ t, exec c s = .next t ∧ s.lc ≤ t.lc := by
  by_cases hclose : ∃ n, c = .tenancyCloseComplete n
  · obtain ⟨n, rfl⟩ := hclose
    exact ⟨_, rfl, State.lc_le_closeEnd s n⟩
  by_cases hver : ∃ r, c = .fwVerifyDone r
  · obtain ⟨r, rfl⟩ := hver
    exact ⟨_, rfl, State.lc_le_fwVerified s r⟩
  by_cases hadv : ∃ e b, c = .lcAdvance e b
  · obtain ⟨e, b, rfl⟩ := hadv
    exact ⟨_, rfl, State.lc_le_authCmd s e 0x20 b⟩
  by_cases hpke : c = .pkeOperationDone
  · subst hpke
    refine ⟨_, rfl, ?_⟩
    split
    · exact State.lc_le_engineDone s
    · exact le_rfl
  simp only [not_exists] at hclose hver hadv
  obtain ⟨t, ht, hkeep⟩ := exec_keep c s hclose hver hadv hpke
  exact ⟨t, ht, State.lc_le_of_keep hkeep⟩

theorem step_lc_le {s t : State} (h : step s = .next t) : s.lc ≤ t.lc := by
  unfold step at h
  split at h
  · cases h
    exact le_rfl
  · obtain ⟨u, hu, hle⟩ := exec_lc_le _ _
    cases hu.symm.trans h
    exact hle

/-- Settles O58: fuse words are only ever added to (`lcOf_le_set`, `lcOf_le_completeWord`), and only four commands reach them (`exec_keep`). -/
theorem lifeCycleNeverFalls : Obligations.LifeCycleNeverFalls := by
  refine ⟨fun k s t hk hstep => hk.trans (step_lc_le hstep), fun c s t hclose hver hadv hpke hexec => ?_⟩
  obtain ⟨u, hu, hkeep⟩ := exec_keep c s hclose hver hadv hpke
  cases hu.symm.trans hexec
  exact congrArg Prod.snd hkeep

end Sys2Proof.Machine
end

section
/-! A life-cycle transition cut short is completed (O49). -/

namespace Sys2Proof.Machine

/-- The highest state whose word has 24 bits programmed. -/
theorem State.lc_highest (s : State) : (∀ j w, s.fuses.words[j]? = some w → 24 ≤ popcount (w.setWidth 64) → j + 1 ≤ s.lc) ∧
    (s.lc = 0 ∨ ∃ w, s.fuses.words[s.lc - 1]? = some w ∧ 24 ≤ popcount (w.setWidth 64)) := by
  have hle {j : Nat} {w : BitVec 32} (hw : s.fuses.words[j]? = some w) (hset : wordSet w = true) : j + 1 ≤ s.lc :=
    le_lcOf.2 (.inr ⟨j, w, hw, hset, le_rfl⟩)
  refine ⟨fun j w hw hset => hle hw (decide_eq_true hset), (le_lcOf.1 (le_refl s.lc)).imp_right ?_⟩
  rintro ⟨j, w, hw, hset, hn⟩
  have hj : s.lc - 1 = j := by have := hle hw hset; omega
  exact ⟨w, hj ▸ hw, of_decide_eq_true hset⟩

/-- A word with 1 to 23 bits programmed. -/
def cutWord (w : BitVec 32) : Bool := decide (1 ≤ popcount (w.setWidth 64) ∧ popcount (w.setWidth 64) ≤ 23)

theorem completeWord_eq (w : BitVec 32) : completeWord w = if cutWord w then 0xFFFFFFFF else w := by simp [completeWord, cutWord]

theorem cutWord_ones : cutWord 0xFFFFFFFF = false := by decide

theorem State.wholeWords_ne {s : State} (h : s.fuses.words.any cutWord = true) : s.wholeWords ≠ s.fuses.words := by
  obtain ⟨w, hw, hcut⟩ := List.any_eq_true.1 h
  intro heq
  have hfix : completeWord w = w := List.map_inj_left.1 (heq.trans (List.map_id _).symm) w hw
  rw [completeWord_eq, if_pos hcut] at hfix
  rw [← hfix, cutWord_ones] at hcut
  exact Bool.false_ne_true hcut

/-- The security core that finds a cut word completes it before anything else. -/
theorem State.fwVerified_cut {s : State} {v : Verified} (hpow : s.pins.powered = true) (hsafe : s.sys.safe = none) (hstate : s.boot.state = 2)
    (hsec : s.ready .sec = false) (hreset : s.sys.resetReq ≠ some 2) (hnew : s.boot.digests = []) (hok : s.verifyFirst = .ok v)
    (hcut : s.fuses.words.any cutWord = true) (r : BootConfirm) : s.fwVerified r = s.completeWords := by
  have hnot : (s.sys.resetReq == some 2) = false := beq_false_of_ne hreset
  rw [State.fwVerified, hnot]
  simp [State.firstVerified, hpow, hsafe, hstate, hsec, hnew, hok, State.wholeWords_ne hcut]

/-- A state whose cut word has been completed is reached. -/
theorem State.completeWords_reaches {s : State} {j : Nat} {w : BitVec 32} (hw : s.fuses.words[j]? = some w) (hcut : cutWord w = true) :
    j + 1 ≤ s.completeWords.lc := by
  have hword : (s.fuses.words.map completeWord)[j]? = some 0xFFFFFFFF := by simp [hw, completeWord_eq, hcut]
  exact le_lcOf.2 (.inr ⟨j, _, hword, wordSet_ones, le_rfl⟩)

/-- Settles O49: the state is the highest word set (`le_lcOf`), and a word that is cut is completed (`State.fwVerified_cut`), which loses no word
that is set (`lcOf_le_completeWord`). -/
theorem cutTransitions : Obligations.CutTransitions := by
  refine ⟨State.lc_highest, ?_⟩
  intro s r v hpow hsafe hstate hsec hreset hnew hok cut hcut
  refine ⟨s.completeWords, congrArg Host.Outcome.next (State.fwVerified_cut hpow hsafe hstate hsec hreset hnew hok hcut r),
    List.map_congr_left fun w _ => completeWord_eq w, rfl, hsec, fun j w hw hcutw => State.completeWords_reaches hw hcutw,
    lcOf_le_completeWord _⟩

end Sys2Proof.Machine
end

section
/-! Power and resets (O48). -/

namespace Sys2Proof.Machine

/-- What does not look at the log, the sources and the free draws is the same of states that differ in these alone. -/
theorem State.eq_of_aside {α : Type} (f : State → α) (hf : ∀ u : State, f u.aside = f u) {s t : State} (h : t.aside = s.aside) : f t = f s := by
  rw [← hf t, h, hf]

/-- A reset that is logged changes the record die's last kind beside the log. -/
theorem State.logReset_aside (s : State) (k : BitVec 3) : (s.logReset k).aside = ({ s with die := { s.die with last := k } } : State).aside :=
  State.log_aside _ ..

/-- The identity record is the record die's. -/
theorem State.eraseIdentity_eq (s : State) : ∃ d, s.eraseIdentity = { s with die := d } := by
  unfold State.eraseIdentity
  split
  · exact ⟨_, rfl⟩
  · exact ⟨s.die, rfl⟩

theorem Rdy.init_unready (b : Rdy.B) : bit Rdy.init.bits b.num = false := by cases b <;> decide

/-! ## Input applied and lost (R473, R480, R536, R537) -/

/-- What stands once the input is applied, before the log has its entry. -/
def State.atPower (s : State) (straps : BitVec 4) : State :=
  State.setReady { s.unitsReset with
    mgmt := Mgmt.init, events := [], evDrop := 0, mem := Mem.init
    pins := { powered := true, fault := false, thermAlert := false, belaySel := bit straps 0, modId := BitVec.ofNat 3 (fld straps 1 3), perst := 0 }
    cap := Cap.ofStraps s.fuses.part (bit straps 0)
    die := { s.die with ctrlResets := 0, secResets := 0, pllLoss := 0 }
    lcs := { Lcs.init with keys := true, wipes := 1 } } .mgmt true

theorem State.powerOn_off {s : State} (hoff : s.pins.powered = false) (straps : BitVec 4) :
    s.powerOn straps = (s.atPower straps).logReset 0 := if_neg (by simp [hoff])

theorem powerComesAndGoes : Says.PowerComesAndGoes := by
  refine ⟨fun s straps hoff => ⟨s.powerOn straps, rfl, ?_⟩, fun s hpow => congrArg Host.Outcome.next (if_pos hpow)⟩
  have hat {α : Type} (f : State → α) (hf : ∀ u : State, f u.aside = f u) :
      f (s.powerOn straps) = f { s.atPower straps with die := { (s.atPower straps).die with last := 0 } } :=
    State.eq_of_aside f hf ((congrArg State.aside (State.powerOn_off hoff straps)).trans (State.logReset_aside _ 0))
  refine ⟨hat (·.pins.powered) fun _ => rfl, (hat (·.ready .mgmt) fun _ => rfl).trans ?_, (hat (·.ready .sec) fun _ => rfl).trans ?_,
    hat State.mem fun _ => rfl, hat State.tens fun _ => rfl, hat State.wins fun _ => rfl, hat State.braids fun _ => rfl,
    hat State.fuses fun _ => rfl, hat (·.sys.resetReq) fun _ => rfl, hat State.boot fun _ => rfl, hat State.pending fun _ => rfl⟩
  · exact State.ready_setReady _ .mgmt
  · exact (State.ready_setReady_eq _ .sec .mgmt true).trans ((if_neg (by decide)).trans (Rdy.init_unready .sec))

/-! ## The package reset (R391, R471, R472, R480, R505) -/

/-- What stands after a package reset of kind `k`, before the reset is logged and the identity record of a scrapped module erased. -/
def State.atReset (s : State) (k : BitVec 3) : State :=
  State.setReady { s.unitsReset with
    boot := s.boot.again
    bist := { Bist.init with units := Sparse.mapAll UnitSt.init s.bist.units (fun _ u => { UnitSt.init with runs := u.runs }) }
    sys := { Sys.init with lastFatal := match s.sys.safe with | some f => some f.cause | none => s.sys.lastFatal }
    lcs := { Lcs.init with keys := true, cause := if k = 2 then 2 else 1, wipes := s.lcs.wipes + 1 } } .mgmt true

/-- A package reset that has been asked for and that nothing holds back runs. -/
theorem State.packageReset_runs {s : State} {k : BitVec 3} (hreq : s.sys.resetReq = some k) (hpow : s.pins.powered = true)
    (hfree : k = 1 → s.allFree = true) (hqueued : k = 2 → s.transitionQueued = false) :
    s.packageReset = ((s.atReset k).eraseIdentity).logReset k := by
  have hwait : (k == 2 && s.transitionQueued) = false := by
    rw [Bool.and_eq_false_imp]
    exact fun h => hqueued (eq_of_beq h)
  have hrefuse : (k == 1 && !s.allFree) = false := by
    rw [Bool.and_eq_false_imp]
    exact fun h => by simp [hfree (eq_of_beq h)]
  simp only [State.packageReset, hreq, hpow, hwait, hrefuse]
  rfl

/-- Beside log and record die it leaves the module at reset. -/
theorem State.packageReset_aside {s : State} {k : BitVec 3} (hreq : s.sys.resetReq = some k) (hpow : s.pins.powered = true)
    (hfree : k = 1 → s.allFree = true) (hqueued : k = 2 → s.transitionQueued = false) :
    ∃ d, s.packageReset.aside = ({ s.atReset k with die := d } : State).aside := by
  obtain ⟨d, hd⟩ := (s.atReset k).eraseIdentity_eq
  rw [State.packageReset_runs hreq hpow hfree hqueued, State.logReset_aside, hd]
  exact ⟨_, rfl⟩

/-- A transition whose entry is not stored yet waits (R391). -/
theorem State.packageReset_waits {s : State} (hreq : s.sys.resetReq = some 2) (hqueued : s.transitionQueued = true) : s.packageReset = s := by
  simp only [State.packageReset, hreq]
  exact if_pos (by simp [hqueued])

/-! ## The security-domain reset (R472, R477) -/

theorem State.secDomainReset_ready (s : State) :
    s.secDomainReset.ready .sec = false ∧ s.secDomainReset.ready .pke = false ∧ s.secDomainReset.ready .drbg = false ∧
      s.secDomainReset.ready .fw = false := by
  unfold State.secDomainReset
  simp [State.ready_setReady_eq]

theorem saysResetsReach : Says.ResetsReach := by
  refine ⟨fun s k hreq hpow hfree hqueued => ⟨s.packageReset, rfl, ?_⟩, fun s hreq hqueued =>
    congrArg Host.Outcome.next (State.packageReset_waits hreq hqueued), fun s => ?_⟩
  · obtain ⟨d, h⟩ := State.packageReset_aside hreq hpow hfree hqueued
    have hat {α : Type} (f : State → α) (hf : ∀ u : State, f u.aside = f u) : f s.packageReset = f { s.atReset k with die := d } :=
      State.eq_of_aside f hf h
    refine ⟨hat State.tens fun _ => rfl, hat State.wins fun _ => rfl, hat State.braids fun _ => rfl, hat State.splices fun _ => rfl,
      hat (·.mem.cells) fun _ => rfl, hat (·.mem.wc) fun _ => rfl, hat State.fuses fun _ => rfl, hat State.lcs fun _ => rfl,
      hat State.boot fun _ => rfl, hat (·.sys.resetReq) fun _ => rfl, hat (·.sys.safe) fun _ => rfl,
      (hat (·.ready .sec) fun _ => rfl).trans ?_, (hat (·.ready .mgmt) fun _ => rfl).trans ?_, hat State.pending fun _ => rfl⟩
    · exact (State.ready_setReady_eq _ .sec .mgmt true).trans ((if_neg (by decide)).trans (Rdy.init_unready .sec))
    · exact State.ready_setReady _ .mgmt
  · obtain ⟨hsec, hpke, hdrbg, hfw⟩ := s.secDomainReset_ready
    exact ⟨rfl, rfl, hsec, hpke, hdrbg, hfw, congrArg Prod.snd s.secDomainReset_keep⟩

/-- Settles O48: a reset leaves the module at its reset values beside the log (`State.logReset_aside`, `State.packageReset_aside`), and takes effect
under its conditions (`State.packageReset_runs`, `State.packageReset_waits`). -/
theorem resetsReach : Obligations.ResetsReach := ⟨powerComesAndGoes, saysResetsReach⟩

end Sys2Proof.Machine
end

section
/-! Services of the security core that start, and tests in the field (O44). -/

namespace Sys2Proof.Machine

/-- A service of the security core that starts runs on the state in which its entry has begun. -/
theorem State.secCmd_starts {s : State} {e v : Nat} {t : Token} (h : s.svcStarts e v t = true) (run : State → Token → State) :
    s.secCmd e v run = run (s.begun t) t.begun := by
  obtain ⟨hsec, hstarts⟩ := Bool.and_eq_true_iff.1 h
  rw [State.secCmd, if_pos hsec, State.startCmd_starts hstarts]

/-! ## Tests in the field (R421, R488, R489) -/

/-- What BIST_REQ saves of a braid, and the state with it saved. -/
def State.bistSaved (s : State) (i : Nat) : Option SavedSp × State :=
  match (s.braid i).ten with
  | some n => (some { key := s.drbg.1, spPoison := (s.braid i).spPoison, sealMap := (s.braid i).sealMap, ten := n },
      s.drbg.2.saveWords (s.drbg.2.saveBase i) s.drbg.1 (s.braid i).sp)
  | none => (none, s)

theorem State.bistSaved_eq (s : State) (i : Nat) : s.bistSaved i =
    ((s.braid i).ten.map (fun n => { key := s.drbg.1, spPoison := (s.braid i).spPoison, sealMap := (s.braid i).sealMap, ten := n }),
      if (s.braid i).ten.isSome then s.drbg.2.saveWords (s.drbg.2.saveBase i) s.drbg.1 (s.braid i).sp else s) := by
  unfold State.bistSaved
  cases (s.braid i).ten <;> rfl

/-- BIST_REQ of a fitted braid that runs nothing begins its test. -/
theorem State.bistReqCmd_begins {s : State} {t : Token} (hi : t.body 2 1 < 64) (hfit : s.fitted (t.body 2 1 / 4) = true)
    (hidle : s.bistBusy (t.body 2 1) = false) (hdrbg : (s.braid (t.body 2 1)).ten ≠ none → s.drbgOk = true) :
    s.bistReqCmd t =
      let a := (((s.bistSaved (t.body 2 1)).2.setBraidReady (t.body 2 1) false).resetBraid (t.body 2 1)).testSpeed (t.body 2 1)
      { a with bist := { a.bist with infield := some (BitVec.ofNat 6 (t.body 2 1)), tok := some t.id, saved := (s.bistSaved (t.body 2 1)).1 } } := by
  have hrange : ¬(63 < t.body 2 1 ∨ (!s.fitted (t.body 2 1 / 4)) = true) := by simp [hfit, Nat.le_of_lt_succ hi]
  have hready : ¬(s.bistBusy (t.body 2 1) || ((s.braid (t.body 2 1)).ten.isSome && !s.drbgOk)) = true := by
    simpa [hidle, ← Option.ne_none_iff_isSome] using hdrbg
  exact (if_neg hrange).trans (if_neg hready)

/-- The end of a test gives contents back where the braid passed whole, and completes the command. -/
theorem State.infieldDone_saved {s : State} {r : BraidResult} {e : Nat} {x : SavedSp} (hsec : s.secUp = true)
    (htest : s.bist.infield = some r.braid) (htok : s.bist.tok = some e) (hsaved : s.bist.saved = some x) :
    let a := ({ s with bist := { s.bist with infield := none, tok := none, saved := none } } : State).braidTested r false
    s.infieldDone r = (if s.outcomeOf r = .full then a.modBraid r.braid.toNat (fun b =>
      { b with sp := a.savedWords (a.saveBase r.braid.toNat) x.key, spPoison := x.spPoison, sealMap := x.sealMap, ten := some x.ten }) else a).finish e
        (Comp.plain 0x00) := by
  intro a
  have hmine : ¬(!(s.secUp && s.bist.infield == some r.braid)) = true := by simp [hsec, htest]
  refine (if_neg hmine).trans ?_
  rw [htok, hsaved]
  exact congrArg (State.finish · e (Comp.plain 0x00)) (if_congr beq_iff_eq rfl rfl)

theorem fieldTests : Says.FieldTests := by
  refine ⟨?_, fun s r e x hsec htest htok hsaved => congrArg Host.Outcome.next (State.infieldDone_saved hsec htest htok hsaved)⟩
  intro s e t h b i x k d a hi hfit hidle hdrbg
  refine congrArg Host.Outcome.next ((State.secCmd_starts h _).trans ((State.bistReqCmd_begins hi hfit hidle hdrbg).trans ?_))
  rw [State.bistSaved_eq]
  rfl

end Sys2Proof.Machine
end

section
/-! The entropy source (O44). -/

namespace Sys2Proof.Crypto

theorem shaRound_length {v : List W64} (h : v.length = 8) (kw : W64) : (shaRound v kw).length = 8 := by
  unfold shaRound
  split
  · rfl
  · exact h

theorem shaBlock_length (ks : List W64) {h : List W64} (hh : h.length = 8) (blk : List Byte) : (shaBlock ks h blk).length = 8 := by
  have hrounds (l : List W64) : (l.foldl shaRound h).length = 8 :=
    List.foldlRecOn (motive := fun v : List W64 => v.length = 8) l shaRound hh fun v hv kw _ => shaRound_length hv kw
  simp [shaBlock, hh, hrounds]

theorem shaH0_length : shaH0.length = 8 := by
  rw [shaH0, List.length_map]
  decide +kernel

/-- A digest has 64 bytes. -/
theorem sha512_length (m : List Byte) : (sha512 m).length = 64 := by
  have hblocks (ks : List W64) (bs : List (List Byte)) : (bs.foldl (shaBlock ks) shaH0).length = 8 :=
    List.foldlRecOn (motive := fun v : List W64 => v.length = 8) bs _ shaH0_length fun v hv blk _ => shaBlock_length ks hv blk
  rw [sha512, flatMap_eq, flatten_length 8 _ fun c hc => by obtain ⟨w, -, rfl⟩ := List.mem_map.1 hc; exact beBytes_length _ _, List.length_map,
    hblocks]

end Sys2Proof.Crypto

namespace Sys2Proof.Machine

/-! ## A window of noise (R412) -/

theorem ofNat_satAdd_zero (n : BitVec 16) : BitVec.ofNat 16 (satAdd 16 n.toNat 0) = n := by
  have hmin : satAdd 16 n.toNat 0 = n.toNat := Nat.min_eq_left (Nat.le_sub_one_of_lt n.isLt)
  rw [hmin, BitVec.ofNat_toNat, BitVec.setWidth_eq]

/-- The count of a test that may have failed. -/
theorem ofNat_satAdd_ite (c : Prop) [Decidable c] (n : BitVec 16) :
    BitVec.ofNat 16 (satAdd 16 n.toNat (if c then 1 else 0)) = if c then BitVec.ofNat 16 (satAdd 16 n.toNat 1) else n := by
  split
  · rfl
  · exact ofNat_satAdd_zero n

theorem Lcs.window_counts (l : Lcs) (w : BitVec 1024) :
    let runs := repCount (l.trng.last, l.trng.run, false) (samples w)
    let a := decide (800 ≤ ((samples w).filter (· == w.getLsbD 0)).length)
    (l.window w).1 = !(runs.2.2 || a) ∧
    (l.window w).2.rct = (if runs.2.2 = true then BitVec.ofNat 16 (satAdd 16 l.rct.toNat 1) else l.rct) ∧
    (l.window w).2.apt = (if a = true then BitVec.ofNat 16 (satAdd 16 l.apt.toNat 1) else l.apt) ∧
    (l.window w).2.trng.bad = (if (l.window w).1 = true then 0 else l.trng.bad + 1) := by
  intro runs a
  have ha : aptFails w = a := rfl
  have hwindow : l.window w = (!(runs.2.2 || a), { l with
      rct := BitVec.ofNat 16 (satAdd 16 l.rct.toNat (if runs.2.2 then 1 else 0)), apt := BitVec.ofNat 16 (satAdd 16 l.apt.toNat (if a then 1 else 0))
      trng := { l.trng with last := runs.1, run := runs.2.1, bad := if runs.2.2 || a then l.trng.bad + 1 else 0
                            apt := if runs.2.2 || a then !runs.2.2 else l.trng.apt } }) := by rw [Lcs.window, ha]
  rw [hwindow]
  clear_value runs a
  refine ⟨rfl, ofNat_satAdd_ite _ _, ofNat_satAdd_ite _ _, ?_⟩
  show (if (runs.2.2 || a) = true then l.trng.bad + 1 else 0) = if (!(runs.2.2 || a)) = true then 0 else l.trng.bad + 1
  cases runs.2.2 || a <;> rfl

/-! ## Samples alike in a row (R412) -/

/-- A row of 41 samples alike, going on from a row of `run` of the value `last`. -/
def LongRow (last : Option Bool) (run : Nat) (bs : List Bool) : Prop :=
  ∃ k n, n ≤ bs.length ∧ k < n ∧ (∀ j, k ≤ j → j < n → bs[j]? = bs[k]?) ∧ 41 ≤ n - k + (if k = 0 ∧ last = bs[0]? then run else 0)

/-- The row that a sample ends. -/
def rowWith (last : Option Bool) (run : Nat) (b : Bool) : Nat := if last = some b then run + 1 else 1

/-- A long row ends with the first sample or goes on behind it. -/
theorem longRow_cons (last : Option Bool) (run : Nat) (b : Bool) (bs : List Bool) :
    LongRow last run (b :: bs) ↔ 41 ≤ rowWith last run b ∨ LongRow (some b) (rowWith last run b) bs := by
  have hrow : 1 + (if last = some b then run else 0) = rowWith last run b := by
    unfold rowWith
    split <;> omega
  constructor
  · rintro ⟨k, n, hn, hk, halike, hlong⟩
    obtain ⟨n, rfl⟩ := Nat.exists_eq_add_one_of_ne_zero (Nat.ne_zero_of_lt hk)
    have hn : n ≤ bs.length := Nat.le_of_succ_le_succ hn
    cases k with
    | zero =>
      have hlong : 41 ≤ n + 1 + (if last = some b then run else 0) := by simpa using hlong
      cases n with
      | zero => exact .inl (by omega)
      | succ n =>
        refine .inr ⟨0, n + 1, hn, by omega, fun j _ hj => ?_, ?_⟩
        · exact (halike (j + 1) (by omega) (by omega)).trans (halike 1 (by omega) (by omega)).symm
        · have hfirst : some b = bs[0]? := (halike 1 (by omega) (by omega)).symm
          rw [if_pos ⟨rfl, hfirst⟩]
          omega
    | succ k =>
      have hlong : 41 ≤ n - k := by simpa using hlong
      refine .inr ⟨k, n, hn, by omega, fun j hj hjn => halike (j + 1) (by omega) (by omega), by omega⟩
  · rintro (hlong | ⟨k, n, hn, hk, halike, hlong⟩)
    · exact ⟨0, 1, by simp, by omega, fun j _ hj => by rw [Nat.lt_one_iff.1 hj], by simpa [hrow] using hlong⟩
    · by_cases hfirst : k = 0 ∧ some b = bs[0]?
      · obtain ⟨rfl, hb⟩ := hfirst
        refine ⟨0, n + 1, by simpa using hn, by omega, fun j _ hj => ?_, ?_⟩
        · cases j with
          | zero => rfl
          | succ j => exact (halike j (by omega) (by omega)).trans hb.symm
        · rw [if_pos ⟨rfl, hb⟩] at hlong
          show 41 ≤ n + 1 - 0 + (if 0 = 0 ∧ last = some b then run else 0)
          simp only [true_and]
          omega
      · rw [if_neg hfirst] at hlong
        refine ⟨k + 1, n + 1, by simpa using hn, by omega, fun j hj hjn => ?_, by omega⟩
        obtain ⟨j, rfl⟩ := Nat.exists_eq_add_one_of_ne_zero (show j ≠ 0 by omega)
        exact halike j (by omega) (by omega)

/-- The repetition count test finds a long row, or was failed before. -/
theorem repCount_iff (last : Option Bool) (run : Nat) (f : Bool) (bs : List Bool) :
    (repCount (last, run, f) bs).2.2 = true ↔ f = true ∨ LongRow last run bs := by
  induction bs generalizing last run f with
  | nil => simp [repCount, LongRow]
  | cons b bs ih =>
    have hstep : repCount (last, run, f) (b :: bs) = repCount (some b, rowWith last run b, f || decide (41 ≤ rowWith last run b)) bs := by
      show repCount (some b, (if last == some b then run + 1 else 1), f || decide (41 ≤ if last == some b then run + 1 else 1)) bs = _
      rw [show (if last == some b then run + 1 else 1) = rowWith last run b from if_congr beq_iff_eq rfl rfl]
    rw [hstep, ih, longRow_cons, Bool.or_eq_true, decide_eq_true_iff, or_assoc]

/-! ## Noise that passes (R412, R413) -/

theorem condition_length (w : BitVec 1024) : (condition w).length = 32 := by simp [condition, Crypto.sha512_length]

/-- Windows enough give the blocks needed, unless three fail in a row. -/
theorem State.noise_length (f need : Nat) (s : State) (h : 3 * need ≤ f + s.lcs.trng.bad) (hbad : (State.noise f need s).2.lcs.trng.bad < 3) :
    (State.noise f need s).1.length = 32 * need := by
  induction f generalizing need s with
  | zero =>
    cases need with
    | zero => rfl
    | succ need =>
      have hbad : s.lcs.trng.bad < 3 := hbad
      omega
  | succ f ih =>
    cases need with
    | zero => rfl
    | succ need =>
      have hw := (Lcs.window_counts s.lcs (Config.noise s.draws)).2.2.2
      unfold State.noise at hbad ⊢
      by_cases hdead : 3 ≤ s.lcs.trng.bad
      · rw [if_pos hdead] at hbad
        exact absurd hdead (Nat.not_le.2 hbad)
      rw [if_neg hdead] at hbad ⊢
      dsimp only at hbad ⊢
      by_cases hpass : (s.lcs.window (Config.noise s.draws)).1 = true
      · rw [if_pos hpass] at hbad ⊢
        have hrest := ih need _ (by omega) hbad
        rw [List.length_append, condition_length, hrest]
        omega
      · rw [if_neg hpass] at hbad ⊢
        rw [if_neg hpass] at hw
        exact ih (need + 1) _ (by show _ ≤ _ + (s.lcs.window (Config.noise s.draws)).2.trng.bad; omega) hbad

theorem State.entropy_length {s : State} (hbad : s.entropy.2.lcs.trng.bad < 3) (h0 : s.lcs.trng.bad = 0) : s.entropy.1.length = 48 := by
  have h := State.noise_length 6 2 s (by omega) hbad
  rw [State.entropy, List.length_take, h]
  rfl

theorem Lcs.startup_bad (l : Lcs) (ws : List (BitVec 1024)) : (l.startup ws).trng.bad = 0 := by
  unfold Lcs.startup
  dsimp only
  split
  · assumption
  · rfl

/-! ## The source fails (R415) -/

theorem State.waitingDraws_of_aside {s t : State} (h : t.aside = s.aside) : t.waitingDraws = s.waitingDraws :=
  (congrArg State.waitingDraws h :)

/-- The failure logged and raised, before the slot fills that wait for the DRBG fail. -/
def State.sourceTold (s : State) : State :=
  (({ s with lcs := { s.lcs with trng := { s.lcs.trng with due := false } } } : State).log Dom.security 2 cleatDie 0x0060 0 none
    [if s.lcs.trng.apt = true then 1 else 0]).raise 0x360

theorem State.sourceTold_waitingDraws (s : State) : s.sourceTold.waitingDraws = s.waitingDraws :=
  (State.waitingDraws_of_aside ((State.raise_aside _ _).trans (State.log_aside _ ..))).trans rfl

theorem State.sourceReport_unwaited {s : State} (hnone : s.waitingDraws = []) : s.sourceReport = s.sourceTold := by
  show s.sourceTold.waitingDraws.foldl _ s.sourceTold = _
  rw [State.sourceTold_waitingDraws, hnone]
  rfl

theorem entropySource : Says.EntropySource := by
  refine ⟨Lcs.window_counts, fun last run bs => (repCount_iff last run false bs).trans (by simp [LongRow]), ?_, ?_⟩
  · intro s hsec hserv hlive hdown x
    have hup : (s.secUp && !s.sys.unserv && !s.lcs.failed && !s.ready .drbg) = true := by simp [hsec, hserv, hlive, hdown]
    refine ⟨fun hbad => ⟨State.entropy_length hbad (Lcs.startup_bad _ _), congrArg Host.Outcome.next ?_⟩, fun hbad => congrArg Host.Outcome.next ?_⟩
    · exact (if_pos hup).trans (if_neg (Nat.not_le.2 hbad))
    · exact (if_pos hup).trans (if_pos hbad)
  · intro s ws hsec hnone report
    have hup : ¬(!s.secUp) = true := by simp [hsec]
    refine ⟨fun hdue => congrArg Host.Outcome.next ?_, fun hdue hlive hbad hlast => congrArg Host.Outcome.next ?_⟩
    · exact (if_neg hup).trans ((if_pos hdue).trans (State.sourceReport_unwaited hnone))
    · have hthird : ¬(s.lcs.failed || (s.lcs.windows ws).trng.bad != 3 || (s.lcs.windows ws.dropLast).trng.bad != 2) = true := by
        simp [hlive, hbad, hlast]
      refine (if_neg hup).trans ((if_neg (by simp [hdue])).trans ((if_neg hthird).trans ?_))
      exact State.sourceReport_unwaited (s := State.sourceDead { s with lcs := s.lcs.windows ws }) hnone

/-- Settles O44: a test in the field begins and ends by its conditions (`State.bistReqCmd_begins`, `State.infieldDone_saved`); the repetition count
finds the rows of 41 by induction on the samples (`repCount_iff`), and six windows give two that pass or three that fail in a row
(`State.noise_length`). -/
theorem testsAndEntropy : Obligations.TestsAndEntropy := ⟨fieldTests, entropySource⟩

end Sys2Proof.Machine
end

section
/-! Commands of the life cycle under their signatures (O43). -/

namespace Sys2Proof.Machine

/-! ## Authenticated commands and their turn at the engine (R390, R406, R445) -/

/-- The turn of an authenticated command while no transition waits. -/
theorem State.authServe_runs {s : State} (hdrbg : s.drbgOk = true) (hwait : s.lcs.wait = none) (run : State → Token → List Byte → State)
    (t : Token) (d : List Byte) : State.authServe run s t d = run s t d := by
  simp [State.authServe, hdrbg, hwait]

/-- While one waits it has consumed the nonce. -/
theorem State.authServe_waits {s : State} (hdrbg : s.drbgOk = true) (hwait : s.lcs.wait ≠ none) (run : State → Token → List Byte → State)
    (t : Token) (d : List Byte) : State.authServe run s t d = s.newNonce.finish t.id (Comp.plain 0x34) := by
  simp only [State.authServe, hdrbg, Option.isSome_iff_ne_none.2 hwait]
  rfl

/-- An authenticated command that starts runs at once where the engine is idle, and else in its turn. -/
theorem State.authCmd_starts {s : State} {e v : Nat} {t : Token} (h : s.svcStarts e v t = true) (hdrbg : (s.begun t).drbgOk = true)
    (hwait : s.lcs.wait = none) (bs : List Byte) (run : State → Token → List Byte → State) :
    s.authCmd e v (some bs) run = if (s.begun t).pke.idle = true then (run (s.begun t) t.begun (slice bs 0 (cmdHlen t.cmd))).raise 0x361
      else (s.begun t).pkeRequest { tok := some t.id, buf := slice bs 0 (cmdHlen t.cmd) } := by
  have hnone : ¬s.lcs.wait.isSome = true := by simp [hwait]
  refine (if_neg hnone).trans ((State.secCmd_starts h _).trans ((if_neg (by simp [hdrbg])).trans ?_))
  exact if_congr Iff.rfl (congrArg (State.raise · 0x361) (State.authServe_runs hdrbg hwait run t.begun _)) rfl

/-- The engine has no request in work. -/
def State.engineFreed (s : State) : State := { s with pke := { s.pke with running := none } }

/-- The end of the turn of a service of the security core serves it and takes the next request. -/
theorem exec_pkeOperationDone_serves {s : State} {r : PkeReq} {e : Nat} {t : Token} (hsec : s.secUp = true) (hrun : s.pke.running = some r)
    (hreq : r.tok = some e) (htok : s.tok e = some t) (hpke : t.isPke = false) :
    exec .pkeOperationDone s = .next (((s.engineFreed.secServe t r.buf).raise 0x361).pkeGo) := by
  have hown : s.reqTok r = some t := by rw [State.reqTok, hreq]; exact htok
  refine congrArg Host.Outcome.next ((if_pos hsec).trans ?_)
  simp only [State.engineDone, hrun, hown, hpke]
  rfl

section
variable {s : State} {r : PkeReq} {e : Nat} {t : Token} (hsec : s.secUp = true) (hrun : s.pke.running = some r) (hreq : r.tok = some e)
  (htok : s.tok e = some t) (hpke : t.isPke = false) {run : State → Token → List Byte → State}
  (hserve : ∀ u : State, u.secServe t r.buf = State.authServe run u t r.buf) (hdrbg : s.engineFreed.drbgOk = true)
include hsec hrun hreq htok hpke hserve hdrbg

/-- The turn of an authenticated command. -/
theorem exec_pkeOperationDone_runs (hwait : s.lcs.wait = none) :
    exec .pkeOperationDone s = .next (((run s.engineFreed t r.buf).raise 0x361).pkeGo) :=
  (exec_pkeOperationDone_serves hsec hrun hreq htok hpke).trans (congrArg (fun u : State => Host.Outcome.next ((u.raise 0x361).pkeGo))
    ((hserve _).trans (State.authServe_runs hdrbg hwait run t r.buf)))

theorem exec_pkeOperationDone_waits (hwait : s.lcs.wait ≠ none) :
    exec .pkeOperationDone s = .next (((s.engineFreed.newNonce.finish t.id (Comp.plain 0x34)).raise 0x361).pkeGo) :=
  (exec_pkeOperationDone_serves hsec hrun hreq htok hpke).trans (congrArg (fun u : State => Host.Outcome.next ((u.raise 0x361).pkeGo))
    ((hserve _).trans (State.authServe_waits hdrbg hwait run t r.buf)))

end

/-! ## Transitions (R389, R391, R393) -/

/-- Every tenancy is FREE. -/
def State.tensFree (s : State) : Bool := s.tens.all (fun x => x.2.st == .free)

theorem State.forceAll_of_tensFree {s : State} (h : s.tensFree = true) : s.forceAll = s := by
  have hnone : s.tens.filter (fun e => e.2.st != .free) = [] := by
    rw [List.filter_eq_nil_iff]
    intro x hx
    have hfree := List.all_eq_true.1 h x hx
    simpa using hfree
  rw [State.forceAll, hnone]
  rfl

/-- What LC_ADVANCE does in its turn. -/
theorem State.lcAdvanceCmd_eq (s : State) (t : Token) (d : List Byte) :
    let w : LcWait := { target := leAt d 4 1, opKey := Crypto.digest (slice d 64 516) }
    s.lcAdvanceCmd t d =
      if s.lcAuthorised d w.target = false then s.newNonce.finish t.id (Comp.plain 0x34)
      else if s.tensFree = true then s.lcGo w.target w.opKey
      else if t.bodyBit 2 0 = false then s.newNonce.finish t.id { status := 0x40, detail := 0x0A, position := 0, value := 0 }
      else if s.forceAll.tensFree = true then s.forceAll.lcGo w.target w.opKey
      else { s.forceAll with lcs := { s.forceAll.lcs with wait := some w } } := by
  intro w
  have hany : s.tens.any (fun e => e.2.st != .free) = !s.tensFree := List.not_all_eq_any_not.symm
  unfold State.lcAdvanceCmd
  dsimp only
  rw [hany]
  by_cases hauth : s.lcAuthorised d (leAt d 4 1) = false
  · exact (if_pos (by simp [hauth])).trans (if_pos hauth).symm
  refine (if_neg (by simpa using hauth)).trans (Eq.trans ?_ (if_neg hauth).symm)
  by_cases hfree : s.tensFree = true
  · refine (if_neg (by simp [hfree])).trans (Eq.trans ?_ (if_pos hfree).symm)
    unfold State.lcStep
    dsimp only
    rw [State.forceAll_of_tensFree hfree]
    exact if_pos hfree
  refine Eq.trans ?_ (if_neg hfree).symm
  by_cases hforce : t.bodyBit 2 0 = false
  · exact (if_pos (by simp [hfree, hforce])).trans (if_pos hforce).symm
  · exact (if_neg (by simp [hforce])).trans (if_neg hforce).symm

/-- Only the transitions of R389 are authorised, under the serial number and the nonce. -/
theorem State.lcMoves_of_lcAuthorised {s : State} {d : List Byte} {target : Nat} (h : s.lcAuthorised d target = true) :
    (s.lc, target) ∈ lcMoves ∧ leAt d 16 8 = s.lcs.nonce.toNat ∧ leAt d 8 8 = s.fuses.serial.toNat := by
  obtain ⟨hcert, hmove⟩ := Bool.and_eq_true_iff.1 h
  simp only [State.certOk, Bool.and_eq_true, beq_iff_eq] at hcert
  obtain ⟨⟨⟨-, hserial⟩, hnonce⟩, -⟩ := hcert
  refine ⟨?_, hnonce, hserial⟩
  generalize s.lc = l at hmove
  split at hmove
  case h_8 => exact absurd hmove Bool.false_ne_true
  all_goals decide

theorem lifeCycleAdvances : Says.LifeCycleAdvances := by
  refine ⟨fun s e t bs => ⟨fun hwait => ?_, fun h hdrbg hwait => ?_⟩, ?_, fun s d target h => State.lcMoves_of_lcAuthorised h⟩
  · exact congrArg Host.Outcome.next (if_pos (Option.isSome_iff_ne_none.2 hwait))
  · have hstart := State.authCmd_starts h hdrbg hwait bs State.lcAdvanceCmd
    refine ⟨fun hidle => congrArg Host.Outcome.next (hstart.trans ((if_pos hidle).trans ?_)),
      fun hbusy => congrArg Host.Outcome.next (hstart.trans (if_neg (by simp [hbusy])))⟩
    exact congrArg (State.raise · 0x361) (State.lcAdvanceCmd_eq _ _ _)
  · intro s r e t hsec hrun hreq htok hpke hsvc z hdrbg
    have hserve (u : State) : u.secServe t r.buf = State.authServe State.lcAdvanceCmd u t r.buf := by
      rw [State.secServe, hsvc]
      rfl
    refine ⟨fun hwait => (exec_pkeOperationDone_runs hsec hrun hreq htok hpke hserve hdrbg hwait).trans ?_,
      fun hwait => exec_pkeOperationDone_waits hsec hrun hreq htok hpke hserve hdrbg hwait⟩
    exact congrArg (fun u : State => Host.Outcome.next ((u.raise 0x361).pkeGo)) (State.lcAdvanceCmd_eq _ _ _)

/-! ## BBX_CLEAR and DEBUG_UNLOCK (R404, R419, R511) -/

theorem State.bbxClearCmd_eq (s : State) (t : Token) (d : List Byte) : s.bbxClearCmd t d =
    if s.certOk d 0xFF = true ∧ s.opSigned d = true then
      ((({ s with die := { s.die with ffa := [] } } : State).log Dom.security 0 cleatDie 0x0081 0 none [s.lcs.nonce]).newNonce).finish t.id
        (Comp.plain 0x00)
    else s.newNonce.finish t.id (Comp.plain 0x34) := by
  by_cases h : s.certOk d 0xFF = true ∧ s.opSigned d = true
  · exact (if_neg (by simp [h])).trans (if_pos h).symm
  · exact (if_pos (by rwa [Bool.not_eq_true', Bool.eq_false_iff, ne_eq, Bool.and_eq_true])).trans (if_neg h).symm

theorem State.debugUnlockCmd_eq (s : State) (t : Token) (d : List Byte) : s.debugUnlockCmd t d =
    if s.certOk d 0xFE = true ∧ noOp d = true ∧ s.dlSigned d = true then
      ({ s with braids := Sparse.mapAll Braid.init s.braids (fun _ x => x.wipeStores), pke := { s.pke with slots := [] }
                lcs := { s.lcs with unlocked := true } } : State).newNonce.finish t.id (Comp.plain 0x00)
    else s.newNonce.finish t.id (Comp.plain 0x34) := by
  by_cases h : s.certOk d 0xFE = true ∧ noOp d = true ∧ s.dlSigned d = true
  · exact (if_neg (by simp [h])).trans (if_pos h).symm
  · exact (if_pos (by rwa [Bool.not_eq_true', Bool.eq_false_iff, ne_eq, Bool.and_eq_true, Bool.and_eq_true, and_assoc])).trans (if_neg h).symm

/-- Command `c` of service `v` acts as `act` says: at its start where the engine is idle, and else at the end of its turn there. -/
def ActsSigned (c : Nat → HostBuf → Instr) (v : Nat) (act : State → Token → List Byte → State) : Prop :=
  (∀ (s : State) (e : Nat) (t : Token) (bs : List Byte), s.svcStarts e v t = true → (s.begun t).drbgOk = true → s.lcs.wait = none →
    let b := s.begun t
    let d := slice bs 0 (cmdHlen t.cmd)
    exec (c e (some bs)) s = .next (if b.pke.idle = true then (act b t d).raise 0x361 else b.pkeRequest { tok := some t.id, buf := d })) ∧
  (∀ (s : State) (q : PkeReq) (e : Nat) (t : Token), s.secUp = true → s.pke.running = some q → q.tok = some e → s.tok e = some t →
    t.isPke = false → svcOf t.cmd = v → s.lcs.wait = none →
    let z : State := { s with pke := { s.pke with running := none } }
    z.drbgOk = true → exec .pkeOperationDone s = .next ((act z t q.buf).raise 0x361).pkeGo)

theorem actsSigned {c : Nat → HostBuf → Instr} {v : Nat} {run act : State → Token → List Byte → State}
    (hexec : ∀ e buf s, exec (c e buf) s = .next (s.authCmd e v buf run))
    (hserve : ∀ (u : State) (t : Token) (d : List Byte), svcOf t.cmd = v → u.secServe t d = State.authServe run u t d)
    (hact : ∀ s t d, run s t d = act s t d) (hbegun : ∀ s t d, act s (Token.begun t) d = act s t d) : ActsSigned c v act := by
  refine ⟨fun s e t bs h hdrbg hwait => ?_, fun s q e t hsec hrun hreq htok hpke hsvc hwait hdrbg => ?_⟩
  · refine (hexec e _ s).trans (congrArg Host.Outcome.next ((State.authCmd_starts h hdrbg hwait bs run).trans ?_))
    rw [hact, hbegun]
  · refine (exec_pkeOperationDone_runs hsec hrun hreq htok hpke (fun u => hserve u t q.buf hsvc) hdrbg hwait).trans ?_
    rw [hact]
    rfl

theorem signedCommands : Says.SignedCommands := by
  intro r hr
  obtain rfl | hr := List.mem_cons.1 hr
  · refine actsSigned (fun _ _ _ => rfl) (fun u t d h => ?_) State.bbxClearCmd_eq fun _ _ _ => rfl
    rw [State.secServe, h]
    rfl
  · obtain rfl := List.mem_singleton.1 hr
    refine actsSigned (fun _ _ _ => rfl) (fun u t d h => ?_) State.debugUnlockCmd_eq fun _ _ _ => rfl
    rw [State.secServe, h]
    rfl

/-- Settles O43: an authenticated command runs at its start or at the end of its turn (`State.authCmd_starts`, `exec_pkeOperationDone_runs`), and what
it does then goes by its signatures (`State.lcAdvanceCmd_eq`, `State.bbxClearCmd_eq`, `State.debugUnlockCmd_eq`). -/
theorem lifeCycleCommands : Obligations.LifeCycleCommands := ⟨lifeCycleAdvances, signedCommands⟩

end Sys2Proof.Machine
end

section
/-! Services of the security core: reports, channels and their records (O42). -/

namespace Sys2Proof.Machine

/-! ## Reports (R401–R404) -/

theorem reportsAreSigned : Says.ReportsAreSigned := by
  refine ⟨fun s e t bs => ⟨fun h => ?_, fun h => ?_⟩, fun s t d => rfl, ?_⟩
  · exact congrArg Host.Outcome.next (State.secCmd_starts h _)
  · exact congrArg Host.Outcome.next (State.secCmd_starts h _)
  · intro s r e t hsec hrun hreq htok hpke hsvc
    refine (exec_pkeOperationDone_serves hsec hrun hreq htok hpke).trans ?_
    rw [State.secServe, hsvc]
    rfl

/-! ## Channels that open and close (R407–R409) -/

/-- The signature of the client holds, and so does the pin where there is one. -/
def State.chanRight (s : State) (t : Token) (c : Curve) (d : List Byte) : Prop :=
  State.chanSigned t.ten c d = true ∧ ∀ p, (s.ten t.ten).pin = some p → p = pinOf d c.chanF (t.body 2 1)

section
variable {s : State} {t : Token} {c : Curve} {d : List Byte} (hcurve : s.curve (t.body 2 1) = some c) (hdrbg : s.drbgOk = true)
  (hclient : c.good (chanPoint d 0 c.chanF) = true) (hephem : c.good (chanPoint d (2 * c.chanF) c.chanF) = true)
include hcurve hdrbg hclient hephem

/-- With points of the curve the answer goes by signature and pin. -/
theorem State.chanServe_good : s.chanServe t d =
    if (!(State.chanSigned t.ten c d) ||
        (match (s.ten t.ten).pin with | some p => p != pinOf d c.chanF (t.body 2 1) | none => false)) = true then
      s.finish t.id (Comp.plain 0x34)
    else s.chanAnswer t (t.body 2 1) c d := by
  simp only [State.chanServe, hcurve, hdrbg, hclient, hephem]
  rfl

theorem State.chanServe_right (h : s.chanRight t c d) : s.chanServe t d = s.chanAnswer t (t.body 2 1) c d := by
  obtain ⟨hsigned, hpin⟩ := h
  refine (State.chanServe_good hcurve hdrbg hclient hephem).trans (if_neg ?_)
  cases hp : (s.ten t.ten).pin with
  | none => simp [hsigned]
  | some p => simp [hsigned, hpin p hp]

theorem State.chanServe_wrong (h : ¬s.chanRight t c d) : s.chanServe t d = s.finish t.id (Comp.plain 0x34) := by
  refine (State.chanServe_good hcurve hdrbg hclient hephem).trans (if_pos ?_)
  rw [State.chanRight, not_and_or] at h
  cases hp : (s.ten t.ten).pin with
  | none => simpa [hp] using h
  | some p => simpa [hp] using h

end

/-- CHAN_OPEN on a loaded curve, of the length that its widths give, takes its turn at the engine. -/
theorem State.chanOpenCmd_loaded {s : State} {t : Token} {c : Curve} (hk : t.body 2 1 < 8) (hcurve : s.curve (t.body 2 1) = some c)
    (hlen : cmdHlen t.cmd = 6 * c.chanF + 2 * c.chanG + 576) (bs : List Byte) :
    s.chanOpenCmd t (some bs) = s.viaEngine t (slice bs 0 (cmdHlen t.cmd)) State.chanServe := by
  refine (if_neg (Nat.not_lt.2 (Nat.le_of_lt_succ hk))).trans ?_
  rw [hcurve]
  exact if_neg (not_not_intro hlen)

theorem channelsOpenAndClose : Says.ChannelsOpenAndClose := by
  intro s e t c bs b k d
  refine ⟨?_, fun h hchan => congrArg Host.Outcome.next ((State.secCmd_starts h _).trans ?_)⟩
  · intro h hk hcurve hlen hdrbg hclient hephem right
    have hopen : exec (.chanOpen e (some bs)) s = .next (b.viaEngine t.begun d State.chanServe) :=
      congrArg Host.Outcome.next ((State.secCmd_starts h _).trans (State.chanOpenCmd_loaded (t := t.begun) hk hcurve hlen bs))
    refine ⟨fun hidle hright => hopen.trans (congrArg Host.Outcome.next ((if_pos hidle).trans ?_)),
      fun hidle hwrong => hopen.trans (congrArg Host.Outcome.next ((if_pos hidle).trans ?_)),
      fun hbusy => hopen.trans (congrArg Host.Outcome.next (if_neg ?_))⟩
    · exact congrArg (State.raise · 0x361) (State.chanServe_right (t := t.begun) hcurve hdrbg hclient hephem hright)
    · exact congrArg (State.raise · 0x361) (State.chanServe_wrong (t := t.begun) hcurve hdrbg hclient hephem hwrong)
    · exact Bool.eq_false_iff.1 hbusy
  · exact if_neg (mt Option.isNone_iff_eq_none.1 hchan)

/-! ## Channel records (R408–R410) -/

/-- The four rows of a channel record are one command, told by the record's type. -/
theorem exec_chanRecords : ∀ r ∈ [(Instr.chanMsg, fun _ : Nat => true), (Instr.windowKey, (· == 1)), (Instr.migrationKey, (· == 2)),
    (Instr.erase, (· == 3))], ∀ (e : Nat) (bs : List Byte) (s : State), exec (r.1 e (some bs)) s = .next (s.chanMsg e (some bs) r.2) := by
  simp only [List.forall_mem_cons, List.not_mem_nil, false_implies, implies_true, and_true]
  exact ⟨fun _ _ _ => rfl, fun _ _ _ => rfl, fun _ _ _ => rfl, fun _ _ _ => rfl⟩

/-- A record of a type selected, of a length in range, is read. -/
theorem State.chanMsg_starts {s : State} {e : Nat} {t : Token} {bs : List Byte} {sel : Nat → Bool} (h : s.svcStarts e 0x11 t = true)
    (hsel : sel (leAt bs 8 2) = true) (hmin : 48 ≤ cmdHlen t.cmd) (hmax : cmdHlen t.cmd ≤ 4096) :
    s.chanMsg e (some bs) sel = (s.begun t).chanMsgCmd t.begun (slice bs 0 (cmdHlen t.cmd)) := by
  have hcmd : t.begun.cmd = t.cmd := rfl
  unfold State.chanMsg
  simp only [hsel, if_true]
  rw [State.secCmd_starts h, hcmd, if_neg (not_or.2 ⟨Nat.not_lt.2 hmin, Nat.not_lt.2 hmax⟩), State.withBuf_some, hcmd]

/-- The text of a channel record opened under the client's key. -/
def Chan.opened (c : Chan) (d : List Byte) : Option (List Byte) :=
  Crypto.gcmOpen (leBytes 32 c.kc.toNat) (chanIv (leAt d 0 8)) (d.take 32) (slice d 32 (leAt d 10 2)) (slice d (32 + leAt d 10 2) 16)

section
variable {s : State} {t : Token} {c : Chan} {d : List Byte} (hlen : cmdHlen t.cmd = 48 + leAt d 10 2) (hchan : (s.ten t.ten).chan = some c)
  (hmax : c.seqD.toNat < 2 ^ 32)
include hlen hchan hmax

/-- A record whose tag holds, above the last SEQ, acts and is acknowledged. -/
theorem State.chanMsgCmd_acts {q : List Byte} (hopen : c.opened d = some q) (hseq : c.seqC.toNat < leAt d 0 8) :
    let f := (s.ten t.ten).chanEffect (leAt d 8 2) q
    let a := s.setTen t.ten { f.1 with chan := some { c with seqC := BitVec.ofNat 64 (leAt d 0 8), seqD := c.seqD + 1 } }
    s.chanMsgCmd t d = ((if f.2.2 = [] then a else a.keyRecord t f.2.2).emit (.hostWrite t.fn (cmdHbuf t.cmd)
      (Machine.ackRecord c.kd (c.seqD + 1).toNat (leAt d 0 8) f.2.1))).finish t.id (Comp.plain 0x00) := by
  intro f a
  have hrange : ¬2 ^ 32 ≤ c.seqD.toNat := Nat.not_le.2 hmax
  rw [Chan.opened] at hopen
  simp only [State.chanMsgCmd, hlen, hchan, hrange, hopen, Nat.not_le.2 hseq, ne_eq, not_true_eq_false, if_false, List.isEmpty_iff]
  rfl

/-- One whose tag fails, or that is not above the last SEQ, changes nothing. -/
theorem State.chanMsgCmd_fails (h : c.opened d = none ∨ leAt d 0 8 ≤ c.seqC.toNat) :
    s.chanMsgCmd t d = s.finish t.id (Comp.plain 0x24) := by
  have hrange : ¬2 ^ 32 ≤ c.seqD.toNat := Nat.not_le.2 hmax
  rw [Chan.opened] at h
  simp only [State.chanMsgCmd, hlen, hchan, hrange, ne_eq, not_true_eq_false, if_false]
  obtain hnone | hseq := h
  · rw [hnone]
    rfl
  · split
    · rfl
    · exact if_pos hseq

end

theorem channelRecordsAct : Says.ChannelRecordsAct := by
  intro s e t bs c r hr b d x seq len p h hsel hmin hmax hlen hchan hseqD
  have hstart : exec (r.1 e (some bs)) s = .next (b.chanMsgCmd t.begun d) :=
    (exec_chanRecords r hr e bs s).trans (congrArg Host.Outcome.next (State.chanMsg_starts h hsel hmin hmax))
  exact ⟨fun q hopen hseq => hstart.trans (congrArg Host.Outcome.next (State.chanMsgCmd_acts (t := t.begun) hlen hchan hseqD hopen hseq)),
    fun hfail => hstart.trans (congrArg Host.Outcome.next (State.chanMsgCmd_fails (t := t.begun) hlen hchan hseqD hfail))⟩

/-- Settles O42: a service that starts runs on the state in which its entry has begun (`State.secCmd_starts`); a channel opens by its points, signature
and pin (`State.chanServe_right`, `State.chanServe_wrong`), and a record acts by its tag and its SEQ (`State.chanMsgCmd_acts`,
`State.chanMsgCmd_fails`). -/
theorem securityServices : Obligations.SecurityServices := ⟨reportsAreSigned, channelsOpenAndClose, channelRecordsAct⟩

end Sys2Proof.Machine
end
